-- ==== Sys2Proof/Word.lean ====
section
/-! DEFINITION. The machine's word types (R7, R72): a register is 32 bits, a pair 64 bits, a mask has one bit per lane. -/
namespace Sys2Proof

/-- A 32-bit register or instruction word. -/
abbrev Word := BitVec 32
/-- A 64-bit register pair, address or counter (R72). -/
abbrev DWord := BitVec 64
/-- A byte of memory. -/
abbrev Byte := BitVec 8
/-- One bit per lane of a wave: bit L stands for lane L (R14). -/
abbrev Mask := BitVec 16
/-- A 7-bit register field: 0 to 95 name v0 to v95, 96 to 127 name s0 to s31 (R174). -/
abbrev RegField := BitVec 7

end Sys2Proof
end

