-- ==== Sys2Proof/Config.lean ====
section
/-! DEFINITION. Config: what an implementation fixes, and the free values. Each is an uninterpreted constant: nothing can
evaluate it, and a claim about it holds whatever it is. -/
namespace Sys2Proof

/-- An undefined or unstated 32-bit value (R11), by the free-value counter it is applied to. -/
opaque Config.freeWord : Nat → Word

/-- An undefined or unstated byte (R11), by the free-value counter it is applied to. -/
opaque Config.freeByte : Nat → Byte

/-- What the read that fills a mapped row with a line of another package comes to (R108, R506), by the line's key and the TOD count: a failure
(0 refused, 1 an AES-GCM failure, otherwise no response), or the sectors that are poisoned (log 98). -/
opaque Config.farFill : Nat → Nat → Option Nat × BitVec 4

/-- The first 8 bytes of a root record that does not lie in local memory (R355), by its address (log 96). -/
opaque Config.farRecord : Nat → BitVec 64

/-- What SREG returns on the launch scalar unit for a value a prologue has no place to take from (R250): by the code and the count of
issues (log 92). -/
opaque Config.launchSreg : Nat → Nat → BitVec 32

/-- The control window (R97): which window of its own an offset lies in, a vale's index or 256 for the management window, and the
offset there. The spec gives no layout (log 110). -/
opaque Config.controlWindow : Nat → Nat × Nat

/-- SHA-256 of a byte string (R382, R426, R430). -/
opaque Config.sha256 : List Byte → BitVec 256

/-- Whether an ECDSA signature over P-256 with SHA-256 verifies (R382, R430): public key, message, signature. -/
opaque Config.ecdsaVerifies : List Byte → List Byte → List Byte → Bool

/-- The unique device secret in the fuses (R427). -/
opaque Config.deviceSecret : BitVec 256

/-- The key pair DICE derives from a secret and the digest of the first-stage loader (R427): the private key. -/
opaque Config.dice : BitVec 256 → BitVec 256 → BitVec 256

/-- The public key of a private key on P-256 (R427). -/
opaque Config.publicKey : BitVec 256 → BitVec 512

/-- The ECDSA signature a private key gives a message (R426, R427). -/
opaque Config.ecdsaSign : BitVec 256 → List Byte → BitVec 512

/-- The hash in a fused ROOTHASH slot (R430). -/
opaque Config.rootHash : Nat → BitVec 256

/-- Whether certificate slot 1 holds a chain that the owner has provisioned (R427): no message of R426 writes it (log 118). -/
opaque Config.ownerChain : Bool

/-- Psibriton's public key for lifecycle tokens (R440). -/
opaque Config.tokenKey : BitVec 512

/-- Whether a token for a lifecycle state is signed under a public key (R440); its format is not stated. -/
opaque Config.tokenVerifies : BitVec 512 → BitVec 3 → List Byte → Bool

/-- The bytes of a lifecycle token (R440), which the spec does not state. -/
opaque Config.tokenLength : Nat

/-- The fixed field of the IV of an ordered pair of packages (R425): by the peer, whether it sends, and the number of its key. -/
opaque Config.ivFixed : Nat → Bool → Nat → BitVec 32

/-- By how many ppm an exchange with the time master asks the TOD counter's rate to be steered (R439), by the free-value counter. -/
opaque Config.steer : Nat → Int

/-- A certificate chain of a slot (R427), as the part holds it. -/
opaque Config.certChain : Nat → List Byte

/-- The package a pass link leads to (R520): the board's choice. -/
opaque Config.linkPeer : Nat → BitVec 13

/-- The bitstream bytes the encoder lane produces for a band (R303): by the free-value counter, since a frame that is no
key frame depends on earlier ones, the frame descriptor's words, the band and its samples. -/
opaque Config.encodeBand : Nat → List Word → Nat → List Byte → List Byte

/-- The nonce returned by a TDISP lock (R432), by the free-value counter. -/
opaque Config.nonce : Nat → BitVec 256

/-- The check value of a lease handle (R410), by the free-value counter. -/
opaque Config.leaseCheck : Nat → BitVec 24

/-- The responder's share of an ECDHE exchange (R426), by the free-value counter. -/
opaque Config.ecdheShare : Nat → BitVec 512

/-- Whether a token that the machine does not hold verifies (R440): for a vale in RMA, or for a lifecycle change where LCTOKEN names no
local memory; by the free-value counter. -/
opaque Config.rmaToken : Nat → Bool

/-- The secure image store at boot (R429, R430): the image of a type as the boot medium holds it. -/
opaque Config.bootImage : Nat → List Byte

end Sys2Proof
end

