-- ==== Sys2Proof/Machine/Table.lean ====
section
/-! DEFINITION. Tables: finite maps held as lists of key and value, keys strictly rising, so that equal maps are equal
data. `Tbl.cell` tables leave out every entry equal to what an unlisted key reads as. -/
namespace Sys2Proof.Machine

/-- A finite map as a list of (key, value) pairs, keys strictly rising. -/
abbrev Tbl (α : Type) := List (Nat × α)

/-- The value at a key, if the key is listed. -/
def Tbl.get {α : Type} : Tbl α → Nat → Option α
  | [], _ => none
  | (j, v) :: t, k => if j = k then some v else Tbl.get t k

/-- Sets the value at a key, keeping keys strictly rising. -/
def Tbl.set {α : Type} : Tbl α → Nat → α → Tbl α
  | [], k, v => [(k, v)]
  | (j, w) :: t, k, v =>
    if k < j then (k, v) :: (j, w) :: t
    else if k = j then (k, v) :: t
    else (j, w) :: Tbl.set t k v

/-- Removes a key. -/
def Tbl.erase {α : Type} : Tbl α → Nat → Tbl α
  | [], _ => []
  | (j, w) :: t, k => if j = k then Tbl.erase t k else (j, w) :: Tbl.erase t k

/-- Applies a function to the value at a key, if the key is listed. -/
def Tbl.modify {α : Type} (t : Tbl α) (k : Nat) (f : α → α) : Tbl α :=
  match Tbl.get t k with
  | none => t
  | some v => Tbl.set t k (f v)

/-- Reads a cell: an unlisted key reads as the default. -/
def Tbl.cell {α : Type} (d : α) (t : Tbl α) (k : Nat) : α := (Tbl.get t k).getD d

/-- Writes a cell, listing no entry equal to the default. -/
def Tbl.setCell {α : Type} [DecidableEq α] (d : α) (t : Tbl α) (k : Nat) (v : α) : Tbl α :=
  if v = d then Tbl.erase t k else Tbl.set t k v

/-- Every listed key is above `k`, and keys rise strictly. -/
def Tbl.above {α : Type} : Nat → Tbl α → Bool
  | _, [] => true
  | k, (j, _) :: t => decide (k < j) && Tbl.above j t

/-- Keys rise strictly. -/
def Tbl.sorted {α : Type} : Tbl α → Bool
  | [] => true
  | (j, _) :: t => Tbl.above j t

/-- The canonical form of a cell table: keys rise strictly and no entry equals the default. -/
def Tbl.canonical {α : Type} [DecidableEq α] (d : α) (t : Tbl α) : Bool :=
  Tbl.sorted t && t.all (fun e => decide (e.2 ≠ d))

/-- Keeps the entries whose key and value satisfy a test. -/
def Tbl.keep {α : Type} (p : Nat → α → Bool) : Tbl α → Tbl α
  | [] => []
  | (j, v) :: t => if p j v then (j, v) :: Tbl.keep p t else Tbl.keep p t

/-- Applies a function to every value. -/
def Tbl.mapVals {α : Type} (f : Nat → α → α) : Tbl α → Tbl α
  | [] => []
  | (j, v) :: t => (j, f j v) :: Tbl.mapVals f t

/-- Inserts a number into a strictly rising list of numbers. -/
def insertNat (k : Nat) : List Nat → List Nat
  | [] => [k]
  | j :: t => if k < j then k :: j :: t else if k = j then j :: t else j :: insertNat k t

/-- Removes a number from a list. -/
def removeNat (k : Nat) (l : List Nat) : List Nat := l.filter (fun j => decide (j ≠ k))

/-- The numbers from `lo` up, `n` of them. -/
def natsFrom (lo : Nat) : Nat → List Nat
  | 0 => []
  | n + 1 => lo :: natsFrom (lo + 1) n

/-- The lowest-keyed entry that satisfies a test. -/
def Tbl.first {α : Type} (p : Nat → α → Bool) : Tbl α → Option (Nat × α)
  | [] => none
  | (j, v) :: t => if p j v then some (j, v) else Tbl.first p t

/-- The number of entries that satisfy a test. -/
def Tbl.count {α : Type} (p : Nat → α → Bool) : Tbl α → Nat
  | [] => 0
  | (j, v) :: t => (if p j v then 1 else 0) + Tbl.count p t

/-- A table with every entry of another set in it. -/
def Tbl.join {α : Type} (t : Tbl α) : Tbl α → Tbl α
  | [] => t
  | (j, v) :: u => Tbl.join (Tbl.set t j v) u

/-- Sets element `i` of a list, if it exists. -/
def setAt {α : Type} : List α → Nat → α → List α
  | [], _, _ => []
  | _ :: t, 0, x => x :: t
  | y :: t, i + 1, x => y :: setAt t i x

end Sys2Proof.Machine
end

