-- ==== Sys2Proof/Machine/Bits.lean ====
section
/-! DEFINITION. Bit-field, byte-order and lane-mask helpers (R7, R14, R174, R204). -/
namespace Sys2Proof.Machine

/-- Bits [h:l] of a word as a number (R7). -/
def bitsOf (x : Nat) (h l : Nat) : Nat := (x >>> l) % 2 ^ (h + 1 - l)

/-- Bit k of a number. -/
def bitOf (x k : Nat) : Bool := (x >>> k) % 2 == 1

/-- A number of n bits read as two's complement (R72). -/
def sextNat (x n : Nat) : Int := if x % 2 ^ n < 2 ^ (n - 1) then (x % 2 ^ n : Nat) else ((x % 2 ^ n : Nat) : Int) - (2 ^ n : Nat)

/-- The low n bits of an integer, as a number (R73). -/
def wrapInt (x : Int) (n : Nat) : Nat := (x % ((2 ^ n : Nat) : Int)).toNat

/-- Clamps an integer to a range (R73). -/
def clampInt (x lo hi : Int) : Int := if x < lo then lo else if hi < x then hi else x

/-- A word of an integer modulo 2^32. -/
def wordOfInt (x : Int) : Word := BitVec.ofNat 32 (wrapInt x 32)

/-- A 64-bit value of an integer modulo 2^64. -/
def dwordOfInt (x : Int) : DWord := BitVec.ofNat 64 (wrapInt x 64)

/-- A pair's value, low register first (R72, R174). -/
def pairOf (lo hi : Word) : DWord := hi ++ lo

/-- The low word of a pair. -/
def loWord (x : DWord) : Word := x.setWidth 32

/-- The high word of a pair. -/
def hiWord (x : DWord) : Word := (x >>> 32).setWidth 32

/-- The lowest n bytes of a number, lowest address first (R7). -/
def bytesLE : Nat → Nat → List Byte
  | 0, _ => []
  | n + 1, x => BitVec.ofNat 8 x :: bytesLE n (x / 256)

/-- The number a little-endian byte string holds (R7). -/
def natLE : List Byte → Nat
  | [] => 0
  | b :: t => b.toNat + 256 * natLE t

/-- The number a big-endian byte string holds (R430). -/
def natBE (l : List Byte) : Nat := natLE l.reverse

/-- The 32-bit words of a byte string. -/
def wordsOfBytes : List Byte → List Word
  | a :: b :: c :: d :: t => BitVec.ofNat 32 (natLE [a, b, c, d]) :: wordsOfBytes t
  | _ => []

/-- The bytes of a list of words (R7). -/
def bytesOfWords (ws : List Word) : List Byte := ws.flatMap (fun w => bytesLE 4 w.toNat)

/-- Word j of a list, zero when absent. -/
def wordAt (ws : List Word) (j : Nat) : Word := ws.getD j 0

/-- The 64-bit value of words j and j + 1. -/
def dwordAt (ws : List Word) (j : Nat) : DWord := pairOf (wordAt ws j) (wordAt ws (j + 1))

/-- Lane numbers 0 to 15 in ascending order (R14). -/
def allLanes : List Nat := [0, 1, 2, 3, 4, 5, 6, 7, 8, 9, 10, 11, 12, 13, 14, 15]

/-- Whether a mask holds a lane. -/
def hasLane (m : Mask) (l : Nat) : Bool := m.getLsbD l

/-- The lanes of a mask in ascending order (R36). -/
def lanesOf (m : Mask) : List Nat := allLanes.filter (hasLane m)

/-- The mask of one lane. -/
def laneBit (l : Nat) : Mask := BitVec.ofNat 16 (2 ^ l)

/-- The mask of a list of lanes. -/
def maskOf (ls : List Nat) : Mask := ls.foldl (fun m l => m ||| laneBit l) 0

/-- The number of lanes in a mask. -/
def laneCount (m : Mask) : Nat := (lanesOf m).length

/-- The lowest lane of a mask, as a mask of one lane (R463). -/
def lowestLane (m : Mask) : Mask :=
  match lanesOf m with
  | [] => 0
  | l :: _ => laneBit l

/-- Ceil(a / b). -/
def ceilDiv (a b : Nat) : Nat := (a + b - 1) / b

/-- A Bool as a bit. -/
def bit1 (b : Bool) : Nat := if b then 1 else 0

/-- Replaces bits [h:l] of a number. -/
def setBits (x h l v : Nat) : Nat :=
  x - bitsOf x h l * 2 ^ l + (v % 2 ^ (h + 1 - l)) * 2 ^ l

end Sys2Proof.Machine
end

