-- ==== Sys2Proof/Syntax.lean ====
section
/-! DEFINITION. The instruction set: one constructor of `Instr` per row of the opcode table. A wave instruction carries
the raw fields of its word format (R175 to R187) and its literal word; a matrix stream word carries its fields
(R188, R309); an event or request has no encoding, and its arguments are what the outside or the schedule supplies. -/
namespace Sys2Proof

/-- The fields of the VA layout (R175), used by VEC, CTRL, COV and SYS words: D, A, B, M and, when I = 1, the literal
word that follows (R176, R178, R187). -/
structure VaFields where
  d : RegField
  a : RegField
  b : RegField
  m : BitVec 2
  lit : Option Word
deriving DecidableEq, Repr

/-- The fields of the VC layout (R179): ICMP and FCMP. -/
structure VcFields where
  pd : BitVec 3
  cond : BitVec 4
  a : RegField
  b : RegField
  m : BitVec 2
  lit : Option Word
deriving DecidableEq, Repr

/-- The fields of the MM layout (R180) with the memory literal (R181). -/
structure MmFields where
  t : RegField
  a : RegField
  l : BitVec 4
  space : BitVec 2
  ord : BitVec 3
  lit : Option Word
deriving DecidableEq, Repr

/-- The fields of the BR layout (R182): BRA. -/
structure BrFields where
  pe : BitVec 1
  pi : BitVec 3
  pn : BitVec 1
  off : BitVec 19
deriving DecidableEq, Repr

/-- The fields of the CL layout (R183): CALL. -/
structure ClFields where
  link : RegField
  off : BitVec 17
deriving DecidableEq, Repr

/-- The fields of the AS layout (R184) with the async literal (R185). -/
structure AsFields where
  a : RegField
  b : RegField
  l : BitVec 4
  bar : BitVec 4
  c : BitVec 1
  lit : Option Word
deriving DecidableEq, Repr

/-- The fields of the MX layout (R186). -/
structure MxFields where
  d : RegField
  a : RegField
  l : BitVec 4
  f : BitVec 6
deriving DecidableEq, Repr

/-- An engine whose command an event names (R291, R534): the copy engine of a core, or the encoder lane or coverage unit
of a glen. -/
inductive EngineUnit where
  | copy (core : Nat)
  | encoder (glen : Nat)
  | coverage (glen : Nat)
deriving DecidableEq, Repr

/-- What a policy plug-in's run answers (R381): a deadline, a park until a TOD count, or a run that exceeded its limit
or faulted with an RV64 cause. -/
inductive PluginAnswer where
  | deadline (t : DWord)
  | park (until_ : DWord)
  | limit
  | fault (mcause : Nat)
deriving DecidableEq, Repr

/-- A soft error as a storage structure detects it (R513, R517). `location` is the structure's own index: a byte
address of local memory for HBM4 and L2 data, and otherwise the number that names the word (see each constructor). -/
inductive SoftError where
  | hbm (addr : Nat) (corrected : Bool)
  | l2Data (addr : Nat) (corrected : Bool)
  | l2Tag (glen : Nat) (corrected : Bool)
  | l1 (core sector : Nat)
  | l1Spec (core job task : Nat)
  | fetchCache (core : Nat)
  | tlb (core : Nat)
  | glenTlb (glen : Nat)
  | dieTlb (die : Nat)
  | stash (blk word : Nat) (corrected : Bool)
  | register (wave reg lane : Nat) (corrected : Bool)
  | accumulator (core element : Nat) (corrected : Bool)
  | taskUnit (glen vd : Nat) (corrected : Bool)
  | coverageUnit (glen vd : Nat) (corrected : Bool)
  | encoderLane (glen vd : Nat) (corrected : Bool)
  | colSram (glen : Nat) (corrected : Bool)
  | saddleSwitch (die : Nat) (corrected : Bool)
deriving DecidableEq, Repr

/-- A link (R22, R24): a saddle 0 to 9 or a pass link 0 to 35. -/
inductive LinkRef where
  | saddle (n : Nat)
  | pass (n : Nat)
deriving DecidableEq, Repr

/-- The atomic operation of an atomic access (R284). -/
inductive AtomOp where
  | add | smin | smax | bmin | bmax | and | or | xor | xchg | cas | fadd | add64 | cas64
deriving DecidableEq, Repr

/-- An inbound fabric request as a flit carries it (R423): its source package and vale, sequence number, physical address,
data bytes, atomic operation, whether it is encrypted, and whether its AES-GCM tag verifies (R425). -/
structure FabricReq where
  src : Nat
  vale : Nat
  enc : Bool
  seq : BitVec 32
  addr : Nat
  size : Nat
  data : List Byte
  op : AtomOp
  tagGood : Bool
deriving DecidableEq, Repr

/-- A response to an outbound fabric request (R423, R506): the data and whether they are poisoned (R514), an
acknowledgement, a refusal, or a flit whose AES-GCM tag fails. -/
inductive FabricResp where
  | data (bytes : List Byte) (poisoned : Bool)
  | ack
  | refusal
  | badTag
deriving DecidableEq, Repr

/-- What one step of bring-up came to (R438): it passed, it failed, for the training of the pass links, which links came
up, at what width and rate the host link trained, and the glens a channel of which failed, and, for the last step, the package id that
the tray's identity input gives. -/
inductive BringUpResult where
  | pass
  | fail
  | tray (id : BitVec 13)
  | links (up : BitVec 36) (width rate : BitVec 4) (fenced : List Nat)
deriving DecidableEq, Repr

/-- One microsecond's measurements (R441, R443): power in watts, rail current in amperes, die temperatures. -/
structure Telemetry where
  power : Nat
  current : Nat
  temps : List (BitVec 16)
deriving DecidableEq, Repr

/-- Bytes of a window of registers (R417, R443), for REGISTER_WRITE (R12): 8 of them where `wide` says so, and 4 otherwise. -/
inductive HostReg where
  | valeWindow (vale off : Nat) (wide : Bool)
  | management (off : Nat) (wide : Bool)
deriving DecidableEq, Repr

/-- How a host access arrives (R431, R433): plain, or on a selective IDE stream with T = 1. -/
inductive HostPath where
  | plain
  | tee (stream : Nat)
deriving DecidableEq, Repr

/-- The argument registers of a command or PF request (R418, R421), and how the write that starts it arrives. -/
structure CmdArgs where
  path : HostPath
  arg0 : DWord
  arg1 : DWord
  arg2 : DWord
  arg3 : DWord
  arg4 : DWord
  arg5 : DWord
deriving DecidableEq, Repr

/-- The algorithms an SPDM requester offers (R426), each true when the offer holds the part's algorithm. -/
structure AlgorithmOffer where
  ecdsaP256 : Bool
  sha256 : Bool
  ecdheP256 : Bool
  aes256gcm : Bool
  dmtf : Bool
deriving DecidableEq, Repr

/-- An IDE_KM operation (R431). -/
inductive IdeOp where
  | keyProg (stream : Nat) (vf : Option Nat) (key : BitVec 256)
  | keySetGo (stream : Nat)
  | keySetStop (stream : Nat)
deriving DecidableEq, Repr

/-- A configuration write: the memory space enable or a BAR of a VF, which R542 watches for, or BAR0 of the PF (R414). -/
inductive ConfigWrite where
  | memEnable (on : Bool)
  | bar (index : Nat) (addr : DWord)
  | pfBar (addr : DWord)
  /-- a VF BAR register of the PF's SR-IOV capability -/
  | vfBar (index : Nat) (addr : DWord)
deriving DecidableEq, Repr

/-- The instruction set: one constructor per row of the opcode table. -/
inductive Instr where
  /-- NOP (R215). Does nothing except occupy its issue slot. -/
  | nop (o : VaFields)
  /-- MOV (R215). Copies a 32-bit or 64-bit register, or a literal, to the destination. -/
  | mov (o : VaFields)
  /-- IADD (R216). 32-bit add with wrapping, signed saturation or unsigned saturation. -/
  | iadd (o : VaFields)
  /-- ISUB (R216). 32-bit subtract with wrapping, signed saturation or unsigned saturation. -/
  | isub (o : VaFields)
  /-- IMUL (R218). Low 32 bits of a product. -/
  | imul (o : VaFields)
  /-- IMULH (R218). High 32 bits of a signed or unsigned product. -/
  | imulh (o : VaFields)
  /-- IMAD (R218). Multiply and add into the destination, modulo 2^32. -/
  | imad (o : VaFields)
  /-- IMULW (R219). Widening 32x32 to 64-bit product into a pair. -/
  | imulw (o : VaFields)
  /-- IMADW (R219). Widening multiply and add into a 64-bit pair. -/
  | imadw (o : VaFields)
  /-- IADD64 (R217). 64-bit add on pairs, with wrapping or saturation. -/
  | iadd64 (o : VaFields)
  /-- ISUB64 (R217). 64-bit subtract on pairs, with wrapping or saturation. -/
  | isub64 (o : VaFields)
  /-- LEA (R220). 64-bit address plus a sign-extended index shifted by 0, 2, 3 or 4. -/
  | lea (o : VaFields)
  /-- IMIN (R221). Signed or unsigned minimum. -/
  | imin (o : VaFields)
  /-- IMAX (R221). Signed or unsigned maximum. -/
  | imax (o : VaFields)
  /-- IABS (R221). Integer absolute value, wrapping or saturating. -/
  | iabs (o : VaFields)
  /-- IDIV (R222). Integer division truncating toward zero, with the defined results of R73. -/
  | idiv (o : VaFields)
  /-- IREM (R222). Integer remainder with the sign of the dividend. -/
  | irem (o : VaFields)
  /-- AND (R223). Bitwise AND. -/
  | and (o : VaFields)
  /-- OR (R223). Bitwise OR. -/
  | or (o : VaFields)
  /-- XOR (R223). Bitwise XOR. -/
  | xor (o : VaFields)
  /-- ANDN (R223). a AND NOT b. -/
  | andn (o : VaFields)
  /-- LOP3 (R224). Any bitwise function of three operands given by an 8-bit truth table in the X literal. -/
  | lop3 (o : VaFields)
  /-- SHL (R225). Shift left; shifts of 32 or more give zero. -/
  | shl (o : VaFields)
  /-- SHRL (R225). Logical shift right; shifts of 32 or more give zero. -/
  | shrl (o : VaFields)
  /-- SHRA (R225). Arithmetic shift right, saturating at 31. -/
  | shra (o : VaFields)
  /-- ROTL (R225). Rotate left by s mod 32. -/
  | rotl (o : VaFields)
  /-- FUNNEL (R226). Funnel shift right or left across two registers. -/
  | funnel (o : VaFields)
  /-- BFX (R227). Signed or unsigned bit-field extract. -/
  | bfx (o : VaFields)
  /-- BFI (R227). Bit-field insert with the field specification in C. -/
  | bfi (o : VaFields)
  /-- POPC (R228). Population count. -/
  | popc (o : VaFields)
  /-- CLZ (R228). Count leading zeros. -/
  | clz (o : VaFields)
  /-- BREV (R228). Bit reverse. -/
  | brev (o : VaFields)
  /-- FFS (R228). Index of the lowest set bit, 32 for zero. -/
  | ffs (o : VaFields)
  /-- PERMB (R229). Byte permute of two registers with optional sign replication. -/
  | permb (o : VaFields)
  /-- FADD (R230). Floating-point add in F32, F16x2 or BF16x2. -/
  | fadd (o : VaFields)
  /-- FSUB (R230). Floating-point subtract. -/
  | fsub (o : VaFields)
  /-- FMUL (R230). Floating-point multiply. -/
  | fmul (o : VaFields)
  /-- FMA (R230). Fused multiply-add into the destination with one rounding. -/
  | fma (o : VaFields)
  /-- FMIN (R231). IEEE minimumNumber. -/
  | fmin (o : VaFields)
  /-- FMAX (R231). IEEE maximumNumber. -/
  | fmax (o : VaFields)
  /-- FNEG (R231). Inverts the sign of each non-NaN element. -/
  | fneg (o : VaFields)
  /-- FABS (R231). Clears the sign of each non-NaN element. -/
  | fabs (o : VaFields)
  /-- FRND (R232). Rounds FP32 to an integral value by the selected mode. -/
  | frnd (o : VaFields)
  /-- FRCP (R233). Correctly rounded reciprocal. -/
  | frcp (o : VaFields)
  /-- FSQRT (R233). Correctly rounded square root. -/
  | fsqrt (o : VaFields)
  /-- FRSQ (R233). Correctly rounded reciprocal square root. -/
  | frsq (o : VaFields)
  /-- FDIV (R233). Correctly rounded division. -/
  | fdiv (o : VaFields)
  /-- FEXP2 (R233). Correctly rounded 2^a. -/
  | fexp2 (o : VaFields)
  /-- FLOG2 (R233). Correctly rounded log2. -/
  | flog2 (o : VaFields)
  /-- FSINPI (R233). Correctly rounded sin(pi a). -/
  | fsinpi (o : VaFields)
  /-- FCOSPI (R233). Correctly rounded cos(pi a). -/
  | fcospi (o : VaFields)
  /-- FCLASS (R234). Writes a one-hot 9-bit class mask for each element. -/
  | fclass (o : VaFields)
  /-- CVT (R235). Converts between formats under a conversion code and rounding mode. -/
  | cvt (o : VaFields)
  /-- PACK (R237). Packs two values into F16x2, BF16x2 or B16x2. -/
  | pack (o : VaFields)
  /-- DOT4 (R238). Four-way 8-bit integer dot product accumulated into the destination. -/
  | dot4 (o : VaFields)
  /-- DOT2F (R238). Two-way 16-bit float dot product accumulated in FP32 with one rounding. -/
  | dot2f (o : VaFields)
  /-- ICMP (R239). Integer compare into a predicate, set, AND or OR. -/
  | icmp (o : VcFields)
  /-- FCMP (R239). FP32 compare into a predicate, set, AND or OR. -/
  | fcmp (o : VcFields)
  /-- PLOP (R240). Logic on two optionally inverted predicates. -/
  | plop (o : VaFields)
  /-- SEL (R241). Selects a or b by a predicate in the X literal. -/
  | sel (o : VaFields)
  /-- PMOV_TOREG (R242). Moves the eight predicate bits of each lane into a register. -/
  | pmovToreg (o : VaFields)
  /-- PMOV_FROMREG (R242). Loads the eight predicates of each lane from a register. -/
  | pmovFromreg (o : VaFields)
  /-- VOTE_ANY (R243). Writes 1 when the source predicate holds in any lane of Active. -/
  | voteAny (o : VaFields)
  /-- VOTE_ALL (R243). Writes 1 when the source predicate holds in every lane of Active. -/
  | voteAll (o : VaFields)
  /-- VOTE_BALLOT (R243). Writes the 16-bit mask of lanes whose source predicate is 1. -/
  | voteBallot (o : VaFields)
  /-- MATCH (R244). Writes in each lane the mask of lanes holding an equal value. -/
  | matchLanes (o : VaFields)
  /-- SHFL (R245). Reads another lane's register by index, up, down or xor. -/
  | shfl (o : VaFields)
  /-- SCAN (R246). Inclusive or exclusive prefix operation across the lanes of Active. -/
  | scan (o : VaFields)
  /-- REDUCE (R246). Reduction across the lanes of Active into a vector or scalar. -/
  | reduce (o : VaFields)
  /-- ELECT (R247). Sets the predicate in the lowest non-helper lane of Active. -/
  | elect (o : VaFields)
  /-- MOVX_RD (R249). Reads a register by computed number, faulting REG_INDEX beyond the allocation. -/
  | movxRd (o : VaFields)
  /-- MOVX_WR (R249). Writes a register by computed number, faulting REG_INDEX beyond the allocation. -/
  | movxWr (o : VaFields)
  /-- SREG (R250). Reads a special register selected by the code in B. -/
  | sreg (o : VaFields)
  /-- V2S_FIRST (R248). Copies the lowest active lane's value into a scalar. -/
  | v2sFirst (o : VaFields)
  /-- V2S_LANE (R248). Copies a chosen lane's value into a scalar. -/
  | v2sLane (o : VaFields)
  /-- LD_S8 (R281). Loads a sign-extended byte. -/
  | ldS8 (o : MmFields)
  /-- LD_B8 (R281). Loads a zero-extended byte. -/
  | ldB8 (o : MmFields)
  /-- LD_S16 (R281). Loads a sign-extended halfword. -/
  | ldS16 (o : MmFields)
  /-- LD_B16 (R281). Loads a zero-extended halfword. -/
  | ldB16 (o : MmFields)
  /-- LD_32 (R281). Loads a 32-bit word. -/
  | ld32 (o : MmFields)
  /-- LD_64 (R281). Loads 8 bytes into a pair. -/
  | ld64 (o : MmFields)
  /-- LD_128 (R281). Loads 16 bytes into a quad. -/
  | ld128 (o : MmFields)
  /-- ST_8 (R282). Stores a byte. -/
  | st8 (o : MmFields)
  /-- ST_16 (R282). Stores a halfword. -/
  | st16 (o : MmFields)
  /-- ST_32 (R282). Stores a word. -/
  | st32 (o : MmFields)
  /-- ST_64 (R282). Stores 8 bytes from a pair. -/
  | st64 (o : MmFields)
  /-- ST_128 (R282). Stores 16 bytes from a quad. -/
  | st128 (o : MmFields)
  /-- LDC (R283). Loads a word from constant bank 0 or 1 through the constant cache. -/
  | ldc (o : MmFields)
  /-- ATOM_ADD (R284). Atomic 32-bit add at the home. -/
  | atomAdd (o : MmFields)
  /-- ATOM_SMIN (R284). Atomic signed minimum. -/
  | atomSmin (o : MmFields)
  /-- ATOM_SMAX (R284). Atomic signed maximum. -/
  | atomSmax (o : MmFields)
  /-- ATOM_BMIN (R284). Atomic unsigned minimum. -/
  | atomBmin (o : MmFields)
  /-- ATOM_BMAX (R284). Atomic unsigned maximum. -/
  | atomBmax (o : MmFields)
  /-- ATOM_AND (R284). Atomic AND. -/
  | atomAnd (o : MmFields)
  /-- ATOM_OR (R284). Atomic OR. -/
  | atomOr (o : MmFields)
  /-- ATOM_XOR (R284). Atomic XOR. -/
  | atomXor (o : MmFields)
  /-- ATOM_XCHG (R284). Atomic exchange. -/
  | atomXchg (o : MmFields)
  /-- ATOM_CAS (R284). Atomic 32-bit compare and swap. -/
  | atomCas (o : MmFields)
  /-- ATOM_FADD (R284). Atomic FP32 add. -/
  | atomFadd (o : MmFields)
  /-- ATOM_ADD64 (R284). Atomic 64-bit add. -/
  | atomAdd64 (o : MmFields)
  /-- ATOM_CAS64 (R284). Atomic 64-bit compare and swap. -/
  | atomCas64 (o : MmFields)
  /-- STMAP (R285). Binds a stash row to a global line as MAPPED_INVALID. -/
  | stmap (o : MmFields)
  /-- STUNMAP (R285). Writes back and releases a mapped row, returning it to LOCAL. -/
  | stunmap (o : MmFields)
  /-- STWB (R285). Writes back the dirty sectors of a mapped row and keeps ownership. -/
  | stwb (o : MmFields)
  /-- STDROP (R285). Discards a mapped row's data and returns it to LOCAL. -/
  | stdrop (o : MmFields)
  /-- PREFETCH (R286). Brings a line into L2 and L1 with no value and no order. -/
  | prefetch (o : MmFields)
  /-- FENCE (R287). Acquire, release, acq_rel or SC fence at the literal's scope. -/
  | fence (o : MmFields)
  /-- CNTADD (R288). Adds a 32-bit value to a 64-bit counter as an atomic without return. -/
  | cntadd (o : MmFields)
  /-- BRA (R256). Direct, optionally predicated branch that may split the wave. -/
  | bra (o : BrFields)
  /-- BRX (R257). Indirect branch splitting lanes by target. -/
  | brx (o : VaFields)
  /-- RCV (R258). Pushes a reconvergence entry for a JOIN. -/
  | rcv (o : VaFields)
  /-- JOIN (R258). Removes the lanes from Active and pops the stack when Active empties. -/
  | join (o : VaFields)
  /-- CALL (R259). Direct call writing the link and pushing a CALL entry. -/
  | call (o : ClFields)
  /-- CALLX (R259). Indirect call writing the link and pushing a CALL entry. -/
  | callx (o : VaFields)
  /-- CALLX_TAIL (R259). Indirect tail call with no link and no CALL entry. -/
  | callxTail (o : VaFields)
  /-- RET (R260). Marks lanes returned and pops the CALL entry once every path has returned. -/
  | ret (o : VaFields)
  /-- EXIT (R261). Ends lanes; when the wave ends it frees its registers and slot. -/
  | exit (o : VaFields)
  /-- BAR_ARRIVE (R263). Arrives at a block barrier as a release, optionally returning the phase. -/
  | barArrive (o : VaFields)
  /-- BAR_WAIT (R263). Waits until the barrier's phase passes the token, then acquires. -/
  | barWait (o : VaFields)
  /-- BAR_SYNC (R263). Arrives and waits for the phase it arrived in. -/
  | barSync (o : VaFields)
  /-- BAR_INIT (R263). Sets a barrier's mode, expectation and SEQ and clears its counts. -/
  | barInit (o : VaFields)
  /-- BAREXP (R264). Adds an expected sector count to a barrier's phase and arms it. -/
  | barexp (o : VaFields)
  /-- CBAR_ARRIVE (R265). Arrives at a cluster barrier as a release at CLUSTER scope. -/
  | cbarArrive (o : VaFields)
  /-- CBAR_WAIT (R265). Waits on a cluster barrier's phase. -/
  | cbarWait (o : VaFields)
  /-- CBAR_SYNC (R265). Arrives at and waits on a cluster barrier. -/
  | cbarSync (o : VaFields)
  /-- WAITGE (R266). Waits until a 64-bit counter reaches a target, as an acquire. -/
  | waitge (o : VaFields)
  /-- MWAIT (R267). Waits until a word differs from an expected value. -/
  | mwait (o : VaFields)
  /-- YIELD (R268). Ranks the wave youngest for the next issue choice. -/
  | yield (o : VaFields)
  /-- SLEEP (R268). Holds the wave until the TOD counter reaches a count. -/
  | sleep (o : VaFields)
  /-- FORK_SUSPEND (R57). Appends one child card and saves the block until a counter reaches a target. -/
  | forkSuspend (o : VaFields)
  /-- FORK_DETACH (R58). Appends a detached child card and continues. -/
  | forkDetach (o : VaFields)
  /-- TSPAWN (R375). Creates one child task per lane with a timestamp and 64 bytes of arguments. -/
  | tspawn (o : VaFields)
  /-- TEND (R376). Ends the task's wave; the task finishes and awaits commit. -/
  | tend (o : VaFields)
  /-- TABORT (R377). Aborts and requeues the executing task. -/
  | tabort (o : VaFields)
  /-- TIRREV (R378). Waits for the frontier and makes the task irrevocable. -/
  | tirrev (o : VaFields)
  /-- TRAP (R272). Faults the taking-part lanes with SWTRAP and a code. -/
  | trap (o : VaFields)
  /-- BKPT (R272). Faults the taking-part lanes with BKPT and a code. -/
  | bkpt (o : VaFields)
  /-- CPY (R292). Linear copy command of one of six kinds, counted on a barrier or counter. -/
  | cpy (o : AsFields)
  /-- TCOPY (R296). Expands a tensor tile into a canonical slab in stash. -/
  | tcopy (o : AsFields)
  /-- TSTORE (R299). Stores a box from stash into a tensor. -/
  | tstore (o : AsFields)
  /-- TGATHER (R298). Gathers indexed vectors into a canonical slab. -/
  | tgather (o : AsFields)
  /-- CCOPY (R293). Copies the 32-byte sectors selected by a mask. -/
  | ccopy (o : AsFields)
  /-- CODEWR (R300). Writes 32 bytes into the core's non-current code-table bank. -/
  | codewr (o : AsFields)
  /-- CODESWAP (R300). Inverts the core's current code-table bank bit. -/
  | codeswap (o : AsFields)
  /-- RGIVE (R301). Releases the wave's top n register blocks to its pool. -/
  | rgive (o : AsFields)
  /-- RTAKE (R301). Claims n register blocks from the pool, waiting first in first out. -/
  | rtake (o : AsFields)
  /-- ENCPOST (R304). Posts a band of an open frame to the encoder lane. -/
  | encpost (o : AsFields)
  /-- ENCFRAME_OPEN (R303). Opens a frame on the glen's encoder lane. -/
  | encframeOpen (o : AsFields)
  /-- ENCFRAME_CLOSE (R303). Closes an open frame; it retires once its posted bands are encoded. -/
  | encframeClose (o : AsFields)
  /-- COVBEGIN (R334). Opens a path- or triangle-mode coverage session. -/
  | covbegin (o : VaFields)
  /-- COVLINE (R341). Submits line segments to the session's accumulators. -/
  | covline (o : VaFields)
  /-- COVQUAD (R341). Submits quadratic segments. -/
  | covquad (o : VaFields)
  /-- COVCUBE (R341). Submits cubic segments. -/
  | covcube (o : VaFields)
  /-- COVTRI (R344). Submits triangles for coverage, depth test and fragment queueing. -/
  | covtri (o : VaFields)
  /-- COVRES (R342). Resolves accumulators to UQ1.15 coverage by the winding rule, optionally clearing. -/
  | covres (o : VaFields)
  /-- COVEND (R343). Closes the session and adds its statistics to the VD counters. -/
  | covend (o : VaFields)
  /-- COVPOP (R347). Pops up to four fragment quads into lanes and replaces the helper mask. -/
  | covpop (o : VaFields)
  /-- DDX (R348). Horizontal difference within each 2x2 quad of lanes. -/
  | ddx (o : VaFields)
  /-- DDY (R348). Vertical difference within each 2x2 quad of lanes. -/
  | ddy (o : VaFields)
  /-- MXRD (R325). Reads accumulator elements with band scaling and conversion. -/
  | mxrd (o : MxFields)
  /-- MXWR (R326). Writes accumulator elements from registers. -/
  | mxwr (o : MxFields)
  /-- MXSTAT (R327). Reads a team member's status word. -/
  | mxstat (o : MxFields)
  /-- RESUMEL_RETRY (R276). Records that the origin lane replays its faulting instruction. -/
  | resumelRetry (o : VaFields)
  /-- RESUMEL_SKIP (R276). Records that the origin lane continues past its faulting instruction. -/
  | resumelSkip (o : VaFields)
  /-- KILLL (R276). Records that the origin lane is added to Exited. -/
  | killl (o : VaFields)
  /-- ORIGIN_TAG (R275). Reads the origin lane's identity, cause, PC and detail. -/
  | originTag (o : VaFields)
  /-- ORIGIN_ADDR (R275). Reads the origin lane's faulting address. -/
  | originAddr (o : VaFields)
  /-- ORIGIN_REG (R275). Reads a register of the origin lane or wave by code. -/
  | originReg (o : VaFields)
  /-- RTH (R276). Ends the handler wave, resolving its lanes and resuming origin waves. -/
  | rth (o : VaFields)
  /-- SSET (R275). Writes a register of the origin lane or wave by code. -/
  | sset (o : VaFields)
  /-- CKPT (R277). Requests a checkpoint cut of the VD at a TOD count. -/
  | ckpt (o : VaFields)
  /-- MNOP (R322). Stream word with no effect. -/
  | mnop (rest : BitVec 26)
  /-- MTEAM (R313). Waits for earlier steps, releases the team and claims a new SELF, PEERS or LEASE team. -/
  | mteam (mode tm1 : BitVec 2) (first hreg : BitVec 4) (z : BitVec 14)
  /-- MDESC (R312). Loads and checks a descriptor from stash into a slot. -/
  | mdesc (slot : BitVec 3) (mreg : BitVec 4) (z : BitVec 1) (off : BitVec 18)
  /-- MZERO (R317). Zeroes every member's accumulator and sets its kind. -/
  | mzero (kind : BitVec 1) (z : BitVec 25)
  /-- MMA (R318). Queues one dense K-step on every team member. -/
  | mma (da db : BitVec 3) (ovw : BitVec 1) (z : BitVec 19)
  /-- MMAS (R318). Queues one sparse K-step on every team member. -/
  | mmas (da db : BitVec 3) (ovw : BitVec 1) (z : BitVec 19)
  /-- MLOOP (R321). Opens a counted stream loop with an immediate count. -/
  | mloop (span : BitVec 10) (count : BitVec 15)
  /-- MLOOP_MREG (R321). Opens a counted stream loop with the count in a sequencer register. -/
  | mloopMreg (span : BitVec 10) (z : BitVec 11) (mreg : BitVec 4)
  /-- MENDL (R321). Ends a loop iteration, branching back or popping the loop. -/
  | mendl (rest : BitVec 26)
  /-- MBARW (R324). Waits on a barrier phase as an acquire, optionally incrementing the token. -/
  | mbarw (bar mreg : BitVec 4) (inc : BitVec 1) (z : BitVec 17)
  /-- MBARA (R324). Arrives at a barrier once earlier steps, except LAG of them, have retired. -/
  | mbara (bar : BitVec 4) (lag : BitVec 2) (z : BitVec 20)
  /-- MSET (R322). Sets a sequencer register to a sign-extended immediate. -/
  | mset (mreg : BitVec 4) (imm : BitVec 22)
  /-- MADD (R322). Adds a sign-extended immediate to a sequencer register. -/
  | madd (mreg : BitVec 4) (imm : BitVec 22)
  /-- MBUF (R323). Advances the ring index of selected descriptor slots. -/
  | mbuf (slots : BitVec 8) (z : BitVec 18)
  /-- MFENCE (R324). Waits until every earlier step has retired. -/
  | mfence (rest : BitVec 26)
  /-- MEND (R324). Waits for earlier steps and ends the stream, leaving every barrier. -/
  | mend (rest : BitVec 26)
  /-- KSTEP_RETIRE (R318). A queued K-step finishes on a member, updating the accumulator and status. -/
  | kstepRetire (core : Nat)
  /-- TEAM_CLAIM (R314). A waiting all-or-nothing claim takes its engines once they are all free. -/
  | teamClaim (blk : Nat)
  /-- GENERATION_SCRUB (R122). The background scrub finishes zeroing stale entries, releasing waiting bumps. -/
  | generationScrub (core vd : Nat)
  /-- HANDLER_LAUNCH (R465). Gathered faulting lanes start a handler wave at TRAP_PC. -/
  | handlerLaunch (glen job core : Nat)
  /-- WATCHDOG_EXPIRY (R473). A lane's watchdog count reaches 100 ms and PROGRESS is raised. -/
  | watchdogExpiry (wave : Nat)
  /-- SLEEP_WAKE (R268). The TOD count reaches a sleeping wave's wake count. -/
  | sleepWake (wave : Nat)
  /-- MONITOR_WAKE (R267). A write to a monitored line makes a waiting WAITGE or MWAIT re-read it. -/
  | monitorWake (wave : Nat)
  /-- COMMAND_ACCEPT (R291). An engine queue takes a waiting ASYNC command, holding lines and recording ranges. -/
  | commandAccept (wave : Nat)
  /-- COPY_SECTOR_WRITTEN (R157). A copy command writes a destination sector, which counts on its barrier. -/
  | copySectorWritten (core cmd : Nat)
  /-- COMMAND_RETIRE (R291). A command has written all its bytes and performs its counter add. -/
  | commandRetire (unit : EngineUnit) (cmd : Nat)
  /-- COV_COMMAND_RETIRE (R333). The coverage unit finishes a session command and removes its scoreboard entry. -/
  | covCommandRetire (glen cmd : Nat)
  /-- BAND_ENCODED (R304). The encoder lane finishes a band, writes its bitstream and adds to its counter. -/
  | bandEncoded (glen frame : Nat)
  /-- FETCH_CARD (R386). The Col sees a post word pass CONSUME and fetches the next card. -/
  | fetchCard (vale vd queue : Nat)
  /-- CARD_READY (R390). A card may start under R55 and its deadline is fixed. -/
  | cardReady (vale vd queue : Nat)
  /-- PROLOGUE_START (R53). The launch scalar unit loads the card into s0-s31 and runs the prologue. -/
  | prologueStart (vale vd queue : Nat)
  /-- DEAL_CHUNK (R49). The dispatch units deal the next chunk to a free cluster slot once its gate is open. -/
  | dealChunk (job glen : Nat)
  /-- PLACE_ROUND (R50). A slot places the next round of blocks after the previous round retires. -/
  | placeRound (job slot : Nat)
  /-- JOB_RETIRE (R52). A job's records, blocks, stores and copies are done and its completion add is performed. -/
  | jobRetire (job : Nat)
  /-- SUSPEND_WAKE (R57). A FORK.SUSPEND counter reaches its target and the block is requeued. -/
  | suspendWake (blk : Nat)
  /-- BLOCK_SAVE_DONE (R399). A block's drains end and its records are written to the save area. -/
  | blockSaveDone (blk : Nat)
  /-- BLOCK_RESUME (R404). A saved block is placed and its records read back. -/
  | blockResume (blk core : Nat)
  /-- CARVE_CONVERSION (R133). A core's stash and L1 boundary finishes converting. -/
  | carveConversion (core : Nat)
  /-- PERIOD_BOUNDARY (R394). A VD's allowance period ends; use is cleared and the VD unparked. -/
  | periodBoundary (vale vd : Nat)
  /-- SWITCHOUT_CUT_TIMEOUT (R395). A switch-out cut not complete 30,000 ticks after its count is abandoned and rolled back. -/
  | switchoutCutTimeout (vale vd : Nat)
  /-- CHECKPOINT_CUT (R406). At the named count every unit of the VD halts and the image is written. -/
  | checkpointCut (vale vd : Nat)
  /-- CUT_COMPLETE (R406). The image is marked COMPLETE and issue resumes in place. -/
  | cutComplete (vale vd : Nat)
  /-- ROLLBACK_DONE (R409). Undo records are applied, state restored and dispatch resumed. -/
  | rollbackDone (vale vd : Nat)
  /-- TASK_ADMIT (R355). A root task is admitted into a free task entry and given its seq. -/
  | taskAdmit (job glen : Nat)
  /-- TASK_PLACE (R356). The task units place the earliest pending task as a one-wave block. -/
  | taskPlace (job core : Nat)
  /-- TASK_COMMIT (R363). A finished task at the frontier commits its group and aborts conflicting readers. -/
  | taskCommit (job : Nat)
  /-- SADDLE_UPDATE_APPLY (R151). A cross-die write-update is applied at its home once its vector clock allows. -/
  | saddleUpdateApply (die seq : Nat)
  /-- INVALIDATION_COMPLETE (R128). No TLB holds the old translation and every access using it has completed. -/
  | invalidationComplete (idx : Nat)
  /-- MIGRATION_DONE (R129). A page migration copies its lines, rewrites the leaf and clears the locks. -/
  | migrationDone (idx : Nat)
  /-- LEASE_START (R411). The TOD reaches a lease START and its engines pass to the borrower. -/
  | leaseStart (idx : Nat)
  /-- LEASE_END (R411). The TOD reaches a lease END; windows and accumulators are cleaned. -/
  | leaseEnd (idx : Nat)
  /-- SAVE_DRAIN_TIMEOUT (R534). A block save's drain exceeds 600,000 ticks and the VD is rolled back or stopped. -/
  | saveDrainTimeout (blk : Nat)
  /-- CUT_TIMEOUT (R534). A cut not COMPLETE 600,000 ticks after its count is abandoned. -/
  | cutTimeout (vale vd : Nat)
  /-- COMMAND_TIMEOUT (R534). An accepted command unretired for 60,000,000 ticks stops every VD of the vale. -/
  | commandTimeout (unit : EngineUnit) (cmd : Nat)
  /-- VD_STOP_TIMEOUT (R534). VD_STOP's drain exceeds its limit and completes with TIMEOUT. -/
  | vdStopTimeout (vale vd : Nat)
  /-- GLEN_SCRUB_COMPLETE (R32). A removed glen finishes scrubbing and enters FREE, or FENCED if it fails. -/
  | glenScrubComplete (glen : Nat) (ok : Bool)
  /-- FABRIC_RESPONSE_TIMEOUT (R506). No response arrives within 600,000 ticks and the request fails. -/
  | fabricResponseTimeout (idx : Nat)
  /-- BRING_UP_STEP_DONE (R438). A verification or training step of bring-up finishes and the next starts. -/
  | bringUpStepDone (out : BringUpResult)
  /-- VALE_RESET_COMPLETE (R476). The vale's scrub ends and the VF answers configuration requests again. -/
  | valeResetComplete (vale : Nat)
  /-- TDI_WIPE_COMPLETE (R435). The vale's wipe ends and the TDI enters CONFIG_UNLOCKED. -/
  | tdiWipeComplete (vale : Nat)
  /-- ACCESS_PERFORMED (R149). A store, atomic or counter add reaches its home slice and is performed there at one instant. -/
  | accessPerformed (acc : Nat)
  /-- LOAD_COMPLETE (R172). A load, LDC or atomic with return gets its data back and writes its destination registers, ending its lookahead window. -/
  | loadComplete (wave load : Nat) (lanes : Mask)
  /-- APPLIED_NOTICE (R151). An applied-notice reaches the origin die, which advances and broadcasts its contiguous applied count. -/
  | appliedNotice (die seq : Nat)
  /-- WAKE_BOOST_END (R394). BOOST microseconds after a VD wakes, its boost ends and its issue quantum returns to normal. -/
  | wakeBoostEnd (vale vd : Nat)
  /-- PARKUNTIL_EXPIRY (R389). The TOD reaches a queue's PARKUNTIL set by a plug-in PARK answer, and the queue leaves PARKED. -/
  | parkuntilExpiry (vale vd queue : Nat)
  /-- PLUGIN_INVOCATION (R381). The VD's policy plug-in returns a deadline or a park for a fetched card. -/
  | pluginInvocation (vale vd queue : Nat) (answer : PluginAnswer)
  /-- ACCOUNTING_WINDOW (R398). A channel's 4,096-clock accounting window ends and charges reset. -/
  | accountingWindow (channel : Nat)
  /-- COL_WATCHDOG_TIMEOUT (R534). A Col scheduler missing its watchdog stops the vale or package. -/
  | colWatchdogTimeout (glen : Option Nat)
  /-- GLEN_FAILURE (R35). A failed glen is fenced, its vale stopped and its leases revoked. -/
  | glenFailure (glen : Nat)
  /-- MEM_ERROR (R513). A storage structure detects a corrected or uncorrectable soft error. -/
  | memError (err : SoftError)
  /-- PATROL_SCRUB (R513). The patrol scrub reads and corrects HBM4 sectors once per 24 hours. -/
  | patrolScrub (sector : Nat) (corrected : Bool)
  /-- LINK_CRC_FAIL (R518). A saddle or pass-link flit fails its CRC and is replayed, retraining after 16. -/
  | linkCrcFail (link : LinkRef)
  /-- LINK_RETRAIN_TIMEOUT (R518). A saddle not retrained within 60,000 ticks is down with severity 4. -/
  | linkRetrainTimeout (link : LinkRef)
  /-- PASS_LINK_DOWN (R519). A pass link goes down and its unacknowledged requests move to another link. -/
  | passLinkDown (link : Nat)
  /-- FABRIC_READ (R423). An inbound fabric read is checked against the import table and performed. -/
  | fabricRead (req : FabricReq)
  /-- FABRIC_POSTED_WRITE (R423). An inbound posted write is checked and performed or dropped. -/
  | fabricPostedWrite (req : FabricReq)
  /-- FABRIC_ATOMIC (R423). An inbound atomic with return is checked and performed. -/
  | fabricAtomic (req : FabricReq)
  /-- FABRIC_POSTED_ATOMIC (R423). An inbound posted atomic is checked and performed or dropped. -/
  | fabricPostedAtomic (req : FabricReq)
  /-- FABRIC_RESPONSE (R506). A response, acknowledgement or refusal arrives for an outbound request. -/
  | fabricResponse (idx : Nat) (resp : FabricResp)
  /-- FABRIC_REKEY (R425). A pair key's flit counter nears 2^48 and the key is replaced. -/
  | fabricRekey (peer : Nat)
  /-- TIME_SYNC_MESSAGE (R439). A timestamped exchange with the time master steps or steers the TOD. -/
  | timeSyncMessage (count : DWord) (own : Bool)
  /-- TIME_MASTER_TIMEOUT (R439). No master answer within 1 s enters holdover or makes the package its own master. -/
  | timeMasterTimeout
  /-- HOLDOVER_EXPIRY (R439). After 10 s of holdover the package reports itself its own master. -/
  | holdoverExpiry
  /-- RESET (R438). Power-good or a reset wipes memory and starts verified bring-up. -/
  | reset
  /-- CLOCK_CONTROL (R441). Every microsecond PF firmware moves the clock down, up or holds it. -/
  | clockControl (t : Telemetry)
  /-- THERMAL_TRIP (R442). A die reaches 115 C; issue stops and a severity-4 record is written. -/
  | thermalTrip (die : Nat) (temp : BitVec 16)
  /-- LCREQ (R440). A write requests a lifecycle change, accepted for the next reset or refused: the target state, with the address of a
  token in LCTOKEN. -/
  | lcReq (target : BitVec 3) (token : DWord)
  /-- LIMIT_WRITE (R443). A PLIMIT or ILIMIT write within range sets the limit; others are ignored. -/
  | limitWrite (current : Bool) (value : BitVec 16)
  /-- ALARM_CLEAR (R443). A write of ones clears ALARM bits. -/
  | alarmClear (ones : BitVec 4)
  /-- REGISTER_WRITE (R12). A write to a register with no behaviour of its own updates it by its access code. -/
  | registerWrite (path : HostPath) (reg : HostReg) (value : DWord)
  /-- VDC_WRITE (R384). A write to VD control fields takes effect as R384 states, or is refused. -/
  | vdcWrite (path : HostPath) (vale vd off : Nat) (value : Word)
  /-- VDC_EN_SET (R384). Writing EN from 0 to 1 creates the VD and starts its first period. -/
  | vdcEnSet (path : HostPath) (vale vd off : Nat) (value : Word)
  /-- VDC_EN_CLEAR (R384). Writing EN to 0 stops a running VD and frees its storage with bumps. -/
  | vdcEnClear (path : HostPath) (vale vd off : Nat) (value : Word)
  /-- HOST_POST_WRITE (R415). An 8-byte host write to a post page sets a post word at SYSTEM scope. -/
  | hostPostWrite (path : HostPath) (vale off bytes : Nat) (value : DWord)
  /-- APERTURE_WRITE (R416). A host write to a staging aperture becomes a relaxed store for the VD. -/
  | apertureWrite (path : HostPath) (vale off : Nat) (data : List Byte)
  /-- APERTURE_READ (R416). A host read of a staging aperture becomes a relaxed load, or all ones if dropped. -/
  | apertureRead (path : HostPath) (vale off n : Nat)
  /-- S1INV (R128). Requests a stage-1 TLB invalidation for a VD. -/
  | s1inv (vale vd : Nat) (a : CmdArgs)
  /-- MIGRATE (R129). Requests a page migration to a new location. -/
  | migrate (vale vd : Nat) (a : CmdArgs)
  /-- CUT (R406). Names a checkpoint cut of the VD at a TOD count. -/
  | cut (vale vd : Nat) (a : CmdArgs)
  /-- ROLLBACK (R409). Requests a rollback of the VD to its latest complete image. -/
  | rollback (vale vd : Nat) (a : CmdArgs)
  /-- SWITCHOUT (R395). Requests a switch-out of the VD. -/
  | switchout (vale vd : Nat) (a : CmdArgs)
  /-- STATCLR (R419). Clears selected STATS words of the VD. -/
  | statclr (vale vd : Nat) (a : CmdArgs)
  /-- QCBWR (R387). Checks and copies an image into a queue's read-only QCB half. -/
  | qcbwr (vale vd : Nat) (a : CmdArgs)
  /-- FWWAVE (R273). Launches a firmware wave for the VD at a given entry. -/
  | fwwave (vale vd : Nat) (a : CmdArgs)
  /-- PLUGIN (R382). Installs a signed policy plug-in image or removes the plug-in. -/
  | plugin (vale vd : Nat) (a : CmdArgs)
  /-- CREATE (R31). Forms a new vale from a range of free glens. -/
  | create (a : CmdArgs)
  /-- FUSE (R31). Adds free idle glens to the top of a vale. -/
  | fuse (a : CmdArgs)
  /-- SPLIT (R32). Removes idle glens from the top of a vale, or dissolves it, and starts their scrub. -/
  | split (a : CmdArgs)
  /-- S2ROOT (R124). Writes a vale's stage-2 root. -/
  | s2root (a : CmdArgs)
  /-- S2INV (R128). Requests a stage-2 TLB invalidation for a vale. -/
  | s2inv (a : CmdArgs)
  /-- LEASE (R410). Creates a matrix-engine lease and returns its handle. -/
  | lease (a : CmdArgs)
  /-- REVOKE (R539). Revokes a lease, or frees an ended lease's entry. -/
  | revoke (a : CmdArgs)
  /-- IMPORT (R424). Writes an entry of the fabric import table. -/
  | importEntry (a : CmdArgs)
  /-- DIRTY_START (R436). Begins dirty tracking for a VD over a page range. -/
  | dirtyStart (a : CmdArgs)
  /-- DIRTY_SWAP (R436). Makes the other dirty bitmap current and returns the one closed. -/
  | dirtySwap (a : CmdArgs)
  /-- DIRTY_STOP (R436). Ends dirty tracking once every due bit is set. -/
  | dirtyStop (a : CmdArgs)
  /-- VD_STOP (R437). Stops a VD, saving its blocks and draining its commands. -/
  | vdStop (a : CmdArgs)
  /-- VD_EXPORT (R437). Writes a stopped VD's state record. -/
  | vdExport (a : CmdArgs)
  /-- VD_IMPORT (R437). Loads a disabled VD from a state record and enables it. -/
  | vdImport (a : CmdArgs)
  /-- VD_RESUME (R437). Restarts dispatch of a stopped VD. -/
  | vdResume (a : CmdArgs)
  /-- PAGE_COPY (R421). Copies pages to a destination by a copy engine of the vale. -/
  | pageCopy (a : CmdArgs)
  /-- PER_VALE_RESET (R476). A Function Level Reset stops the vale's VDs, wipes its glens and resets its window. -/
  | perValeReset (vale : Nat)
  /-- GET_VERSION (R426). SPDM version query. -/
  | getVersion
  /-- GET_CAPABILITIES (R426). SPDM capabilities query. -/
  | getCapabilities
  /-- NEGOTIATE_ALGORITHMS (R426). SPDM algorithm negotiation. -/
  | negotiateAlgorithms (offer : AlgorithmOffer)
  /-- GET_DIGESTS (R426). Returns certificate chain digests. -/
  | getDigests
  /-- GET_CERTIFICATE (R427). Returns a certificate chain from a slot. -/
  | getCertificate (slot : Nat)
  /-- CHALLENGE (R426). Signs a challenge with the device identity key. -/
  | challenge (slot : Nat) (nonce : BitVec 256)
  /-- GET_MEASUREMENTS (R428). Returns the firmware and configuration measurements. -/
  | getMeasurements (index : Nat)
  /-- KEY_EXCHANGE (R426). Starts a secured SPDM session by ECDHE. -/
  | keyExchange (slot : Nat) (share : BitVec 512)
  /-- FINISH (R545). Completes a secured session handshake, or fails with DecryptError. -/
  | finish (verifies : Bool)
  /-- HEARTBEAT (R426). Keeps a secured session alive. -/
  | heartbeat (session : Nat)
  /-- HEARTBEAT_TIMEOUT (R545). A session that misses its heartbeat ends, invalidating keys and erroring its TDIs. -/
  | heartbeatTimeout (session : Nat)
  /-- KEY_UPDATE (R426). Updates a secured session's keys. -/
  | keyUpdate (session : Nat)
  /-- END_SESSION (R545). Ends a secured session, invalidating its IDE keys and erroring its TDIs. -/
  | endSession (session : Nat)
  /-- IDE_KM (R431). Programs or manages link and selective IDE stream keys. -/
  | ideKm (session : Nat) (op : IdeOp)
  /-- IDE_STREAM_FAULT (R542). A bound IDE stream leaves its secure state and drives its TDI to ERROR. -/
  | ideStreamFault (stream : Nat)
  /-- LOCK_INTERFACE_REQUEST (R433). Locks a TDI and freezes its vale's configuration. -/
  | lockInterfaceRequest (session vale stream : Nat)
  /-- START_INTERFACE_REQUEST (R432). Moves a locked TDI to RUN when the nonce is presented. -/
  | startInterfaceRequest (session vale : Nat) (nonce : BitVec 256)
  /-- STOP_INTERFACE_REQUEST (R435). Stops the vale's VDs and starts the wipe toward CONFIG_UNLOCKED. -/
  | stopInterfaceRequest (session vale : Nat)
  /-- GET_DEVICE_INTERFACE_STATE (R432). Returns a TDI's state. -/
  | getDeviceInterfaceState (session vale : Nat)
  /-- GET_DEVICE_INTERFACE_REPORT (R434). Returns the TDI report with MMIO ranges and vale details. -/
  | getDeviceInterfaceReport (session vale : Nat)
  /-- CONFIG_WRITE (R542). A configuration write clearing memory space enable or moving a BAR of a locked VF. -/
  | configWrite (vale : Nat) (w : ConfigWrite)
  /-- RETRAIN_COMPLETE (R518). A saddle or pass link finishes retraining and its back-pressured traffic resumes. -/
  | retrainComplete (link : LinkRef)
deriving DecidableEq, Repr

end Sys2Proof
end

