-- ==== Sys2Proof/Machine/State.lean ====
section
/-! DEFINITION. The machine's state as plain data: every piece of state the spec gives the part (INVENTORY.md, State),
the two reasons a step can stop, and the state right after reset. Tables are keyed lists (Table.lean). -/
namespace Sys2Proof.Machine

/-- Why the machine stops with a fault. -/
inductive Fault where
  /-- Raised by the meaning of a wave instruction, or of a matrix stream word, when no wave (no sequencer context) is
  executing: nothing issues an instruction outside a wave. `step` never raises it. Safe. -/
  | noAgent
deriving DecidableEq, Repr

/-- Why the machine refuses an instruction. -/
inductive Refusal where
  /-- Raised by the dispatcher for an instruction without a meaning in this model. Safe. -/
  | notModelled (mnemonic : String)
deriving DecidableEq, Repr

/-! ## Waves -/

/-- What kind of wave it is (R495): a wave of a block, a handler wave (R273, R466), a firmware wave (R273), or the
prologue on the launch scalar unit (R53). -/
inductive WaveKind where
  | ordinary | handler | firmware | prologue
deriving DecidableEq, Repr

/-- The clause a wave is in (R163, R169): its header's address and the fields that outlive the clause wait. -/
structure Clause where
  hdr : DWord
  n : BitVec 4
  cls : BitVec 3
  pe : Bool
  pi : BitVec 3
  pn : Bool
deriving DecidableEq, Repr

/-- Where a wave continues: the address of the next word, and the clause it lies in; with no clause the next word is a
header (R168). -/
structure Pos where
  pc : DWord
  clause : Option Clause
deriving DecidableEq, Repr

/-- The kinds of reconvergence entry (R67). -/
inductive EntryKind where
  | reconv | path | call
deriving DecidableEq, Repr

/-- An entry of the reconvergence stack (R67). -/
structure StackEntry where
  kind : EntryKind
  pc : DWord
  mask : Mask
  depth : BitVec 8
deriving DecidableEq, Repr

/-- How a handler resolved an origin lane (R276). -/
inductive Resolution where
  | retry | skip | kill
deriving DecidableEq, Repr

/-- A lane that has faulted (R463 to R468): its cause (R460), the detail and address ORIGIN returns (R275), the order
of its arrival, the handler wave it is bound to, the resolution recorded, and whether it is resolved for R468. -/
structure LaneFault where
  lane : Nat
  cause : BitVec 8
  detail : Word
  addr : DWord
  seq : Nat
  handler : Option Nat
  choice : Option Resolution
  resolved : Bool
deriving DecidableEq, Repr

/-- What a wave waits on, issuing nothing (R263 to R269, R57, R367, R368). -/
inductive Wait where
  | bar (b : Nat) (tok : Word) (arrived : Bool)
  | cbar (c : Nat) (tok : Word) (arrived : Bool)
  | waitge (addr target : DWord) (scope : BitVec 3)
  | mwait (addr : DWord) (expected : Word) (scope : BitVec 3)
  | sleep (wake : DWord)
  | fork (card ctr target : DWord) (pd : BitVec 3) (lanes : Mask)
  /-- the task must reach the frontier and become irrevocable before the instruction can go on (R362, R367) -/
  | irrevocable
  /-- a COVPOP with the COVTRI commands accepted before it, its destination and its predicate (R347) -/
  | covpop (upTo : List Nat) (d : RegField) (p : Nat)
  /-- a TSPAWN stalled for a free entry (R368), with the lanes whose children are still to be made -/
  | spawn (lanes : Mask)
deriving DecidableEq, Repr

/-- What a stalled wave does when its lanes are resolved (R468, R484, R276, R551, R515). -/
inductive TrapKind where
  /-- an instruction's own fault: RETRY replays it -/
  | instr
  /-- a fault at fetch: RETRY fetches again, SKIP is KILLL -/
  | fetch
  /-- SWTRAP or BKPT: RETRY continues after it -/
  | soft
  /-- a misaligned return link (R551) at the given depth of the caller, whose stack below the paths of that return has `base` entries -/
  | link (depth : BitVec 8) (base : Nat)
  /-- a wait that broke or made no progress (R492, R473): RETRY waits again -/
  | wait (w : Wait)
  /-- a RECONV entry whose address holds no JOIN word (R483, R484): RETRY fetches the entry's address again -/
  | join
deriving DecidableEq, Repr

/-- A replay still to issue (R468): the lanes that take part, where the wave continues afterwards, the replays of earlier traps
that are still to issue there, and, where a wait of the wave is to go on (R276), how many of them are left by then. -/
structure Replay where
  lanes : Mask
  cont : Pos
  rest : List (Mask × Pos) := []
  waits : Option Nat := none
deriving DecidableEq, Repr

/-- What an instruction that ran a pop has changed of its wave, as it stood before (R471, R551). -/
structure BeforePop where
  active : Mask
  exited : Mask
  returned : Mask
  depth : BitVec 8
  stack : List StackEntry
  replay : Option Replay := none
deriving DecidableEq, Repr

/-- A wave stalled at a trap (R463): the faulting instruction's place, the place after it, the faulting lanes, and, for
an instruction that acts once for the wave, the lanes its one faulting lane stands for (R480). -/
structure Trap where
  at_ : Pos
  next : Pos
  kind : TrapKind
  part : Option Mask
  lanes : List LaneFault
  deferred : Bool
  /-- the TOD count at which it was detected (R458) -/
  tod : Nat
  /-- the wave before the instruction whose pop met it, for a save while its lanes are unbound (R471) -/
  before : Option BeforePop := none
  /-- the replays of earlier traps that are still to issue at `next` (R468) -/
  after : Option Replay := none
deriving DecidableEq, Repr


/-- Where an access goes once translated (R97 to R103). -/
inductive Target where
  /-- a byte of local memory, by its direct-window offset (R98, R99) -/
  | mem (key : Nat)
  /-- a byte of a block's stash -/
  | stash (blk off : Nat)
  /-- a byte of constant bank 0 or 1 -/
  | const (bank off : Nat)
  /-- a byte of another package, by its 60-bit physical address -/
  | remote (pa : Nat)
  /-- a byte of the vale's producer post pages (R415): page n serves VD n -/
  | post (off : Nat)
  /-- another byte of the control window (R97) -/
  | control (off : Nat)
deriving DecidableEq, Repr

/-- One lane's part of a load or atomic: where it reads, whether the page may be cached in L1, and an atomic's data. -/
structure LaneReq where
  lane : Nat
  target : Target
  va : DWord
  l1 : Bool
  /-- its page is NC, or DEVICE (R126) -/
  nc : Bool
  dev : Bool
  helper : Bool
  x : DWord
  w : DWord
  ipa : Option Nat
  /-- the size of its page, as a power of two (R128) -/
  lg : Nat
deriving DecidableEq, Repr

/-- How a loaded value fills its registers (R281, R284). -/
inductive Extend where
  | sext | zext
deriving DecidableEq, Repr

/-- A load, LDC or atomic with return (R281, R283, R284) that has issued. -/
structure LoadOp where
  pos : Pos
  size : Nat
  ext : Extend
  words : Nat
  dst : RegField
  ord : BitVec 3
  scope : BitVec 3
  hint : BitVec 2
  atom : Option AtomOp
  lanes : List LaneReq
  /-- registers whose value has come back and is not written yet (R488) -/
  rest : List (RegField × Nat × Word) := []
deriving DecidableEq, Repr

/-- An ASYNC command held at acceptance (R291): the issuing place and lane, the word as fetched, and its operands as
read when it is accepted or saved (R401). -/
structure WaitCmd where
  pos : Pos
  op : Instr
  lane : Nat
  a : List Word
  b : List Word
deriving DecidableEq, Repr

/-- A team of matrix engines (R313): mode, first member, lease handle and the cores whose engines are its members. -/
structure Team where
  mode : BitVec 2
  first : Nat
  handle : Word
  engines : List Nat
deriving DecidableEq, Repr

/-- An accumulator read in flight (R325): format bits, coordinates per lane and destination. -/
structure MxReq where
  pos : Pos
  f : BitVec 6
  dst : RegField
  /-- the team held at issue, and SAADDR and SBADDR then -/
  team : Team
  saAddr : BitVec 19
  sbAddr : BitVec 19
  sel : List (Nat × Word)
deriving DecidableEq, Repr

/-- What an outstanding instruction with lookahead still has to do (R172). -/
inductive OutOp where
  | load (op : LoadOp)
  | cmds (cs : List WaitCmd)
  | rtake (n : Nat) (pos : Pos)
  | fence (kind scope : BitVec 3) (sc : Bool) (upTo : Nat)
  | mxrd (r : MxReq)
  /-- stores, atomics without return or counter adds whose data registers are still to be read -/
  | stores (accs : List Nat) (t : RegField)
deriving DecidableEq, Repr

/-- An outstanding instruction with lookahead (R171): `left` is how many instructions may still issue before it must
have completed. -/
structure Outst where
  id : Nat
  left : Nat
  op : OutOp
deriving DecidableEq, Repr

/-- A fault found when data or a response arrives (R464, R506, R515), delivered at the wave's next issue slot. -/
structure LateFault where
  pos : Pos
  lane : Nat
  cause : BitVec 8
  detail : Word
  addr : DWord
  wait : Option Wait
  /-- the TOD count at which it was detected (R458) -/
  tod : Nat
deriving DecidableEq, Repr

/-- A wave: an ordinary wave of a block, a handler or firmware wave in a handler slot, or a prologue. -/
structure Wave where
  kind : WaveKind
  vale : Nat
  vd : Nat
  job : Nat
  blk : Nat
  index : Nat
  core : Nat
  slot : Nat
  role : Nat
  held : Nat
  pos : Pos
  replay : Option Replay
  active : Mask
  helper : Mask
  exited : Mask
  returned : Mask
  lpair : Tbl RegField
  depth : BitVec 8
  stack : List StackEntry
  v : Tbl Word
  s : Tbl Word
  p : Tbl Mask
  poison : List Nat
  outst : List Outst
  wait : Option Wait
  trap : Option Trap
  late : List LateFault
  wdog : Tbl Nat
  lastIssue : Nat
  yielded : Bool
  ended : Bool
  issued : Nat
  queueOf : Nat
  /-- it was resumed within a clause, whose header is read again before its next word (R169) -/
  reread : Bool
  /-- it faulted in the clock in which its block was chosen for a save: its lanes are bound first (R478) -/
  bindFirst : Bool
  /-- the vale and VD it was placed in, where VD_IMPORT has since moved its block (R251, R437) -/
  born : Option (Nat × Nat) := none
deriving DecidableEq, Repr

/-! ## Blocks, clusters and jobs -/

/-- A stash row bound by STMAP (R107): the line it names and its state. -/
inductive RowState where
  | mappedInvalid | mappedClean | mappedDirty (sectors : BitVec 4)
deriving DecidableEq, Repr

/-- A bound stash row: the line's key (direct-window line number), the intermediate address for dirty tracking, and its
state (R107, R108). -/
structure Row where
  line : Nat
  ipa : Option Nat
  st : RowState
deriving DecidableEq, Repr

/-- A block barrier (R262). -/
structure Barrier where
  phase : Word
  count : Bool
  expect : Nat
  seq : Bool
  arrived : Nat
  expSect : Nat
  sect : Nat
  armed : Bool
deriving DecidableEq, Repr

/-- A loop of a matrix stream (R321). -/
structure Loop where
  start : DWord
  count : Word
deriving DecidableEq, Repr

/-- A step queued on a matrix engine (R317, R318): `bands` lists the base of every member's B slab. -/
structure KStep where
  id : Nat
  blk : Nat
  zero : Option (BitVec 1)
  sparse : Bool
  ovw : Bool
  aBase : Nat
  bBase : Nat
  da : List Word
  db : List Word
  bands : List Nat
  lease : Option Nat
  /-- the words of its slabs read so far, by their number in the stash (R320), and whether one was poisoned -/
  read : Tbl Word
  readBad : Bool
deriving DecidableEq, Repr

/-- A matrix engine (R314, R316, R327). -/
structure Engine where
  acc : Tbl Word
  accPoison : List Nat
  s32 : Bool
  valid : Bool
  nan : Bool
  inf : Bool
  sat : Bool
  ksteps : BitVec 16
  holder : Option Nat
  lastHolder : Option Nat
  queue : List KStep
deriving DecidableEq, Repr

/-- A code-table bank (R93, R95): its entries, and the vale, VD and generation that last wrote it. -/
structure Bank where
  entries : List (BitVec 16)
  owner : Option (Nat × Nat × BitVec 4)
deriving DecidableEq, Repr

/-- A sequencer context (R306). Slots hold the eight words of a descriptor (R311). -/
structure SeqCtx where
  spc : DWord
  st : BitVec 2
  m : Tbl Word
  d : Tbl (List Word)
  loaded : BitVec 8
  ri : Tbl Nat
  loops : List Loop
  team : Option Team
  claim : Option Team
  saAddr : BitVec 19
  sbAddr : BitVec 19
  /-- identifiers of the MMA, MMAS and MZERO words issued, oldest first, that have not retired on every member -/
  steps : List Nat
  /-- the barrier an MBARW waits on, and its token -/
  wantBar : Option (Nat × Word)
  /-- engines to be restored when the team of a resumed block is claimed again (R329) -/
  restore : List Engine
deriving DecidableEq, Repr

/-- A coverage session (R331, R350). -/
structure CovSession where
  mode : BitVec 7
  desc : List Word
  count : Nat
  head : Nat
  prims : DWord
  culled : DWord
  occlusion : DWord
  covsum : DWord
deriving DecidableEq, Repr

/-- Where a block stands: resident, stopping for a save, saved, saved by FORK.SUSPEND, or retired from its core while
its accesses drain. -/
inductive BlockState where
  | resident
  | saving (fork : Bool)
  | saved (addr : Nat) (fork : Bool) (ctr target : DWord)
  | retired
deriving DecidableEq, Repr

/-- A block (R41, R61, R106, R262, R306, R350, R402). -/
structure Block where
  job : Nat
  vale : Nat
  vd : Nat
  core : Nat
  cluster : Nat
  rank : Nat
  record : Word
  tracks : List Nat
  pools : Tbl Nat
  stashKib : Nat
  stashBase : Nat
  stash : Tbl Byte
  stashPoison : List Nat
  rows : Tbl Row
  bars : Tbl Barrier
  waves : List Nat
  seqCtx : Option SeqCtx
  cov : Option CovSession
  st : BlockState
  copyHalted : Bool
  task : Option Nat
  fork : Option (DWord × DWord × DWord)
  saveAt : Option Nat
  preempt : Bool
  stopTod : Nat
  /-- ticks of the save in which its drain waited for handler waves or a cut, which its limit leaves out (R534) -/
  waited : Nat := 0
  placed : Nat
  /-- accumulators and status words of the team's members while the block is saved (R329, R402) -/
  accSaved : List Engine
  /-- code-table state saved with the block (R95, R402): the banks and the current bit -/
  codeSaved : Option (Bank × Bank × Bool)
deriving DecidableEq, Repr

/-- A cluster (R40, R265): its member blocks in rank order and its barriers c0 to c3. -/
structure Cluster where
  job : Nat
  glen : Nat
  members : List Nat
  phase : Tbl Word
  arrived : Tbl Nat
deriving DecidableEq, Repr

/-- A chunk dealt to a cluster slot (R49, R50): the slot's cores, the records left, and the cluster of its round. -/
structure Chunk where
  glen : Nat
  cores : List Nat
  next : Nat
  stop : Nat
  round : Option Nat
deriving DecidableEq, Repr

/-- What an access that has no return does at its home (R149, R284, R288). -/
inductive AccOp where
  | store (data : List Byte)
  | atom (op : AtomOp) (x w : DWord)
  | add (v : DWord)
  /-- an engine's add to each element of a size (R292) -/
  | reduce (size : Nat) (data : List Byte)
  /-- a store of poisoned data: the sectors it writes are poisoned (R514) -/
  | bad (data : List Byte)
deriving DecidableEq, Repr

/-- A task's speculative line (R359): the bytes written; then, by offset and in program order, the counter adds buffered and the
stores that cut across one (R358, R363). -/
structure SpecLine where
  core : Nat
  /-- the way of its set (R359) -/
  way : Nat
  bytes : Tbl Byte
  later : List (Nat × AccOp)
  /-- the pages its stores used (R524): virtual address, IPA, and size as a power of two -/
  pages : List (Nat × Nat × Nat)
  /-- the hint of the latest store (R114), and whether its page is NC (R117) -/
  hint : BitVec 2
  nc : Bool
deriving DecidableEq, Repr

/-- The state of a task entry (R354, R356, R363, R372). -/
inductive TaskState where
  | pending
  | running (blk : Nat)
  | finished
  | saved (blk : Nat)
deriving DecidableEq, Repr

/-- A fault deferred in a speculative task (R369, R521). -/
structure DeferredFault where
  pc : DWord
  lanes : Mask
  cause : BitVec 8
  detail : Word
  addr : DWord
  tod : Nat
deriving DecidableEq, Repr

/-- A task entry (R353 to R372). -/
structure Task where
  ts : DWord
  parent : Option Nat
  root : Bool
  record : Word
  entry : DWord
  args : List Word
  st : TaskState
  irrev : Bool
  core : Nat
  /-- the speculative ways of a set its core offered when it was placed (R359) -/
  ways : Nat
  reads : List Nat
  sig : List Nat
  lines : Tbl SpecLine
  fault : Option DeferredFault
deriving DecidableEq, Repr

/-- The ordered-task state of a job (R352 to R373): the seq counter, the next root record and its running maximum
timestamp, the entries by seq, and what a read of a root record in another package has given (R355): twice the record, plus 1 where its gate was open, and its first 8 bytes
unless the read failed. -/
structure Ordered where
  seqNext : Nat
  rootNext : Nat
  rootTs : DWord
  tasks : Tbl Task
  stuck : Bool
  rootSeen : Option (Nat × Option DWord) := none
deriving DecidableEq, Repr

/-- A job (R44 to R55): the card as launched, its queue and number, deadline, dealing and ordered state. -/
structure Job where
  vale : Nat
  vd : Nat
  queue : Nat
  number : Nat
  addr : Nat
  card : List Word
  deadline : Option DWord
  next : Nat
  /-- records of the next chunk, sized when the one before it was dealt (R49) -/
  size : Nat
  chunks : Tbl Chunk
  ord : Option Ordered
  gateBad : Bool
deriving DecidableEq, Repr

/-! ## Engines -/

/-- A command's kind (R290): of a copy engine or of the encoder lane. -/
inductive CopyKind where
  | cpy | ccopy | tcopy | tgather | tstore | codewr | codeswap | encopen | encpost | encclose
deriving DecidableEq, Repr

/-- A command accepted by a copy engine (R291, R507): issuing place, operands as read, what acceptance fixed (layout
record or mask words), its progress, and how it ends. -/
structure Cmd where
  wave : Nat
  slot : Nat
  core : Nat
  lane : Nat
  blk : Nat
  job : Nat
  vale : Nat
  vd : Nat
  pc : DWord
  kind : CopyKind
  sub : Nat
  a : List Word
  b : List Word
  bar : Option Nat
  scope : BitVec 3
  ctr : Option DWord
  inc : Nat
  ordered : Bool
  layout : List Word
  mask : List Byte
  /-- the entries of an index list whose words were poisoned (R298, R514), and whether its layout record was (R516) -/
  badIdx : List Nat
  badRec : Bool
  bank : Option Nat
  held : List Nat
  done : Nat
  total : Nat
  /-- the fault its layout record or mask met at acceptance: cause, reason, address -/
  pre : Option (BitVec 8 × Nat × Nat)
  /-- the posted writes of its sector to another package that are not yet acknowledged (R154) -/
  posted : List Nat
  accepted : Nat
deriving DecidableEq, Repr

/-- A range-scoreboard entry (R109): the command, and the rows' byte range of a block's stash. -/
structure SbEntry where
  cmd : Nat
  blk : Nat
  lo : Nat
  hi : Nat
deriving DecidableEq, Repr

/-- A sector held in a core's L1 (R112), with the fields of its line: the way it stands in, its VD and that VD's cache
epoch for the core's glen (R119, R121), and whether a stream access made it the first to leave (R114). -/
structure L1Sector where
  vale : Nat
  vd : Nat
  sector : Nat
  data : List Byte
  way : Nat
  epoch : BitVec 4
  first : Bool
deriving DecidableEq, Repr

/-- A line held in a glen's L2 slice (R115 to R119): its number, the VD that wrote it with its cache epoch, the way of its
set, the valid and dirty sectors, the encoding code and base of its tag entry (R117), the hint it was allocated under
(R114), whether its page is NC, and, while a sector is dirty, what HBM4 holds behind it. `State.mem` holds the line as the
slice would serve it. -/
structure L2Line where
  line : Nat
  vale : Nat
  vd : Nat
  epoch : BitVec 4
  way : Nat
  valid : BitVec 4
  dirty : BitVec 4
  enc : BitVec 3
  base : DWord
  hint : BitVec 2
  nc : Bool
  old : List Byte
deriving DecidableEq, Repr

/-- A word held in a core's instruction or constant cache (R170, R104). -/
structure CachedWord where
  vale : Nat
  vd : Nat
  addr : Nat
  word : Word
  /-- the size of its page, as a power of two (R128) -/
  lg : Nat
deriving DecidableEq, Repr

/-- A translation held in a TLB (R127): virtual page, its size as a power of two, physical page, intermediate page,
permissions and memory type. -/
structure TlbEntry where
  vale : Nat
  vd : Nat
  page : Nat
  lg : Nat
  pa : Nat
  ipa : Nat
  w1 : Bool
  w2 : Bool
  x1 : Bool
  x2 : Bool
  mt : BitVec 2
  nc : Bool
  dirty : Bool
deriving DecidableEq, Repr

/-- A core (R16, R93, R109, R112, R119, R132, R396, R466). -/
structure Core where
  stashKib : Nat
  convert : Option Nat
  l1 : List L1Sector
  icache : List CachedWord
  ccache : List CachedWord
  tlb : List TlbEntry
  sb : List SbEntry
  cmds : Tbl Cmd
  engine : Engine
  bank0 : Bank
  bank1 : Bank
  current : Bool
  /-- the vale and VD that last chose the current bank (R94, R95; DESIGN CHOICE, log 90) -/
  chooser : Option (Nat × Nat) := none
  gen : Tbl (BitVec 4)
  /-- the tags, VD and generation, that stale entries of its register file and stash still carry (R119, R120) -/
  stale : List (Nat × BitVec 4)
  /-- generation bumps of a VD that wait for the scrub (R122) -/
  owed : Tbl Nat
  deficit : Tbl Int
  rr : Nat
  handler : Option Nat
deriving DecidableEq, Repr

/-- A coverage command in a unit's queue (R333): where it was issued, the words of its primitives still to be processed,
the quad records of a triangle that wait for room in the fragment queue (R344), and its COUNT bit. -/
structure CovCmd where
  blk : Nat
  wave : Nat
  core : Nat
  pc : DWord
  op : Instr
  prims : List (List Word)
  quads : List (List Word)
  count : Bool
  accepted : Nat
deriving DecidableEq, Repr

/-- A frame on an encoder lane (R302, R303): the OPEN that made it, the descriptor's address and words, the bands
posted, progress, and, once its CLOSE is accepted, how many bands are to be encoded. -/
structure Frame where
  own : Cmd
  desc : Nat
  words : List Word
  posted : List Nat
  encoded : Nat
  bytes : Nat
  full : Bool
  failed : Bool
  closed : Option Nat
  /-- the output of the band being written: its bytes, how many are written, and whether BITSMAX cut it off -/
  out : Option (List Byte × Nat × Bool)
deriving DecidableEq, Repr

/-- A glen (R18, R29, R121, R303, R331). -/
structure Glen where
  st : BitVec 3
  vale : Option Nat
  covq : Tbl CovCmd
  encq : Tbl Cmd
  frames : Tbl Frame
  epoch : Tbl (BitVec 4)
  /-- epoch bumps of a VD that wait for the scrub (R122) -/
  owed : Tbl Nat
  /-- the lines of its L2 slice, the latest used first (R115) -/
  l2 : List L2Line
  /-- the TLB its 16 cores share (R127) -/
  tlb : List TlbEntry
deriving DecidableEq, Repr

/-! ## Virtual devices and vales -/

/-- A cut named or being taken (R406): its count, whether a switch-out named it, whether the VD has halted for it, and, since it
has, the undo log's offset where the records of its interval begin (R407, R408), and the migrated runs listed before (R409). -/
structure Cut where
  count : Nat
  switchOut : Bool
  halted : Bool
  start : Nat
  moved : Nat
deriving DecidableEq, Repr

/-- How a queue's next card stands (R386, R390, R53, R381): fetched, its plug-in asked, ready with its deadline, or in its
prologue. -/
inductive CardStage where
  | none
  | fetched (plug : Option PluginAnswer)
  | ready (dl : Option DWord)
  | prologue (dl : Option DWord) (wave : Nat)
deriving DecidableEq, Repr

/-- A queue's running state beside its QCB in memory (R386 to R390): the card fetched and its stage, its jobs not retired,
the last one started, error episodes open, and, for queue 63, its cards with
the deadlines their parents had. -/
structure Queue where
  card : List Word
  number : Nat
  addr : Nat
  fromRepeat : Bool
  stage : CardStage
  running : List Nat
  prev : Option Nat
  episodes : List Nat
  parents : List (Nat × Option DWord)
  /-- a bad link or pool entry and what it holds: nothing is fetched until it is rewritten (R531) -/
  linkBad : Option (Nat × Nat)
deriving DecidableEq, Repr

/-- What a part of an image holds (R371, R372, R406): a block with its waves, a task entry of a job, a job's ordered state, a queue's
mutable half, its REPEAT copy, or the coverage counters. -/
inductive ImageUnit where
  | block (blk : Nat)
  /-- a core's code tables (R95) -/
  | tables (core : Nat)
  | task (job seq : Nat)
  | ordered (job : Nat)
  | half (queue : Nat)
  | repeatCopy (queue : Nat)
  | counters
deriving DecidableEq, Repr

/-- A part of an image and the IPA where it lies. -/
structure ImagePart where
  unit : ImageUnit
  addr : Nat
deriving DecidableEq, Repr

/-- The saved state a checkpoint image holds (R406): the blocks with their waves, clusters and jobs of the VD, statistics
and code-table state as they stood at the cut, and where its parts lie in the checkpoint area. -/
structure Image where
  ckseq : Nat
  cut : Nat
  half : Nat
  undoHead : Nat
  blocks : Tbl Block
  clusters : Tbl Cluster
  waves : Tbl Wave
  jobs : Tbl Job
  stats : Tbl DWord
  queues : Tbl Queue
  saves : List (Nat × Nat)
  rollbacks : Nat
  parts : List ImagePart
  /-- the code tables of the cores whose banks the VD owns, and the cores' current-bank choice (R95) -/
  tables : Tbl (Bank × Bank × Bool)
deriving DecidableEq, Repr

/-- The fields of an error record (R458) beside VERSION and COALESCED: `detail` is the six words at 0x24 to 0x38, and `tod` the count at
detection where that comes before the writing. -/
structure ErrRec where
  cause : BitVec 8
  sev : Nat
  vale : Option Nat
  vd : Option Nat
  deferred : Bool
  rolled : Bool
  core : Nat
  pc : Nat
  addr : Nat
  lanes : Nat
  slot : Nat
  unit : Nat
  detail : List Nat
  tod : Option Nat
deriving DecidableEq, Repr

/-- A virtual device (R383, R394, R405 to R409, R419, R436, R437). The registers of VDC_n are kept as its 32 words. -/
structure Vd where
  vdc : Tbl Word
  weightNow : Nat
  capNow : Nat
  boostNow : Nat
  aperiodNow : Nat
  usedU : Nat
  capacity : Nat
  nextBoundary : Nat
  elapsed : Nat
  parked : Bool
  boostEnd : Option Nat
  idleSince : Option Nat
  queues : Tbl Queue
  stats : Tbl DWord
  saves : List (Nat × Nat)
  ckseq : Nat
  cut : Option Cut
  firstCut : Option Nat
  image : Option Image
  logged : List Nat
  undoHead : Nat
  undoStart : Nat
  undoList : List (Nat × Nat)
  /-- the register blocks and stash rows each half of the checkpoint area was last written with, by their IPA: a block or row is dirty for
  an image while it differs (R406) -/
  imaged : Tbl (List (Nat × List Byte))
  rolling : Bool
  rollRec : Option ErrRec
  migrated : List (Nat × Nat × Nat)
  dirty : Option (Nat × Nat × Nat × Nat × Bool)
  plugin : Option (List Byte)
  stopped : Bool
  stopReq : Option Nat
  vdStopped : Bool
  spaceEp : Bool
  ckspaceEp : Bool
  episodes : List Nat
  /-- failed reads by the part that are not yet to be tried again (R549): 3q is the post word of queue q, 3j + 1 the gate of job j, 3b + 2
  the counter of saved block b -/
  heldReads : List Nat
deriving DecidableEq, Repr

/-- An invalidation of stage 1 or stage 2 that has not completed (R128): its range of virtual or intermediate addresses,
whether the TLBs have dropped it, the accesses that used it then, and the migration it belongs to. -/
structure Inval where
  vale : Nat
  vd : Option Nat
  lo : Nat
  hi : Nat
  pf : Bool
  purged : Bool
  accesses : List Nat
  mig : Option Nat
deriving DecidableEq, Repr

/-- A page migration in flight (R129). -/
structure Migration where
  vale : Nat
  vd : Nat
  va : Nat
  lg : Nat
  newIpa : Nat
  leaf : Nat
  /-- runs of bytes that move: old key, new key and length -/
  runs : List (Nat × Nat × Nat)
  step : Nat
deriving DecidableEq, Repr

/-- A command block or request block (R418, R421): its registers, and the arguments the running command started with. -/
structure CmdBlock where
  op : BitVec 8
  vd : BitVec 4
  busy : Bool
  result : BitVec 8
  args : List DWord
  held : List DWord
deriving DecidableEq, Repr

/-- A PAGE_COPY under way (R421): the vale whose copy engine runs it, where it reads and writes next, the bytes left, and its
posted requests to another package. -/
structure PageCopy where
  vale : Nat
  ipa : Nat
  pa : Nat
  left : Nat
  posted : List Nat
deriving DecidableEq, Repr

/-- The states of a TDI (R432). -/
inductive TdiState where
  | unlocked | locked | run | error
deriving DecidableEq, Repr

/-- A TDI (R432, R433): its state, the session and stream of its lock, the nonce, and whether its wipe runs. -/
structure Tdi where
  st : TdiState
  session : Nat
  stream : Nat
  nonce : BitVec 256
  leases : List Nat
  wiping : Bool
deriving DecidableEq, Repr

/-- The last record of a correctable error, for coalescing (R462): cause, unit, glen, the record's place, its TOD, and ERRBASE, ERRCOUNT
and the value of ERRHEAD it was written under. -/
structure LastCe where
  cause : BitVec 8
  unit : Nat
  glen : Nat
  addr : Option Nat
  tod : Nat
  base : DWord
  count : Word
  head : Word
deriving DecidableEq, Repr

/-- A vale (R27, R33, R128, R129, R415 to R419, R425, R475, R476). -/
structure Vale where
  first : Nat
  n : Nat
  conf : Bool
  root : DWord
  pthresh : Word
  errBase : DWord
  errCount : Word
  errHead : Word
  stage : Tbl DWord
  cmd : CmdBlock
  posts : Tbl DWord
  leases : List (Option Nat)
  vds : Tbl Vd
  stopped : Bool
  resetting : Bool
  tdi : Tdi
  memEnable : Bool
  rrKey : Nat
  lastCe : List LastCe
  /-- host posts that wait for writes the link delivered before them (R415): the word's index, its value, and those writes -/
  hostPosts : List (Nat × DWord × List Nat)
deriving DecidableEq, Repr

/-! ## Memory traffic and links -/

/-- A store, atomic without return or counter add that has issued and is not yet performed (R149, R166): its issuer, its
place in program order, its target, and, for a write to another package, whether it has been sent. The number of the job is
that of the retired one for a completion add (R55). -/
structure Access where
  wave : Nat
  blk : Nat
  job : Nat
  vale : Nat
  vd : Nat
  core : Nat
  pos : Pos
  lane : Nat
  target : Target
  va : DWord
  op : AccOp
  ord : BitVec 3
  scope : BitVec 3
  ipa : Option Nat
  /-- the size of its page, as a power of two (R128) -/
  lg : Nat
  /-- its page is NC, or DEVICE (R126), and its cache hint (R114) -/
  nc : Bool
  dev : Bool
  hint : BitVec 2
  isCnt : Bool
  sent : Bool
  /-- the timestamp and seq of the committed task whose group it belongs to (R363) -/
  task : Option (DWord × Nat) := none
deriving DecidableEq, Repr

/-- A write-update that crosses saddles (R151). -/
structure Update where
  origin : Nat
  seq : BitVec 16
  home : Nat
  vc : List (BitVec 16)
  access : Nat
  key : Nat
  data : List Byte
  op : AccOp
  applied : Bool
deriving DecidableEq, Repr

/-- An outbound fabric request (R422, R423, R506): for whom it was sent and from which die, and the issuing access or the
wave and load that wait for it. -/
structure OutReq where
  vale : Nat
  vd : Nat
  die : Nat
  pc : DWord
  pkg : Nat
  link : Nat
  seq : BitVec 32
  pa : Nat
  access : Option Nat
  load : Option (Nat × Nat × Nat)
  /-- the core of an engine or of the launch scalar unit that reads, and the command, wave or job it reads for -/
  eng : Option (Nat × Nat)
  sentAt : Nat
deriving DecidableEq, Repr

/-- The answer to a read of 16 bytes of another package by an engine or by the part (R154, R506): for whom, the bytes and whether they are
poisoned, or the cause and reason of a failure. -/
structure EngAnswer where
  core : Nat
  tag : Nat
  vale : Nat
  vd : Nat
  pa : Nat
  bytes : List Byte
  bad : Bool
  fault : Option (BitVec 8 × Nat)
deriving DecidableEq, Repr

/-- A lease (R410, R411): state 1 PENDING, 2 ACTIVE, 3 ENDED (R419). -/
structure Lease where
  handle : Word
  lender : Nat
  borrower : Nat
  glen : Nat
  cores : BitVec 16
  start : DWord
  stop : DWord
  rate : Nat
  meter : DWord
  st : BitVec 2
  full : Bool
  revoked : Bool
deriving DecidableEq, Repr

/-- A link's state (R518, R519): the TOD counts of its replays in the last 600 ticks, and of the start of its retraining. -/
structure Link where
  up : Bool
  retraining : Bool
  replays : List Nat
  since : Nat
deriving DecidableEq, Repr

/-- A selective IDE stream (R431). -/
structure IdeStream where
  key : BitVec 256
  secure : Bool
  vf : Option Nat
  session : Nat
deriving DecidableEq, Repr

/-- A secured SPDM session (R426). -/
structure Session where
  established : Bool
  keyGen : Nat
  lastBeat : Nat
deriving DecidableEq, Repr

/-- The SPDM responder's place in its message sequence (R426, R545). -/
structure Spdm where
  version : Bool
  caps : Bool
  algs : Bool
  sessions : Tbl Session
deriving DecidableEq, Repr

/-- What the part last answered on the host link's mailboxes and reads (R416, R426 to R434, R545). -/
inductive Reply where
  | none
  | bytes (data : List Byte)
  | poisoned (data : List Byte)
  | words (data : List DWord)
  | signature (v : BitVec 512)
  | nonce (v : BitVec 256)
  | tdiState (st : TdiState)
  | error (code : BitVec 8)
  /-- a completion with Unsupported Request (R433) -/
  | unsupported
  | ok
deriving DecidableEq, Repr

/-- One entry of the schedule: an event or request happens, a wave issues (its loads and stores completing later when
`defer` is set), a block's sequencer issues, a cached copy is evicted from a cache or TLB, or a TOD tick passes. -/
inductive Choice where
  | event (i : Instr)
  | issue (wave : Nat) (defer : Bool)
  /-- the same while some waves are not ready: what they need has not come yet (R396) -/
  | issueAmong (wave : Nat) (defer : Bool) (late : List Nat)
  | sequence (blk : Nat)
  /-- what follows, up to `clockEnd`, happens in one clock (log 106) -/
  | clockBegin
  | clockEnd
  /-- the running step of a core's engine reads a word of its slabs (R320) -/
  | readSlab (core word : Nat)
  | evictL1 (core sector : Nat)
  | evictCode (core : Nat)
  | evictConst (core : Nat)
  | evictTlb (core index : Nat)
  | evictL2 (glen index : Nat)
  | evictGlenTlb (glen index : Nat)
  | evictDieTlb (die index : Nat)
  | tick
deriving DecidableEq, Repr

/-- The agent whose instruction is executing. -/
inductive Agent where
  | none
  | wave (w : Nat)
  | seq (blk : Nat)
deriving DecidableEq, Repr

/-- What happened in the clock that is under way, where several events share one (R262, R265): the waves and blocks that have
issued, the core of each wave's issue and the track or uniform unit it took (R36), and the barriers, of blocks and of clusters, to test
at its end; and, as the clock began, the blocks being saved and the waves with a fault (R478). -/
structure OneClock where
  waves : List Nat
  cores : List Nat
  units : List (Nat × Nat)
  blocks : List Nat
  bars : List (Nat × Nat)
  cbars : List (Nat × Nat)
  saving : List Nat
  faulted : List Nat
deriving DecidableEq, Repr

/-- The machine. -/
structure State where
  /-- the schedule: the model's own field -/
  agenda : List Choice
  /-- the events that share one clock, none while each has its own: the model's own field -/
  clock : Option OneClock
  /-- the agent whose instruction is executing: the model's own field -/
  cur : Agent
  /-- the executing instruction's accesses may complete later: the model's own field -/
  defer : Bool
  /-- the counter the free values are applied to: the model's own field -/
  freeCount : Nat
  /-- issues made so far, by which waiting times are compared: the model's own field -/
  turns : Nat
  /-- issues since the last TOD tick, by which an empty schedule shares time: the model's own field -/
  sinceTick : Nat
  /-- the next identifier for waves, blocks, jobs, clusters, commands and accesses: the model's own field -/
  nextId : Nat
  tod : DWord
  bootStat : BitVec 2
  failStep : BitVec 3
  bootStep : Nat
  lifecycle : BitVec 3
  lcStat : BitVec 3
  lcReq : BitVec 3
  lcPending : Option (BitVec 3)
  lcToken : DWord
  stackGib : BitVec 8
  pkgId : BitVec 13
  hlWidth : BitVec 4
  hlRate : BitVec 4
  tsync : BitVec 2
  timeMaster : Nat
  /-- by how many ppm the TOD counter's rate is steered (R439) -/
  steer : Int
  /-- the package id has been read from the tray (R438 step 6) -/
  trayRead : Bool
  /-- the TOD count of PF firmware's latest comparison (R441) -/
  compared : Nat
  /-- BAR0 of the PF, the VFs' BARs by 8 times the VF's number plus the BAR's, and the SR-IOV VF BAR registers (R414) -/
  pfBar : DWord
  bars : Tbl DWord
  vfBars : Tbl DWord
  passUp : BitVec 36
  plimit : BitVec 16
  ilimit : BitVec 16
  clkNow : BitVec 12
  power : Word
  temps : Tbl (BitVec 16)
  alarm : BitVec 4
  errBase : DWord
  errCount : Word
  errHead : Word
  pf : CmdBlock
  pageCopy : Option PageCopy
  msix : Tbl Nat
  halted : Bool
  /-- the ROOTHASH slots have been destroyed (R440); their hashes are Config.rootHash -/
  rootGone : Bool
  /-- the device identity key stands in the key store (R427) -/
  identity : Bool
  revoked : BitVec 4
  svnMin : Tbl Nat
  measured : Tbl (BitVec 256)
  certSlots : BitVec 8
  mem : List Host.Cell
  poison : List Nat
  vales : Tbl Vale
  glens : Tbl Glen
  cores : Tbl Core
  jobs : Tbl Job
  blocks : Tbl Block
  clusters : Tbl Cluster
  waves : Tbl Wave
  inflight : Tbl Access
  updates : List Update
  known : Tbl (List (BitVec 16))
  applied : Tbl (List (BitVec 16))
  /-- the SEQ of each die's latest release update (R151) -/
  relSeq : Tbl (BitVec 16)
  /-- the last-level TLB of each die (R127) -/
  dieTlb : Tbl (List TlbEntry)
  outReqs : Tbl OutReq
  /-- answers that engines and the part have had from other packages and not yet used (R154) -/
  engGot : List EngAnswer
  outSeq : Tbl (BitVec 32)
  inSeen : List (Nat × BitVec 32 × List Byte)
  imports : Tbl (DWord × DWord)
  /-- the keys of the pairs in which this package sends (R425): the number of the key and its flit counter -/
  pairKeys : Tbl (Nat × Nat)
  /-- the keys of the pairs in which another package sends to this one -/
  pairKeysIn : Tbl (Nat × Nat)
  leases : Tbl Lease
  invals : Tbl Inval
  migrations : Tbl Migration
  saddles : Tbl Link
  passLinks : Tbl Link
  takes : List (Nat × Nat)
  claims : List Nat
  window : Tbl Nat
  ide : Tbl IdeStream
  spdm : Spdm
  reply : Reply
  /-- what VD_EXPORT wrote, with the state that its pages hold beside the record: source, record and image -/
  exports : List (Nat × List Byte × Image)
  pkgCe : List LastCe
deriving DecidableEq, Repr

/-! ## Values at reset -/

/-- A matrix engine last held by another block reads so (R314, R123). -/
def Engine.fresh : Engine :=
  { acc := [], accPoison := [], s32 := false, valid := true, nan := false, inf := false, sat := false, ksteps := 0,
    holder := none, lastHolder := none, queue := [] }

/-- A code-table bank at reset: zero (R93). -/
def Bank.zero : Bank := { entries := [], owner := none }

/-- A core at reset: 64 KiB of stash (R134), everything else empty (R123). -/
def Core.fresh : Core :=
  { stashKib := 64, convert := none, l1 := [], icache := [], ccache := [], tlb := [], sb := [], cmds := [],
    engine := Engine.fresh, bank0 := Bank.zero, bank1 := Bank.zero, current := false, gen := [], stale := [], owed := [],
    deficit := [], rr := 0, handler := none }

/-- A glen before step 6 of bring-up sets it FREE (R438): SCRUBBING, since step 1 wipes it (DESIGN CHOICE, log 2). -/
def Glen.fresh : Glen := { st := 2, vale := none, covq := [], encq := [], frames := [], epoch := [], owed := [], l2 := [], tlb := [] }

/-- A queue with nothing fetched. -/
def Queue.fresh : Queue :=
  { card := [], number := 0, addr := 0, fromRepeat := false, stage := .none, running := [], prev := none,
    episodes := [], parents := [], linkBad := none }

/-- A virtual device at reset (R383). -/
def Vd.fresh : Vd :=
  { vdc := [], weightNow := 0, capNow := 0, boostNow := 0, aperiodNow := 0, usedU := 0, capacity := 0,
    nextBoundary := 0, elapsed := 0, parked := false, boostEnd := none, idleSince := none, queues := [], stats := [],
    saves := [], ckseq := 0, cut := none, firstCut := none, image := none, logged := [], undoHead := 0, undoStart := 0,
    undoList := [], imaged := [], rolling := false, rollRec := none, migrated := [], dirty := none, plugin := none, stopped := false, stopReq := none,
    vdStopped := false, spaceEp := false, ckspaceEp := false, episodes := [], heldReads := [] }

/-- A command or request block at reset (R418). -/
def CmdBlock.fresh : CmdBlock := { op := 0, vd := 0, busy := false, result := 0, args := [0, 0, 0, 0, 0, 0], held := [] }

/-- A TDI at reset (R432). -/
def Tdi.fresh : Tdi := { st := .unlocked, session := 0, stream := 0, nonce := 0, leases := [], wiping := false }

/-- A barrier at placement (R262). -/
def Barrier.fresh : Barrier :=
  { phase := 0, count := false, expect := 0, seq := false, arrived := 0, expSect := 0, sect := 0, armed := false }

/-- A link that is up (R518). -/
def Link.fresh : Link := { up := true, retraining := false, replays := [], since := 0 }

/-- The SPDM responder before GET_VERSION (R426). -/
def Spdm.fresh : Spdm := { version := false, caps := false, algs := false, sessions := [] }

/-- The machine right after reset (R123, R438, R439, R443): memory and every SRAM zero, the TOD counter at 0, bring-up
RUNNING at step 1. Where the spec gives no value the assumption log names the one chosen. -/
def State.reset : State :=
  { agenda := [], clock := none, cur := .none, defer := false, freeCount := 0, turns := 0, sinceTick := 0, nextId := 1, tod := 0, bootStat := 0, failStep := 0,
    bootStep := 1, lifecycle := 2, lcStat := 0, lcReq := 0, lcPending := none, lcToken := 0, stackGib := 48, pkgId := 0,
    hlWidth := 4, hlRate := 6, tsync := 0, timeMaster := 0, steer := 0, trayRead := false, compared := 0, pfBar := 0, bars := [], vfBars := [], passUp := 0xFFFFFFFFF, plimit := 15000, ilimit := 20000,
    clkNow := 2400, power := 0, temps := [], alarm := 0, errBase := 0, errCount := 0, errHead := 0,
    pf := CmdBlock.fresh, pageCopy := none, msix := [], halted := false, rootGone := false, identity := false, revoked := 0, svnMin := [], measured := [],
    certSlots := 1, mem := [], poison := [], vales := [], glens := [], cores := [], jobs := [], blocks := [],
    clusters := [], waves := [], inflight := [], updates := [], known := [], applied := [], relSeq := [], dieTlb := [], outReqs := [], engGot := [],
    outSeq := [], inSeen := [], imports := [], pairKeys := [], pairKeysIn := [], leases := [], invals := [], migrations := [],
    saddles := [], passLinks := [], takes := [], claims := [], window := [], ide := [],
    spdm := Spdm.fresh, reply := .none, exports := [], pkgCe := [] }

end Sys2Proof.Machine
end

