-- ==== Sys2Proof/Machine/Mem.lean ====
section
/-! DEFINITION. Physical memory (R97 to R99), poison (R514), the L2 slices (R114 to R117, R121), the undo log (R408), dirty
tracking (R436) and the page-table walks of both stages (R124 to R126, R503). -/
namespace Sys2Proof.Machine

/-- Takes a fresh identifier. -/
def State.fresh (s : State) : Nat × State := (s.nextId, { s with nextId := s.nextId + 1 })

/-- A free word (R11), and the state with the counter advanced. -/
def State.freeW (s : State) : Word × State := (Config.freeWord s.freeCount, { s with freeCount := s.freeCount + 1 })

/-! ## Bytes -/

/-- A byte of local memory at a canonical key; an unlisted byte reads zero (R123). -/
def memByte (s : State) (k : Nat) : Byte := Tbl.cell 0 s.mem k

/-- n bytes from a key. -/
def memBytes (s : State) (k n : Nat) : List Byte := (natsFrom k n).map (memByte s)

/-- The number n bytes at a key hold (R7). -/
def memNat (s : State) (k n : Nat) : Nat := natLE (memBytes s k n)

/-- Writes a byte, listing no entry that reads as an unlisted one does. -/
def setMemByte (m : List Host.Cell) (k : Nat) (b : Byte) : List Host.Cell := Tbl.setCell 0 m k b

/-- Writes bytes from a key up. -/
def setMemBytes (m : List Host.Cell) : Nat → List Byte → List Host.Cell
  | _, [] => m
  | k, b :: t => setMemBytes (setMemByte m k b) (k + 1) t

/-- Numbers of the units of size u that n bytes from k touch. -/
def unitsOf (u k n : Nat) : List Nat := if n = 0 then [] else natsFrom (k / u) ((k + n - 1) / u + 1 - k / u)

/-- Whether n bytes from k cover unit j of size u whole. -/
def coversUnit (u k n j : Nat) : Bool := decide (k ≤ j * u) && decide (j * u + u ≤ k + n)

/-- Poisoned sectors after n bytes from k are written: one written whole loses its poison (R514). -/
def poisonAfter (p : List Nat) (k n : Nat) : List Nat := if p = [] then [] else p.filter (fun j => !coversUnit 32 k n j)

/-- Whether any of n bytes from k lies in a poisoned sector (R514). -/
def memPoisoned (s : State) (k n : Nat) : Bool :=
  !s.poison.isEmpty && (unitsOf 32 k n).any (fun j => s.poison.contains j)

/-- Marks sectors poisoned (R514). -/
def poisonSectors (s : State) (js : List Nat) : State :=
  { s with poison := js.foldl (fun p j => insertNat j p) s.poison }

/-! ## Lookups -/

/-- A vale, if it exists. -/
def State.vale? (s : State) (v : Nat) : Option Vale := Tbl.get s.vales v

/-- A virtual device, if its vale exists and lists it. -/
def State.vd? (s : State) (v d : Nat) : Option Vd := (s.vale? v).bind (fun x => Tbl.get x.vds d)

/-- Changes a vale. -/
def State.modVale (s : State) (v : Nat) (f : Vale → Vale) : State := { s with vales := Tbl.modify s.vales v f }

/-- Changes a virtual device. -/
def State.modVd (s : State) (v d : Nat) (f : Vd → Vd) : State :=
  s.modVale v (fun x => { x with vds := Tbl.modify x.vds d f })

/-- Changes a core. -/
def State.modCore (s : State) (c : Nat) (f : Core → Core) : State :=
  { s with cores := Tbl.set s.cores c (f ((Tbl.get s.cores c).getD Core.fresh)) }

/-- A core's state. -/
def State.core? (s : State) (c : Nat) : Core := (Tbl.get s.cores c).getD Core.fresh

/-- Changes a glen. -/
def State.modGlen (s : State) (g : Nat) (f : Glen → Glen) : State :=
  { s with glens := Tbl.set s.glens g (f ((Tbl.get s.glens g).getD Glen.fresh)) }

/-- A glen's state. -/
def State.glen? (s : State) (g : Nat) : Glen := (Tbl.get s.glens g).getD Glen.fresh

/-- Changes a wave. -/
def State.modWave (s : State) (w : Nat) (f : Wave → Wave) : State := { s with waves := Tbl.modify s.waves w f }

/-- Changes a block. -/
def State.modBlock (s : State) (b : Nat) (f : Block → Block) : State := { s with blocks := Tbl.modify s.blocks b f }

/-- Changes a job. -/
def State.modJob (s : State) (j : Nat) (f : Job → Job) : State := { s with jobs := Tbl.modify s.jobs j f }

/-- A 32-bit word of VDC_n (R383). -/
def Vd.reg (d : Vd) (off : Nat) : Nat := (Tbl.cell (0 : Word) d.vdc (off / 4)).toNat

/-- A 64-bit field of VDC_n (R383). -/
def Vd.reg64 (d : Vd) (off : Nat) : Nat := d.reg off + 2 ^ 32 * d.reg (off + 4)

/-- EN (R383). -/
def Vd.en (d : Vd) : Bool := bitOf (d.reg 0) 0
/-- ARM (R383). -/
def Vd.arm (d : Vd) : Bool := bitOf (d.reg 0) 1
/-- QCBBASE (R383). -/
def Vd.qcbBase (d : Vd) : Nat := d.reg64 0x40

/-- Bytes of memory per glen (R98, R99). -/
def State.glenBytes (s : State) : Nat := s.stackGib.toNat / 8 * 2 ^ 30

/-- The key of a (vale, VD) pair in per-core and per-glen tables. -/
def vdKey (vale vd : Nat) : Nat := 16 * vale + vd

/-- The die of a glen (R26). -/
def dieOfGlen (g : Nat) : Nat := g / 32
/-- The glen of a core (R26): core 4,096 + g is the launch scalar unit of the vale whose primary glen is g (R54). -/
def glenOfCore (c : Nat) : Nat := if c < 4096 then c / 16 else c - 4096
/-- The die of a core (R26). -/
def dieOfCore (c : Nat) : Nat := dieOfGlen (glenOfCore c)
/-- The number the launch scalar unit of a vale goes by among the cores: it has caches of its own (R54). -/
def Vale.scalarUnit (v : Vale) : Nat := 4096 + v.first
/-- The home die of a memory key (R98). -/
def dieOfKey (k : Nat) : Nat := dieOfGlen (k / 2 ^ 33)

/-! ## The L2 slices -/

/-- The words of n bytes a line holds. -/
def lineWords (n : Nat) (bs : List Byte) : List Nat := (natsFrom 0 (128 / n)).map (fun i => natLE ((bs.drop (n * i)).take n))

/-- Whether every word of n bytes minus word 0, modulo its width, fits m bytes signed (R117). -/
def deltasFit (n m : Nat) (ws : List Nat) : Bool :=
  ws.all (fun x =>
    let d := (x + 2 ^ (8 * n) - ws.headD 0) % 2 ^ (8 * n)
    decide (d < 2 ^ (8 * m - 1)) || decide (2 ^ (8 * n) - 2 ^ (8 * m - 1) ≤ d))

/-- The smallest encoding that fits a line of 128 bytes, and its base (R117): of B8D2 and B4D1, which take the same room, B8D2, the first in the
table (DESIGN CHOICE, log 136). -/
def l2Encode (bs : List Byte) : BitVec 3 × DWord :=
  let d := lineWords 8 bs
  let w := lineWords 4 bs
  let base := BitVec.ofNat 64 (d.headD 0)
  if d.all (fun x => decide (x = 0)) then (1, 0)
  else if d.all (fun x => decide (x = d.headD 0)) then (2, base)
  else if deltasFit 8 1 d then (3, base)
  else if deltasFit 8 2 d then (4, base)
  else if deltasFit 4 1 w then (5, BitVec.ofNat 64 (w.headD 0))
  else if deltasFit 4 2 w then (6, BitVec.ofNat 64 (w.headD 0))
  else (0, 0)

/-- The set of a line in its slice (R115; which lines share a set the manual leaves open, log 84). -/
def l2Set (line : Nat) : Nat := line % 1024

/-- The glen whose slice is a line's home (R98, R115). -/
def glenOfLine (line : Nat) : Nat := line / 2 ^ 26

/-- Half slots a line takes (R117). -/
def L2Line.size (l : L2Line) : Nat := if l.enc = 0 then 2 else 1

/-- Whether a line's epoch is its VD's current one (R121). -/
def l2Live (g : Glen) (l : L2Line) : Bool := decide ((Tbl.get g.epoch (vdKey l.vale l.vd)).getD 0 = l.epoch)

/-- The line of a number that a slice may return (R121). -/
def l2Find (g : Glen) (line : Nat) : Option L2Line := g.l2.find? (fun l => decide (l.line = line) && l2Live g l)

/-- Whether a way of a set has room for some half slots: a slot holds two (R115, R117). -/
def l2Fits (ls : List L2Line) (set way need : Nat) : Bool :=
  decide (((ls.filter (fun l => decide (l2Set l.line = set) && decide (l.way = way))).map L2Line.size).foldl (· + ·) need ≤ 2)

/-- A line with its encoding for the bytes it now holds (R117): only a whole line that may be compressed is. -/
def L2Line.encode (l : L2Line) (bs : List Byte) : L2Line :=
  if l.valid = 0xF && !l.nc then { l with enc := (l2Encode bs).1, base := (l2Encode bs).2 } else { l with enc := 0, base := 0 }

/-- A cached line once bytes from k up are written to HBM4 and to the copy: what HBM4 holds behind it follows, and it is encoded anew. -/
def L2Line.patch (mem : List Host.Cell) (k : Nat) (bs : List Byte) (l : L2Line) : L2Line :=
  if k < 128 * l.line + 128 && decide (128 * l.line < k + bs.length) then
    { l with old := if l.old = [] then [] else (natsFrom 0 128).map (fun i =>
        let a := 128 * l.line + i
        if k ≤ a && decide (a < k + bs.length) then bs.getD (a - k) 0 else l.old.getD i 0) }.encode
      ((natsFrom (128 * l.line) 128).map (fun a => Tbl.cell 0 mem a))
  else l

/-- Writes bytes to HBM4 itself and to any copy an L2 slice holds (R117): a write of the part that no VD's line carries. -/
def writeMem (s : State) (k : Nat) (bs : List Byte) : State :=
  { s with
    mem := setMemBytes s.mem k bs
    poison := poisonAfter s.poison k bs.length
    glens := Tbl.mapVals (fun _ g => if g.l2 = [] then g else { g with l2 := g.l2.map (L2Line.patch (setMemBytes s.mem k bs) k bs) }) s.glens }

/-- How soon a line leaves (R114, R121): stale lines and lines of stream accesses first, keep lines last. -/
def l2Rank (g : Glen) (l : L2Line) : Nat := if !l2Live g l then 0 else if l.hint = 1 then 1 else if l.hint = 2 then 3 else 2

/-- The line of a set that leaves next, among the ways of a mask (R114, R116): of equals the one unused longest. -/
def l2Victim (g : Glen) (set mask : Nat) : Option L2Line :=
  let c := g.l2.filter (fun l => decide (l2Set l.line = set) && bitOf mask l.way)
  let low := (c.map (l2Rank g)).foldl min 4
  (c.filter (fun l => decide (l2Rank g l = low))).getLast?

/-- Finds a way of a mask for a line, lines leaving until one has room (R116): a line that leaves is written to memory, so the
line as served does not change. -/
def l2Room (set mask need : Nat) : Nat → Glen → Option (Nat × Glen)
  | 0, _ => none
  | fuel + 1, g =>
    match (natsFrom 0 24).find? (fun w => bitOf mask w && l2Fits g.l2 set w need) with
    | some w => some (w, g)
    | none => match l2Victim g set mask with
      | none => none
      | some v => l2Room set mask need fuel { g with l2 := g.l2.erase v }

/-- The L2 way mask of a VD (R383 WAYS, R116). -/
def wayMask (s : State) (vale vd : Nat) : Nat := ((s.vd? vale vd).map (fun d => d.reg 0x0C % 2 ^ 24)).getD 0

/-- What a request brings to a slice: its VD, hint, whether its page is NC, and whether it writes (R114 to R117). -/
structure L2Req where
  vale : Nat
  vd : Nat
  hint : BitVec 2
  nc : Bool
  write : Bool
deriving DecidableEq, Repr

/-- A line after a request used some of its sectors; `old` is what HBM4 held before a first write. A hit keeps the mark the line was
allocated under, and a keep access marks it keep (R114). -/
def L2Line.use (l : L2Line) (r : L2Req) (epoch : BitVec 4) (sectors : BitVec 4) (old bs : List Byte) : L2Line :=
  let l := { l with valid := l.valid ||| sectors, nc := l.nc || r.nc, hint := if r.hint = 2 then 2 else l.hint }
  let l := if r.write then
      { l with vale := r.vale, vd := r.vd, epoch := epoch, dirty := l.dirty ||| sectors, old := if l.dirty = 0 then old else l.old }
    else l
  l.encode bs

/-- A request reaches a line's home slice (R114 to R117): a hit is used where it stands; a miss allocates in the VD's way
mask, and without a way is served from memory. A hit line that no longer fits its half slot takes a slot as a miss does. -/
def l2Use (s : State) (r : L2Req) (line : Nat) (sectors : BitVec 4) (old : List Byte) : State :=
  let n := glenOfLine line
  let g := s.glen? n
  let bs := memBytes s (128 * line) 128
  let epoch := (Tbl.get g.epoch (vdKey r.vale r.vd)).getD 0
  match l2Find g line with
  | some l =>
    let rest := g.l2.erase l
    let l := l.use r epoch sectors old bs
    if l2Fits rest (l2Set line) l.way l.size then s.modGlen n (fun g => { g with l2 := l :: rest })
    else match l2Room (l2Set line) (wayMask s r.vale r.vd ||| 2 ^ l.way) l.size 49 { g with l2 := rest } with
      | none => s.modGlen n (fun g => { g with l2 := rest })
      | some (w, g) => s.modGlen n (fun _ => { g with l2 := { l with way := w } :: g.l2 })
  | none =>
    let l : L2Line := { line := line, vale := r.vale, vd := r.vd, epoch := epoch, way := 0, valid := 0, dirty := 0, enc := 0, base := 0
                        hint := if r.hint = 3 then 0 else r.hint, nc := r.nc, old := [] }
    let l := l.use r epoch sectors old bs
    match l2Room (l2Set line) (wayMask s r.vale r.vd) l.size 49 g with
    | none => s
    | some (w, g) => s.modGlen n (fun _ => { g with l2 := { l with way := w } :: g.l2 })

/-- The sectors of a line that n bytes from k touch. -/
def lineSectors (k n line : Nat) : BitVec 4 :=
  (unitsOf 32 k n).foldl (fun m j => if j / 4 = line then m ||| BitVec.ofNat 4 (2 ^ (j % 4)) else m) 0

/-- A read of n bytes from k at their home slices, for a VD (R114 to R117); a DEVICE page is not cached (R126). -/
def l2Read (s : State) (vale vd k n : Nat) (hint : BitVec 2) (nc dev : Bool) : State :=
  if dev then s else (unitsOf 128 k n).foldl (fun s j => l2Use s ⟨vale, vd, hint, nc, false⟩ j (lineSectors k n j) []) s

/-- Writes bytes for a VD at their home slices (R114 to R117). -/
def l2Write (s : State) (vale vd k : Nat) (bs : List Byte) (hint : BitVec 2) (nc dev : Bool) : State :=
  if dev then writeMem s k bs
  else (unitsOf 128 k bs.length).foldl (fun t j => l2Use t ⟨vale, vd, hint, nc, true⟩ j (lineSectors k bs.length j) (memBytes s (128 * j) 128))
    { s with mem := setMemBytes s.mem k bs, poison := poisonAfter s.poison k bs.length }

/-- Writes back a VD's dirty lines of a slice, which stay valid (R406 step 2). -/
def l2Clean (g : Glen) (vale vd : Nat) : Glen :=
  { g with l2 := g.l2.map (fun l => if l.vale = vale && decide (l.vd = vd) then { l with dirty := 0, old := [] } else l) }

/-- Memory once a line is dropped without being written (R121): its dirty sectors are what HBM4 holds. -/
def dropDirty (m : List Host.Cell) (l : L2Line) : List Host.Cell :=
  (natsFrom 0 4).foldl (fun m j =>
    if l.dirty.getLsbD j then setMemBytes m (128 * l.line + 32 * j) ((l.old.drop (32 * j)).take 32) else m) m

/-! ## Dirty rows -/

/-- The byte a mapped row of a core that passes a test holds modified (R107, R108), if one does. -/
def rowByte (s : State) (p : Nat → Bool) (k : Nat) : Option Byte :=
  s.blocks.findSome? (fun e => if p e.2.core then e.2.rows.findSome? (fun r =>
    if r.2.line = k / 128 then (match r.2.st with
      | .mappedDirty m => if m.getLsbD (k % 128 / 32) then some (Tbl.cell 0 e.2.stash (128 * r.1 + k % 128)) else none
      | _ => none) else none) else none)

/-- A byte as its home answers it (R108): a dirty row that owns the line gives it up first. -/
def homeByte (s : State) (k : Nat) : Byte := (rowByte s (fun _ => true) k).getD (memByte s k)

/-- The number n bytes at a key hold as their home answers them. -/
def homeNat (s : State) (k n : Nat) : Nat := natLE ((natsFrom k n).map (homeByte s))

/-! ## Links -/

/-- The column of a die in the two rows of four (R21). -/
def dieColumn (d : Nat) : Nat := if d < 4 then d else 7 - d

/-- The saddles on the route from one die to another, numbered in the order of R22: along the row to the destination's
column, then across (R23). -/
def saddleRoute (a b : Nat) : List Nat :=
  let x := dieColumn a
  let y := dieColumn b
  let row := (natsFrom (min x y) (max x y - min x y)).map (fun c => if a < 4 then c else 6 - c)
  row ++ (if decide (a < 4) == decide (b < 4) then [] else [if y = 3 then 3 else 7 + y])

/-- Whether traffic between two dies waits for a saddle that retrains (R518). -/
def routeStalled (s : State) (a b : Nat) : Bool :=
  (saddleRoute a b).any (fun n => match Tbl.get s.saddles n with
    | some l => l.retraining
    | none => false)

/-- The pass links of a die (R24, log 50): numbered in die order. -/
def dieLinks (d : Nat) : List Nat :=
  let base := [0, 5, 9, 13, 18, 23, 27, 31, 36]
  natsFrom (base.getD d 36) (base.getD (d + 1) 36 - base.getD d 36)

/-- The pass link that carries a die's traffic for a package (R422): link p mod u of those up; 36 when none is. -/
def linkFor (s : State) (die pkg : Nat) : Nat :=
  let up := (dieLinks die).filter (fun i => s.passUp.getLsbD i)
  if up = [] then 36 else up.getD (pkg % up.length) 36

/-! ## Physical addresses -/

/-- Bit 46 down of a physical address: the local offset (R97). -/
def localOff (pa : Nat) : Nat := pa % 2 ^ 47

/-- The canonical key, the direct-window offset, of a physical address in populated local memory, whatever vale holds
it (R98, R99). -/
def keyOf (s : State) (pa : Nat) : Option Nat :=
  let x := localOff pa
  if pa / 2 ^ 47 ≠ s.pkgId.toNat then none
  else if x < 2 ^ 41 then (if x % 2 ^ 33 < s.glenBytes then some x else none)
  else if x / 2 ^ 41 = 2 then
    let g0 := x / 2 ^ 33 % 256
    match Tbl.first (fun _ v => decide (v.first ≤ g0) && decide (g0 < v.first + v.n)) s.vales with
    | none => none
    | some (_, v) =>
      let y := x - 2 ^ 42 - v.first * 2 ^ 33
      if g0 = v.first || decide (y < v.n * s.glenBytes) then
        (if y < v.n * s.glenBytes then
          let stripe := y / 4096
          some ((v.first + stripe % v.n) * 2 ^ 33 + stripe / v.n * 4096 + y % 4096)
        else none)
      else none
  else none

/-- Whether a vale holds the glen of a key (R503 step 4). -/
def valeHolds (v : Vale) (k : Nat) : Bool := decide (v.first ≤ k / 2 ^ 33) && decide (k / 2 ^ 33 < v.first + v.n)

/-- Whether a glen is FENCED: it is in no vale, whatever range named it (R29). -/
def glenFenced (s : State) (g : Nat) : Bool := decide ((s.glen? g).st = 3)

/-- Where a physical address leads for a vale, or none when step 4 of R503 fails. -/
def place (s : State) (v : Vale) (pa : Nat) : Option Target :=
  if pa / 2 ^ 47 ≠ s.pkgId.toNat then (if pa / 2 ^ 47 < 4608 then some (.remote pa) else none)
  else if 2 ^ 46 ≤ localOff pa then some (.control (localOff pa))
  else match keyOf s pa with
    | none => none
    | some k => if valeHolds v k && !glenFenced s (k / 2 ^ 33) then some (.mem k) else none

/-! ## Page tables -/

/-- One level of a table: its number, and the lowest bit and count of its index (R125). -/
def tableLevels : List (Nat × Nat × Nat) := [(0, 41, 16), (1, 26, 15), (2, 21, 5), (3, 16, 5)]

/-- A leaf found by a walk: its entry's key, output page address, page size as a power of two, and permissions. -/
structure Leaf where
  entry : Nat
  out : Nat
  lg : Nat
  w : Bool
  x : Bool
  mt : Nat
  nc : Bool
  d : Bool
deriving DecidableEq, Repr

/-- An entry as one level reads it (R126): a table, a leaf, absent, or malformed. -/
inductive Entry where
  | table (next : Nat)
  | leaf (l : Leaf)
  | absent
  | bad
deriving DecidableEq, Repr

/-- Reads an entry's fields (R126); `stage1` forbids output bits [59:47]. -/
def readEntry (e key level lo : Nat) (stage1 : Bool) : Entry :=
  if !bitOf e 0 then .absent
  else if e / 2 ^ 60 ≠ 0 then .bad
  else if stage1 && decide (bitsOf e 59 47 ≠ 0) then .bad
  else if bitOf e 1 then
    (if level = 3 || decide (bitsOf e 11 2 ≠ 0) then .bad else .table (bitsOf e 59 12 * 4096))
  else if level = 0 || decide (bitsOf e 15 12 ≠ 0) || decide (bitsOf e 7 6 = 3) then .bad
  else
    let oa := bitsOf e 59 16 * 65536
    if oa % 2 ^ lo ≠ 0 then .bad
    else .leaf ⟨key, oa, lo, bitOf e 2, bitOf e 3, bitsOf e 7 6, bitOf e 8, bitOf e 5⟩

/-- What a walk comes to: a leaf or a reason of R503, the leaves its own table reads used, and the keys of the entries it read, each with
whether its page is NC. -/
structure Walk where
  res : Except Nat Leaf
  leaves : List Leaf
  keys : List (Nat × Bool)

/-- The stage-2 walk of an IPA from a table's physical address (R124, R125). Entries are read as their homes answer (R127). -/
def walk2 (s : State) (ipa : Nat) : List (Nat × Nat × Nat) → Nat → Walk
  | [], _ => ⟨.error 4, [], []⟩
  | (lv, lo, n) :: t, tbl =>
    match keyOf s (tbl + 8 * bitsOf ipa (lo + n - 1) lo) with
    | none => ⟨.error 4, [], []⟩
    | some k =>
      match readEntry (homeNat s k 8) k lv lo false with
      | .absent => ⟨.error 3, [], [(k, false)]⟩
      | .bad => ⟨.error 4, [], [(k, false)]⟩
      | .table next =>
        if (keyOf s next).isSome then let r := walk2 s ipa t next; { r with keys := (k, false) :: r.keys } else ⟨.error 4, [], [(k, false)]⟩
      | .leaf l => ⟨.ok l, [], [(k, false)]⟩

/-- The stage-2 walk of an IPA for a vale; a root of 0 names no table (R124). -/
def stage2Walk (s : State) (v : Vale) (ipa : Nat) : Walk :=
  if v.root = 0 then ⟨.error 3, [], []⟩ else walk2 s ipa tableLevels v.root.toNat

/-- Stage 2 of an IPA for a vale (R124). -/
def stage2 (s : State) (v : Vale) (ipa : Nat) : Except Nat Leaf := (stage2Walk s v ipa).res

/-- The physical address of an IPA under its leaf. -/
def Leaf.addr (l : Leaf) (a : Nat) : Nat := l.out + a % 2 ^ l.lg

/-- The memory key of an IPA of a vale, by stage 2 alone: for the part's own accesses at IPAs (R383, R461). -/
def ipaKey (s : State) (v : Vale) (ipa : Nat) (write : Bool) : Except Nat Nat :=
  match stage2 s v ipa with
  | .error r => .error r
  | .ok l =>
    if write && !l.w then .error 7
    else match place s v (l.addr ipa) with
      | some (.mem k) => .ok k
      | _ => .error 6

/-- The stage-1 walk of a virtual address (R124): the leaf, with every table read translated by stage 2, and the stage-2
leaves those reads used. A root or table that is not aligned to its size is indexed from where it stands (log 87). -/
def walk1 (s : State) (v : Vale) (va : Nat) : List (Nat × Nat × Nat) → Nat → Walk
  | [], _ => ⟨.error 2, [], []⟩
  | (lv, lo, n) :: t, tbl =>
    let ea := tbl + 8 * bitsOf va (lo + n - 1) lo
    let w := stage2Walk s v ea
    match w.res with
    | .error r => ⟨.error r, [], w.keys⟩
    | .ok l =>
      match place s v (l.addr ea) with
      | some (.mem k) =>
        match readEntry (homeNat s k 8) k lv lo true with
        | .absent => ⟨.error 1, [l], w.keys ++ [(k, l.nc)]⟩
        | .bad => ⟨.error 2, [l], w.keys ++ [(k, l.nc)]⟩
        | .table next => let r := walk1 s v va t next; ⟨r.res, l :: r.leaves, w.keys ++ (k, l.nc) :: r.keys⟩
        | .leaf x => ⟨.ok x, [l], w.keys ++ [(k, l.nc)]⟩
      | _ => ⟨.error 6, [], w.keys⟩

/-- Stage 1 of a virtual address, with the stage-2 leaves of its table reads; a root of 0 names no table (R124). -/
def stage1Walk (s : State) (v : Vale) (d : Vd) (va : Nat) : Walk :=
  if d.reg64 0x10 = 0 then ⟨.error 1, [], []⟩ else walk1 s v va tableLevels (d.reg64 0x10)

/-- Stage 1 of a virtual address (R124). -/
def stage1 (s : State) (v : Vale) (d : Vd) (va : Nat) : Except Nat Leaf := (stage1Walk s v d va).res

/-- Sets A, and D for a write, in a leaf entry, by an atomic OR at its home (R126). -/
def setAD (s : State) (l : Leaf) (write : Bool) : State :=
  let e := homeNat s l.entry 8
  let e' := e ||| (if write then 0x30 else 0x10)
  if e = e' then s else writeMem s l.entry (bytesLE 8 e')

/-! ## Accesses at IPAs by the part -/

/-- The keys of n bytes from an IPA, piece by piece of 4,096 bytes (a page or stripe never splits one): start and
length of each. -/
def ipaPieces (s : State) (v : Vale) (write : Bool) : Nat → Nat → Nat → Except Nat (List (Nat × Nat))
  | 0, _, n => if n = 0 then .ok [] else .error 6
  | fuel + 1, ipa, n =>
    if n = 0 then .ok []
    else
      let m := min n (4096 - ipa % 4096)
      match ipaKey s v ipa write with
      | .error r => .error r
      | .ok k => match ipaPieces s v write fuel (ipa + m) (n - m) with
        | .error r => .error r
        | .ok t => .ok ((k, m) :: t)

/-- Writes pieces of a byte string. -/
def writePieces (s : State) : List (Nat × Nat) → List Byte → State
  | [], _ => s
  | (k, n) :: t, bs => writePieces (writeMem s k (bs.take n)) t (bs.drop n)

/-! ## Writes that cross saddles at once -/

/-- KNOWN or APPLIED of a die for another (R151). -/
def vecGet (t : Tbl (List (BitVec 16))) (die i : Nat) : BitVec 16 := ((Tbl.get t die).getD []).getD i 0

/-- Sets an entry of a die's vector. -/
def vecSet (t : Tbl (List (BitVec 16))) (die i : Nat) (x : BitVec 16) : Tbl (List (BitVec 16)) :=
  Tbl.set t die ((natsFrom 0 8).map (fun j => if j = i then x else vecGet t die j))

/-- Serial comparison modulo 2^16: a is at or after b (R151). -/
def serialGe (a b : BitVec 16) : Bool := decide ((a - b).toNat < 2 ^ 15)

/-- VC_ORIGIN of an update a die sends now (R151): SEQ - 1 for a release, else the SEQ of its latest release update; one so old
that serial comparison would misread it counts as applied, which it is (DEDUCED, log 103). -/
def ownVc (s : State) (die : Nat) (sq : BitVec 16) (rel : Bool) : BitVec 16 :=
  let last := Tbl.cell 0 s.relSeq die
  if rel then sq - 1 else if serialGe sq last then last else vecGet s.applied die die

/-- The vector of an update a die sends now (R151). -/
def vcNow (s : State) (die : Nat) (rel : Bool) : List (BitVec 16) :=
  (natsFrom 0 8).map (fun j => if j = die then ownVc s die (vecGet s.known die die + 1) rel else vecGet s.known die j)

/-- Takes the next SEQ of a die (R151). -/
def takeSeq (s : State) (die : Nat) (rel : Bool) : BitVec 16 × State :=
  let sq := vecGet s.known die die + 1
  (sq, { s with known := vecSet s.known die die sq, relSeq := if rel then Tbl.setCell 0 s.relSeq die sq else s.relSeq })

/-- A crossing write performed at once: it has its SEQ and its vector, and is applied; its notice is still to come (R151). -/
def crossNow (s : State) (die k : Nat) (rel : Bool) : State :=
  if dieOfKey k = die then s
  else
    let x := takeSeq s die rel
    let u : Update := { origin := die, seq := x.1, home := dieOfKey k, vc := vcNow s die rel, access := 0, key := k, data := [], op := .store [], applied := true }
    { x.2 with updates := s.updates ++ [u] }

/-- The part's own writes of logs and bitmaps: rows that own a line give it up first (R108), and what they wrote needs no undo record. -/
def giveUp (s : State) (line : Nat) : State :=
  s.blocks.foldl (fun s e => e.2.rows.foldl (fun s r =>
    if r.2.line ≠ line || decide (r.2.st = .mappedInvalid) then s
    else
      let m : BitVec 4 := match r.2.st with
        | .mappedDirty m => m
        | _ => 0
      let s := (natsFrom 0 4).foldl (fun s j =>
        if m.getLsbD j then
          let k := 128 * line + 32 * j
          let s := writeMem s k ((natsFrom (128 * r.1 + 32 * j) 32).map (fun i => Tbl.cell 0 e.2.stash i))
          if (natsFrom (32 * r.1 + 8 * j) 8).any (fun i => e.2.stashPoison.contains i) then poisonSectors s [4 * line + j] else s
        else s) s
      let s := if m = 0 then s else crossNow s (dieOfCore e.2.core) (128 * line) true
      s.modBlock e.1 (fun b => { b with rows := Tbl.set b.rows r.1 { r.2 with st := .mappedInvalid } })) s) s

/-- Writes bytes of a log or bitmap at a key of local memory. -/
def writeLog (s : State) (k : Nat) (bs : List Byte) : State := writeMem ((unitsOf 128 k bs.length).foldl giveUp s) k bs

/-- Writes pieces of a byte string of a log. -/
def writeLogs (s : State) : List (Nat × Nat) → List Byte → State
  | [], _ => s
  | (k, n) :: t, bs => writeLogs (writeLog s k (bs.take n)) t (bs.drop n)

/-- Writes bytes of the undo log at an IPA of a vale (R408); none when translation or permission fails. Poisoned bytes poison the sectors they
reach (R514). -/
def undoPut (s : State) (v : Vale) (ipa : Nat) (bs : List Byte) (bad : Bool) : Option State :=
  match ipaPieces s v true (bs.length / 4096 + 2) ipa bs.length with
  | .error _ => none
  | .ok ps =>
    let s := writeLogs s ps bs
    some (if bad then poisonSectors s (ps.flatMap (fun p => unitsOf 32 p.1 p.2)) else s)

/-! ## The undo log and dirty tracking -/

/-- The undo ring's size in bytes (R383). -/
def Vd.undoBytes (d : Vd) : Nat := d.reg 0x3C * 65536

/-- Whether a line lies in the checkpoint area or the undo log (R408): by IPA ranges of the VD. -/
def inLogAreas (d : Vd) (ipa : Nat) : Bool :=
  (decide (d.reg64 0x28 ≤ ipa) && decide (ipa < d.reg64 0x28 + d.reg 0x38 * 65536)) ||
    (decide (d.reg64 0x30 ≤ ipa) && decide (ipa < d.reg64 0x30 + d.undoBytes))

/-- Whether a write of the VD to a line needs an undo record (R408): the interval of a cut is open and the line is not
yet logged. -/
def needsUndo (d : Vd) (line : Nat) : Bool := decide (d.ckseq ≠ 0) && !d.logged.contains line

/-- Whether the undo ring has no room for one more record (R408). -/
def undoFull (d : Vd) : Bool := decide (d.undoBytes < d.undoHead - d.undoStart + 144)

/-- Names a cut, unless one is pending (R406). -/
def nameCut (d : Vd) (count : Nat) (sw : Bool) : Vd :=
  match d.cut with
  | some _ => d
  | none => { d with cut := some { count := count, switchOut := sw, halted := false, start := 0, moved := 0 } }

/-- Appends the undo record of a line (R408), at UNDOHEAD, which counts bytes from the start of the log on, the record's place being that count
modulo the ring's size (DESIGN CHOICE, log 134); what was poisoned is so in the log too (R514). At seven eighths of the ring a cut is named 64 ticks
ahead. A record whose place does not translate, or may not be written, is lost (DESIGN CHOICE, log 135). -/
def logLine (s : State) (vale vd line : Nat) : State :=
  match s.vale? vale, s.vd? vale vd with
  | some v, some d =>
    if !needsUndo d line then s
    else
      let size := max d.undoBytes 1
      let put (s : State) (o : Nat) (b : List Byte) (bad : Bool) : State :=
        let at_ := (d.undoHead + o) % size
        let n := min b.length (size - at_)
        let s := (undoPut s v (d.reg64 0x30 + at_) (b.take n) bad).getD s
        if n = b.length then s else (undoPut s v (d.reg64 0x30) (b.drop n) bad).getD s
      let old := memBytes s (line * 128) 128
      let t := put s 0 (bytesLE 8 (line * 128 + s.pkgId.toNat * 2 ^ 47) ++ bytesLE 4 d.ckseq ++ bytesLE 4 0 ++ old) false
      let s := (natsFrom 0 4).foldl (fun t j => if s.poison.contains (4 * line + j) then put t (16 + 32 * j) ((old.drop (32 * j)).take 32) true else t) t
      let d := { d with logged := insertNat line d.logged, undoList := (line, d.undoHead) :: d.undoList, undoHead := d.undoHead + 144 }
      let d := if d.undoBytes * 7 ≤ (d.undoHead - d.undoStart) * 8 then nameCut d (s.tod.toNat + 64) false else d
      s.modVd vale vd (fun _ => d)
  | _, _ => s

/-- Whether a write by the VD must wait for room in the undo log (R408). -/
def undoWaits (s : State) (vale vd k n : Nat) : Bool :=
  match s.vd? vale vd with
  | some d => undoFull d && (unitsOf 128 k n).any (needsUndo d)
  | none => false

/-- Sets the dirty bit of an IPA's page in the VD's current bitmap (R436). -/
def markDirty (s : State) (vale vd : Nat) (ipa : Option Nat) : State :=
  match (s.vd? vale vd).bind (fun d => d.dirty), ipa with
  | some (base, pages, b0, b1, cur), some a =>
    if a < base || decide (base + pages * 65536 ≤ a) then s
    else
      let i := (a - base) / 65536
      match keyOf s ((if cur then b1 else b0) + i / 8) with
      | none => s
      | some k => writeLog s k [homeByte s k ||| BitVec.ofNat 8 (2 ^ (i % 8))]
  | _, _ => s

/-- A write by an agent acting for a VD, with its hint and whether its page is NC: undo records first (R408), then the dirty
bit (R436) and the bytes at their home slices. -/
def vdStore (s : State) (vale vd : Nat) (ipa : Option Nat) (k : Nat) (bs : List Byte) (hint : BitVec 2) (nc dev : Bool) : State :=
  let areas := match s.vd? vale vd, ipa with
    | some d, some a => inLogAreas d a
    | _, _ => false
  let s := if areas || dev then s else (unitsOf 128 k bs.length).foldl (fun s j => logLine s vale vd j) s
  l2Write (markDirty s vale vd ipa) vale vd k bs hint nc dev

/-- A write by an agent acting for a VD that carries no hint (R408, R436). -/
def vdWrite (s : State) (vale vd : Nat) (ipa : Option Nat) (k : Nat) (bs : List Byte) : State :=
  vdStore s vale vd ipa k bs 0 false false

/-- Whether a key lies in a QCB of an enabled VD of the vale (R388, R503 step 7). -/
def isQcbKey (s : State) (v : Vale) (k : Nat) : Bool :=
  v.vds.any (fun e => e.2.en && [0, 1, 2, 3].any (fun i =>
    match ipaKey s v (e.2.qcbBase + 4096 * i) false with
    | .ok b => decide (b ≤ k) && decide (k < b + 4096)
    | .error _ => false))

end Sys2Proof.Machine
end

