-- ==== Sys2Proof/Machine/Coher.lean ====
section
/-! DEFINITION. Coherence of memory: updates that cross saddles (R149 to R151), mapped rows and their recall (R108), lines an engine holds
or a migration locks (R156, R130, R161), and the accesses of the part itself at intermediate addresses (R141, R155). -/
namespace Sys2Proof.Machine

/-- Whether an access is a release (R135). -/
def isRel (ord : BitVec 3) : Bool := ord = 3 || ord = 4

/-- Whether an access is an acquire (R135). -/
def isAcq (ord : BitVec 3) : Bool := ord = 2 || ord = 4

/-! ## Pages that move -/

/-- Where a key lies after a migration. -/
def movedKey (runs : List (Nat × Nat × Nat)) (k : Nat) : Nat :=
  match runs.find? (fun r => decide (r.1 ≤ k) && decide (k < r.1 + r.2.2)) with
  | some r => r.2.1 + (k - r.1)
  | none => k

/-- The key of a location while a migration switches its page (R161): the old key and the new one name one location from the moment the
leaf has been rewritten until everything that waits has moved. -/
def State.nowKey (s : State) (k : Nat) : Nat := s.migrations.foldl (fun k m => if 3 ≤ m.2.step then movedKey m.2.runs k else k) k

/-! ## Updates that cross saddles -/

/-- Whether an access reads before it writes. -/
def AccOp.isAtomic : AccOp → Bool
  | .store _ => false
  | .bad _ => false
  | _ => true

/-- Bytes an atomic acts on (R284). -/
def atomSize : AtomOp → Nat
  | .add64 => 8
  | .cas64 => 8
  | _ => 4

/-- Bytes an access touches. -/
def AccOp.size : AccOp → Nat
  | .store bs => bs.length
  | .bad bs => bs.length
  | .atom a _ _ => atomSize a
  | .add _ => 8
  | .reduce _ bs => bs.length

/-- The bytes a store carries, which its die forwards (R150). -/
def AccOp.data : AccOp → List Byte
  | .store bs => bs
  | .bad bs => bs
  | _ => []

/-- A read response carries the sender's KNOWN vector (R151). -/
def mergeKnown (s : State) (to_ from_ : Nat) : State :=
  if to_ = from_ then s
  else
    let v := (natsFrom 0 8).map (fun j =>
      if serialGe (vecGet s.known from_ j) (vecGet s.known to_ j) then vecGet s.known from_ j else vecGet s.known to_ j)
    { s with known := Tbl.set s.known to_ v }

/-- A byte of memory as an agent on a die sees it: rows of other dies give the line up (R108), updates its die has sent and that are not
yet applied are merged, but not atomics (R150), and a row of its own die that owns the line was filled with them. -/
def seenByte (s : State) (die k : Nat) : Byte :=
  let home := (rowByte s (fun c => decide (dieOfCore c ≠ die)) k).getD (memByte s k)
  let b := if s.updates = [] then home else s.updates.foldl (fun b u =>
    if !u.applied && decide (u.origin = die) && decide (s.nowKey u.key ≤ s.nowKey k) then u.data.getD (s.nowKey k - s.nowKey u.key) b else b) home
  (rowByte s (fun c => decide (dieOfCore c = die)) k).getD b

/-- n bytes as an agent on a die sees them. -/
def seenBytes (s : State) (die k n : Nat) : List Byte := (natsFrom k n).map (seenByte s die)

/-- Whether an agent on a die finds poison in n bytes (R514): in memory, with the stores its die has sent merged. -/
def diePoisoned (s : State) (die k n : Nat) : Bool :=
  (unitsOf 32 k n).any (fun j => s.updates.foldl (fun bad u =>
    if !u.applied && decide (u.origin = die) && coversUnit 32 (s.nowKey u.key) u.data.length (s.nowKey (32 * j) / 32) then
      (match u.op with
        | .bad _ => true
        | _ => false)
    else bad) (s.poison.contains j))

/-- Updates a die has sent that are not yet applied at their homes (R151). -/
def updatesPending (s : State) (die : Nat) : Bool := s.updates.any (fun u => !u.applied && decide (u.origin = die))

/-- Whether a die has 16,384 updates sent and not yet applied, and so sends nothing more (R151). -/
def updatesFull (s : State) (die : Nat) : Bool :=
  decide (16384 ≤ (s.updates.filter (fun u => decide (u.origin = die) && !u.applied)).length)

/-- An atomic from the reader's die is in flight to the line (R150). -/
def atomicInFlight (s : State) (die line : Nat) : Bool :=
  s.updates.any (fun u => !u.applied && decide (u.origin = die) && u.op.isAtomic && decide (s.nowKey u.key / 128 = s.nowKey (128 * line) / 128))

/-- Whether a home may perform at once a write that a die would send now (R151): it knows that every update the write depends on is
applied, and no update of the die to the same bytes is still to come (R143). -/
def crossReady (s : State) (die home : Nat) (rel : Bool) (k n : Nat) : Bool :=
  let vc := vcNow s die rel
  (natsFrom 0 8).all (fun i => serialGe (vecGet s.applied home i) (vc.getD i 0)) &&
    !s.updates.any (fun u => !u.applied && decide (u.origin = die) && decide (u.key < k + n) && decide (k < u.key + u.op.size))

/-- Sends an access across a saddle as a write-update (R150, R151): the same access stays in flight until it is applied.
A die with 16,384 updates not yet applied sends nothing more. -/
def pushUpdate (s : State) (id : Nat) (a : Access) (k : Nat) : State :=
  let die := dieOfCore a.core
  if updatesFull s die then s
  else
    let rel := isRel a.ord
    let x := takeSeq s die rel
    let u : Update := { origin := die, seq := x.1, home := dieOfKey k, vc := vcNow s die rel, access := id, key := k, data := a.op.data, op := a.op, applied := false }
    { x.2 with updates := s.updates ++ [u], inflight := Tbl.set s.inflight id { a with sent := true } }

/-! ## Lines held and rows recalled -/

/-- Whether a line is among those held, by the number its page has now (R161). -/
def State.holds (s : State) (held : List Nat) (line : Nat) : Bool :=
  if s.migrations = [] then held.contains line
  else held.any (fun h => decide (s.nowKey (128 * h) = s.nowKey (128 * line)))

/-- Whether an engine's command holds a line exclusively (R156). -/
def lineHeld (s : State) (line : Nat) : Bool := s.cores.any (fun c => c.2.cmds.any (fun m => s.holds m.2.held line))

/-- Whether a command holds a line, other than one whose own write an access is (R156). -/
def lineHeldBut (s : State) (acc line : Nat) : Bool :=
  s.cores.any (fun c => c.2.cmds.any (fun m => s.holds m.2.held line && !m.2.posted.contains acc))

/-- Whether a migration has locked a line (R130): a line of the old page, or of the new one until the switch is complete, so
that no store reaches the new copy while some agent may still read the old (R161). -/
def lineLocked (s : State) (line : Nat) : Bool :=
  s.migrations.any (fun m => decide (2 ≤ m.2.step) &&
    m.2.runs.any (fun r => (decide (r.1 ≤ 128 * line) && decide (128 * line < r.1 + r.2.2)) ||
      (decide (r.2.1 ≤ 128 * line) && decide (128 * line < r.2.1 + r.2.2))))

/-- The block number no access by a global address has: every row is recalled. -/
def noRow : Nat := 0

/-- Whether a row stands in a block other than the exempt row of an access, and names a line. -/
def rowNames (line blk row : Nat) (b : Nat) (r : Nat × Row) : Bool :=
  decide (r.2.line = line) && !(decide (b = blk) && decide (r.1 = row))

/-- Whether a mapped row holds a line (R107). -/
def rowOwns (s : State) (line : Nat) : Bool := s.blocks.any (fun e => e.2.rows.any (fun r => decide (r.2.line = line) && decide (r.2.st ≠ .mappedInvalid)))

/-- The key of a byte of another package: beyond every key of local memory. -/
def farKey (pa : Nat) : Nat := 2 ^ 60 + pa

/-- Whether a line is one of another package. -/
def farLine (line : Nat) : Bool := decide (2 ^ 53 ≤ line)

/-- The physical address of a line, in the direct window for local memory (R97). -/
def lineAddr (s : State) (line : Nat) : Nat := if farLine line then 128 * line - 2 ^ 60 else s.pkgId.toNat * 2 ^ 47 + 128 * line

/-- The lane of a row's write-back to another package, by which it is known. -/
def rowLane : Nat := 33

/-- Whether an access to a line of another package must wait: a mapped row owns it, or a row's write-back of it is not acknowledged (R108). -/
def farBusy (s : State) (pa : Nat) : Bool :=
  rowOwns s (farKey pa / 128) || s.inflight.any (fun e => decide (e.2.lane = rowLane) && (match e.2.target with
    | .remote x => decide (x / 128 = pa / 128)
    | _ => false))

/-- Whether a vale still holds the memory of a line (R32, R503 step 4); that of another package stays. -/
def lineThere (s : State) (vale line : Nat) : Bool :=
  farLine line || match s.vale? vale with
  | some v => valeHolds v (128 * line) && !glenFenced s (line / 2 ^ 26)
  | none => false

/-- The write of one dirty sector of a row at its home, a release at VALE scope (R108). A
line that has left the vale takes nothing (R32; DESIGN CHOICE, log 112); one of another package takes a posted write (R154). -/
def sectorBack (s : State) (b : Block) (row : Nat) (r : Row) (j : Nat) : State :=
  let k := 128 * r.line + 32 * j
  let bs := (natsFrom (128 * row + 32 * j) 32).map (fun i => Tbl.cell 0 b.stash i)
  let bad := (natsFrom (32 * row + 8 * j) 8).any (fun i => b.stashPoison.contains i)
  let ipa := r.ipa.map (fun a => a + 32 * j)
  if !lineThere s b.vale r.line then s
  else if farLine r.line then
    let (id, s) := s.fresh
    let a : Access := { wave := 0, blk := 0, job := b.job, vale := b.vale, vd := b.vd, core := b.core, pos := ⟨0, none⟩, lane := rowLane
                        target := .remote (lineAddr s r.line + 32 * j), va := 0, op := if bad then .bad bs else .store bs, ord := 3, scope := 3, ipa := ipa
                        lg := 16, nc := false, dev := false, hint := 0, isCnt := false, sent := false }
    { s with inflight := Tbl.set s.inflight id a }
  else
    let s := vdWrite s b.vale b.vd ipa k bs
    if bad then poisonSectors s [4 * r.line + j] else s

/-- Writes a mapped row's dirty sectors back to memory, all at one instant (R108), with one SEQ and vector where
they cross saddles (R151): what calls for it waits until its release may be performed
(backWaits), so that what it wrote stands at the home before any later access there. -/
def writeRowBack (s : State) (blk row : Nat) : State :=
  match Tbl.get s.blocks blk with
  | none => s
  | some b =>
    match Tbl.get b.rows row with
    | none => s
    | some r =>
      match r.st with
      | .mappedDirty m =>
        let s := (natsFrom 0 4).foldl (fun s j => if m.getLsbD j then sectorBack s b row r j else s) s
        let s := if lineThere s b.vale r.line && !farLine r.line then crossNow s (dieOfCore b.core) (128 * r.line) true else s
        s.modBlock blk (fun b => { b with rows := Tbl.set b.rows row { r with st := .mappedClean } })
      | _ => s

/-- Recalls a line from the mapped rows that own it, of blocks that pass a test, but for one row of one block (R108). -/
def recallRows (s : State) (line blk row : Nat) (p : Block → Bool) : State :=
  s.blocks.foldl (fun s e =>
    if !p e.2 then s else e.2.rows.foldl (fun s r =>
      if rowNames line blk row e.1 r && decide (r.2.st ≠ .mappedInvalid) then
        (writeRowBack s e.1 r.1).modBlock e.1 (fun b => { b with rows := Tbl.set b.rows r.1 { r.2 with st := .mappedInvalid } })
      else s) s) s

/-- Recalls a line from every mapped row that owns it, but for one row of one block (R108). -/
def recallLine (s : State) (line blk row : Nat) : State := recallRows s line blk row (fun _ => true)

/-- Recalls the lines n bytes touch from every mapped row (R108). -/
def recallBytes (s : State) (k n : Nat) : State := (unitsOf 128 k n).foldl (fun s j => recallLine s j noRow noRow) s

/-- Recalls the lines of some keys. -/
def recallKeys (s : State) (ks : List Nat) : State := ks.foldl (fun s k => recallLine s (k / 128) noRow noRow) s

/-- Sends an access across a saddle as a write-update; the rows that own the line give it up first, so that what they wrote goes ahead of it
(R108, R150). Until it is applied no row of another die is filled with the line (lineComing; DESIGN CHOICE, log 137). -/
def sendUpdate (s : State) (id : Nat) (a : Access) (k : Nat) : State := pushUpdate (recallLine s (k / 128) noRow noRow) id a k

/-- Whether an update of another die to a line is on its way. -/
def lineComing (s : State) (die line : Nat) : Bool :=
  s.updates.any (fun u => !u.applied && decide (u.origin ≠ die) && decide (s.nowKey u.key / 128 = s.nowKey (128 * line) / 128))

/-- Whether a dirty row's write-back must wait (R108): it has release order at VALE scope, so the updates its die has sent come first (R144;
DEDUCED, log 100), its undo records need room (R408), and its line may be held or locked (R156, R130). One to another package waits as the posted write it is. -/
def backWaits (s : State) (b : Block) (line : Nat) : Bool :=
  !farLine line && (undoWaits s b.vale b.vd (128 * line) 128 || lineHeld s line || lineLocked s line ||
  if dieOfKey (128 * line) = dieOfCore b.core then updatesPending s (dieOfCore b.core)
  else !crossReady s (dieOfCore b.core) (dieOfKey (128 * line)) true (128 * line) 128)

/-- Whether a recall of a line from rows of blocks that pass a test must wait (R108). -/
def recallHeld (s : State) (line blk row : Nat) (p : Block → Bool) : Bool :=
  s.blocks.any (fun e => p e.2 && e.2.rows.any (fun r => rowNames line blk row e.1 r && (match r.2.st with
    | .mappedDirty _ => true
    | _ => false)))

/-- Whether a recall of a line must wait (R108). -/
def recallWaits (s : State) (line blk row : Nat) : Bool := recallHeld s line blk row (fun b => backWaits s b line)

/-- Whether the recall that an update's application needs must wait (R108): rows of its own die were filled with it. -/
def updateHeld (s : State) (u : Update) (line : Nat) : Bool :=
  recallHeld s line noRow noRow (fun b => decide (dieOfCore b.core ≠ u.origin) && backWaits s b line)

/-- Whether a row of a block has dirty sectors whose write-back must wait (R108). -/
def rowBackWaits (s : State) (b : Block) (r : Row) : Bool :=
  match r.st with
  | .mappedDirty _ => backWaits s b r.line
  | _ => false

/-- Whether some row of a block has. -/
def rowsBackWait (s : State) (b : Block) : Bool := b.rows.any (fun e => rowBackWaits s b e.2)

/-- Whether bytes at a target's home are held back from any access now (R108, R130, R156). -/
def homeWaits (s : State) (t : Target) (n : Nat) (write : Bool) : Bool :=
  match t with
  | .mem k => (unitsOf 128 k n).any (fun j => lineHeld s j || (write && lineLocked s j) || recallWaits s j noRow noRow)
  | _ => false

/-- Whether a read by an agent on a die must wait: for its home (R108, R156), for an atomic of the die to its line (R150), or for a
saddle that retrains (R518). -/
def readWaits (s : State) (die : Nat) (t : Target) (n : Nat) : Bool :=
  homeWaits s t n false || (match t with
    | .mem k => (unitsOf 128 k n).any (atomicInFlight s die) || routeStalled s die (dieOfKey k)
    | _ => false)

/-- Reads n bytes of one line at its home for an agent on a die and a VD: mapped rows give the line up (R108), the response carries
the home's KNOWN (R151), the slice is used (R115), and the die's own updates are merged (R150). -/
def homeRead (s : State) (die vale vd k n : Nat) (hint : BitVec 2) (nc dev : Bool) : State × List Byte :=
  let s := mergeKnown (recallLine s (k / 128) noRow noRow) die (dieOfKey k)
  let s := l2Read s vale vd k n hint nc dev
  (s, seenBytes s die k n)

/-! ## Accesses at IPAs by the part -/

/-- The die whose agent makes the part's accesses for a vale: that of its primary glen (R51, R155). -/
def Vale.die (v : Vale) : Nat := dieOfGlen v.first

/-- The die whose agent makes the part's accesses for a vale, by its number. -/
def valeDie (s : State) (vale : Nat) : Nat := ((s.vale? vale).map Vale.die).getD 0

/-- Sets A, and D for a write, in the stage-2 leaf of an access at an IPA (R126); rows that own the entries read give them up. -/
def markIpa (s : State) (v : Vale) (ipa : Nat) (write : Bool) : State :=
  let w := stage2Walk s v ipa
  let s := recallKeys s (w.keys.map (fun k => k.1))
  match w.res with
  | .ok l => setAD s l (write && l.w)
  | .error _ => s

/-- Whether the stage-2 entries read for n bytes at an IPA must wait for a recall (R108, R127). -/
def entriesWait (s : State) (v : Vale) (ipa n : Nat) : Bool :=
  (unitsOf 4096 ipa n).any (fun j => (stage2Walk s v (4096 * j)).keys.any (fun k => homeWaits s (.mem k.1) 8 false))

/-- Marks the leaves of n bytes from an IPA, piece by piece of 4,096 bytes. -/
def markIpas (s : State) (v : Vale) (ipa n : Nat) (write : Bool) : State :=
  (unitsOf 4096 ipa n).foldl (fun s j => markIpa s v (4096 * j) write) s

/-- The local pieces of n bytes at an IPA; none where some byte does not translate. -/
def piecesAt (s : State) (v : Vale) (write : Bool) (ipa n : Nat) : List (Nat × Nat) :=
  match ipaPieces s v write (n / 4096 + 2) ipa n with
  | .ok ps => ps
  | .error _ => []

/-- What a read of n bytes at an IPA of a vale by the part does: leaves are marked (R126), rows that own the lines give them up (R108), and
the responses carry the homes' KNOWN (R151). -/
def markRead (s : State) (vale ipa n : Nat) : State :=
  match s.vale? vale with
  | some v => (piecesAt s v false ipa n).foldl (fun s p => mergeKnown (recallBytes s p.1 p.2) v.die (dieOfKey p.1)) (markIpas s v ipa n false)
  | none => s

/-- n bytes at an IPA of a vale as its agent sees them (R150, R155), unless translation fails. -/
def ipaRead (s : State) (v : Vale) (ipa n : Nat) : Except Nat (List Byte) :=
  match ipaPieces s v false (n / 4096 + 2) ipa n with
  | .error r => .error r
  | .ok ps => .ok (ps.flatMap (fun p => seenBytes s v.die p.1 p.2))

/-- Whether bytes at an IPA are poisoned. -/
def ipaPoisoned (s : State) (v : Vale) (ipa n : Nat) : Bool := (piecesAt s v false ipa n).any (fun p => diePoisoned s v.die p.1 p.2)

/-- Whether the part's access to n bytes at an IPA must wait at their homes (R108, R150, R156); a write, as a release at VALE scope, for the
updates its die has sent, or for their count to fall (R144, R151). -/
def ipaWaits (s : State) (vale ipa n : Nat) (write : Bool) : Bool :=
  match s.vale? vale with
  | some v =>
    entriesWait s v ipa n || (piecesAt s v write ipa n).any (fun p => readWaits s v.die (.mem p.1) p.2 ||
      (write && (homeWaits s (.mem p.1) p.2 true || (if dieOfKey p.1 = v.die then updatesPending s v.die else updatesFull s v.die))))
  | none => false

/-- Whether the undo ring has no room for the records that a write of n bytes at an IPA by a VD needs (R408). -/
def ringWaits (s : State) (vale vd ipa n : Nat) : Bool :=
  match s.vale? vale, s.vd? vale vd with
  | some v, some d =>
    let ls := ((piecesAt s v true ipa n).flatMap (fun p => unitsOf 128 p.1 p.2)).filter (needsUndo d)
    decide (ls ≠ []) && decide (d.undoBytes < d.undoHead - d.undoStart + 144 * ls.length)
  | _, _ => false

/-- What the stage-2 leaf of an IPA says of caches: NC, and DEVICE (R126). -/
def ipaPage (s : State) (v : Vale) (ipa : Nat) : Bool × Bool :=
  match stage2 s v ipa with
  | .ok l => (l.nc, decide (l.mt = 2))
  | .error _ => (false, false)

/-- The part writes bytes of one piece for a VD as an agent of the vale's die (R155): at the home, where rows give the lines up, or as an
update where it crosses saddles and may not be performed at once; with its die's count of updates full it waits to be sent (R151). Every write
of the Col is a release at VALE scope, as its signal writes are (R141; DESIGN CHOICE, log 138). `log` tells whether the VD's undo log records it
(R408); poisoned bytes poison the sectors they are written to (R514). -/
def partPut (s : State) (v : Vale) (vale vd : Nat) (log : Bool) (ipa k : Nat) (bs : List Byte) (bad : Bool) : State :=
  let page := ipaPage s v ipa
  if decide (dieOfKey k ≠ v.die) && !crossReady s v.die (dieOfKey k) true k bs.length then
    let (id, s) := s.fresh
    let a : Access := { wave := 0, blk := 0, job := 0, vale := vale, vd := vd, core := 16 * v.first, pos := ⟨0, none⟩, lane := 0, target := .mem k
                        va := 0, op := if bad then .bad bs else .store bs, ord := 3, scope := 3, ipa := some ipa, lg := 16, nc := page.1, dev := page.2, hint := 0
                        isCnt := false, sent := false }
    let s := { s with inflight := Tbl.set s.inflight id a }
    if updatesFull s v.die then s else sendUpdate s id a k
  else
    let s := recallBytes s k bs.length
    let s := if log then vdStore s vale vd (some ipa) k bs 0 page.1 page.2 else l2Write s vale vd k bs 0 page.1 page.2
    let s := crossNow s v.die k true
    if bad then poisonSectors s (unitsOf 32 k bs.length) else s

/-- Writes bytes at an IPA for a VD, undo-logged (R408) where `log` says so, and whether they are poisoned. -/
def ipaPutBy (s : State) (vale vd : Nat) (log : Bool) (ipa : Nat) (bs : List Byte) (bad : Bool) : Option State :=
  match s.vale? vale with
  | none => none
  | some v =>
    match ipaPieces s v true (bs.length / 4096 + 2) ipa bs.length with
    | .error _ => none
    | .ok ps =>
      some ((ps.foldl (fun (x : State × List Byte × Nat) p =>
        (partPut x.1 v vale vd log x.2.2 p.1 (x.2.1.take p.2) bad, x.2.1.drop p.2, x.2.2 + p.2)) (markIpas s v ipa bs.length true, bs, ipa)).1)

/-- Writes bytes at an IPA for a VD, undo-logged (R408), and whether they are poisoned. -/
def ipaPut (s : State) (vale vd ipa : Nat) (bs : List Byte) (bad : Bool) : Option State := ipaPutBy s vale vd true ipa bs bad

/-- The Col's own writes of counters, QCBs and records at an IPA for a VD (R408). -/
def ipaWrite (s : State) (vale vd ipa : Nat) (bs : List Byte) : Option State := ipaPut s vale vd ipa bs false

/-- Writes bytes at an IPA for a VD with no undo record: images (R406, R409). -/
def ipaWriteRaw (s : State) (vale vd ipa : Nat) (bs : List Byte) : Option State := ipaPutBy s vale vd false ipa bs false

/-- Writes bytes of local memory for the part itself: rows that own the lines give them up first (R108). -/
def partWrite (s : State) (k : Nat) (bs : List Byte) : State := writeMem (recallBytes s k bs.length) k bs

end Sys2Proof.Machine
end

