-- ==== Sys2Proof/Machine/Translate.lean ====
section
/-! DEFINITION. Translation of a virtual address for an access (R124 to R128), with the checks of R503 in their order. -/
namespace Sys2Proof.Machine

/-- What an access does to its address (R503); `count` is a CNTADD's add, `stmap` an STMAP, or an unmapping that writes a row back, and `row`
only names a row. -/
inductive AccKind where
  | load | store | atomic | count | stmap | row | fetch
deriving DecidableEq, Repr

/-- Cause codes (R460). -/
def cIllegal : BitVec 8 := 0x01
/-- CLASS_MISMATCH -/
def cClass : BitVec 8 := 0x02
/-- RESERVED_FIELD -/
def cField : BitVec 8 := 0x03
/-- REG_RANGE -/
def cRange : BitVec 8 := 0x04
/-- REG_INDEX -/
def cIndex : BitVec 8 := 0x05
/-- MISALIGN -/
def cAlign : BitVec 8 := 0x06
/-- XLATE -/
def cXlate : BitVec 8 := 0x07
/-- PROTECT -/
def cProtect : BitVec 8 := 0x08
/-- STACK_OVER -/
def cOver : BitVec 8 := 0x09
/-- STACK_UNDER -/
def cUnder : BitVec 8 := 0x0A
/-- PROGRESS -/
def cProgress : BitVec 8 := 0x0B
/-- POISON -/
def cPoison : BitVec 8 := 0x0C
/-- ASYNC_CMD -/
def cAsync : BitVec 8 := 0x0D
/-- BARRIER -/
def cBarrier : BitVec 8 := 0x0E
/-- LEND -/
def cLend : BitVec 8 := 0x0F
/-- PRIV -/
def cPriv : BitVec 8 := 0x10
/-- SWTRAP -/
def cSwtrap : BitVec 8 := 0x11
/-- BKPT -/
def cBkpt : BitVec 8 := 0x12
/-- TASK -/
def cTask : BitVec 8 := 0x13
/-- COV -/
def cCov : BitVec 8 := 0x14
/-- MEM_CE -/
def cMemCe : BitVec 8 := 0x40
/-- MEM_UE -/
def cMemUe : BitVec 8 := 0x41
/-- LINK_CE -/
def cLinkCe : BitVec 8 := 0x42
/-- LINK_DOWN -/
def cLinkDown : BitVec 8 := 0x43
/-- FABRIC -/
def cFabric : BitVec 8 := 0x44
/-- CARD -/
def cCard : BitVec 8 := 0x48
/-- QUEUE -/
def cQueue : BitVec 8 := 0x49
/-- PLUGIN -/
def cPlugin : BitVec 8 := 0x4A
/-- LEASE -/
def cLease : BitVec 8 := 0x4B
/-- VDC -/
def cVdc : BitVec 8 := 0x4C
/-- HANG -/
def cHang : BitVec 8 := 0x4D
/-- THERMAL -/
def cThermal : BitVec 8 := 0x50

/-- An address fault (R503): cause, reason and the address its record shows. -/
structure AddrFault where
  cause : BitVec 8
  reason : Nat
  addr : DWord
deriving DecidableEq, Repr

/-- A translated address: where it leads, its IPA, whether L1 may hold it, and whether its page is NC or DEVICE (R126). -/
structure Xlat where
  target : Target
  ipa : Nat
  l1 : Bool
  nc : Bool
  dev : Bool
  /-- the size of its page, as a power of two -/
  lg : Nat
deriving DecidableEq, Repr

/-- The entry of a TLB that covers an address and is fresh enough for the access (R126, R127). -/
def tlbFind (l : List TlbEntry) (vale vd va : Nat) (write : Bool) : Option TlbEntry :=
  l.find? (fun e => decide (e.vale = vale) && decide (e.vd = vd) && decide (va / 2 ^ e.lg = e.page) &&
    (!write || e.dirty || !(e.w1 && e.w2)))

/-- The IPA of QCB post pages (R415). -/
def postIpa : Nat := 0x7FFFFFFF0000

/-- Whether an access kind writes (R503 step 5). -/
def AccKind.writes : AccKind → Bool
  | .store | .atomic | .count | .stmap => true
  | _ => false

/-- Steps 4 to 8 of R503 on a combined translation. The control window is reachable through a DEVICE mapping alone (R97), so
any other fails step 4 there (DEDUCED, log 99). -/
def checkAccess (s : State) (v : Vale) (e : TlbEntry) (va size : Nat) (k : AccKind) : Except AddrFault Xlat :=
  let pa := e.pa + va % 2 ^ e.lg
  let ipa := e.ipa + va % 2 ^ e.lg
  let bad (c : BitVec 8) (r : Nat) : Except AddrFault Xlat := .error ⟨c, r, BitVec.ofNat 64 pa⟩
  match (place s v pa).filter (fun t => match t with
    | .control _ => decide (e.mt = 2)
    | _ => true) with
  | none => bad cXlate 6
  | some t =>
    if k.writes && !(e.w1 && e.w2) then bad cProtect 7
    else if k = .fetch && !(e.x1 && e.x2) then bad cProtect 8
    else if ((k = .atomic || k = .count) && decide (e.mt = 2)) || (k = .stmap && (decide (e.mt = 2) || e.nc)) then bad cProtect 9
    else
      let qcb := match t with
        | .mem key => k.writes && isQcbKey s v key
        | _ => false
      if qcb then bad cProtect 10
      else
        let post := match t with
          | .control _ => decide (e.mt = 2) && decide (postIpa ≤ ipa) && decide (ipa < postIpa + 65536)
          | _ => false
        if post then
          let o := ipa - postIpa
          if k = .store && !(decide (size = 8) && decide (o % 8 = 0) && decide (o % 4096 < 512)) then bad cProtect 15
          else .ok ⟨.post o, ipa, false, e.nc, decide (e.mt = 2), e.lg⟩
        else .ok ⟨t, ipa, decide (e.mt = 0), e.nc, decide (e.mt = 2), e.lg⟩

/-- Walkers read table entries through the home slices, for a VD, and rows that own them give them up (R108, R127). -/
def readTables (s : State) (vale vd : Nat) (ks : List (Nat × Bool)) : State :=
  ks.foldl (fun s k => l2Read (recallLine s (k.1 / 128) noRow noRow) vale vd k.1 8 0 k.2 false) s

/-- Walks both stages for an address (R124), sets A and D (R126), and gives the combined entry. -/
def walkBoth (s : State) (v : Vale) (d : Vd) (vale vd va : Nat) (write : Bool) :
    State × Except AddrFault TlbEntry :=
  let w := stage1Walk s v d va
  let s := w.leaves.foldl (fun s l => setAD s l false) (readTables s vale vd w.keys)
  let bad (r : Nat) : State × Except AddrFault TlbEntry := (s, .error ⟨cXlate, r, BitVec.ofNat 64 va⟩)
  match w.res with
  | .error r => bad r
  | .ok l1 =>
    let ipa := l1.addr va
    let w2 := stage2Walk s v ipa
    let s := readTables s vale vd w2.keys
    match w2.res with
    | .error r => (s, .error ⟨cXlate, r, BitVec.ofNat 64 va⟩)
    | .ok l2 =>
      let lg := min l1.lg l2.lg
      let wr := write && l1.w && l2.w
      let s := setAD (setAD s l1 wr) l2 wr
      (s, .ok { vale := vale, vd := vd, page := va / 2 ^ lg, lg := lg, pa := l2.addr ipa / 2 ^ lg * 2 ^ lg, ipa := ipa / 2 ^ lg * 2 ^ lg,
                w1 := l1.w, w2 := l2.w, x1 := l1.x, x2 := l2.x, mt := BitVec.ofNat 2 (max l1.mt l2.mt), nc := l1.nc || l2.nc, dirty := wr })

/-- Inserts an entry into a TLB of n, the oldest leaving (R127). -/
def tlbInsert (n : Nat) (l : List TlbEntry) (e : TlbEntry) : List TlbEntry :=
  (e :: l.filter (fun x => !(decide (x.vale = e.vale) && decide (x.vd = e.vd) && decide (x.page * 2 ^ x.lg / 2 ^ e.lg = e.page)))).take n

/-- The entries of a die's last-level TLB (R127). -/
def State.dieTlb? (s : State) (d : Nat) : List TlbEntry := (Tbl.get s.dieTlb d).getD []

/-- The TLBs of a core that hold a translation, nearest first (R127): 0 its own, 1 its glen's, 2 its die's; the launch scalar
unit has only its own. -/
def tlbSearch (s : State) (core vale vd va : Nat) (write : Bool) : Option (Nat × TlbEntry) :=
  match tlbFind (s.core? core).tlb vale vd va write with
  | some e => some (0, e)
  | none =>
    if 4096 ≤ core then none
    else match tlbFind (s.glen? (glenOfCore core)).tlb vale vd va write with
      | some e => some (1, e)
      | none => (tlbFind (s.dieTlb? (dieOfCore core)) vale vd va write).map (fun e => (2, e))

/-- Brings a translation into the TLBs of a core nearer than the level it came from: 128 entries in the core's, 4,096 in the
glen's, 12,288 in the die's (R127). -/
def tlbFill (s : State) (core level : Nat) (e : TlbEntry) : State :=
  let s := if level = 0 then s else s.modCore core (fun c => { c with tlb := tlbInsert 128 c.tlb e })
  let s := if level ≤ 1 || decide (4096 ≤ core) then s
    else s.modGlen (glenOfCore core) (fun g => { g with tlb := tlbInsert 4096 g.tlb e })
  if level ≤ 2 || decide (4096 ≤ core) then s
  else { s with dieTlb := Tbl.set s.dieTlb (dieOfCore core) (tlbInsert 12288 (s.dieTlb? (dieOfCore core)) e) }

/-- Whether the walk that a translation needs must wait, for a recall or an engine's hold of a line of the tables (R108, R127, R156). -/
def walkWaits (s : State) (core : Option Nat) (vale vd va : Nat) (k : AccKind) : Bool :=
  let waits (w : Walk) : Bool := w.keys.any (fun e => homeWaits s (.mem e.1) 8 false)
  match s.vale? vale, s.vd? vale vd with
  | some v, some d =>
    (decide (va / 2 ^ 57 = 0) || decide (k = .fetch)) && (core.bind (fun c => tlbSearch s c vale vd va k.writes)).isNone &&
      (let w := stage1Walk s v d va
       waits w || (match w.res with
        | .ok l => waits (stage2Walk s v (l.addr va))
        | .error _ => false))
  | _, _ => false

/-- Translates an access of `size` bytes (R503 steps 1 to 8), through the TLBs when a core makes it. A walk takes place in
one step, so that no miss finds another walk under way to join (R127, log 85). A fetch makes no step 1 (R503; DEDUCED, log 139). -/
def translate (s : State) (core : Option Nat) (vale vd va size : Nat) (k : AccKind) : State × Except AddrFault Xlat :=
  if va / 2 ^ 57 ≠ 0 && decide (k ≠ .fetch) then (s, .error ⟨cXlate, 5, BitVec.ofNat 64 va⟩)
  else match s.vale? vale, s.vd? vale vd with
    | some v, some d =>
      match core.bind (fun c => tlbSearch s c vale vd va k.writes) with
      | some (n, e) =>
        let r := checkAccess s v e va size k
        (match core, r with
          | some c, .ok _ => tlbFill s c n e
          | _, _ => s, r)
      | none =>
        match walkBoth s v d vale vd va k.writes with
        | (s, .error f) => (s, .error f)
        | (s, .ok e) =>
          let r := checkAccess s v e va size k
          let s := match core, r with
            | some c, .ok _ => tlbFill s c 3 e
            | _, _ => s
          (s, r)
    | _, _ => (s, .error ⟨cXlate, 3, BitVec.ofNat 64 va⟩)

end Sys2Proof.Machine
end

