-- ==== Sys2Proof/Machine/Records.lean ====
section
/-! DEFINITION. Error records (R458 to R462, R472, R517, R520, R528) and the messages that announce them. -/
namespace Sys2Proof.Machine

/-- A record with nothing named beyond its cause and severity. -/
def ErrRec.blank (cause : BitVec 8) (sev : Nat) (vale vd : Option Nat) : ErrRec :=
  { cause := cause, sev := sev, vale := vale, vd := vd, deferred := false, rolled := false, core := 0xFFFF, pc := 0, addr := 0,
    lanes := 0, slot := 0xFF, unit := 8, detail := [], tod := none }

/-- The 64 bytes of a record (R458). -/
def ErrRec.bytes (r : ErrRec) (tod : Nat) : List Byte :=
  let flags := (r.vd.getD 0) % 16 * 256 + (if r.vd.isNone then 2 ^ 12 else 0) + (if r.vale.isNone then 2 ^ 13 else 0) +
    (if r.deferred then 2 ^ 14 else 0) + (if r.rolled then 2 ^ 15 else 0)
  let w : List Nat := [1 + r.cause.toNat * 2 ^ 16 + r.sev * 2 ^ 24, (r.vale.getD 0) + flags + r.core * 2 ^ 16,
    tod, tod / 2 ^ 32, r.pc, r.pc / 2 ^ 32, r.addr, r.addr / 2 ^ 32, r.lanes + r.slot * 2 ^ 16 + r.unit * 2 ^ 24] ++
    (r.detail ++ [0, 0, 0, 0, 0, 0]).take 6 ++ [0]
  w.flatMap (bytesLE 4)

/-- Sends an MSI-X message (R420, R443): VF v's vector n is message 64 (v + 1) + n, the PF's vector n message n. -/
def sendMsix (s : State) (fn n : Nat) : State :=
  { s with msix := Tbl.set s.msix (64 * fn + n) ((Tbl.get s.msix (64 * fn + n)).getD 0 + 1) }

/-- Writes a record to a vale's area (R461), and answers where it lies. -/
def recordVale (s : State) (vale : Nat) (bs : List Byte) : State × Option Nat :=
  match s.vale? vale with
  | none => (s, none)
  | some v =>
    let bump (s : State) : State := s.modVale vale (fun v => { v with errHead := v.errHead + 1 })
    if v.errCount = 0 then (bump s, none)
    else
      let ipa := v.errBase.toNat + 64 * (v.errHead.toNat % v.errCount.toNat)
      let (s, at_) := match ipaKey s v ipa true with
        | .ok k => (partWrite s k bs, some k)
        | .error _ => (s, none)
      (sendMsix (bump s) (vale + 1) 0, at_)

/-- Writes a record to the package area (R443, R461). -/
def recordPackage (s : State) (bs : List Byte) : State × Option Nat :=
  let bump (s : State) : State := { s with errHead := s.errHead + 1 }
  if s.errCount = 0 then (bump s, none)
  else
    let pa := s.errBase.toNat + 64 * (s.errHead.toNat % s.errCount.toNat)
    let (s, at_) := match keyOf s pa with
      | some k => (partWrite s k bs, some k)
      | none => (s, none)
    (sendMsix (bump s) 0 0, at_)

/-- Writes an error record with the TOD count at its detection (R458, R461): to its vale's area, and for severity 3 or 4 or no vale to the
package area also. -/
def record (s : State) (r : ErrRec) : State :=
  let bs := r.bytes (r.tod.getD s.tod.toNat)
  let s := match r.vale with
    | some v => (recordVale s v bs).1
    | none => s
  if 3 ≤ r.sev || r.vale.isNone then (recordPackage s bs).1 else s

/-- The error area a record goes to (R417, R443): its base, its length in records, and how many have been written. -/
def errArea (s : State) (vale : Option Nat) : DWord × Word × Word :=
  match vale with
  | some v => match s.vale? v with
    | some x => (x.errBase, x.errCount, x.errHead)
    | none => (0, 0, 0)
  | none => (s.errBase, s.errCount, s.errHead)

/-- Whether a record still stands where it was written (R461, R462): the area is the same, and its ring has not come round to it. -/
def LastCe.stands (e : LastCe) (area : DWord × Word × Word) : Bool :=
  decide (e.base = area.1) && decide (e.count = area.2.1) && decide ((area.2.2 - e.head).toNat ≤ area.2.1.toNat)

/-- A correctable error (R462): coalesced with the last record of its cause, unit and glen within 600,000 ticks, while that record
stands. -/
def recordCe (s : State) (r : ErrRec) (glen : Nat) : State :=
  let old := match r.vale with
    | some v => ((s.vale? v).map (fun (x : Vale) => x.lastCe)).getD []
    | none => s.pkgCe
  let same (e : LastCe) : Bool := decide (e.cause = r.cause) && decide (e.unit = r.unit) && decide (e.glen = glen)
  let area := errArea s r.vale
  match old.find? (fun e => same e && decide (s.tod.toNat < e.tod + 600000) && e.stands area) with
  | some e =>
    match e.addr with
    | none => s
    | some k => partWrite s (k + 0x3C) (bytesLE 4 (min (homeNat s (k + 0x3C) 4 + 1) 0xFFFFFFFF))
  | none =>
    let bs := r.bytes s.tod.toNat
    let (s, at_) := match r.vale with
      | some v => recordVale s v bs
      | none => recordPackage s bs
    let l : List LastCe := ⟨r.cause, r.unit, glen, at_, s.tod.toNat, area.1, area.2.1, area.2.2⟩ :: old.filter (fun e => !same e)
    match r.vale with
    | some v => s.modVale v (fun x => { x with lastCe := l })
    | none => { s with pkgCe := l }

/-- The DETAIL of a cause below 0x40 (R472). -/
def trapDetail (why kind stalled tag stallPc : Nat) : List Nat :=
  [why + kind * 256 + stalled * 2 ^ 16, tag, 0, stallPc, stallPc / 2 ^ 32, 0]

/-- The DETAIL of a cause of R528. -/
def schedDetail (reason sub index v1 v2 : Nat) : List Nat :=
  [reason + sub * 256 + index * 2 ^ 16, v1, v1 / 2 ^ 32, v2, v2 / 2 ^ 32, 0]

/-- A record of R528: no core, slot or lanes. -/
def schedRec (cause : BitVec 8) (sev : Nat) (vale vd : Option Nat) (pc reason sub index v1 v2 : Nat) : ErrRec :=
  { ErrRec.blank cause sev vale vd with pc := pc, detail := schedDetail reason sub index v1 v2 }

/-- The records of a lease go to both of its vales (R539). -/
def leaseRecords (s : State) (idx : Nat) (l : Lease) (reason : Nat) : State :=
  [l.lender, l.borrower].foldl (fun s v =>
    recordCe s (schedRec cLease 0 (some v) none 0 reason idx 0 l.handle.toNat l.meter.toNat) l.glen) s

end Sys2Proof.Machine
end

