-- ==== Sys2Proof/Machine/Contain.lean ====
section
/-! DEFINITION. Containment: stopping a VD, a vale or the package (R457, R474, R475), starting a rollback (R409), and what
an error of severity 2 does (R535). -/
namespace Sys2Proof.Machine

/-- The cores of a vale. -/
def coresOf (v : Vale) : List Nat := natsFrom (16 * v.first) (16 * v.n)

/-- A code-table bank after its writer's generation has changed (R95): no VD reads it again, even when the generation
comes round to the recorded value. -/
def Bank.outlived (b : Bank) (vale vd : Nat) : Bank :=
  match b.owner with
  | some (v, d, _) => if v = vale && decide (d = vd) then { b with owner := none } else b
  | none => b

/-- One bump of a VD's generation on a core (R120): what it frees keeps its old tag, and what it still holds moves to the new
one, so a live entry's tag is always the current generation; where an entry still carries the new value the bump waits (R122). -/
def bumpCore (vale vd : Nat) (c : Core) : Core :=
  let k := vdKey vale vd
  let g := (Tbl.get c.gen k).getD 0
  if Tbl.cell 0 c.owed k ≠ 0 || c.stale.contains (k, g + 1) then { c with owed := Tbl.setCell 0 c.owed k (Tbl.cell 0 c.owed k + 1) }
  else { c with gen := Tbl.set c.gen k (g + 1), stale := (k, g) :: c.stale, bank0 := c.bank0.outlived vale vd, bank1 := c.bank1.outlived vale vd }

/-- Bumps the generation of a VD on a core (R120, R122). -/
def bumpGen (s : State) (core vale vd : Nat) : State := s.modCore core (bumpCore vale vd)

/-- The generation G of a VD on a core (R119). -/
def generation (s : State) (core vale vd : Nat) : BitVec 4 := (Tbl.get (s.core? core).gen (vdKey vale vd)).getD 0

/-- The tag of register block j of a wave (R119): its VD and that VD's G, which is what every bump leaves a live entry with (R120). A
block that holds nothing but zeros may as well be stale, and is shown so: a read of either returns zero. -/
def regTag (s : State) (w : Wave) (j : Nat) : Option (Nat × BitVec 4) :=
  if (natsFrom (128 * j) 128).all (fun k => decide (Tbl.cell 0 w.v k = 0)) then none else some (w.vd, generation s w.core w.vale w.vd)

/-- The tag of a row of a block's stash (R119), in the same way. -/
def rowTag (s : State) (b : Block) (row : Nat) : Option (Nat × BitVec 4) :=
  if (natsFrom (128 * row) 128).all (fun k => decide (Tbl.cell 0 b.stash k = 0)) then none else some (b.vd, generation s b.core b.vale b.vd)

/-- Whether the grants of a VD on a core must wait: a bump there, or of its epoch in the glen, waits for the scrub (R122). -/
def scrubWaits (s : State) (core vale vd : Nat) : Bool :=
  decide (Tbl.cell 0 (s.core? core).owed (vdKey vale vd) ≠ 0) || decide (Tbl.cell 0 (s.glen? (glenOfCore core)).owed (vdKey vale vd) ≠ 0)

/-- Whether a copy of a VD in a glen's slice or its cores' L1s carries an epoch that is not the current one (R119, R121). -/
def epochStale (s : State) (g vale vd : Nat) (e : BitVec 4) : Bool :=
  (s.glen? g).l2.any (fun l => decide (l.vale = vale) && decide (l.vd = vd) && decide (l.epoch = e)) ||
    s.cores.any (fun c => decide (glenOfCore c.1 = g) && c.2.l1.any (fun l => decide (l.vale = vale) && decide (l.vd = vd) && decide (l.epoch = e)))

/-- Bumps a VD's cache epoch in a glen (R121): its lines there are never returned again, and a dirty one is dropped without
being written, so memory stands as HBM4 holds it. Where a copy still carries the new value the bump waits (R122). -/
def bumpEpoch (s : State) (g vale vd : Nat) : State :=
  let k := vdKey vale vd
  let x := s.glen? g
  let e := (Tbl.get x.epoch k).getD 0
  if Tbl.cell 0 x.owed k ≠ 0 || epochStale s g vale vd (e + 1) then
    s.modGlen g (fun x => { x with owed := Tbl.setCell 0 x.owed k (Tbl.cell 0 x.owed k + 1) })
  else
    let mine (l : L2Line) : Bool := decide (l.vale = vale) && decide (l.vd = vd) && l2Live x l
    let s := { s with mem := (x.l2.filter mine).foldl dropDirty s.mem }
    s.modGlen g (fun x => { x with epoch := Tbl.set x.epoch k (e + 1)
                                   l2 := x.l2.map (fun l => if mine l then { l with dirty := 0, old := [] } else l) })

/-- Bumps a VD's cache epoch in every glen of its vale (R121). -/
def bumpEpochs (s : State) (vale vd : Nat) : State :=
  match s.vale? vale with
  | none => s
  | some v => (natsFrom v.first v.n).foldl (fun s g => bumpEpoch s g vale vd) s

/-- Whether an epoch bump of a VD waits in some glen of its vale (R122). -/
def epochOwed (s : State) (vale vd : Nat) : Bool :=
  match s.vale? vale with
  | none => false
  | some v => (natsFrom v.first v.n).any (fun g => decide (Tbl.cell 0 (s.glen? g).owed (vdKey vale vd) ≠ 0))

/-- Does n times. -/
def times (f : State → State) : Nat → State → State
  | 0, s => s
  | n + 1, s => times f n (f s)

/-- The scrub of a VD on a core, and in its glen for the epoch, ends (R122): stale entries are zeroed, and the bumps that
waited take place. -/
def scrubDone (s : State) (core vale vd : Nat) : State :=
  let k := vdKey vale vd
  let g := glenOfCore core
  let e := (Tbl.get (s.glen? g).epoch k).getD 0
  let keep1 (l : L1Sector) : Bool := !(decide (l.vale = vale) && decide (l.vd = vd) && decide (l.epoch ≠ e))
  let n := Tbl.cell 0 (s.core? core).owed k
  let m := Tbl.cell 0 (s.glen? g).owed k
  let s := s.modCore core (fun c => { c with stale := c.stale.filter (fun t => decide (t.1 ≠ k)), owed := Tbl.erase c.owed k })
  let s := times (fun s => bumpGen s core vale vd) n s
  let s := { s with cores := Tbl.mapVals (fun c x => if glenOfCore c = g then { x with l1 := x.l1.filter keep1 } else x) s.cores }
  let s := s.modGlen g (fun x => { x with l2 := x.l2.filter (fun l => !(decide (l.vale = vale) && decide (l.vd = vd) && decide (l.epoch ≠ e)))
                                          owed := Tbl.erase x.owed k })
  times (fun s => bumpEpoch s g vale vd) m s

/-- The entries a test picks leave every TLB: of the cores, the glens and the dies (R127). -/
def dropTlbs (s : State) (p : TlbEntry → Bool) : State :=
  let keep (l : List TlbEntry) : List TlbEntry := l.filter (fun e => !p e)
  { s with cores := Tbl.mapVals (fun _ c => { c with tlb := keep c.tlb }) s.cores
           glens := Tbl.mapVals (fun _ g => { g with tlb := keep g.tlb }) s.glens
           dieTlb := Tbl.mapVals (fun _ l => keep l) s.dieTlb }

/-- Removes a VD's accepted commands with their held lines and scoreboard entries, and its coverage commands and encoder
frames (R474). -/
def cancelCommands (s : State) (vale vd : Nat) : State :=
  let mine (c : Cmd) : Bool := decide (c.vale = vale) && decide (c.vd = vd)
  { s with
    cores := Tbl.mapVals (fun _ c =>
      { c with
        sb := c.sb.filter (fun e => match Tbl.get s.blocks e.blk with
          | some b => !(decide (b.vale = vale) && decide (b.vd = vd))
          | none => true)
        cmds := Tbl.keep (fun _ y => !mine y) c.cmds }) s.cores
    glens := Tbl.mapVals (fun _ g =>
      { g with
        frames := Tbl.keep (fun _ f => !mine f.own) g.frames
        encq := Tbl.keep (fun _ c => !mine c) g.encq
        covq := Tbl.keep (fun _ c =>
          match Tbl.get s.blocks c.blk with
          | some b => !(decide (b.vale = vale) && decide (b.vd = vd))
          | none => true) g.covq }) s.glens }

/-- Frees the handler slots of the waves a test picks. -/
def freeHandlers (s : State) (p : Nat → Bool) : State :=
  { s with cores := Tbl.mapVals (fun _ c =>
      match c.handler with
      | some w => if p w then { c with handler := none } else c
      | none => c) s.cores }

/-- Discards a VD's handler and firmware waves (R474, R471). -/
def dropHandlers (s : State) (vale vd : Nat) : State :=
  let mine (w : Wave) : Bool :=
    decide (w.vale = vale) && decide (w.vd = vd) && (decide (w.kind = .handler) || decide (w.kind = .firmware))
  let s' := freeHandlers s (fun w => match Tbl.get s.waves w with
    | some x => mine x
    | none => false)
  { s' with waves := Tbl.keep (fun _ w => !mine w) s'.waves }

/-- The steps queued on matrix engines for a VD's blocks are dropped. -/
def dropSteps (s : State) (vale vd : Nat) : State :=
  let mine (k : KStep) : Bool := match Tbl.get s.blocks k.blk with
    | some b => decide (b.vale = vale) && decide (b.vd = vd)
    | none => false
  { s with cores := Tbl.mapVals (fun _ c => { c with engine := { c.engine with queue := c.engine.queue.filter (fun k => !mine k) } }) s.cores }

/-- Writes the record of an error whose rollback will not end, with ROLLED = 0 (R456, R535). -/
def unrolled (s : State) (vale vd : Nat) : State :=
  match (s.vd? vale vd).bind (fun d => d.rollRec) with
  | some r => record s { r with rolled := false }
  | none => s

/-- Stops a VD with no save (R474): its steps and commands are dropped, and no cut or rollback of it goes on. -/
def stopVd (s : State) (vale vd : Nat) : State :=
  let s := unrolled s vale vd
  let s := dropHandlers (dropSteps (cancelCommands s vale vd) vale vd) vale vd
  s.modVd vale vd (fun d => { d with stopped := true, cut := none, rolling := false, rollRec := none })

/-- Stops every VD of a vale (R475). -/
def stopVale (s : State) (vale : Nat) : State :=
  match s.vale? vale with
  | none => s
  | some v =>
    let s := v.vds.foldl (fun s e => stopVd s vale e.1) s
    s.modVale vale (fun v => { v with stopped := true })

/-- Removes a VD's waves, blocks, clusters and outstanding accesses (R409 step 1), and what its blocks, retired ones too, left in accumulators,
whose generations it bumps (R120, R314); crossing updates keep their place in their die's count and carry nothing. -/
def dropWork (s : State) (vale vd : Nat) : State :=
  let mine (a b : Nat) : Bool := decide (a = vale) && decide (b = vd)
  let acc (k : Nat) : Bool := match Tbl.get s.inflight k with
    | some a => mine a.vale a.vd
    | none => false
  let jobMine (j : Nat) : Bool := match Tbl.get s.jobs j with
    | some x => mine x.vale x.vd
    | none => false
  { s with
    waves := Tbl.keep (fun _ w => !mine w.vale w.vd) s.waves
    blocks := Tbl.keep (fun _ b => !mine b.vale b.vd) s.blocks
    clusters := Tbl.keep (fun _ c => !jobMine c.job) s.clusters
    updates := s.updates.map (fun u => if acc u.access then { u with data := [], op := .store [] } else u)
    inflight := Tbl.keep (fun _ a => !mine a.vale a.vd) s.inflight
    engGot := s.engGot.filter (fun a => !mine a.vale a.vd)
    cores := Tbl.mapVals (fun _ c =>
      { c with engine := match c.engine.lastHolder with
          | some b => match Tbl.get s.blocks b with
            | some x => if mine x.vale x.vd then Engine.fresh else c.engine
            | none => Engine.fresh
          | none => c.engine }) s.cores
    claims := s.claims.filter (fun b => match Tbl.get s.blocks b with
      | some x => !mine x.vale x.vd
      | none => true)
    takes := s.takes.filter (fun t => match Tbl.get s.waves t.1 with
      | some w => !mine w.vale w.vd
      | none => true) }

/-- Starts a rollback (R409 steps 1 and 2); ROLLBACK_DONE does the rest. -/
def beginRollback (s : State) (vale vd : Nat) (rec_ : Option ErrRec) : State :=
  let s := dropHandlers (cancelCommands s vale vd) vale vd
  let cores := s.blocks.filterMap (fun e => if decide (e.2.vale = vale) && decide (e.2.vd = vd) then some e.2.core else none)
  let s := cores.eraseDups.foldl (fun s c => bumpGen s c vale vd) s
  let s := bumpEpochs (dropWork s vale vd) vale vd
  let t := s.tod.toNat
  s.modVd vale vd (fun d => { d with rolling := true, rollRec := rec_.map (fun r => { r with tod := some (r.tod.getD t) }), cut := none })

/-- Handles an error of severity 2 on a VD (R535), writing its record now, or at the end of the rollback it starts; a VD that is stopped stays
so (R474, R475). -/
def severity2 (s : State) (vale vd : Nat) (r : ErrRec) : State :=
  match s.vd? vale vd with
  | none => record s r
  | some d =>
    if d.stopped then record s { r with rolled := false }
    else match d.arm, d.image with
    | true, some im =>
      if 4 ≤ im.rollbacks then stopVd (record s { r with rolled := false }) vale vd
      else if d.rolling then record s { r with rolled := true }
      else beginRollback s vale vd (some { r with rolled := true })
    | _, _ => stopVd (record s { r with rolled := false }) vale vd

/-- Stops a vale's VDs and invalidates the keys of its bound stream (R543). -/
def enterError (s : State) (vale stream : Nat) : State :=
  let vds := ((s.vale? vale).map (fun v => v.vds.map (fun e => e.1))).getD []
  let s := vds.foldl (fun s d => stopVd s vale d) s
  let s := { s with ide := Tbl.modify s.ide stream (fun x => { x with secure := false, key := 0 }) }
  s.modVale vale (fun v => { v with tdi := { v.tdi with st := .error } })

/-- A violation of a locked or running TDI drives it to ERROR (R432, R542, R543), with a VDC record of severity 3: its kind,
the window offset and host address of an MMIO write, and the value written. -/
def tdiViolation (s : State) (vale kind off addr value : Nat) : State :=
  match s.vale? vale with
  | none => s
  | some v =>
    if v.tdi.st = .locked || decide (v.tdi.st = .run) then
      record (enterError s vale v.tdi.stream) { schedRec cVdc 3 (some vale) none 0 4 kind off value 0 with addr := addr }
    else s

/-- Handles an error of severity 3 on a vale (R457, R475, R542). -/
def severity3 (s : State) (vale : Nat) (r : ErrRec) : State := tdiViolation (stopVale (record s r) vale) vale 6 0 0 0

/-- Handles an error of severity 4 (R457): every die stops issue. -/
def severity4 (s : State) (r : ErrRec) : State := { record s r with halted := true }

end Sys2Proof.Machine
end

