-- ==== Sys2Proof/Machine/Qcb.lean ====
section
/-! DEFINITION. The queue control blocks in memory (R387 to R389), as the Col reads and writes them, and the parking of a
VD's queues (R394). -/
namespace Sys2Proof.Machine

/-- The IPA of a queue's QCB (R387). -/
def qcbIpa (d : Vd) (q : Nat) : Nat := d.qcbBase + 256 * q

/-- A number of n bytes at an IPA of a vale, as the Col reads it; none when translation fails. -/
def ipaNat (s : State) (vale ipa n : Nat) : Option Nat :=
  match s.vale? vale with
  | none => none
  | some v => match ipaRead s v ipa n with
    | .ok bs => some (natLE bs)
    | .error _ => none

/-- A field of a queue's QCB: n bytes at an offset; 0 where it cannot be read. -/
def qcbNat (s : State) (vale vd q off n : Nat) : Nat :=
  match s.vd? vale vd with
  | some d => (ipaNat s vale (qcbIpa d q + off) n).getD 0
  | none => 0

/-- Writes n bytes of a queue's QCB (R388, R408). -/
def qcbPut (s : State) (vale vd q off n x : Nat) : State :=
  match s.vd? vale vd with
  | some d => (ipaWrite s vale vd (qcbIpa d q + off) (bytesLE n x)).getD s
  | none => s

/-- CONSUME (R388). -/
def qConsume (s : State) (vale vd q : Nat) : Nat := qcbNat s vale vd q 0x80 8
/-- RETIRE (R388). -/
def qRetire (s : State) (vale vd q : Nat) : Nat := qcbNat s vale vd q 0x88 8
/-- POSTSEEN (R388). -/
def qPostSeen (s : State) (vale vd q : Nat) : Nat := qcbNat s vale vd q 0x90 8
/-- LINKS (R387). -/
def qLinks (s : State) (vale vd q : Nat) : Nat := qcbNat s vale vd q 0x04 2
/-- QUOTA (R387). -/
def qQuota (s : State) (vale vd q : Nat) : Nat := qcbNat s vale vd q 0x06 2
/-- FORKUSED (R388). -/
def qForkUsed (s : State) (vale vd q : Nat) : Nat := qcbNat s vale vd q 0xAC 2
/-- POOLSEGS (R388). -/
def qPoolSegs (s : State) (vale vd q : Nat) : Nat := qcbNat s vale vd q 0xAE 2
/-- PARKUNTIL (R388). -/
def qParkUntil (s : State) (vale vd q : Nat) : Nat := qcbNat s vale vd q 0xB0 8
/-- REPEAT (R388). -/
def qRepeat (s : State) (vale vd q : Nat) : Bool := bitOf (qcbNat s vale vd q 0xB8 4) 16

/-- A queue's state beside its QCB. -/
def State.queue? (s : State) (vale vd q : Nat) : Queue :=
  ((s.vd? vale vd).bind (fun d => Tbl.get d.queues q)).getD Queue.fresh

/-- Changes a queue's state beside its QCB. -/
def State.modQueue (s : State) (vale vd q : Nat) (f : Queue → Queue) : State :=
  s.modVd vale vd (fun d => { d with queues := Tbl.set d.queues q (f ((Tbl.get d.queues q).getD Queue.fresh)) })

/-- Whether a QCB's read-only half is one the part accepts (R387, R531): its version, and no reserved value. -/
def roHalfOk (bs : List Byte) : Bool :=
  let w (o n : Nat) : Nat := natLE ((bs.drop o).take n)
  decide (w 0 2 = 1) && decide (w 0 4 / 2 ^ 27 = 0) && decide (1 ≤ w 4 2) && decide (w 4 2 ≤ 4096) && decide (w 0x3A 6 = 0) &&
    (decide (bitsOf (w 0 4) 25 20 = 63) || decide (w 0x38 2 = 0)) && (bs.drop 0x40).take 64 == (natsFrom 0 64).map (fun _ => (0 : Byte))

/-- The read-only half of a queue's QCB, when it can be read. -/
def roHalf (s : State) (vale vd q : Nat) : List Byte :=
  match s.vale? vale, s.vd? vale vd with
  | some v, some d => match ipaRead s v (qcbIpa d q) 128 with
    | .ok bs => bs
    | .error _ => []
  | _, _ => []

/-- Whether a queue has a valid QCB (R59, R531). -/
def queueValid (s : State) (vale vd q : Nat) : Bool :=
  let bs := roHalf s vale vd q
  decide (bs ≠ []) && roHalfOk bs && decide (bitsOf (natLE (bs.take 4)) 25 20 = q) && decide (bitsOf (natLE (bs.take 4)) 19 16 = vd)

/-- STATE of a queue (R389), from whether its VD is parked and its next card may start; one without a valid QCB is never READY (R531). -/
def queueState (s : State) (vale vd q : Nat) (mayStart : Bool) : Nat :=
  let parked := ((s.vd? vale vd).map (fun d => d.parked)).getD false
  if parked || decide (s.tod.toNat < qParkUntil s vale vd q) then 3
  else if (s.queue? vale vd q).running.any (fun j => match Tbl.get s.jobs j with
      | some x => s.blocks.any (fun b => decide (b.2.job = j) && decide (b.2.st ≠ .retired)) ||
          decide ((x.ord.elim x.next (fun o => o.rootNext)) < card64 x.card 0x18 % 2 ^ 32)
      | none => false) then 2
  else if queueValid s vale vd q && decide (qConsume s vale vd q < qPostSeen s vale vd q) && mayStart &&
      (decide (qQuota s vale vd q = 0) || decide (qConsume s vale vd q - qRetire s vale vd q < qQuota s vale vd q)) then 1
  else 0
where
  /-- A 64-bit field of a card (R44). -/
  card64 (card : List Word) (off : Nat) : Nat := (dwordAt card (off / 4)).toNat

/-- The deadline of the running card, the first of a queue's running jobs; 0 for BACKGROUND and with none (R388, R446). -/
def runningDeadline (s : State) (vale vd q : Nat) : Nat :=
  match (s.queue? vale vd q).running.findSome? (fun j => Tbl.get s.jobs j) with
  | some j => (j.deadline.map (fun d => d.toNat)).getD 0
  | none => 0

/-- Writes CURDL, STATE and INFLIGHT (R388, R389). -/
def writeState (s : State) (vale vd q : Nat) (mayStart : Bool) : State :=
  let fly := qConsume s vale vd q - qRetire s vale vd q
  qcbPut (qcbPut s vale vd q 0xA0 8 (runningDeadline s vale vd q)) vale vd q 0xA8 4 (queueState s vale vd q mayStart + fly % 65536 * 65536)

/-- The queues of a VD: those with a valid QCB (R387). -/
def activeQueues (s : State) (vale vd : Nat) : List Nat := (natsFrom 0 64).filter (fun q => queueValid s vale vd q)

/-- Whether the Col must wait before it writes a queue's QCB (R155, R156, R408): its lines are held, or an interval is logged and the undo
ring has no room for the records of all that one visit may write. -/
def qcbWaits (s : State) (vale vd q : Nat) : Bool :=
  match s.vd? vale vd with
  | some d => ipaWaits s vale (qcbIpa d q) 256 true || (decide (d.ckseq ≠ 0) && decide (d.undoBytes < d.undoHead - d.undoStart + 16 * 144))
  | none => false

/-- Parks a VD until its next boundary: its queues become PARKED (R394, R389). -/
def parkVd (s : State) (vale vd : Nat) : State :=
  let until_ := ((s.vd? vale vd).map (fun d => d.nextBoundary)).getD 0
  let s := s.modVd vale vd (fun d => { d with parked := true })
  (activeQueues s vale vd).foldl (fun s q => qcbPut (qcbPut s vale vd q 0xB0 8 until_) vale vd q 0xA8 2 3) s

/-! ## Episodes -/

/-- The record of a queue fault (R528, R531). An access that is dropped is an episode of its own, which ends with it. -/
def queueFault (s : State) (vale vd q reason v1 v2 : Nat) : State :=
  record s (schedRec cQueue 1 (some vale) (some vd) (((s.vd? vale vd).map (fun d => qcbIpa d q)).getD 0) reason 0 q v1 v2)

/-- Opens an episode of a queue fault (R531): one record, until the condition clears. -/
def openEpisode (s : State) (vale vd q reason v1 v2 : Nat) : State :=
  if (s.queue? vale vd q).episodes.contains reason then s
  else (queueFault s vale vd q reason v1 v2).modQueue vale vd q (fun x => { x with episodes := insertNat reason x.episodes })

/-- Ends an episode: its condition has cleared. -/
def closeEpisode (s : State) (vale vd q reason : Nat) : State :=
  if (s.queue? vale vd q).episodes.contains reason then s.modQueue vale vd q (fun x => { x with episodes := removeNat reason x.episodes })
  else s

/-- Opens or ends an episode by its condition. -/
def setEpisode (s : State) (vale vd q reason : Nat) (on : Bool) (v1 v2 : Nat) : State :=
  if on then openEpisode s vale vd q reason v1 v2 else closeEpisode s vale vd q reason

end Sys2Proof.Machine
end

