-- ==== Sys2Proof/Machine/Home.lean ====
section
/-! DEFINITION. The L1 of a core (R112 to R114), and the acquires that empty it (R113, R55). -/
namespace Sys2Proof.Machine

/-! ## L1 -/

/-- A VD's cache epoch in a core's glen (R121). -/
def epochAt (s : State) (core vale vd : Nat) : BitVec 4 := (Tbl.get (s.glen? (glenOfCore core)).epoch (vdKey vale vd)).getD 0

/-- Whether a sector belongs to a line of a VD with its current epoch (R121). -/
def L1Sector.of (e : L1Sector) (vale vd line : Nat) (ep : BitVec 4) : Bool :=
  decide (e.vale = vale) && decide (e.vd = vd) && decide (e.sector / 4 = line) && decide (e.epoch = ep)

/-- The sector of a key in a core's L1, for a VD (R112, R121). -/
def l1Find (s : State) (core vale vd sec : Nat) : Option L1Sector :=
  (s.core? core).l1.find? (fun e => e.of vale vd (sec / 4) (epochAt s core vale vd) && decide (e.sector = sec))

/-- The ways of a set of a core's L1 (R112): 4 for each 32 KiB, but for those that a conversion takes away (R133). -/
def l1Ways (c : Core) : Nat := (256 - max c.stashKib (c.convert.getD 0)) / 32 * 4

/-- Whether a speculative line of some task stands in a way of a set of a core (R359). -/
def specAt (s : State) (core set way : Nat) : Bool :=
  s.jobs.any (fun j => match j.2.ord with
    | some o => o.tasks.any (fun t => t.2.lines.any (fun l => decide (l.2.core = core) && decide (l.1 % 64 = set) && decide (l.2.way = way)))
    | none => false)

/-- Whether a sector stands in a way of a set of its L1 (R112). Which lines share a set the manual leaves open: the line's number modulo 64
picks it (DESIGN CHOICE, log 113). -/
def L1Sector.inWay (e : L1Sector) (set way : Nat) : Bool := decide (e.sector / 4 % 64 = set) && decide (e.way = way)

/-- The way a new line of a set takes (R112, R114): a free one; else that of the line first to leave, a stale line or one of a stream
access before others, the oldest of equals (DESIGN CHOICE, log 104). Speculative lines stay. -/
def l1Way (s : State) (core set : Nat) : Option Nat :=
  let c := s.core? core
  let ways := (natsFrom 0 (l1Ways c)).filter (fun w => !specAt s core set w)
  match ways.find? (fun w => !c.l1.any (fun e => e.inWay set w)) with
  | some w => some w
  | none =>
    let here := c.l1.filter (fun e => decide (e.sector / 4 % 64 = set) && ways.contains e.way)
    let soon := here.filter (fun e => e.first || decide (e.epoch ≠ epochAt s core e.vale e.vd))
    ((if soon = [] then here else soon).getLast?).map (fun e => e.way)

/-- Puts a sector into a core's L1 (R112, R114): beside the other sectors of its line, or in a way of its set. -/
def l1Put (s : State) (core vale vd sec : Nat) (data : List Byte) (first : Bool) : State :=
  let ep := epochAt s core vale vd
  let set := sec / 4 % 64
  match (s.core? core).l1.find? (fun e => e.of vale vd (sec / 4) ep) with
  | some e =>
    let x : L1Sector := { vale := vale, vd := vd, sector := sec, data := data, way := e.way, epoch := ep, first := e.first }
    s.modCore core (fun c => { c with l1 := x :: c.l1.filter (fun e => !(e.of vale vd (sec / 4) ep && decide (e.sector = sec))) })
  | none =>
    match l1Way s core set with
    | none => s
    | some w =>
      let x : L1Sector := { vale := vale, vd := vd, sector := sec, data := data, way := w, epoch := ep, first := first }
      s.modCore core (fun c => { c with l1 := x :: c.l1.filter (fun e => !e.inWay set w) })

/-- A store or atomic updates the sectors present in its core's L1 (R112). -/
def l1Store (s : State) (core vale vd k : Nat) (bs : List Byte) : State :=
  let ep := epochAt s core vale vd
  let upd (e : L1Sector) : L1Sector :=
    if e.of vale vd (e.sector / 4) ep && (unitsOf 32 k bs.length).contains e.sector then
      { e with data := (natsFrom 0 32).map (fun i =>
          let a := 32 * e.sector + i
          if k ≤ a then bs.getD (a - k) (e.data.getD i 0) else e.data.getD i 0) }
    else e
  if (s.core? core).l1 = [] then s else s.modCore core (fun c => { c with l1 := c.l1.map upd })

/-- An acquire or fence at CLUSTER scope or wider: the VD's lines leave the core's L1 (R113). -/
def dropL1 (s : State) (core vale vd : Nat) : State :=
  s.modCore core (fun c => { c with l1 := c.l1.filter (fun e => !(decide (e.vale = vale) && decide (e.vd = vd))) })

/-- An acquire for the blocks of some cores: the VD's lines leave their L1s (R113, R141). -/
def acquireOn (s : State) (cores : List Nat) (vale vd : Nat) : State := cores.foldl (fun s c => dropL1 s c vale vd) s

/-- The launch scalar unit of a vale, by the vale's number. -/
def scalarCore (s : State) (vale : Nat) : Nat := ((s.vale? vale).map Vale.scalarUnit).getD 4096

/-- The start of a job is an acquire for the cores that may run it (R55, R141): the VD's lines leave their L1s, the words of its
records their constant caches (R104), and its code words their instruction caches (R170). -/
def jobAcquire (s : State) (v : Vale) (vale vd : Nat) : State :=
  let mine (e : CachedWord) : Bool := decide (e.vale = vale) && decide (e.vd = vd)
  let s := acquireOn s (v.scalarUnit :: coresOf v) vale vd
  { s with cores := Tbl.mapVals (fun n c =>
      if n = v.scalarUnit || (coresOf v).contains n then
        { c with icache := c.icache.filter (fun e => !mine e), ccache := c.ccache.filter (fun e => !mine e) }
      else c) s.cores }

end Sys2Proof.Machine
end

