-- ==== Sys2Proof/Machine/Regs.lean ====
section
/-! DEFINITION. What registers read as (R12): the windows of vales (R383, R417 to R419, R210) and the management window (R443), word by
word, and the control window of the local offset space that holds them (R97). Reserved offsets and write-only registers read zero. -/
namespace Sys2Proof.Machine

/-- One of the two words of a 64-bit register, by an offset in it. -/
def halfOf (x : DWord) (off : Nat) : Word := if off % 8 < 4 then loWord x else hiWord x

/-- A word of a command block (R418), by its offset from OP. -/
def cmdWord (c : CmdBlock) (off : Nat) : Word :=
  if off = 0 then BitVec.ofNat 32 (c.op.toNat + 256 * c.vd.toNat)
  else if off = 4 then BitVec.ofNat 32 (bit1 c.busy + 256 * c.result.toNat)
  else if off < 0x38 then halfOf (c.args.getD ((off - 8) / 8) 0) off
  else 0

/-- A word of LEASE_k (R419), by its offset in the slot. -/
def leaseWord (s : State) (vale : Nat) (v : Vale) (k off : Nat) : Word :=
  match (v.leases.getD k none).bind (fun n => Tbl.get s.leases n) with
  | none => 0
  | some l =>
    if off = 0 then l.handle
    else if off = 4 then BitVec.ofNat 32 (l.st.toNat + 4 * bit1 (decide (l.borrower = vale)))
    else if off < 0x10 then halfOf l.start off
    else if off < 0x18 then halfOf l.stop off
    else halfOf l.meter off

/-- The place of a counter of a glen among a VD's statistics (R349): words 0 to 7 stand for those of STATS_n (R419), of which 0 to 3
are the sums of these. -/
def covStatKey (g k : Nat) : Nat := 8 + 4 * g + k

/-- Word k of STATS_n (R419, R349): the coverage counters are summed over the vale's glens. -/
def statWord (v : Vale) (d : Vd) (k : Nat) : DWord :=
  if k < 4 then (natsFrom v.first v.n).foldl (fun a g => a + Tbl.cell 0 d.stats (covStatKey g k)) 0 else Tbl.cell 0 d.stats k

/-- A word of STATS_n (R419). -/
def statsWord (v : Vale) (n off : Nat) : Word :=
  match Tbl.get v.vds n with
  | none => 0
  | some d => if 0x38 ≤ off then 0 else halfOf (statWord v d (off / 8)) off

/-- VALE_CAPS_k (R210): version 1 of everything, the least and the highest. -/
def capsWord (k : Nat) : Word := if k = 0 then 0x00000101 else 0x00010001

/-- A word of a vale's control window (R417). -/
def windowWord (s : State) (vale : Nat) (v : Vale) (off : Nat) : Word :=
  if off < 0x800 then (Tbl.get v.vds (off / 128)).elim 0 (fun d => Tbl.cell 0 d.vdc (off % 128 / 4))
  else if off = 0x800 then BitVec.ofNat 32 (vale + 2 ^ 8 * (v.first % 256) + 2 ^ 16 * v.n + 2 ^ 25 * bit1 v.conf)
  else if off = 0x804 then BitVec.ofNat 32 (s.stackGib.toNat / 8)
  else if off = 0x808 then v.pthresh
  else if 0x810 ≤ off && decide (off < 0x818) then halfOf v.errBase off
  else if off = 0x818 then v.errCount
  else if off = 0x81C then v.errHead
  else if 0x840 ≤ off && decide (off < 0x85C) then capsWord ((off - 0x840) / 4)
  else if 0x880 ≤ off && decide (off < 0x900) then halfOf (Tbl.cell 0 v.stage ((off - 0x880) / 8)) off
  else if 0x900 ≤ off && decide (off < 0x940) then cmdWord v.cmd (off - 0x900)
  else if 0x1000 ≤ off && decide (off < 0x1400) then statsWord v ((off - 0x1000) / 64) (off % 64)
  else if 0x2000 ≤ off && decide (off < 0x2200) then leaseWord s vale v ((off - 0x2000) / 32) (off % 32)
  else 0

/-- The states of the four glens of a word of GLENSTATE (R29, R443). -/
def glenStates (s : State) (g : Nat) : Word :=
  BitVec.ofNat 32 ((natsFrom 0 4).foldl (fun a k => a + 2 ^ (8 * k) * (s.glen? (g + k)).st.toNat) 0)

/-- A word of the management window (R443). LCREQ is write-only. -/
def managementWord (s : State) (off : Nat) : Word :=
  if off = 0x00 then BitVec.ofNat 32 (1 + 2 ^ 16 * s.stackGib.toNat)
  else if off = 0x04 then BitVec.ofNat 32 (s.lifecycle.toNat + 256 * s.lcStat.toNat)
  else if off = 0x08 then BitVec.ofNat 32 (s.bootStat.toNat + 256 * s.failStep.toNat)
  else if off = 0x0C then s.pkgId.setWidth 32
  else if off = 0x10 then BitVec.ofNat 32 (s.hlWidth.toNat + 16 * s.hlRate.toNat)
  else if off = 0x14 then s.tsync.setWidth 32
  else if 0x18 ≤ off && decide (off < 0x20) then halfOf (s.passUp.setWidth 64) off
  else if 0x28 ≤ off && decide (off < 0x30) then halfOf s.lcToken off
  else if off = 0x30 then s.plimit.setWidth 32
  else if off = 0x34 then s.ilimit.setWidth 32
  else if off = 0x38 then s.clkNow.setWidth 32
  else if off = 0x40 then s.power
  else if 0x48 ≤ off && decide (off < 0x68) then (Tbl.cell (0 : BitVec 16) s.temps ((off - 0x48) / 4)).setWidth 32
  else if off = 0x80 then s.alarm.setWidth 32
  else if 0x100 ≤ off && decide (off < 0x200) then glenStates s (off - 0x100)
  else if 0x810 ≤ off && decide (off < 0x818) then halfOf s.errBase off
  else if off = 0x818 then s.errCount
  else if off = 0x81C then s.errHead
  else if 0x900 ≤ off && decide (off < 0x940) then cmdWord s.pf (off - 0x900)
  else 0

/-- A word of the control window (R97), at an offset the model leaves to Config.controlWindow (log 110): of a vale's window, of the
management window, or zero. -/
def controlWord (s : State) (off : Nat) : Word :=
  let (win, o) := Config.controlWindow (off / 4 * 4)
  if win = 256 then managementWord s o
  else match s.vale? win with
    | some v => windowWord s win v o
    | none => 0

/-- n bytes of the control window. -/
def controlBytes (s : State) (off n : Nat) : List Byte :=
  (natsFrom off n).map (fun o => (controlWord s o).extractLsb' (8 * (o % 4)) 8)

/-! ## What is no memory -/

/-- Free bytes: what the part returns where the spec states no value. -/
def freeBytes (s : State) : Nat → State × List Byte
  | 0 => (s, [])
  | n + 1 =>
    let r := freeBytes { s with freeCount := s.freeCount + 1 } n
    (r.1, Config.freeByte s.freeCount :: r.2)

/-- The post word a byte of the post pages lies in (R415): 64 times the VD plus the queue. -/
def postWordOf (off : Nat) : Nat := off / 4096 * 64 + off % 4096 / 8

/-- n bytes of the post pages (R415): post words, and free bytes where they are reserved. -/
def postBytes (s : State) (vale off n : Nat) : State × List Byte :=
  let posts : Tbl DWord := match s.vale? vale with
    | some v => v.posts
    | none => []
  let (s, free) := freeBytes s n
  (s, (natsFrom 0 n).map (fun i =>
    let o := off + i
    if o % 4096 < 512 then (Tbl.cell 0 posts (postWordOf o)).extractLsb' (8 * (o % 8)) 8 else free.getD i 0))

/-- n bytes of a place that is no memory: of the post pages, of the control window, or free. -/
def elseBytes (s : State) (vale : Nat) (t : Target) (n : Nat) : State × List Byte :=
  match t with
  | .post o => postBytes s vale o n
  | .control o => (s, controlBytes s o n)
  | _ => freeBytes s n

end Sys2Proof.Machine
end

