-- ==== Sys2Proof/Machine/Fp.lean ====
section
/-! DEFINITION. Floating-point formats, exact values, one rounding function, and the operations of R75 to R84 and R233. -/
namespace Sys2Proof.Machine

/-- A floating-point format (R75): exponent and fraction widths, bias, the pattern of its largest finite magnitude, and
the patterns of infinity and of the canonical NaN (E2M1 has neither and stands in with zero). -/
structure Fmt where
  ew : Nat
  fw : Nat
  bias : Nat
  maxFin : Nat
  infPat : Option Nat
  nanPat : Nat
deriving DecidableEq, Repr

/-- FP32 (R75). -/
def fp32 : Fmt := ⟨8, 23, 127, 0x7F7FFFFF, some 0x7F800000, 0x7FC00000⟩
/-- FP16 (R75). -/
def fp16 : Fmt := ⟨5, 10, 15, 0x7BFF, some 0x7C00, 0x7E00⟩
/-- BF16 (R75). -/
def bf16 : Fmt := ⟨8, 7, 127, 0x7F7F, some 0x7F80, 0x7FC0⟩
/-- FP8 E4M3 (R75). -/
def e4m3 : Fmt := ⟨4, 3, 7, 0x7E, none, 0x7F⟩
/-- FP8 E5M2 (R75). -/
def e5m2 : Fmt := ⟨5, 2, 15, 0x7B, some 0x7C, 0x7E⟩
/-- FP4 E2M1 (R75). -/
def e2m1 : Fmt := ⟨2, 1, 1, 0x7, none, 0x0⟩

/-- The bit that holds the sign. -/
def Fmt.signBit (f : Fmt) : Nat := 2 ^ (f.ew + f.fw)

/-- An exact value: a NaN, an infinity, or a signed fraction whose zero keeps its sign. -/
inductive Val where
  | nan
  | inf (neg : Bool)
  | fin (neg : Bool) (num den : Nat)
deriving DecidableEq, Repr

/-- The rounding modes of R84. -/
inductive RMode where
  | rn | rz | rm | rp
deriving DecidableEq, Repr

/-- The rounding mode of a modifier (R232, R235). -/
def rmodeOf (m : BitVec 2) : RMode :=
  match m.toNat with
  | 0 => .rn
  | 1 => .rz
  | 2 => .rm
  | _ => .rp

/-- +0. -/
def Val.zero : Val := .fin false 0 1
/-- A signed exact integer. -/
def Val.ofInt (x : Int) : Val := .fin (decide (x < 0)) x.natAbs 1
/-- m times 2 to the e. -/
def Val.scaled (neg : Bool) (m : Nat) (e : Int) : Val :=
  if 0 ≤ e then .fin neg (m * 2 ^ e.toNat) 1 else .fin neg m (2 ^ (-e).toNat)

/-- Whether a value is a NaN. -/
def Val.isNan : Val → Bool
  | .nan => true
  | _ => false
/-- Whether a value is a zero. -/
def Val.isZero : Val → Bool
  | .fin _ n _ => decide (n = 0)
  | _ => false
/-- Whether a value is an infinity. -/
def Val.isInf : Val → Bool
  | .inf _ => true
  | _ => false
/-- The sign of a value. -/
def Val.neg? : Val → Bool
  | .nan => false
  | .inf s => s
  | .fin s _ _ => s
/-- The value with its sign inverted. -/
def Val.negate : Val → Val
  | .nan => .nan
  | .inf s => .inf (!s)
  | .fin s n d => .fin (!s) n d

/-- The value of a pattern (R76). -/
def valOf (f : Fmt) (pat : Nat) : Val :=
  let s := bitOf pat (f.ew + f.fw)
  let e := bitsOf pat (f.ew + f.fw - 1) f.fw
  let m := pat % 2 ^ f.fw
  let isSpecial := match f.infPat with
    | some _ => decide (e = 2 ^ f.ew - 1)
    | none => decide (f.ew = 4 ∧ pat % 2 ^ 7 = 0x7F)
  if isSpecial then (if f.infPat.isSome && decide (m = 0) then .inf s else .nan)
  else if e = 0 then Val.scaled s m (1 - (f.bias : Int) - f.fw)
  else Val.scaled s (m + 2 ^ f.fw) ((e : Int) - f.bias - f.fw)

/-- Floor of log2 of num / den, for a positive fraction. -/
def log2Frac (num den : Nat) : Int :=
  let a : Int := (Nat.log2 num : Int) - (Nat.log2 den : Int)
  let below := if 0 ≤ a then decide (num < den * 2 ^ a.toNat) else decide (num * 2 ^ (-a).toNat < den)
  if below then a - 1 else a

/-- Rounds num / den to an integer by mode (R84). -/
def roundNat (neg : Bool) (num den : Nat) (mode : RMode) : Nat :=
  let n := num / den
  let r := num % den
  let up := match mode with
    | .rn => decide (den < 2 * r) || (decide (2 * r = den) && decide (n % 2 = 1))
    | .rz => false
    | .rm => neg && decide (0 < r)
    | .rp => !neg && decide (0 < r)
  if up then n + 1 else n

/-- The pattern magnitude a positive fraction rounds to, with an unbounded exponent above (R84). -/
def roundMag (f : Fmt) (neg : Bool) (num den : Nat) (mode : RMode) : Nat :=
  let emin : Int := 1 - f.bias
  let e0 := log2Frac num den
  let e := if e0 < emin then emin else e0
  let u : Int := e - f.fw
  let n := if 0 ≤ u then roundNat neg num (den * 2 ^ u.toNat) mode else roundNat neg (num * 2 ^ (-u).toNat) den mode
  (e - emin).toNat * 2 ^ f.fw + n

/-- Convert(x, format, mode, sat) of R84 for a floating-point target. -/
def convertF (x : Val) (f : Fmt) (mode : RMode) (sat : Bool) : Nat :=
  let big (s : Bool) : Nat :=
    if sat || decide (f.ew = 2) then (if s then f.signBit else 0) + f.maxFin
    else match f.infPat with
      | some p => (if s then f.signBit else 0) + p
      | none => f.nanPat
  match x with
  | .nan => f.nanPat
  | .inf s => big s
  | .fin s n d =>
    let sb := if s then f.signBit else 0
    if n = 0 then sb
    else
      let p := roundMag f s n d mode
      if p ≤ f.maxFin then sb + p
      else
        let away := match mode with
          | .rn => true
          | .rz => false
          | .rm => s
          | .rp => !s
        if away then big s else sb + f.maxFin

/-- Round to nearest, ties to even, into a format (R81). -/
def rne (f : Fmt) (x : Val) : Nat := convertF x f .rn false

/-- Convert(x, integer, mode) of R84: rounds and clamps. -/
def convertI (x : Val) (lo hi : Int) (mode : RMode) : Int :=
  match x with
  | .nan => 0
  | .inf s => if s then lo else hi
  | .fin s n d =>
    let r := roundNat s n d mode
    clampInt (if s then -(r : Int) else r) lo hi

/-- A value as a signed numerator over its denominator. -/
def sNum (s : Bool) (n : Nat) : Int := if s then -(n : Int) else n

/-- Exact sum with IEEE 754 special values and zero signs (R81). -/
def addV (a b : Val) : Val :=
  match a, b with
  | .nan, _ => .nan
  | _, .nan => .nan
  | .inf s, .inf t => if s = t then .inf s else .nan
  | .inf s, .fin _ _ _ => .inf s
  | .fin _ _ _, .inf t => .inf t
  | .fin s n d, .fin t m e =>
    let x : Int := sNum s n * e + sNum t m * d
    if x = 0 then .fin (s && t && decide (n = 0) && decide (m = 0)) 0 1
    else .fin (decide (x < 0)) x.natAbs (d * e)

/-- Exact product (R81). -/
def mulV (a b : Val) : Val :=
  match a, b with
  | .nan, _ => .nan
  | _, .nan => .nan
  | .inf s, .inf t => .inf (s ^^ t)
  | .inf s, .fin t m _ => if m = 0 then .nan else .inf (s ^^ t)
  | .fin s n _, .inf t => if n = 0 then .nan else .inf (s ^^ t)
  | .fin s n d, .fin t m e => .fin (s ^^ t) (n * m) (d * e)

/-- Exact quotient with the special results of FDIV (R233). -/
def divV (a b : Val) : Val :=
  match a, b with
  | .nan, _ => .nan
  | _, .nan => .nan
  | .inf _, .inf _ => .nan
  | .inf s, .fin t _ _ => .inf (s ^^ t)
  | .fin s _ _, .inf t => .fin (s ^^ t) 0 1
  | .fin s n d, .fin t m e =>
    if m = 0 then (if n = 0 then .nan else .inf (s ^^ t)) else .fin (s ^^ t) (n * e) (d * m)

/-- Whether a is below b, for values that are no NaN; -0 equals +0 (R239). -/
def ltV (a b : Val) : Bool :=
  match a, b with
  | .nan, _ => false
  | _, .nan => false
  | .inf s, .inf t => s && !t
  | .inf s, .fin _ _ _ => s
  | .fin _ _ _, .inf t => !t
  | .fin s n d, .fin t m e => decide (sNum s n * e < sNum t m * d)

/-- Whether two values are equal, neither a NaN; -0 equals +0 (R239). -/
def eqV (a b : Val) : Bool := !a.isNan && !b.isNan && !ltV a b && !ltV b a

/-- minimumNumber, with -0 below +0 (R82). -/
def minV (a b : Val) : Val :=
  if a.isNan then b else if b.isNan then a
  else if ltV a b then a else if ltV b a then b else if a.neg? then a else b

/-- maximumNumber, with -0 below +0 (R82). -/
def maxV (a b : Val) : Val :=
  if a.isNan then b else if b.isNan then a
  else if ltV a b then b else if ltV b a then a else if a.neg? then b else a

/-! ## Square roots -/

/-- Integer square root, one bit at a time: `bits` rounds. -/
def isqrtAux : Nat → Nat → Nat → Nat
  | 0, _, r => r
  | k + 1, x, r =>
    let c := r + 2 ^ k
    if c * c ≤ x then isqrtAux k x c else isqrtAux k x r

/-- Floor of the square root of x. -/
def isqrt (x : Nat) : Nat := isqrtAux (Nat.log2 x / 2 + 1) x 0

/-- A fraction that rounds to FP32 as the square root of num / den does: the root to 200 fraction bits and a sticky bit. -/
def sqrtFrac (num den : Nat) : Val :=
  let y := num * 2 ^ 400 / den
  let r := isqrt y
  let exact := decide (r * r * den = num * 2 ^ 400)
  .fin false (2 * r + (if exact then 0 else 1)) (2 ^ 201)

/-- FSQRT's exact result (R233). -/
def sqrtV : Val → Val
  | .nan => .nan
  | .inf s => if s then .nan else .inf false
  | .fin s n d => if n = 0 then .fin s 0 1 else if s then .nan else sqrtFrac n d

/-- FRSQ's exact result (R233). -/
def rsqrtV : Val → Val
  | .nan => .nan
  | .inf s => if s then .nan else .fin false 0 1
  | .fin s n d => if n = 0 then .inf s else if s then .nan else sqrtFrac d n

/-- FRCP's exact result (R233). -/
def rcpV (a : Val) : Val := divV (.fin false 1 1) a

/-! ## Integral values, classes and packed forms -/

/-- FRND (R232): rounds to an integer by mode, keeping the sign of a zero. -/
def frndV (a : Val) (mode : RMode) : Val :=
  match a with
  | .nan => .nan
  | .inf s => .inf s
  | .fin s n d => .fin s (roundNat s n d mode) 1

/-- The class mask of a pattern (R234). -/
def classOf (f : Fmt) (pat : Nat) : Nat :=
  match valOf f pat with
  | .nan => 2 ^ 8
  | .inf s => if s then 1 else 2 ^ 7
  | .fin s n _ =>
    let sub := decide (bitsOf pat (f.ew + f.fw - 1) f.fw = 0)
    if n = 0 then (if s then 2 ^ 3 else 2 ^ 4)
    else if sub then (if s then 2 ^ 2 else 2 ^ 5)
    else (if s then 2 else 2 ^ 6)

/-- The format a floating-point modifier selects (R229): 0 F32, 1 F16x2, 2 BF16x2. -/
def packFmt (m : BitVec 2) : Fmt := if m = 0 then fp32 else if m = 1 then fp16 else bf16

/-- A one-source operation on a register of the format M selects, packed halves each on their own (R229, R230). -/
def fp1 (m : BitVec 2) (g : Fmt → Nat → Nat) (a : Word) : Word :=
  if m = 0 then BitVec.ofNat 32 (g fp32 a.toNat)
  else
    let f := packFmt m
    BitVec.ofNat 32 (g f (a.toNat % 2 ^ 16) + 2 ^ 16 * g f (a.toNat / 2 ^ 16))

/-- A two-source operation on exact values, rounded once per element (R230). -/
def fp2 (m : BitVec 2) (g : Val → Val → Val) (a b : Word) : Word :=
  if m = 0 then BitVec.ofNat 32 (rne fp32 (g (valOf fp32 a.toNat) (valOf fp32 b.toNat)))
  else
    let f := packFmt m
    let e (x y : Nat) : Nat := rne f (g (valOf f x) (valOf f y))
    BitVec.ofNat 32 (e (a.toNat % 2 ^ 16) (b.toNat % 2 ^ 16) + 2 ^ 16 * e (a.toNat / 2 ^ 16) (b.toNat / 2 ^ 16))

/-- A three-source operation on exact values, rounded once per element (R230). -/
def fp3 (m : BitVec 2) (g : Val → Val → Val → Val) (a b c : Word) : Word :=
  if m = 0 then BitVec.ofNat 32 (rne fp32 (g (valOf fp32 a.toNat) (valOf fp32 b.toNat) (valOf fp32 c.toNat)))
  else
    let f := packFmt m
    let e (x y z : Nat) : Nat := rne f (g (valOf f x) (valOf f y) (valOf f z))
    BitVec.ofNat 32 (e (a.toNat % 2 ^ 16) (b.toNat % 2 ^ 16) (c.toNat % 2 ^ 16) +
      2 ^ 16 * e (a.toNat / 2 ^ 16) (b.toNat / 2 ^ 16) (c.toNat / 2 ^ 16))

/-- FP32 add of two register words (R81). -/
def faddW (a b : Word) : Word := fp2 0 addV a b

end Sys2Proof.Machine
end

