-- ==== Sys2Proof/Machine/Fields.lean ====
section
/-! DEFINITION. The field rules that need no state (stage 5 of R479): literals (R178, R181, R185), reserved values and
fields that must be zero (R189), register shapes (R174) and register mixes (R485). -/
namespace Sys2Proof
open Machine

/-- A use of registers by an instruction: first register, how many, and its alignment (R174). -/
structure RegUse where
  f : RegField
  n : Nat
  al : Nat
deriving DecidableEq, Repr

/-- A register field that names a scalar register (R174). -/
def isScalar (f : RegField) : Bool := decide (96 ≤ f.toNat)

/-- One register. -/
def reg1 (f : RegField) : RegUse := ⟨f, 1, 1⟩

/-- A pair (R174). -/
def reg2 (f : RegField) : RegUse := ⟨f, 2, 2⟩

/-- A quad (R174). -/
def reg4 (f : RegField) : RegUse := ⟨f, 4, 4⟩

/-- A register, pair or quad by its count. -/
def regN (f : RegField) (n : Nat) : RegUse := ⟨f, n, n⟩

/-- The registers lie in one file, aligned, and do not run past v95 or s31 (R174, R485). -/
def RegUse.shapeOk (u : RegUse) : Bool :=
  decide (u.f.toNat % u.al = 0) &&
    (if isScalar u.f then decide (u.f.toNat + u.n ≤ 128) else decide (u.f.toNat + u.n ≤ 96))

/-- Every register of the use lies below an allocation of `a` register blocks (R486). -/
def RegUse.within (u : RegUse) (a : Nat) : Bool := isScalar u.f || decide (u.f.toNat + u.n ≤ 8 * a)

/-! ## Literal words -/

/-- OFFSET of a memory literal, sign-extended (R181). -/
def MmFields.offset (o : MmFields) : Int :=
  match o.lit with
  | none => 0
  | some w => sextNat (bitsOf w.toNat 31 8) 24

/-- SCOPE of a memory instruction; VALE without a literal (R180). -/
def MmFields.scope (o : MmFields) : BitVec 3 :=
  match o.lit with
  | none => 3
  | some w => w.extractLsb' 5 3

/-- HINT of a memory instruction (R114). -/
def MmFields.hint (o : MmFields) : BitVec 2 :=
  match o.lit with
  | none => 0
  | some w => w.extractLsb' 3 2

/-- NR of a memory instruction (R181). -/
def MmFields.nr (o : MmFields) : Bool :=
  match o.lit with
  | none => false
  | some w => w.getLsbD 2

/-- The literal's reserved bits are zero, its scope is not reserved (R13, R181). -/
def MmFields.litOk (o : MmFields) : Bool :=
  match o.lit with
  | none => true
  | some w => decide (w.extractLsb' 0 2 = 0) && decide (o.scope.toNat ≤ 5)

/-- A field of the async literal, or its default without one (R185). -/
def AsFields.kind (o : AsFields) : BitVec 4 :=
  match o.lit with
  | none => 0
  | some w => w.extractLsb' 0 4

/-- SCOPE of the async literal; VALE without one (R185). -/
def AsFields.scope (o : AsFields) : BitVec 3 :=
  match o.lit with
  | none => 3
  | some w => w.extractLsb' 6 3

/-- KFLAGS of the async literal (R185). -/
def AsFields.kflags (o : AsFields) : BitVec 6 :=
  match o.lit with
  | none => 0
  | some w => w.extractLsb' 9 6

/-- NOBAR of the async literal (R185). -/
def AsFields.nobar (o : AsFields) : Bool :=
  match o.lit with
  | none => false
  | some w => w.getLsbD 15

/-- ORDERED of the async literal (R185). -/
def AsFields.ordered (o : AsFields) : Bool :=
  match o.lit with
  | none => false
  | some w => w.getLsbD 16

/-- INC of the async literal (R185). -/
def AsFields.inc (o : AsFields) : BitVec 8 :=
  match o.lit with
  | none => 0
  | some w => w.extractLsb' 17 8

/-- CREG of the async literal (R185). -/
def AsFields.creg (o : AsFields) : RegField :=
  match o.lit with
  | none => 0
  | some w => w.extractLsb' 25 7

/-- HINT of an async literal (R185). -/
def AsFields.hint (o : AsFields) : BitVec 2 :=
  match o.lit with
  | some x => x.extractLsb' 4 2
  | none => 0

/-- What every ASYNC word must satisfy (R185, R290): KFLAGS zero, a scope that is not reserved, BAR zero with NOBAR, and
C only with a literal; CREG and INC are zero without C (R189). -/
def AsFields.commonOk (o : AsFields) (kmax : Nat) : Bool :=
  decide (o.kflags = 0) && decide (o.scope.toNat ≤ 5) && decide (o.kind.toNat ≤ kmax) &&
    (!o.nobar || decide (o.bar = 0)) && (decide (o.c = 0) || o.lit.isSome) &&
    (decide (o.c = 1) || (decide (o.creg = 0) && decide (o.inc = 0)))

/-- C of an X literal: the third source (R178). -/
def VaFields.xc (o : VaFields) : RegField := (o.lit.getD 0).extractLsb' 25 7

/-- IMM8 of an X literal (R178). -/
def VaFields.ximm (o : VaFields) : BitVec 8 := (o.lit.getD 0).extractLsb' 17 8

/-- XP of an X literal (R178). -/
def VaFields.xp (o : VaFields) : BitVec 3 := (o.lit.getD 0).extractLsb' 14 3

/-- XPN of an X literal (R178). -/
def VaFields.xpn (o : VaFields) : Bool := (o.lit.getD 0).getLsbD 13

/-- The reserved bits of an X literal are zero (R178). -/
def VaFields.xresOk (o : VaFields) : Bool := o.lit.isSome && decide ((o.lit.getD 0).extractLsb' 0 13 = 0)

/-! ## Registers named -/

/-- A two-source VEC word's registers (R212): B is a register only without a literal. -/
def regs2 (o : VaFields) (dn an bn : Nat) : List RegUse :=
  [regN o.d dn, regN o.a an] ++ (if o.lit.isSome then [] else [regN o.b bn])

/-- A one-source VEC word's registers. -/
def regs1 (o : VaFields) (dn an : Nat) : List RegUse := [regN o.d dn, regN o.a an]

/-- An X-form's registers, with C (R178). -/
def regsX (o : VaFields) : List RegUse := [reg1 o.d, reg1 o.a, reg1 o.b, reg1 o.xc]

/-- How many registers CVT's source and destination take, by conversion code (R236); none for a reserved code. -/
def cvtWidths (code : Nat) : Option (Nat × Nat) :=
  if code ≤ 4 then some (1, 1)
  else if 8 ≤ code && code ≤ 0x10 then some (1, 1)
  else if code = 0x18 || code = 0x19 then some (1, 1)
  else if code = 0x1A || code = 0x1B then some (2, 1)
  else if code = 0x1C || code = 0x1D then some (1, 1)
  else if code = 0x1E || code = 0x1F then some (1, 2)
  else if 0x20 ≤ code && code ≤ 0x27 then some (1, 1)
  else if code = 0x28 || code = 0x29 then some (2, 1)
  else if code = 0x2A || code = 0x2B then some (1, 2)
  else if code = 0x2C then some (1, 1)
  else none

/-- How many registers an MM address takes: a pair for global, one register otherwise (R180). -/
def addrUse (o : MmFields) : RegUse := if o.space = 0 then reg2 o.a else reg1 o.a

/-- The columns one register of an MXRD holds (R325). -/
def mxColumns (f : BitVec 6) : Nat :=
  match (f.extractLsb' 0 3).toNat with
  | 3 => 2
  | 4 => 2
  | 6 => 4
  | 7 => 4
  | _ => 1

/-- Every register an instruction names (R174, R254, R274, R290, R332). -/
def Instr.regs : Instr → List RegUse
  | .mov o =>
    let n := if o.m = 1 then 2 else 1
    if o.lit.isSome then [regN o.d n] else [regN o.d n, regN o.a n]
  | .iadd o | .isub o | .imul o | .imulh o | .imad o | .imin o | .imax o | .idiv o | .irem o | .and o | .or o | .xor o
  | .andn o | .shl o | .shrl o | .shra o | .rotl o | .bfx o | .fadd o | .fsub o | .fmul o | .fma o | .fmin o | .fmax o
  | .fdiv o | .pack o | .dot4 o | .dot2f o | .shfl o => regs2 o 1 1 1
  | .imulw o | .imadw o => regs2 o 2 1 1
  | .iadd64 o | .isub64 o => regs2 o 2 2 2
  | .lea o => regs2 o 2 2 1
  | .iabs o | .popc o | .clz o | .brev o | .ffs o | .fneg o | .fabs o | .frnd o | .frcp o | .fsqrt o | .frsq o
  | .fexp2 o | .flog2 o | .fsinpi o | .fcospi o | .fclass o | .scan o | .reduce o | .ddx o | .ddy o => regs1 o 1 1
  | .lop3 o | .funnel o | .bfi o | .permb o => regsX o
  | .sel o => [reg1 o.d, reg1 o.a, reg1 o.b]
  | .cvt o =>
    match cvtWidths o.b.toNat with
    | some (sn, dn) => [regN o.d dn, regN o.a sn]
    | none => []
  | .icmp o | .fcmp o => if o.lit.isSome then [reg1 o.a] else [reg1 o.a, reg1 o.b]
  | .pmovToreg o => [reg1 o.d]
  | .pmovFromreg o => [reg1 o.a]
  | .voteBallot o => [reg1 o.d]
  | .matchLanes o => regs1 o 1 (if o.m = 1 then 2 else 1)
  | .movxRd o | .movxWr o => if o.lit.isSome then [reg1 o.d] else [reg1 o.d, reg1 o.b]
  | .sreg o => [reg1 o.d]
  | .v2sFirst o => regs1 o 1 1
  | .v2sLane o => regs2 o 1 1 1
  | .ldS8 o | .ldB8 o | .ldS16 o | .ldB16 o | .ld32 o | .st8 o | .st16 o | .st32 o => [reg1 o.t, addrUse o]
  | .ld64 o | .st64 o => [reg2 o.t, addrUse o]
  | .ld128 o | .st128 o => [reg4 o.t, addrUse o]
  | .ldc o => [reg1 o.t, reg1 o.a]
  | .atomAdd o | .atomSmin o | .atomSmax o | .atomBmin o | .atomBmax o | .atomAnd o | .atomOr o | .atomXor o
  | .atomXchg o | .atomFadd o => [reg1 o.t, addrUse o]
  | .atomCas o | .atomAdd64 o => [reg2 o.t, addrUse o]
  | .atomCas64 o => [reg4 o.t, addrUse o]
  | .stmap o => [reg2 o.t, addrUse o]
  | .stunmap o | .stwb o | .stdrop o | .prefetch o => [addrUse o]
  | .cntadd o => [reg1 o.t, addrUse o]
  | .brx o | .callxTail o | .ret o => [reg2 o.a]
  | .call o => [reg2 o.link]
  | .callx o => [reg2 o.d, reg2 o.a]
  | .barArrive o | .cbarArrive o => if o.b.getLsbD 6 then [reg1 o.d] else []
  | .barWait o | .barInit o | .barexp o | .cbarWait o | .sleep o => [reg1 o.a]
  | .waitge o => [reg2 o.a, reg2 o.b]
  | .mwait o => [reg2 o.a, reg1 o.b]
  | .forkSuspend o => [reg2 o.a, reg4 o.b]
  | .forkDetach o => [reg2 o.a]
  | .tspawn o => [⟨o.a, 4, 2⟩, reg1 o.b]
  | .cpy o => [⟨o.a, 4, 2⟩, reg1 o.b] ++ (if o.c = 1 then [reg2 o.creg] else [])
  | .ccopy o => [⟨o.a, 6, 2⟩, reg1 o.b] ++ (if o.c = 1 then [reg2 o.creg] else [])
  | .tcopy o => [⟨o.a, 3, 2⟩, ⟨o.b, 5, 2⟩] ++ (if o.c = 1 then [reg2 o.creg] else [])
  | .tgather o => [⟨o.a, 3, 2⟩, ⟨o.b, 2, 2⟩] ++ (if o.c = 1 then [reg2 o.creg] else [])
  | .tstore o => [⟨o.a, 4, 2⟩, ⟨o.b, 5, 2⟩] ++ (if o.c = 1 then [reg2 o.creg] else [])
  | .codewr o => [reg2 o.a]
  | .encframeOpen o | .encframeClose o => [reg2 o.a] ++ (if o.c = 1 then [reg2 o.creg] else [])
  | .encpost o => [reg2 o.a, reg1 o.b] ++ (if o.c = 1 then [reg2 o.creg] else [])
  | .covbegin o => [⟨o.a, 4, 2⟩]
  | .covline o => [⟨o.a, 4, 2⟩]
  | .covquad o => [⟨o.a, 6, 2⟩]
  | .covcube o => [⟨o.a, 8, 2⟩]
  | .covtri o => [⟨o.a, 6, 2⟩, ⟨o.b, 4, 2⟩]
  | .covpop o => [⟨o.d, 6, 2⟩]
  | .mxrd o | .mxwr o => [if o.f.getLsbD 5 then reg4 o.d else reg1 o.d, reg1 o.a]
  | .mxstat o => [reg1 o.d, reg1 o.a]
  | .originTag o => [reg4 o.d]
  | .originAddr o => [reg2 o.d]
  | .originReg o => [reg1 o.d, reg1 o.a]
  | .sset o => [reg1 o.a, reg1 o.b]
  | .ckpt o => [reg2 o.a]
  | _ => []

/-! ## Mixes -/

/-- A scalar destination reads only scalar sources and literals (R213, R485). -/
def mix2 (o : VaFields) : Bool := !isScalar o.d || (isScalar o.a && (o.lit.isSome || isScalar o.b))

/-- The same for a one-source word. -/
def mix1 (o : VaFields) : Bool := !isScalar o.d || isScalar o.a

/-- Whether two operands are of one kind (R485). -/
def oneKind (a b : RegField) : Bool := isScalar a == isScalar b

/-- The register mixes an instruction permits (R485, R213, R252, R254, R274, R351). SSET, CALLX, MXWR and STMAP stand in no row of R485, so
their operands are of one kind; a vector destination of ORIGIN.REG, MXRD or MXSTAT takes a scalar source as R38 reads one (DEDUCED, log 141). -/
def Instr.mixOk : Instr → Bool
  | .mov o => !isScalar o.d || o.lit.isSome || isScalar o.a
  | .iadd o | .isub o | .imul o | .imulh o | .imad o | .imin o | .imax o | .idiv o | .irem o | .and o | .or o | .xor o
  | .andn o | .shl o | .shrl o | .shra o | .rotl o | .bfx o | .fadd o | .fsub o | .fmul o | .fma o | .fmin o | .fmax o
  | .fdiv o | .pack o | .dot4 o | .dot2f o | .imulw o | .imadw o | .iadd64 o | .isub64 o | .lea o => mix2 o
  | .iabs o | .popc o | .clz o | .brev o | .ffs o | .fneg o | .fabs o | .frnd o | .frcp o | .fsqrt o | .frsq o
  | .fexp2 o | .flog2 o | .fsinpi o | .fcospi o | .fclass o | .cvt o => mix1 o
  | .lop3 o | .funnel o | .bfi o | .permb o => !isScalar o.d || (isScalar o.a && isScalar o.b && isScalar o.xc)
  | .sel o => !isScalar o.d || (isScalar o.a && isScalar o.b)
  | .pmovToreg o | .matchLanes o | .shfl o | .scan o | .ddx o | .ddy o | .covpop o => !isScalar o.d
  | .movxRd o => !isScalar o.a && !isScalar o.d
  | .movxWr o => !isScalar o.a
  | .sreg o => !isScalar o.d || decide (o.b ≠ 0)
  | .v2sFirst o => isScalar o.d
  | .v2sLane o => isScalar o.d && (o.lit.isSome || isScalar o.b)
  | .ldS8 o | .ldB8 o | .ldS16 o | .ldB16 o | .ld32 o | .ld64 o | .ld128 o | .ldc o => !isScalar o.t || isScalar o.a
  | .atomAdd o | .atomSmin o | .atomSmax o | .atomBmin o | .atomBmax o | .atomAnd o | .atomOr o | .atomXor o
  | .atomXchg o | .atomFadd o | .atomCas o | .atomAdd64 o | .atomCas64 o => o.nr || !isScalar o.t || isScalar o.a
  | .barWait o | .barInit o | .barexp o | .cbarWait o | .sleep o | .forkDetach o | .ckpt o | .covbegin o => isScalar o.a
  | .waitge o | .mwait o | .forkSuspend o => isScalar o.a && isScalar o.b
  | .mxrd o => !isScalar o.d || isScalar o.a
  | .mxstat o => !isScalar o.d || isScalar o.a
  | .originReg o => !isScalar o.d || isScalar o.a
  | .sset o => oneKind o.a o.b
  | .mxwr o => oneKind o.d o.a
  | .callx o => oneKind o.d o.a
  | .stmap o => oneKind o.t o.a
  | _ => true

/-! ## Field values -/

/-- A two-source VEC word: M at most `mmax`, and B zero beside a literal (R175, R176). -/
def va2Ok (o : VaFields) (mmax : Nat) : Bool := decide (o.m.toNat ≤ mmax) && (o.lit.isNone || decide (o.b = 0))

/-- A one-source VEC word: B and I zero (R176). -/
def va1Ok (o : VaFields) (mmax : Nat) : Bool := decide (o.m.toNat ≤ mmax) && o.lit.isNone && decide (o.b = 0)

/-- A CTRL, COV or SYS word: I = 0 (R187), the modifier its form fixes, and the fields the flags mark unused zero. -/
def ctlOk (o : VaFields) (m : Nat) (dz az bz : Bool) : Bool :=
  o.lit.isNone && decide (o.m.toNat = m) && (!dz || decide (o.d = 0)) && (!az || decide (o.a = 0)) &&
    (!bz || decide (o.b = 0))

/-- A predicate named in bits [2:0] of a register field whose other bits are zero (R240, R254). -/
def predField (f : RegField) : Bool := decide (f.toNat ≤ 7)

/-- A predicate with an inversion in bit 3 (R240, R243). -/
def predInv (f : RegField) : Bool := decide (f.toNat ≤ 15)

/-- A scope in bits [2:0] of D, other bits zero and not reserved (R254, R13). -/
def scopeField (f : RegField) : Bool := decide (f.toNat ≤ 5)

/-- A load or store's space, order and scope (R280, R135). -/
def ldstOk (o : MmFields) (strong : Nat) : Bool :=
  o.litOk && !o.nr && decide (o.space.toNat ≤ 1) && (decide (o.ord.toNat ≤ 1) || decide (o.ord.toNat = strong)) &&
    (decide (o.ord ≠ 0) || decide (o.scope = 3))

/-- An atomic's space and order (R280). -/
def atomOk (o : MmFields) : Bool := o.litOk && decide (o.space.toNat ≤ 1) && decide (o.ord.toNat ≤ 4)

/-- A row operation or prefetch (R280). -/
def rowOk (o : MmFields) (space : Nat) : Bool :=
  o.litOk && !o.nr && decide (o.space.toNat = space) && decide (o.ord = 0)

/-- The mode code of COVBEGIN (R334). -/
def covModeOk (b : RegField) : Bool :=
  let x := b.toNat
  !bitOf x 6 && decide (bitsOf x 1 0 ≠ 3) &&
    (if bitOf x 2 then decide (bitsOf x 1 0 = 0) else decide (bitsOf x 5 3 = 0))

/-- Field values and fields that must be zero (R189 and each entry), for a wave instruction or a stream word. The SCOPE of a literal may hold
any of its six values where the entry does not name the field (DESIGN CHOICE, log 126). -/
def Instr.fieldsOk : Instr → Bool
  | .nop o => o.lit.isNone && decide (o.d = 0) && decide (o.a = 0) && decide (o.b = 0) && decide (o.m = 0)
  | .mov o => decide (o.m.toNat ≤ 1) && decide (o.b = 0) && (o.lit.isNone || decide (o.a = 0))
  | .iadd o | .isub o | .iadd64 o | .isub64 o | .fadd o | .fsub o | .fmul o | .fma o | .fmin o | .fmax o | .pack o
  | .dot4 o => va2Ok o 2
  | .imul o | .imad o | .and o | .or o | .xor o | .andn o | .shl o | .shrl o | .shra o | .rotl o | .fdiv o => va2Ok o 0
  | .imulh o | .imulw o | .imadw o | .imin o | .imax o | .idiv o | .irem o | .bfx o | .dot2f o => va2Ok o 1
  | .lea o | .shfl o => va2Ok o 3
  | .iabs o | .matchLanes o => va1Ok o 1
  | .popc o | .clz o | .brev o | .ffs o | .frcp o | .fsqrt o | .frsq o | .fexp2 o | .flog2 o | .fsinpi o | .fcospi o =>
    va1Ok o 0
  | .fneg o | .fabs o | .fclass o => va1Ok o 2
  | .frnd o | .reduce o => va1Ok o 3
  | .lop3 o => decide (o.m = 0) && o.xresOk && decide (o.xp = 0) && !o.xpn
  | .funnel o => decide (o.m.toNat ≤ 1) && o.xresOk && decide (o.ximm = 0) && decide (o.xp = 0) && !o.xpn
  | .bfi o | .permb o => decide (o.m = 0) && o.xresOk && decide (o.ximm = 0) && decide (o.xp = 0) && !o.xpn
  | .sel o => decide (o.m = 0) && o.xresOk && decide (o.ximm = 0) && decide (o.xc = 0)
  | .cvt o => o.lit.isNone && (cvtWidths o.b.toNat).isSome
  | .icmp o =>
    decide (o.m.toNat ≤ 2) && (o.lit.isNone || decide (o.b = 0)) &&
      (decide (o.cond.toNat ≤ 5) || (decide (8 ≤ o.cond.toNat) && decide (o.cond.toNat ≤ 13)))
  | .fcmp o => decide (o.m.toNat ≤ 2) && (o.lit.isNone || decide (o.b = 0)) && decide (o.cond.toNat ≤ 7)
  | .plop o => o.lit.isNone && decide (o.m.toNat ≤ 2) && predField o.d && predInv o.a && predInv o.b
  | .pmovToreg o => o.lit.isNone && decide (o.m = 0) && decide (o.a = 0) && decide (o.b = 0)
  | .pmovFromreg o => o.lit.isNone && decide (o.m = 1) && decide (o.d = 0) && decide (o.b = 0)
  | .voteAny o => o.lit.isNone && decide (o.m = 0) && predField o.d && predInv o.a && decide (o.b = 0)
  | .voteAll o => o.lit.isNone && decide (o.m = 1) && predField o.d && predInv o.a && decide (o.b = 0)
  | .voteBallot o => o.lit.isNone && decide (o.m = 2) && predInv o.a && decide (o.b = 0)
  | .scan o => o.lit.isNone && decide (o.b.toNat ≤ 1)
  | .elect o => o.lit.isNone && decide (o.m = 0) && predField o.d && decide (o.a = 0) && decide (o.b = 0)
  | .movxRd o => decide (o.m = 0) && (o.lit.isNone || decide (o.b = 0))
  | .movxWr o => decide (o.m = 1) && (o.lit.isNone || decide (o.b = 0))
  | .sreg o => o.lit.isNone && decide (o.m = 0) && decide (o.a = 0) && decide (o.b.toNat ≤ 18)
  | .v2sFirst o => o.lit.isNone && decide (o.m = 0) && decide (o.b = 0)
  | .v2sLane o => decide (o.m = 1) && (o.lit.isNone || decide (o.b = 0))
  | .ldS8 o | .ldB8 o | .ldS16 o | .ldB16 o | .ld32 o | .ld64 o | .ld128 o => ldstOk o 2
  | .st8 o | .st16 o | .st32 o | .st64 o | .st128 o => ldstOk o 3
  | .ldc o => o.litOk && !o.nr && decide (o.space = 2) && decide (o.ord = 0) && decide (o.scope = 3)
  | .atomAdd o | .atomSmin o | .atomSmax o | .atomBmin o | .atomBmax o | .atomAnd o | .atomOr o | .atomXor o
  | .atomXchg o | .atomFadd o | .atomCas o | .atomAdd64 o | .atomCas64 o => atomOk o
  | .stmap o => rowOk o 1
  | .stunmap o | .stwb o | .stdrop o => rowOk o 1 && decide (o.t = 0)
  | .prefetch o => rowOk o 0 && decide (o.t = 0)
  | .fence o =>
    o.litOk && !o.nr && decide (o.space = 0) && decide (o.a = 0) && decide (2 ≤ o.ord.toNat) &&
      decide (o.ord.toNat ≤ 4) && (decide (o.t = 0) || (decide (o.t = 1) && decide (o.ord = 4))) &&
      decide (o.offset = 0) && decide (o.hint = 0)
  | .cntadd o => o.litOk && !o.nr && decide (o.space = 0) && (decide (o.ord = 1) || decide (o.ord = 3))
  | .bra o => decide (o.pe = 1) || (decide (o.pi = 0) && decide (o.pn = 0))
  | .brx o | .ret o => ctlOk o 0 true false true
  | .rcv o => ctlOk o 0 false false false
  | .join o | .exit o | .yield o | .tend o | .tabort o | .tirrev o | .rth o | .killl o | .resumelRetry o | .covend o =>
    ctlOk o 0 true true true
  | .call _ => true
  | .callx o => ctlOk o 0 false false true
  | .callxTail o => ctlOk o 1 true false true
  | .barArrive o =>
    ctlOk o 0 false true false && decide (bitsOf o.b.toNat 5 4 = 0) && (o.b.getLsbD 6 || decide (o.d = 0))
  | .barWait o => ctlOk o 1 true false false && decide (bitsOf o.b.toNat 6 4 = 0)
  | .barSync o => ctlOk o 2 true true false && decide (bitsOf o.b.toNat 6 4 = 0)
  | .barInit o => ctlOk o 3 true false false && decide (bitsOf o.b.toNat 6 4 = 0)
  | .barexp o => ctlOk o 0 true false false && decide (bitsOf o.b.toNat 6 4 = 0)
  | .cbarArrive o =>
    ctlOk o 0 false true false && decide (bitsOf o.b.toNat 5 2 = 0) && (o.b.getLsbD 6 || decide (o.d = 0))
  | .cbarWait o => ctlOk o 1 true false false && decide (bitsOf o.b.toNat 6 2 = 0)
  | .cbarSync o => ctlOk o 2 true true false && decide (bitsOf o.b.toNat 6 2 = 0)
  | .waitge o | .mwait o => ctlOk o 0 false false false && scopeField o.d
  | .sleep o => ctlOk o 0 true false true
  | .forkSuspend o => ctlOk o 0 false false false && predField o.d
  | .forkDetach o => ctlOk o 1 false false true && predField o.d
  | .tspawn o => ctlOk o 0 true false false
  | .trap o | .bkpt o => ctlOk o 0 true false false
  | .cpy o => o.commonOk 5
  | .ccopy o => o.commonOk 3
  | .tcopy o | .tgather o | .tstore o => o.commonOk 0
  | .codewr o =>
    o.commonOk 0 && decide (o.b = 0) && decide (o.bar = 0) && !o.nobar && decide (o.c = 0)
  | .codeswap o =>
    o.commonOk 0 && decide (o.a = 0) && decide (o.b = 0) && decide (o.bar = 0) && !o.nobar && decide (o.c = 0) && decide (o.hint = 0)
  | .rgive o => o.lit.isNone && decide (o.b = 0) && decide (o.bar = 0) && decide (o.c = 0) && decide (o.l = 0)
  | .rtake o => o.lit.isNone && decide (o.b = 0) && decide (o.bar = 0) && decide (o.c = 0)
  | .encpost o => o.commonOk 0 && decide (o.bar = 0) && !o.nobar
  | .encframeOpen o => o.commonOk 0 && decide (o.b = 0) && decide (o.bar = 0) && !o.nobar
  | .encframeClose o => o.commonOk 1 && decide (o.kind = 1) && decide (o.b = 0) && decide (o.bar = 0) && !o.nobar
  | .covbegin o => ctlOk o 0 true false false && covModeOk o.b
  | .covline o | .covquad o | .covcube o =>
    o.lit.isNone && decide (o.m.toNat ≤ 1) && decide (o.d = 0) && decide (o.b = 0)
  | .covtri o => o.lit.isNone && decide (o.m.toNat ≤ 1) && decide (o.d = 0)
  | .covres o => o.lit.isNone && decide (o.m.toNat ≤ 1) && decide (o.d = 0) && decide (o.a = 0) && decide (o.b = 0)
  | .covpop o => ctlOk o 0 false false true && predField o.a
  | .ddx o | .ddy o => va1Ok o 2
  | .mxrd o => !(decide (o.f.extractLsb' 0 3 = 5) && o.f.getLsbD 3)
  | .mxwr o =>
    decide (o.l = 0) && decide (o.f.extractLsb' 3 2 = 0) &&
      (decide (o.f.extractLsb' 0 3 = 0) || decide (o.f.extractLsb' 0 3 = 5))
  | .mxstat o => decide (o.l = 0) && decide (o.f = 0)
  | .resumelSkip o => ctlOk o 1 true true true
  | .originTag o => ctlOk o 0 false true true
  | .originAddr o => ctlOk o 1 false true true
  | .originReg o => ctlOk o 2 false false true
  | .sset o => ctlOk o 0 true false false
  | .ckpt o => ctlOk o 0 false false true && predField o.d
  | .mnop r | .mendl r | .mfence r | .mend r => decide (r = 0)
  | .mteam mode tm1 first hreg z =>
    decide (z = 0) && decide (mode ≠ 3) && (decide (mode = 2) || decide (hreg = 0)) &&
      (decide (mode ≠ 0) || (decide (tm1 = 0) && decide (first = 0)))
  | .mdesc _ _ z _ => decide (z = 0)
  | .mzero _ z => decide (z = 0)
  | .mma _ _ _ z | .mmas _ _ _ z => decide (z = 0)
  | .mloop span _ => decide (2 ≤ span.toNat)
  | .mloopMreg span z _ => decide (2 ≤ span.toNat) && decide (z = 0)
  | .mbarw _ _ _ z => decide (z = 0)
  | .mbara _ _ z => decide (z = 0)
  | .mbuf _ z => decide (z = 0)
  | _ => true

end Sys2Proof
end

