-- ==== Sys2Proof/WellFormed.lean ====
section
/-! DEFINITION. A well-formed instruction: the checks of stage 5 of R479 that need no state. The reserved values and
zero fields, the register shapes and the register mixes are each defined in Machine/Fields.lean. -/
namespace Sys2Proof

/-- Field values are defined and unused fields zero (R189), registers are aligned and lie in one file (R174), and the
register kinds mix as R485 permits. -/
def Instr.wellFormed (i : Instr) : Bool :=
  Instr.fieldsOk i && (Instr.regs i).all RegUse.shapeOk && Instr.mixOk i

end Sys2Proof
end

