-- ==== Sys2Proof/Decode.lean ====
section
/-! DEFINITION. Decoding code words (R162, R175 to R195) and matrix stream words (R188, R194, R309), and the encoder
written from the same tables. -/
namespace Sys2Proof

/-- Why a word is no instruction (R195). -/
inductive DecodeError where
  /-- TAG 0b1111 in an instruction position, or an unassigned opcode -/
  | illegalOpc
  /-- a modifier that names no form of its opcode, or a literal word that is not there -/
  | reservedField
  /-- fewer than four bytes -/
  | truncated
  /-- a reserved matrix stream opcode -/
  | reservedStream
deriving DecidableEq, Repr

/-- The opcode of a code word (R175). -/
def opcodeOf (w : Word) : Nat := (w.extractLsb' 24 8).toNat

/-- Whether an opcode is assigned (R190 to R193). -/
def opAssigned (op : Nat) : Bool :=
    (decide (0x00 ≤ op) && decide (op ≤ 0x45)) ||
    (decide (0x50 ≤ op) && decide (op ≤ 0x69)) ||
    (decide (0x6B ≤ op) && decide (op ≤ 0x71)) ||
    (decide (0x78 ≤ op) && decide (op ≤ 0x8D)) ||
    (decide (0x90 ≤ op) && decide (op ≤ 0x9A)) ||
    (decide (0xA0 ≤ op) && decide (op ≤ 0xA9)) ||
    (decide (0xB0 ≤ op) && decide (op ≤ 0xB2)) ||
    (decide (0xC0 ≤ op) && decide (op ≤ 0xC5))

/-- The class an opcode's range belongs to (R164): 0 VEC, 1 MEM, 2 ASYNC, 3 CTRL, 4 COV, 5 MXS, 6 SYS. -/
def opClass (op : Nat) : BitVec 3 :=
  if op ≤ 0x4F then 0 else if op ≤ 0x77 then 1 else if op ≤ 0x8F then 3 else if op ≤ 0x9F then 2
  else if op ≤ 0xAF then 4 else if op ≤ 0xB7 then 5 else 6

/-- Whether a word is followed by a literal word (R187): bit 2 of VA and VC words, bit 0 of MM and AS words. -/
def hasLiteral (w : Word) : Bool :=
  let op := opcodeOf w
  if op = 0x78 || op = 0x7C then false
  else if opClass op = 5 then false
  else if opClass op = 1 || opClass op = 2 then w.getLsbD 0
  else w.getLsbD 2

/-- The fields of a VA word (R175). -/
def vaFields (w : Word) (lit : Option Word) : VaFields :=
  ⟨w.extractLsb' 17 7, w.extractLsb' 10 7, w.extractLsb' 3 7, w.extractLsb' 0 2, lit⟩

/-- The fields of a VC word (R179). -/
def vcFields (w : Word) (lit : Option Word) : VcFields :=
  ⟨w.extractLsb' 21 3, w.extractLsb' 17 4, w.extractLsb' 10 7, w.extractLsb' 3 7, w.extractLsb' 0 2, lit⟩

/-- The fields of an MM word (R180). -/
def mmFields (w : Word) (lit : Option Word) : MmFields :=
  ⟨w.extractLsb' 17 7, w.extractLsb' 10 7, w.extractLsb' 6 4, w.extractLsb' 4 2, w.extractLsb' 1 3, lit⟩

/-- The fields of a BR word (R182). -/
def brFields (w : Word) : BrFields :=
  ⟨w.extractLsb' 23 1, w.extractLsb' 20 3, w.extractLsb' 19 1, w.extractLsb' 0 19⟩

/-- The fields of a CL word (R183). -/
def clFields (w : Word) : ClFields := ⟨w.extractLsb' 17 7, w.extractLsb' 0 17⟩

/-- The fields of an AS word (R184). -/
def asFields (w : Word) (lit : Option Word) : AsFields :=
  ⟨w.extractLsb' 17 7, w.extractLsb' 10 7, w.extractLsb' 6 4, w.extractLsb' 2 4, w.extractLsb' 1 1, lit⟩

/-- The fields of an MX word (R186). -/
def mxFields (w : Word) : MxFields :=
  ⟨w.extractLsb' 17 7, w.extractLsb' 10 7, w.extractLsb' 6 4, w.extractLsb' 0 6⟩

/-- The instruction a code word and its literal word stand for (R190 to R195). -/
def decodeWord (w : Word) (lit : Option Word) : Except DecodeError Instr :=
  match opcodeOf w with
  | 0x00 => .ok (.nop (vaFields w lit))
  | 0x01 => .ok (.mov (vaFields w lit))
  | 0x02 => .ok (.iadd (vaFields w lit))
  | 0x03 => .ok (.isub (vaFields w lit))
  | 0x04 => .ok (.imul (vaFields w lit))
  | 0x05 => .ok (.imulh (vaFields w lit))
  | 0x06 => .ok (.imad (vaFields w lit))
  | 0x07 => .ok (.imulw (vaFields w lit))
  | 0x08 => .ok (.imadw (vaFields w lit))
  | 0x09 => .ok (.iadd64 (vaFields w lit))
  | 0x0A => .ok (.isub64 (vaFields w lit))
  | 0x0B => .ok (.lea (vaFields w lit))
  | 0x0C => .ok (.imin (vaFields w lit))
  | 0x0D => .ok (.imax (vaFields w lit))
  | 0x0E => .ok (.iabs (vaFields w lit))
  | 0x0F => .ok (.idiv (vaFields w lit))
  | 0x10 => .ok (.irem (vaFields w lit))
  | 0x11 => .ok (.and (vaFields w lit))
  | 0x12 => .ok (.or (vaFields w lit))
  | 0x13 => .ok (.xor (vaFields w lit))
  | 0x14 => .ok (.andn (vaFields w lit))
  | 0x15 => .ok (.lop3 (vaFields w lit))
  | 0x16 => .ok (.shl (vaFields w lit))
  | 0x17 => .ok (.shrl (vaFields w lit))
  | 0x18 => .ok (.shra (vaFields w lit))
  | 0x19 => .ok (.rotl (vaFields w lit))
  | 0x1A => .ok (.funnel (vaFields w lit))
  | 0x1B => .ok (.bfx (vaFields w lit))
  | 0x1C => .ok (.bfi (vaFields w lit))
  | 0x1D => .ok (.popc (vaFields w lit))
  | 0x1E => .ok (.clz (vaFields w lit))
  | 0x1F => .ok (.brev (vaFields w lit))
  | 0x20 => .ok (.ffs (vaFields w lit))
  | 0x21 => .ok (.permb (vaFields w lit))
  | 0x22 => .ok (.fadd (vaFields w lit))
  | 0x23 => .ok (.fsub (vaFields w lit))
  | 0x24 => .ok (.fmul (vaFields w lit))
  | 0x25 => .ok (.fma (vaFields w lit))
  | 0x26 => .ok (.fmin (vaFields w lit))
  | 0x27 => .ok (.fmax (vaFields w lit))
  | 0x28 => .ok (.fneg (vaFields w lit))
  | 0x29 => .ok (.fabs (vaFields w lit))
  | 0x2A => .ok (.frnd (vaFields w lit))
  | 0x2B => .ok (.frcp (vaFields w lit))
  | 0x2C => .ok (.fsqrt (vaFields w lit))
  | 0x2D => .ok (.frsq (vaFields w lit))
  | 0x2E => .ok (.fdiv (vaFields w lit))
  | 0x2F => .ok (.fexp2 (vaFields w lit))
  | 0x30 => .ok (.flog2 (vaFields w lit))
  | 0x31 => .ok (.fsinpi (vaFields w lit))
  | 0x32 => .ok (.fcospi (vaFields w lit))
  | 0x33 => .ok (.fclass (vaFields w lit))
  | 0x34 => .ok (.cvt (vaFields w lit))
  | 0x35 => .ok (.pack (vaFields w lit))
  | 0x36 => .ok (.dot4 (vaFields w lit))
  | 0x37 => .ok (.dot2f (vaFields w lit))
  | 0x38 => .ok (.icmp (vcFields w lit))
  | 0x39 => .ok (.fcmp (vcFields w lit))
  | 0x3A => .ok (.plop (vaFields w lit))
  | 0x3B => .ok (.sel (vaFields w lit))
  | 0x3C =>
    match (w.extractLsb' 0 2).toNat with
    | 0 => .ok (.pmovToreg (vaFields w lit))
    | 1 => .ok (.pmovFromreg (vaFields w lit))
    | _ => .error .reservedField
  | 0x3D =>
    match (w.extractLsb' 0 2).toNat with
    | 0 => .ok (.voteAny (vaFields w lit))
    | 1 => .ok (.voteAll (vaFields w lit))
    | 2 => .ok (.voteBallot (vaFields w lit))
    | _ => .error .reservedField
  | 0x3E => .ok (.matchLanes (vaFields w lit))
  | 0x3F => .ok (.shfl (vaFields w lit))
  | 0x40 => .ok (.scan (vaFields w lit))
  | 0x41 => .ok (.reduce (vaFields w lit))
  | 0x42 => .ok (.elect (vaFields w lit))
  | 0x43 =>
    match (w.extractLsb' 0 2).toNat with
    | 0 => .ok (.movxRd (vaFields w lit))
    | 1 => .ok (.movxWr (vaFields w lit))
    | _ => .error .reservedField
  | 0x44 => .ok (.sreg (vaFields w lit))
  | 0x45 =>
    match (w.extractLsb' 0 2).toNat with
    | 0 => .ok (.v2sFirst (vaFields w lit))
    | 1 => .ok (.v2sLane (vaFields w lit))
    | _ => .error .reservedField
  | 0x50 => .ok (.ldS8 (mmFields w lit))
  | 0x51 => .ok (.ldB8 (mmFields w lit))
  | 0x52 => .ok (.ldS16 (mmFields w lit))
  | 0x53 => .ok (.ldB16 (mmFields w lit))
  | 0x54 => .ok (.ld32 (mmFields w lit))
  | 0x55 => .ok (.ld64 (mmFields w lit))
  | 0x56 => .ok (.ld128 (mmFields w lit))
  | 0x57 => .ok (.st8 (mmFields w lit))
  | 0x58 => .ok (.st16 (mmFields w lit))
  | 0x59 => .ok (.st32 (mmFields w lit))
  | 0x5A => .ok (.st64 (mmFields w lit))
  | 0x5B => .ok (.st128 (mmFields w lit))
  | 0x5C => .ok (.ldc (mmFields w lit))
  | 0x5D => .ok (.atomAdd (mmFields w lit))
  | 0x5E => .ok (.atomSmin (mmFields w lit))
  | 0x5F => .ok (.atomSmax (mmFields w lit))
  | 0x60 => .ok (.atomBmin (mmFields w lit))
  | 0x61 => .ok (.atomBmax (mmFields w lit))
  | 0x62 => .ok (.atomAnd (mmFields w lit))
  | 0x63 => .ok (.atomOr (mmFields w lit))
  | 0x64 => .ok (.atomXor (mmFields w lit))
  | 0x65 => .ok (.atomXchg (mmFields w lit))
  | 0x66 => .ok (.atomCas (mmFields w lit))
  | 0x67 => .ok (.atomFadd (mmFields w lit))
  | 0x68 => .ok (.atomAdd64 (mmFields w lit))
  | 0x69 => .ok (.atomCas64 (mmFields w lit))
  | 0x6B => .ok (.stmap (mmFields w lit))
  | 0x6C => .ok (.stunmap (mmFields w lit))
  | 0x6D => .ok (.stwb (mmFields w lit))
  | 0x6E => .ok (.stdrop (mmFields w lit))
  | 0x6F => .ok (.prefetch (mmFields w lit))
  | 0x70 => .ok (.fence (mmFields w lit))
  | 0x71 => .ok (.cntadd (mmFields w lit))
  | 0x78 => .ok (.bra (brFields w))
  | 0x79 => .ok (.brx (vaFields w lit))
  | 0x7A => .ok (.rcv (vaFields w lit))
  | 0x7B => .ok (.join (vaFields w lit))
  | 0x7C => .ok (.call (clFields w))
  | 0x7D =>
    match (w.extractLsb' 0 2).toNat with
    | 0 => .ok (.callx (vaFields w lit))
    | 1 => .ok (.callxTail (vaFields w lit))
    | _ => .error .reservedField
  | 0x7E => .ok (.ret (vaFields w lit))
  | 0x7F => .ok (.exit (vaFields w lit))
  | 0x80 =>
    match (w.extractLsb' 0 2).toNat with
    | 0 => .ok (.barArrive (vaFields w lit))
    | 1 => .ok (.barWait (vaFields w lit))
    | 2 => .ok (.barSync (vaFields w lit))
    | 3 => .ok (.barInit (vaFields w lit))
    | _ => .error .reservedField
  | 0x81 => .ok (.barexp (vaFields w lit))
  | 0x82 =>
    match (w.extractLsb' 0 2).toNat with
    | 0 => .ok (.cbarArrive (vaFields w lit))
    | 1 => .ok (.cbarWait (vaFields w lit))
    | 2 => .ok (.cbarSync (vaFields w lit))
    | _ => .error .reservedField
  | 0x83 => .ok (.waitge (vaFields w lit))
  | 0x84 => .ok (.mwait (vaFields w lit))
  | 0x85 => .ok (.yield (vaFields w lit))
  | 0x86 => .ok (.sleep (vaFields w lit))
  | 0x87 =>
    match (w.extractLsb' 0 2).toNat with
    | 0 => .ok (.forkSuspend (vaFields w lit))
    | 1 => .ok (.forkDetach (vaFields w lit))
    | _ => .error .reservedField
  | 0x88 => .ok (.tspawn (vaFields w lit))
  | 0x89 => .ok (.tend (vaFields w lit))
  | 0x8A => .ok (.tabort (vaFields w lit))
  | 0x8B => .ok (.tirrev (vaFields w lit))
  | 0x8C => .ok (.trap (vaFields w lit))
  | 0x8D => .ok (.bkpt (vaFields w lit))
  | 0x90 => .ok (.cpy (asFields w lit))
  | 0x91 => .ok (.tcopy (asFields w lit))
  | 0x92 => .ok (.tstore (asFields w lit))
  | 0x93 => .ok (.tgather (asFields w lit))
  | 0x94 => .ok (.ccopy (asFields w lit))
  | 0x95 => .ok (.codewr (asFields w lit))
  | 0x96 => .ok (.codeswap (asFields w lit))
  | 0x97 => .ok (.rgive (asFields w lit))
  | 0x98 => .ok (.rtake (asFields w lit))
  | 0x99 => .ok (.encpost (asFields w lit))
  | 0x9A => .ok (if (asFields w lit).kind = 1 then .encframeClose (asFields w lit) else .encframeOpen (asFields w lit))
  | 0xA0 => .ok (.covbegin (vaFields w lit))
  | 0xA1 => .ok (.covline (vaFields w lit))
  | 0xA2 => .ok (.covquad (vaFields w lit))
  | 0xA3 => .ok (.covcube (vaFields w lit))
  | 0xA4 => .ok (.covtri (vaFields w lit))
  | 0xA5 => .ok (.covres (vaFields w lit))
  | 0xA6 => .ok (.covend (vaFields w lit))
  | 0xA7 => .ok (.covpop (vaFields w lit))
  | 0xA8 => .ok (.ddx (vaFields w lit))
  | 0xA9 => .ok (.ddy (vaFields w lit))
  | 0xB0 => .ok (.mxrd (mxFields w))
  | 0xB1 => .ok (.mxwr (mxFields w))
  | 0xB2 => .ok (.mxstat (mxFields w))
  | 0xC0 =>
    match (w.extractLsb' 0 2).toNat with
    | 0 => .ok (.resumelRetry (vaFields w lit))
    | 1 => .ok (.resumelSkip (vaFields w lit))
    | _ => .error .reservedField
  | 0xC1 => .ok (.killl (vaFields w lit))
  | 0xC2 =>
    match (w.extractLsb' 0 2).toNat with
    | 0 => .ok (.originTag (vaFields w lit))
    | 1 => .ok (.originAddr (vaFields w lit))
    | 2 => .ok (.originReg (vaFields w lit))
    | _ => .error .reservedField
  | 0xC3 => .ok (.rth (vaFields w lit))
  | 0xC4 => .ok (.sset (vaFields w lit))
  | 0xC5 => .ok (.ckpt (vaFields w lit))
  | _ => .error .illegalOpc

/-- A word of four bytes, little-endian (R162). -/
def wordLE (a b c d : Byte) : Word := d ++ c ++ b ++ a

/-- Decodes the instruction at the start of a byte string, and gives the rest (R162, R187). -/
def decode : List Byte → Except DecodeError (Instr × List Byte)
  | a :: b :: c :: d :: rest =>
    let w := wordLE a b c d
    if hasLiteral w && opAssigned (opcodeOf w) then
      match rest with
      | e :: f :: g :: h :: rest' => (decodeWord w (some (wordLE e f g h))).map (fun i => (i, rest'))
      | _ => .error .reservedField
    else (decodeWord w none).map (fun i => (i, rest))
  | _ => .error .truncated

/-- Decodes a matrix stream word (R194, R309). -/
def decodeStream (w : Word) : Except DecodeError Instr :=
  match (w.extractLsb' 26 6).toNat with
  | 0x00 => .ok (.mnop (w.extractLsb' 0 26))
  | 0x01 => .ok (.mteam (w.extractLsb' 24 2) (w.extractLsb' 22 2) (w.extractLsb' 18 4) (w.extractLsb' 14 4)
      (w.extractLsb' 0 14))
  | 0x02 => .ok (.mdesc (w.extractLsb' 23 3) (w.extractLsb' 19 4) (w.extractLsb' 18 1) (w.extractLsb' 0 18))
  | 0x03 => .ok (.mzero (w.extractLsb' 25 1) (w.extractLsb' 0 25))
  | 0x04 => .ok (.mma (w.extractLsb' 23 3) (w.extractLsb' 20 3) (w.extractLsb' 19 1) (w.extractLsb' 0 19))
  | 0x05 => .ok (.mmas (w.extractLsb' 23 3) (w.extractLsb' 20 3) (w.extractLsb' 19 1) (w.extractLsb' 0 19))
  | 0x06 =>
    if w.getLsbD 15 then .ok (.mloopMreg (w.extractLsb' 16 10) (w.extractLsb' 4 11) (w.extractLsb' 0 4))
    else .ok (.mloop (w.extractLsb' 16 10) (w.extractLsb' 0 15))
  | 0x07 => .ok (.mendl (w.extractLsb' 0 26))
  | 0x08 => .ok (.mbarw (w.extractLsb' 22 4) (w.extractLsb' 18 4) (w.extractLsb' 17 1) (w.extractLsb' 0 17))
  | 0x09 => .ok (.mbara (w.extractLsb' 22 4) (w.extractLsb' 20 2) (w.extractLsb' 0 20))
  | 0x0A => .ok (.mset (w.extractLsb' 22 4) (w.extractLsb' 0 22))
  | 0x0B => .ok (.madd (w.extractLsb' 22 4) (w.extractLsb' 0 22))
  | 0x0C => .ok (.mbuf (w.extractLsb' 18 8) (w.extractLsb' 0 18))
  | 0x0D => .ok (.mfence (w.extractLsb' 0 26))
  | 0x0E => .ok (.mend (w.extractLsb' 0 26))
  | _ => .error .reservedStream

/-! ## The encoder -/

/-- The I bit. -/
def litBit (lit : Option Word) : BitVec 1 := if lit.isSome then 1 else 0

/-- A word and its literal. -/
def withLit (w : Word) (lit : Option Word) : List Word :=
  match lit with
  | none => [w]
  | some l => [w, l]

/-- A VA word (R175). -/
def vaWord (op : BitVec 8) (o : VaFields) : Word := op ++ o.d ++ o.a ++ o.b ++ litBit o.lit ++ o.m
/-- A VC word (R179). -/
def vcWord (op : BitVec 8) (o : VcFields) : Word := op ++ o.pd ++ o.cond ++ o.a ++ o.b ++ litBit o.lit ++ o.m
/-- An MM word (R180). -/
def mmWord (op : BitVec 8) (o : MmFields) : Word := op ++ o.t ++ o.a ++ o.l ++ o.space ++ o.ord ++ litBit o.lit
/-- A BR word (R182). -/
def brWord (op : BitVec 8) (o : BrFields) : Word := op ++ o.pe ++ o.pi ++ o.pn ++ o.off
/-- A CL word (R183). -/
def clWord (op : BitVec 8) (o : ClFields) : Word := op ++ o.link ++ o.off
/-- An AS word (R184). -/
def asWord (op : BitVec 8) (o : AsFields) : Word := op ++ o.a ++ o.b ++ o.l ++ o.bar ++ o.c ++ litBit o.lit
/-- An MX word (R186). -/
def mxWord (op : BitVec 8) (o : MxFields) : Word := op ++ o.d ++ o.a ++ o.l ++ o.f

/-- The words of a VA instruction. -/
def vaWords (op : BitVec 8) (o : VaFields) : List Word := withLit (vaWord op o) o.lit
/-- The words of a VC instruction. -/
def vcWords (op : BitVec 8) (o : VcFields) : List Word := withLit (vcWord op o) o.lit
/-- The words of an MM instruction. -/
def mmWords (op : BitVec 8) (o : MmFields) : List Word := withLit (mmWord op o) o.lit
/-- The words of a BR instruction. -/
def brWords (op : BitVec 8) (o : BrFields) : List Word := [brWord op o]
/-- The words of a CL instruction. -/
def clWords (op : BitVec 8) (o : ClFields) : List Word := [clWord op o]
/-- The words of an AS instruction. -/
def asWords (op : BitVec 8) (o : AsFields) : List Word := withLit (asWord op o) o.lit
/-- The words of an MX instruction. -/
def mxWords (op : BitVec 8) (o : MxFields) : List Word := [mxWord op o]

/-- The words of a wave instruction or stream word; events have none. -/
def encode : Instr → List Word
  | .nop o => vaWords 0x00 o
  | .mov o => vaWords 0x01 o
  | .iadd o => vaWords 0x02 o
  | .isub o => vaWords 0x03 o
  | .imul o => vaWords 0x04 o
  | .imulh o => vaWords 0x05 o
  | .imad o => vaWords 0x06 o
  | .imulw o => vaWords 0x07 o
  | .imadw o => vaWords 0x08 o
  | .iadd64 o => vaWords 0x09 o
  | .isub64 o => vaWords 0x0A o
  | .lea o => vaWords 0x0B o
  | .imin o => vaWords 0x0C o
  | .imax o => vaWords 0x0D o
  | .iabs o => vaWords 0x0E o
  | .idiv o => vaWords 0x0F o
  | .irem o => vaWords 0x10 o
  | .and o => vaWords 0x11 o
  | .or o => vaWords 0x12 o
  | .xor o => vaWords 0x13 o
  | .andn o => vaWords 0x14 o
  | .lop3 o => vaWords 0x15 o
  | .shl o => vaWords 0x16 o
  | .shrl o => vaWords 0x17 o
  | .shra o => vaWords 0x18 o
  | .rotl o => vaWords 0x19 o
  | .funnel o => vaWords 0x1A o
  | .bfx o => vaWords 0x1B o
  | .bfi o => vaWords 0x1C o
  | .popc o => vaWords 0x1D o
  | .clz o => vaWords 0x1E o
  | .brev o => vaWords 0x1F o
  | .ffs o => vaWords 0x20 o
  | .permb o => vaWords 0x21 o
  | .fadd o => vaWords 0x22 o
  | .fsub o => vaWords 0x23 o
  | .fmul o => vaWords 0x24 o
  | .fma o => vaWords 0x25 o
  | .fmin o => vaWords 0x26 o
  | .fmax o => vaWords 0x27 o
  | .fneg o => vaWords 0x28 o
  | .fabs o => vaWords 0x29 o
  | .frnd o => vaWords 0x2A o
  | .frcp o => vaWords 0x2B o
  | .fsqrt o => vaWords 0x2C o
  | .frsq o => vaWords 0x2D o
  | .fdiv o => vaWords 0x2E o
  | .fexp2 o => vaWords 0x2F o
  | .flog2 o => vaWords 0x30 o
  | .fsinpi o => vaWords 0x31 o
  | .fcospi o => vaWords 0x32 o
  | .fclass o => vaWords 0x33 o
  | .cvt o => vaWords 0x34 o
  | .pack o => vaWords 0x35 o
  | .dot4 o => vaWords 0x36 o
  | .dot2f o => vaWords 0x37 o
  | .icmp o => vcWords 0x38 o
  | .fcmp o => vcWords 0x39 o
  | .plop o => vaWords 0x3A o
  | .sel o => vaWords 0x3B o
  | .pmovToreg o | .pmovFromreg o => vaWords 0x3C o
  | .voteAny o | .voteAll o | .voteBallot o => vaWords 0x3D o
  | .matchLanes o => vaWords 0x3E o
  | .shfl o => vaWords 0x3F o
  | .scan o => vaWords 0x40 o
  | .reduce o => vaWords 0x41 o
  | .elect o => vaWords 0x42 o
  | .movxRd o | .movxWr o => vaWords 0x43 o
  | .sreg o => vaWords 0x44 o
  | .v2sFirst o | .v2sLane o => vaWords 0x45 o
  | .ldS8 o => mmWords 0x50 o
  | .ldB8 o => mmWords 0x51 o
  | .ldS16 o => mmWords 0x52 o
  | .ldB16 o => mmWords 0x53 o
  | .ld32 o => mmWords 0x54 o
  | .ld64 o => mmWords 0x55 o
  | .ld128 o => mmWords 0x56 o
  | .st8 o => mmWords 0x57 o
  | .st16 o => mmWords 0x58 o
  | .st32 o => mmWords 0x59 o
  | .st64 o => mmWords 0x5A o
  | .st128 o => mmWords 0x5B o
  | .ldc o => mmWords 0x5C o
  | .atomAdd o => mmWords 0x5D o
  | .atomSmin o => mmWords 0x5E o
  | .atomSmax o => mmWords 0x5F o
  | .atomBmin o => mmWords 0x60 o
  | .atomBmax o => mmWords 0x61 o
  | .atomAnd o => mmWords 0x62 o
  | .atomOr o => mmWords 0x63 o
  | .atomXor o => mmWords 0x64 o
  | .atomXchg o => mmWords 0x65 o
  | .atomCas o => mmWords 0x66 o
  | .atomFadd o => mmWords 0x67 o
  | .atomAdd64 o => mmWords 0x68 o
  | .atomCas64 o => mmWords 0x69 o
  | .stmap o => mmWords 0x6B o
  | .stunmap o => mmWords 0x6C o
  | .stwb o => mmWords 0x6D o
  | .stdrop o => mmWords 0x6E o
  | .prefetch o => mmWords 0x6F o
  | .fence o => mmWords 0x70 o
  | .cntadd o => mmWords 0x71 o
  | .bra o => brWords 0x78 o
  | .brx o => vaWords 0x79 o
  | .rcv o => vaWords 0x7A o
  | .join o => vaWords 0x7B o
  | .call o => clWords 0x7C o
  | .callx o | .callxTail o => vaWords 0x7D o
  | .ret o => vaWords 0x7E o
  | .exit o => vaWords 0x7F o
  | .barArrive o | .barWait o | .barSync o | .barInit o => vaWords 0x80 o
  | .barexp o => vaWords 0x81 o
  | .cbarArrive o | .cbarWait o | .cbarSync o => vaWords 0x82 o
  | .waitge o => vaWords 0x83 o
  | .mwait o => vaWords 0x84 o
  | .yield o => vaWords 0x85 o
  | .sleep o => vaWords 0x86 o
  | .forkSuspend o | .forkDetach o => vaWords 0x87 o
  | .tspawn o => vaWords 0x88 o
  | .tend o => vaWords 0x89 o
  | .tabort o => vaWords 0x8A o
  | .tirrev o => vaWords 0x8B o
  | .trap o => vaWords 0x8C o
  | .bkpt o => vaWords 0x8D o
  | .cpy o => asWords 0x90 o
  | .tcopy o => asWords 0x91 o
  | .tstore o => asWords 0x92 o
  | .tgather o => asWords 0x93 o
  | .ccopy o => asWords 0x94 o
  | .codewr o => asWords 0x95 o
  | .codeswap o => asWords 0x96 o
  | .rgive o => asWords 0x97 o
  | .rtake o => asWords 0x98 o
  | .encpost o => asWords 0x99 o
  | .encframeOpen o | .encframeClose o => asWords 0x9A o
  | .covbegin o => vaWords 0xA0 o
  | .covline o => vaWords 0xA1 o
  | .covquad o => vaWords 0xA2 o
  | .covcube o => vaWords 0xA3 o
  | .covtri o => vaWords 0xA4 o
  | .covres o => vaWords 0xA5 o
  | .covend o => vaWords 0xA6 o
  | .covpop o => vaWords 0xA7 o
  | .ddx o => vaWords 0xA8 o
  | .ddy o => vaWords 0xA9 o
  | .mxrd o => mxWords 0xB0 o
  | .mxwr o => mxWords 0xB1 o
  | .mxstat o => mxWords 0xB2 o
  | .resumelRetry o | .resumelSkip o => vaWords 0xC0 o
  | .killl o => vaWords 0xC1 o
  | .originTag o | .originAddr o | .originReg o => vaWords 0xC2 o
  | .rth o => vaWords 0xC3 o
  | .sset o => vaWords 0xC4 o
  | .ckpt o => vaWords 0xC5 o
  | .mnop r => [(0x00 : BitVec 6) ++ r]
  | .mteam mode tm1 first hreg z => [(0x01 : BitVec 6) ++ mode ++ tm1 ++ first ++ hreg ++ z]
  | .mdesc slot mreg z off => [(0x02 : BitVec 6) ++ slot ++ mreg ++ z ++ off]
  | .mzero kind z => [(0x03 : BitVec 6) ++ kind ++ z]
  | .mma da db ovw z => [(0x04 : BitVec 6) ++ da ++ db ++ ovw ++ z]
  | .mmas da db ovw z => [(0x05 : BitVec 6) ++ da ++ db ++ ovw ++ z]
  | .mloop span count => [(0x06 : BitVec 6) ++ span ++ (0 : BitVec 1) ++ count]
  | .mloopMreg span z mreg => [(0x06 : BitVec 6) ++ span ++ (1 : BitVec 1) ++ z ++ mreg]
  | .mendl r => [(0x07 : BitVec 6) ++ r]
  | .mbarw bar mreg inc z => [(0x08 : BitVec 6) ++ bar ++ mreg ++ inc ++ z]
  | .mbara bar lag z => [(0x09 : BitVec 6) ++ bar ++ lag ++ z]
  | .mset mreg imm => [(0x0A : BitVec 6) ++ mreg ++ imm]
  | .madd mreg imm => [(0x0B : BitVec 6) ++ mreg ++ imm]
  | .mbuf slots z => [(0x0C : BitVec 6) ++ slots ++ z]
  | .mfence r => [(0x0D : BitVec 6) ++ r]
  | .mend r => [(0x0E : BitVec 6) ++ r]
  | _ => []

/-- An instruction's bytes in memory (R162). -/
def encodeBytes (i : Instr) : List Byte :=
  (encode i).flatMap (fun w => [w.extractLsb' 0 8, w.extractLsb' 8 8, w.extractLsb' 16 8, w.extractLsb' 24 8])

/-- Whether an instruction is a matrix stream word (R309). -/
def Instr.isStream : Instr → Bool
  | .mnop _ | .mteam .. | .mdesc .. | .mzero .. | .mma .. | .mmas .. | .mloop .. | .mloopMreg .. | .mendl _ | .mbarw ..
  | .mbara .. | .mset .. | .madd .. | .mbuf .. | .mfence _ | .mend _ => true
  | _ => false

/-- The bytes of a table word: bit 0 is the least significant bit of the first word; bits above are zero. -/
def tableBytes (w : Nat) : List Byte := Machine.bytesLE 8 w

/-- The instruction the decoder reads from a table word. A code word and a stream word may have the same bits (R188):
the word is read as code where it is a well-formed instruction of a wave, and otherwise as a stream word. -/
def decodeTableWord (_nbits w : Nat) : Option Instr :=
  match decode (tableBytes w) with
  | .ok (i, _) =>
    if i.wellFormed then some i
    else
      match decodeStream (BitVec.ofNat 32 w) with
      | .ok j => if j.wellFormed then some j else some i
      | .error _ => some i
  | .error _ =>
    match decodeStream (BitVec.ofNat 32 w) with
    | .ok j => some j
    | .error _ => none

end Sys2Proof
end

