-- ==== Sys2Proof/Machine/Ops.lean ====
section
/-! DEFINITION. The named operations every instruction is written over: registers (R105, R174), positions in clauses
(R168), code fetch (R170), the reconvergence stack (R68, R255, R256), taking an exception and returning from one (R463 to
R470, R521, R551), barriers (R262, R265, R492), the end of waves and blocks (R261), and the frame of an instruction's
execution (R165, R479 to R481). -/
namespace Sys2Proof.Machine

/-! ## Registers -/

/-- The cell of a vector register in a lane. -/
def vCell (r lane : Nat) : Nat := 16 * r + lane

/-- The poison number of a scalar register word; a vector word's is its cell. -/
def sCell (n : Nat) : Nat := 1536 + n

/-- A vector register in a lane. -/
def Wave.rdV (w : Wave) (r lane : Nat) : Word := Tbl.cell 0 w.v (vCell r lane)

/-- A scalar register. -/
def Wave.rdS (w : Wave) (n : Nat) : Word := Tbl.cell 0 w.s n

/-- A register field as lane `lane` reads it (R174). -/
def Wave.rd (w : Wave) (f : RegField) (lane : Nat) : Word :=
  if isScalar f then w.rdS (f.toNat - 96) else w.rdV f.toNat lane

/-- The j-th register of a pair, quad or group. -/
def Wave.rdN (w : Wave) (f : RegField) (j lane : Nat) : Word := w.rd (f + BitVec.ofNat 7 j) lane

/-- A pair (R174). -/
def Wave.rd64 (w : Wave) (f : RegField) (lane : Nat) : DWord := pairOf (w.rd f lane) (w.rdN f 1 lane)

/-- Writes a vector register in a lane; the word's poison ends (R514). -/
def Wave.wrV (w : Wave) (r lane : Nat) (x : Word) : Wave :=
  { w with v := Tbl.setCell 0 w.v (vCell r lane) x, poison := removeNat (vCell r lane) w.poison }

/-- Writes a scalar register (R514). -/
def Wave.wrS (w : Wave) (n : Nat) (x : Word) : Wave :=
  { w with s := Tbl.setCell 0 w.s n x, poison := removeNat (sCell n) w.poison }

/-- Writes a register field in one lane, or the scalar. -/
def Wave.wr1 (w : Wave) (f : RegField) (lane : Nat) (x : Word) : Wave :=
  if isScalar f then w.wrS (f.toNat - 96) x else w.wrV f.toNat lane x

/-- Writes a register field in every lane of a list, or a scalar once, from its first lane (R212). -/
def Wave.wr (w : Wave) (f : RegField) (lanes : List Nat) (g : Nat → Word) : Wave :=
  if isScalar f then
    match lanes with
    | [] => w
    | l :: _ => w.wrS (f.toNat - 96) (g l)
  else lanes.foldl (fun x l => x.wrV f.toNat l (g l)) w

/-- Writes a pair (R174). -/
def Wave.wr64 (w : Wave) (f : RegField) (lanes : List Nat) (g : Nat → DWord) : Wave :=
  (w.wr f lanes (fun l => loWord (g l))).wr (f + 1) lanes (fun l => hiWord (g l))

/-- A predicate register. -/
def Wave.pred (w : Wave) (p : Nat) : Mask := Tbl.cell 0 w.p p

/-- A predicate in a lane. -/
def Wave.predBit (w : Wave) (p lane : Nat) : Bool := hasLane (w.pred p) lane

/-- Writes a predicate in the lanes of a list (R214). -/
def Wave.wrPred (w : Wave) (p : Nat) (lanes : List Nat) (g : Nat → Bool) : Wave :=
  let m := maskOf lanes
  let on := maskOf (lanes.filter g)
  { w with p := Tbl.setCell 0 w.p p ((w.pred p &&& ~~~m) ||| on) }

/-- Whether a register word is poisoned (R514). -/
def Wave.rdPoison (w : Wave) (f : RegField) (lane : Nat) : Bool :=
  w.poison.contains (if isScalar f then sCell (f.toNat - 96) else vCell f.toNat lane)

/-! ## Positions -/

/-- The place after a word of `len` bytes: past the clause's last word a header is next (R168), also where a literal would lie
beyond it (R187). -/
def Pos.after (p : Pos) (len : Nat) : Pos :=
  let pc := p.pc + BitVec.ofNat 64 len
  match p.clause with
  | none => ⟨pc, none⟩
  | some c => if (pc - c.hdr).toNat < 4 * (c.n.toNat + 1) then ⟨pc, some c⟩ else ⟨c.hdr + BitVec.ofNat 64 (4 * (c.n.toNat + 1)), none⟩

/-- The length of an instruction with its literal (R187). -/
def instrBytes (i : Instr) : Nat := 4 * (encode i).length

/-- What is left of the replays after one of them (R468). -/
def Replay.next (r : Replay) : Option Replay :=
  match r.rest with
  | [] => none
  | (m, p) :: t => some { lanes := m, cont := p, rest := t, waits := if r.waits = some (t.length + 1) then none else r.waits }

/-- How many replays are still to issue. -/
def replaysLeft (r : Option Replay) : Nat :=
  match r with
  | some r => r.rest.length + 1
  | none => 0

/-- The wait after the replays is skipped (R501): the wave goes on behind it. -/
def Replay.skipWait (r : Replay) (after : Pos) : Replay :=
  match r.waits with
  | none => r
  | some k =>
    let es := (r.lanes, r.cont) :: r.rest
    let j := es.length - 1 - k
    let go : Mask × Pos := ((es.getD j (0, after)).1, (es.getD (j + 1) (0, after)).2)
    match es.take j ++ go :: es.drop (j + 2) with
    | (m, p) :: t => { lanes := m, cont := p, rest := t }
    | [] => r

/-- Where the wave goes after its instruction: past it, or where a replay continues (R468). -/
def Wave.nextPos (w : Wave) (len : Nat) : Pos :=
  match w.replay with
  | some r => r.cont
  | none => w.pos.after len

/-- The wave past its instruction. -/
def Wave.advance (w : Wave) (len : Nat) : Wave := { w with pos := w.nextPos len, replay := w.replay.bind Replay.next }

/-- A wave with the replays left out whose lanes are gone, and a wait of theirs. -/
def skipGone : Nat → Wave → Wave
  | 0, w => w
  | fuel + 1, w =>
    match w.replay with
    | some r => if r.lanes &&& w.active = 0 then
        skipGone fuel { w with pos := r.cont, replay := r.next, wait := if r.waits.isSome then w.wait else none }
      else w
    | none => w

/-- Whether the wave's wait, if it has one, goes on: no trap holds it and no replay comes first (R276, R468). -/
def Wave.standing (w : Wave) : Bool := w.trap.isNone && (w.replay.bind (fun r => r.waits)).isNone

/-- A wave moved on past the replays that come before its wait. -/
def pastReplays : Nat → Wave → Wave
  | 0, w => w
  | fuel + 1, w =>
    match w.replay with
    | some r => if r.waits.isSome then pastReplays fuel { w with pos := r.cont, replay := r.next } else w
    | none => w

/-- A wave as it stands at its wait: what a trap holds back, and replays, come first (R276, R468). -/
def Wave.atWait (w : Wave) : Wave :=
  let w := match w.trap with
    | some t => { w with pos := t.next, replay := t.after }
    | none => w
  pastReplays (replaysLeft w.replay) w

/-- The lanes that pass the clause predicate (R165). -/
def Wave.passing (w : Wave) : Mask :=
  match w.pos.clause with
  | none => w.active
  | some c => if c.pe then w.active &&& (if c.pn then ~~~(w.pred c.pi.toNat) else w.pred c.pi.toNat) else w.active

/-- The lanes that take part (R165), or a replay's lanes (R468). -/
def Wave.part (w : Wave) : Mask :=
  match w.replay with
  | some r => r.lanes &&& w.active
  | none => w.passing

/-- Sets a wave. -/
def State.setWave (s : State) (w : Nat) (x : Wave) : State := { s with waves := Tbl.set s.waves w x }

/-- The core a wave uses caches and TLBs of; a launch scalar unit has its own. -/
def Wave.cacheCore (w : Wave) : Nat := w.core

/-! ## Job cards -/

/-- A field of a card: bits [h:l] of the 64-bit word at a byte offset (R44). -/
def cardField (card : List Word) (off h l : Nat) : Nat := bitsOf (dwordAt card (off / 4)).toNat h l

/-- A 64-bit field of a card (R44). -/
def card64 (card : List Word) (off : Nat) : Nat := (dwordAt card (off / 4)).toNat

/-- A card's flag (R45). -/
def cardFlag (card : List Word) (n : Nat) : Bool := bitOf (cardField card 0 31 16) n

/-- Waves per block (R44). -/
def cardWaves (card : List Word) : Nat := cardField card 0x18 37 32 + 1

/-- Roles (R44). -/
def cardRoles (card : List Word) : Nat := cardField card 0x18 52 51 + 1

/-- BASE of a role (R46). -/
def cardBase (card : List Word) (k : Nat) : Nat := cardField card 0x70 (35 + 8 * k) (32 + 8 * k)

/-- MAX of a role (R46). -/
def cardMax (card : List Word) (k : Nat) : Nat := cardField card 0x70 (39 + 8 * k) (36 + 8 * k)

/-- The card of a wave's job; empty when there is none. -/
def State.cardOf (s : State) (job : Nat) : List Word := ((Tbl.get s.jobs job).map (fun (j : Job) => j.card)).getD []

/-- The task entry a wave runs, with its seq (R356). -/
def State.taskOf (s : State) (w : Wave) : Option (Nat × Task) :=
  match w.kind, Tbl.get s.blocks w.blk with
  | .ordinary, some b =>
    match b.task, (Tbl.get s.jobs w.job).bind (fun (j : Job) => j.ord) with
    | some q, some o => (Tbl.get o.tasks q).map (fun t => (q, t))
    | _, _ => none
  | _, _ => none

/-- Whether a wave runs a speculative task (R357). -/
def State.speculative (s : State) (w : Wave) : Bool :=
  match s.taskOf w with
  | some (_, t) => !t.irrev
  | none => false

/-- Changes a task entry. -/
def State.modTask (s : State) (job seq : Nat) (f : Task → Task) : State :=
  s.modJob job (fun j => { j with ord := j.ord.map (fun o => { o with tasks := Tbl.modify o.tasks seq f }) })

/-! ## L1 and code -/

/-- Whether a fetch must wait: the word is in no cache, and its read must (R108, R150, R156). -/
def fetchWaits (s : State) (core vale vd : Nat) (addr : DWord) : Bool :=
  let cached := (s.core? core).icache.any (fun e => decide (e.vale = vale) && decide (e.vd = vd) && decide (e.addr = addr.toNat))
  !cached && (walkWaits s (some core) vale vd addr.toNat .fetch || match (translate s (some core) vale vd addr.toNat 4 .fetch).2 with
    | .ok x => readWaits s (dieOfCore core) x.target 4
    | .error _ => false)

/-- Fetches a code word through the 32 KiB instruction cache of a core, filled from L2 (R170), for waves and sequencers; a
DEVICE page is not cached (R126). -/
def fetchWord (s : State) (core vale vd : Nat) (addr : DWord) : State × Except AddrFault Word :=
  match (s.core? core).icache.find? (fun e => decide (e.vale = vale) && decide (e.vd = vd) && decide (e.addr = addr.toNat)) with
  | some e => (s, .ok e.word)
  | none =>
    match translate s (some core) vale vd addr.toNat 4 .fetch with
    | (s, .error f) => (s, .error f)
    | (s, .ok x) =>
      let (w, s) := match x.target with
        | .mem k => let r := homeRead s (dieOfCore core) vale vd k 4 0 x.nc x.dev; (BitVec.ofNat 32 (natLE r.2), r.1)
        | t => let r := elseBytes s vale t 4; (BitVec.ofNat 32 (natLE r.2), r.1)
      (if x.dev then s else s.modCore core (fun c => { c with icache := (⟨vale, vd, addr.toNat, w, x.lg⟩ :: c.icache).take 8192 }), .ok w)

/-- The clause a header word opens (R163). -/
def clauseOf (addr : DWord) (w : Word) : Clause :=
  { hdr := addr, n := w.extractLsb' 24 4, cls := w.extractLsb' 21 3, pe := w.getLsbD 20, pi := w.extractLsb' 17 3, pn := w.getLsbD 16 }

/-- Whether a word is a valid CTRL header whose clause reaches a word k words after it (R163). -/
def ctrlHeader (w : Word) (k : Nat) : Bool :=
  decide (w.extractLsb' 28 4 = 0xF) && decide (w.extractLsb' 21 3 = 3) && decide (w.extractLsb' 0 11 = 0) &&
    decide (k ≤ (w.extractLsb' 24 4).toNat)

/-- The clause that holds a JOIN: the nearest CTRL header among the 15 words before it (DEDUCED, log 5). -/
def clauseBefore (s : State) (core vale vd : Nat) (join : DWord) : List Nat → Option Clause
  | [] => none
  | k :: t =>
    let a := join - BitVec.ofNat 64 (4 * k)
    match (fetchWord s core vale vd a).2 with
    | .ok w => if ctrlHeader w k then some (clauseOf a w) else clauseBefore s core vale vd join t
    | .error _ => none

/-! ## The reconvergence stack -/

/-- The distinct targets of some lanes, ascending (R256). -/
def targetsOf (lanes : List Nat) (t : Nat → DWord) : List Nat :=
  lanes.foldl (fun ts l => insertNat (t l).toNat ts) []

/-- A PATH entry for the lanes whose target is `a` (R68). -/
def pathEntry (lanes : List Nat) (t : Nat → DWord) (d : BitVec 8) (a : Nat) : StackEntry :=
  ⟨.path, BitVec.ofNat 64 a, maskOf (lanes.filter (fun l => decide ((t l).toNat = a))), d⟩

/-- Split(S, t, d) of R256: the lowest target runs, the others are pushed, highest first. -/
def Wave.split (w : Wave) (lanes : List Nat) (t : Nat → DWord) (d : BitVec 8) : Wave :=
  match targetsOf lanes t with
  | [] => { w with active := 0, depth := d }
  | a :: rest =>
    { w with
      stack := rest.map (pathEntry lanes t d) ++ w.stack
      active := (pathEntry lanes t d a).mask
      pos := ⟨BitVec.ofNat 64 a, none⟩
      depth := d }

/-- What the pop of R255 comes to. -/
inductive Popped where
  | run (w : Wave)
  | ended (w : Wave)
  | reconv (w : Wave) (pc : DWord)
  | ret (w : Wave)

/-- The pop of R255, up to an entry that has lanes to run. -/
def popStack : List StackEntry → Wave → Popped
  | [], w => .ended { w with stack := [], active := 0 }
  | e :: t, w =>
    let w := { w with depth := e.depth, stack := t }
    match e.kind with
    | .path =>
      let m := e.mask &&& ~~~(w.exited ||| w.returned)
      if m = 0 then popStack t w else .run { w with active := m, pos := ⟨e.pc, none⟩ }
    | .reconv =>
      let m := e.mask &&& ~~~(w.exited ||| w.returned)
      if m = 0 then popStack t w else .reconv { w with active := m } e.pc
    | .call =>
      let w := { w with returned := w.returned &&& ~~~e.mask }
      let m := e.mask &&& ~~~w.exited
      if m = 0 then popStack t w else .ret { w with active := m }

/-- The return target of a lane (R255). -/
def Wave.retTarget (w : Wave) (l : Nat) : DWord := w.rd64 (Tbl.cell 0 w.lpair l) l

/-! ## Taking an exception -/

/-- The ORIGIN.TAG slot of a wave, and the unit a record names for it (R458, R459). -/
def trapUnit (t : Trap) (cause : BitVec 8) : Nat :=
  if cause = cXlate || cause = cProtect || cause = cPoison then 2 else if t.part.isSome then 1 else 0

/-- The record of lanes that fault alike (R469, R470, R472), in lane order: its detail and address are those of the lowest. -/
def trapRec (tod : Nat) (w : Wave) (pc : DWord) (fs : List LaneFault) (why unit : Nat) (deferred : Bool) : ErrRec :=
  match fs with
  | [] => ErrRec.blank 0 1 (some w.vale) (some w.vd)
  | f :: _ =>
    { cause := f.cause, sev := 1, vale := some w.vale, vd := some w.vd, deferred := deferred, rolled := false,
      core := w.core, pc := pc.toNat, addr := f.addr.toNat, lanes := (maskOf (fs.map (fun f => f.lane))).toNat,
      slot := w.slot, unit := unit, detail := trapDetail why 0 0 f.detail.toNat 0, tod := some tod }

/-- One record for each cause among lanes of a trap (R469). -/
def recordCauses (s : State) (w : Wave) (t : Trap) (why : Nat) (deferred : Bool) (fs : List LaneFault) : State :=
  (fs.map (fun f => f.cause)).eraseDups.foldl (fun s c =>
    record s (trapRec t.tod w t.at_.pc (fs.filter (fun f => decide (f.cause = c))) why (trapUnit t c) deferred)) s

/-- Whether R504 records an address fault by itself. -/
def selfRecorded (f : LaneFault) : Bool :=
  decide (f.cause = cXlate) && (decide (f.detail = 3) || decide (f.detail = 4) || decide (f.detail = 6))

/-- The trap handler's entry of a job (R44); 0 means the VD's default handler. -/
def trapPc (card : List Word) : Nat := card64 card 0x68

/-- Frees a handler slot (R466). -/
def freeSlot (s : State) (w : Nat) : State := freeHandlers s (fun x => decide (x = w))

/-- Marks the lanes a handler wave holds as resolved (R468): a lane with no choice as KILLL. -/
def releaseLanes (s : State) (h : Nat) : State :=
  let settleLane (f : LaneFault) : LaneFault :=
    if f.handler = some h && !f.resolved then { f with resolved := true, choice := some (f.choice.getD .kill) } else f
  let g (w : Wave) : Wave := { w with trap := w.trap.map (fun t => { t with lanes := t.lanes.map settleLane }) }
  { s with waves := Tbl.mapVals (fun _ w => g w) s.waves }

/-- Writes the record of the origin lanes a handler leaves unresolved, one for each origin wave and cause (R276, R470). -/
def recordUnresolved (s : State) (h : Nat) : State :=
  s.waves.foldl (fun s e =>
    match e.2.trap with
    | none => s
    | some t =>
      let fs := t.lanes.filter (fun f => decide (f.handler = some h) && f.choice.isNone)
      recordCauses s e.2 t 1 t.deferred fs) s

/-- Ends a handler or firmware wave (R276, R470, R495): unresolved lanes are recorded and resolved as KILLL. -/
def endHandler (s : State) (h : Nat) : State :=
  let s := freeSlot (releaseLanes (recordUnresolved s h) h) h
  { s with waves := Tbl.erase s.waves h }

/-- Completes the owner's FWWAVE command when its firmware wave ends (R418): RESULT 0 and VF vector 1. -/
def endCommand (s : State) (vale : Nat) (result : BitVec 8) : State :=
  sendMsix (s.modVale vale (fun v => { v with cmd := { v.cmd with busy := false, result := result } })) (vale + 1) 1

/-- Ends a wave of a handler slot: a handler or firmware wave (R276, R495). -/
def endSlotWave (s : State) (h : Nat) (w : Wave) : State :=
  let s := endHandler s h
  if w.kind = .firmware then endCommand s w.vale 0 else s

/-- Takes an exception: ONE operation for every synchronous trap (R463 to R470, R495, R496, R521). An ordinary wave
stalls with its faulting lanes; with no TRAP_PC the default handler resolves them as KILLL and writes the records; in a
speculative task the fault is deferred. A handler or firmware wave ends with a record of its own fault. A prologue stops
for the Col to abandon it. -/
def takeTrap (s : State) (w : Nat) (wv : Wave) (t : Trap) : State :=
  match wv.kind with
  | .prologue => s.setWave w { wv with trap := some t, ended := true }
  | .handler | .firmware =>
    endSlotWave (recordCauses s wv t 2 false t.lanes) w wv
  | .ordinary =>
    if s.speculative wv then
      let s := match s.taskOf wv, t.lanes with
        | some (q, k), f :: _ =>
          if k.fault.isSome then s
          else
            let m := maskOf ((t.lanes.filter (fun (x : LaneFault) => decide (x.cause = f.cause))).map (fun (x : LaneFault) => x.lane))
            let r : DeferredFault := { pc := t.at_.pc, lanes := m, cause := f.cause, detail := f.detail, addr := f.addr, tod := t.tod }
            s.modTask wv.job q (fun k => { k with fault := some r })
        | _, _ => s
      s.setWave w { wv with trap := some { t with deferred := true } }
    else
      let s := (t.lanes.filter selfRecorded).foldl (fun s f =>
        record s (trapRec t.tod wv t.at_.pc [f] 0 (trapUnit t f.cause) t.deferred)) s
      if trapPc (s.cardOf wv.job) = 0 then
        let s := recordCauses s wv t 0 t.deferred
          (t.lanes.filter (fun f => !selfRecorded f && decide (f.cause ≠ cProgress)))
        s.setWave w { wv with trap := some { t with lanes := t.lanes.map (fun f => { f with resolved := true, choice := some .kill }) } }
      else s.setWave w { wv with trap := some t }

/-- A lane fault, numbered in order of arrival (R465). -/
def laneFault (lane : Nat) (cause : BitVec 8) (detail : Word) (addr : DWord) : LaneFault :=
  { lane := lane, cause := cause, detail := detail, addr := addr, seq := 0, handler := none, choice := none, resolved := false }

/-- Numbers the lanes of a trap detected at a TOD count in ascending lane order (R465) and takes it. `after` are the replays of earlier
traps that the wave has still to issue at `next` (R468). -/
def raiseAt (tod : Nat) (s : State) (w : Nat) (wv : Wave) (at_ next : Pos) (after : Option Replay) (kind : TrapKind) (part : Option Mask)
    (fs : List LaneFault) : State :=
  let (n, s) := s.fresh
  takeTrap s w { wv with replay := none } { at_ := at_, next := next, kind := kind, part := part, deferred := false, tod := tod, after := after,
                                            lanes := fs.map (fun f => { f with seq := n }) }

/-- Raises a trap that the instruction at the wave's place meets now. -/
def raise (s : State) (w : Nat) (wv : Wave) (at_ next : Pos) (kind : TrapKind) (part : Option Mask) (fs : List LaneFault) : State :=
  raiseAt s.tod.toNat s w wv at_ next (wv.replay.bind Replay.next) kind part fs

/-- A fault of some lanes at the wave's instruction, its other lanes having completed (R463). -/
def raiseLanes (s : State) (w : Nat) (wv : Wave) (len : Nat) (fs : List LaneFault) : State :=
  raise s w wv wv.pos (wv.nextPos len) .instr none fs

/-- A fault of the whole instruction, bound to its lowest lane that takes part (R463, R480). -/
def raiseOnce (s : State) (w : Nat) (wv : Wave) (len : Nat) (cause : BitVec 8) (detail : Word) (addr : DWord) : State :=
  raise s w wv wv.pos (wv.nextPos len) .instr (some wv.part)
    ((lanesOf (lowestLane wv.part)).map (fun l => laneFault l cause detail addr))

/-- The lanes that arrive at the wave's place: the active ones, or those of a replay (R468, R483). -/
def Wave.arriving (w : Wave) : Mask :=
  match w.replay with
  | some r => r.lanes &&& w.active
  | none => w.active

/-- A fault at fetch of a word at some place, in the lanes that arrive (R483); the wave stands where it stood. -/
def raiseFetchAt (s : State) (w : Nat) (wv : Wave) (at_ : Pos) (cause : BitVec 8) (detail : Word) (addr : DWord) : State :=
  raiseAt s.tod.toNat s w wv at_ wv.pos wv.replay .fetch none ((lanesOf wv.arriving).map (fun l => laneFault l cause detail addr))

/-- A fault at fetch of the wave's next word (R483). -/
def raiseFetch (s : State) (w : Nat) (wv : Wave) (cause : BitVec 8) (detail : Word) (addr : DWord) : State :=
  raiseFetchAt s w wv wv.pos cause detail addr

/-! ## Barriers -/

/-- Need of a barrier (R262); a context that has ended or halted is no longer counted (R324, R330). -/
def barrierNeed (s : State) (b : Block) (x : Barrier) : Nat :=
  (if x.count then x.expect
    else (b.waves.filter (fun w => match Tbl.get s.waves w with
      | some v => !v.ended
      | none => false)).length) +
    (match b.seqCtx with
      | some c => if x.seq && decide (c.st.toNat ≤ 1) then 1 else 0
      | none => 0)

/-- A phase's fields cleared at completion or break (R262, R492). -/
def Barrier.clear (x : Barrier) : Barrier := { x with arrived := 0, expSect := 0, sect := 0, armed := false }

/-- Whether the pass of a wait on a token holds at a phase (R263). -/
def tokenPassed (phase tok : Word) : Bool :=
  let d := (phase - tok).toNat
  decide (1 ≤ d) && decide (d ≤ 2 ^ 31)

/-- A block barrier of a wave. -/
def barrierOf (s : State) (wv : Wave) (n : Nat) : Barrier :=
  (((Tbl.get s.blocks wv.blk).bind (fun (b : Block) => Tbl.get b.bars n))).getD Barrier.fresh

/-- The phase of a cluster barrier of a wave's block (R265). -/
def clusterPhase (s : State) (wv : Wave) (n : Nat) : Word :=
  ((Tbl.get s.blocks wv.blk).bind (fun (b : Block) => Tbl.get s.clusters b.cluster)).elim 0 (fun c => Tbl.cell 0 c.phase n)

/-- A waiting wave of a block whose barrier wait has become true goes on past it (R263); one that a trap or a replay holds tests its
token when its wait goes on. -/
def wakeBar (b : Nat) (blk : Nat) (phase : Word) (w : Wave) : Wave :=
  match w.wait with
  | some (.bar n tok _) => if n = b && w.blk = blk && w.standing && tokenPassed phase tok then { w.advance 4 with wait := none } else w
  | _ => w

/-- The fault of a broken wait, bound to the wave's lowest lane (R492). -/
def waitFaults (tod : Nat) (w : Wave) (x : Wait) : List LateFault :=
  let v := w.atWait
  (lanesOf (lowestLane v.part)).map (fun l =>
    { pos := v.pos, lane := l, cause := cBarrier, detail := 0, addr := 0, wait := some x, tod := tod })

/-- A waiting wave of a block whose barrier broke will fault BARRIER at its next issue slot (R492). -/
def breakBar (tod b blk : Nat) (w : Wave) : Wave :=
  match w.wait with
  | some (.bar n tok a) =>
    if n = b && w.blk = blk then { w with wait := none, late := w.late ++ waitFaults tod w (.bar n tok a) } else w
  | _ => w

/-- Halts a block's stream (R330, R500): its context is HALTED at the word that halted it, every member's VALID is 0,
and the Col writes a record. -/
def haltSeq (s : State) (blk : Nat) (cause : BitVec 8) (tag addr : Nat) : State :=
  match Tbl.get s.blocks blk with
  | none => s
  | some b =>
    match b.seqCtx with
    | none => s
    | some c =>
      let r : ErrRec := { ErrRec.blank cause 1 (some b.vale) (some b.vd) with
        core := b.core, pc := c.spc.toNat, addr := addr, unit := 4, detail := trapDetail 0 0 0 tag 0 }
      let s := record s r
      let es := ((c.team.map (fun x => x.engines)).getD []).filter (fun e => decide ((s.core? e).engine.holder = some blk))
      let s := es.foldl (fun s e => s.modCore e (fun x => { x with engine := { x.engine with valid := false } })) s
      let s := { s with claims := removeNat blk s.claims }
      s.modBlock blk (fun b => { b with seqCtx := some { c with st := 3, wantBar := none, claim := none } })

/-- Halts a block's stream if it waits on a barrier in MBARW (R492). -/
def haltWaiter (s : State) (blk n : Nat) : State :=
  match (Tbl.get s.blocks blk).bind (fun (b : Block) => b.seqCtx) with
  | some c => if c.wantBar.any (fun x => decide (x.1 = n)) then haltSeq s blk cAsync 8 0 else s
  | none => s

/-- The wait of an MBARW ends with the phase it waits for (R263, R324). -/
def SeqCtx.pass (c : SeqCtx) (n : Nat) (phase : Word) : SeqCtx :=
  if c.wantBar.any (fun x => decide (x.1 = n) && tokenPassed phase x.2) then { c with wantBar := none } else c

/-- Tests one barrier after events: completion or break (R262, R492). -/
def testOne (s : State) (blk n : Nat) : State :=
  match Tbl.get s.blocks blk with
  | none => s
  | some b =>
    let x := (Tbl.get b.bars n).getD Barrier.fresh
    let need := barrierNeed s b x
    if x.expSect < x.sect || need < x.arrived then
      let s := { s with waves := Tbl.mapVals (fun _ w => breakBar s.tod.toNat n blk w) s.waves }
      haltWaiter (s.modBlock blk (fun b => { b with bars := Tbl.set b.bars n x.clear })) blk n
    else if x.arrived = need && x.sect = x.expSect && (decide (0 < need) || x.armed) then
      let ph := x.phase + 1
      let s := s.modBlock blk (fun b => { b with bars := Tbl.set b.bars n { x.clear with phase := ph }, seqCtx := b.seqCtx.map (fun c => c.pass n ph) })
      { s with waves := Tbl.mapVals (fun _ w => wakeBar n blk ph w) s.waves }
    else s

/-- Tests every barrier of a block once. -/
def testBars (s : State) (blk : Nat) : State :=
  match Tbl.get s.blocks blk with
  | none => s
  | some b => b.bars.foldl (fun s e => testOne s blk e.1) s

/-- Whether a block's stream runs or waits. -/
def seqLive (s : State) (blk : Nat) : Bool :=
  match (Tbl.get s.blocks blk).bind (fun (b : Block) => b.seqCtx) with
  | some c => decide (c.st.toNat ≤ 1)
  | none => false

/-- A stream that has halted since leaves its block's other barriers, which are then tested (R330). -/
def testHalted (before after : State) (blk : Nat) : State :=
  if seqLive before blk && !seqLive after blk then testBars after blk else after

/-- Tests a barrier after events (R262); within one clock the test waits for its end. -/
def testBarrier (s : State) (blk n : Nat) : State :=
  match s.clock with
  | some c => { s with clock := some { c with bars := (blk, n) :: c.bars.filter (fun x => decide (x ≠ (blk, n))) } }
  | none => testHalted s (testOne s blk n) blk

/-- Tests every barrier of a block that a wave or a stream has left (R261, R324, R330). -/
def testLeft (s : State) (blk : Nat) : State :=
  match Tbl.get s.blocks blk with
  | none => s
  | some b => b.bars.foldl (fun s e => testBarrier s blk e.1) s

/-- Changes a barrier and tests it. -/
def modBarrier (s : State) (blk n : Nat) (f : Barrier → Barrier) : State :=
  testBarrier (s.modBlock blk (fun b => { b with bars := Tbl.set b.bars n (f ((Tbl.get b.bars n).getD Barrier.fresh)) })) blk n

/-- Counts a written sector on a barrier (R157). -/
def countSector (s : State) (blk n : Nat) : State := modBarrier s blk n (fun x => { x with sect := x.sect + 1 })

/-- Breaks a barrier outright (R508). -/
def breakBarrier (s : State) (blk n : Nat) : State :=
  let t := { s with waves := Tbl.mapVals (fun _ w => breakBar s.tod.toNat n blk w) s.waves }
  testHalted s (haltWaiter (t.modBlock blk (fun b => { b with bars := Tbl.set b.bars n ((Tbl.get b.bars n).getD Barrier.fresh).clear })) blk n) blk

/-- Need of a cluster barrier (R265). -/
def clusterNeed (s : State) (c : Cluster) : Nat :=
  Tbl.count (fun _ (w : Wave) => decide (w.kind = .ordinary) && c.members.contains w.blk && !w.ended) s.waves

/-- Tests a cluster barrier once (R265, R492). -/
def testClusterNow (s : State) (cl n : Nat) : State :=
  match Tbl.get s.clusters cl with
  | none => s
  | some c =>
    let a := (Tbl.get c.arrived n).getD 0
    let need := clusterNeed s c
    let mine (w : Wave) : Bool := c.members.contains w.blk
    if need < a then
      let brk (w : Wave) : Wave :=
        match w.wait with
        | some (.cbar m tok x) => if m = n && mine w then { w with wait := none, late := w.late ++ waitFaults s.tod.toNat w (.cbar m tok x) } else w
        | _ => w
      let s := { s with waves := Tbl.mapVals (fun _ w => brk w) s.waves }
      { s with clusters := Tbl.modify s.clusters cl (fun c => { c with arrived := Tbl.set c.arrived n 0 }) }
    else if a = need && decide (0 < need) then
      let ph := Tbl.cell 0 c.phase n + 1
      let s := { s with clusters := Tbl.modify s.clusters cl (fun c =>
        { c with arrived := Tbl.set c.arrived n 0, phase := Tbl.setCell 0 c.phase n ph }) }
      let s := s.blocks.foldl (fun s e => if c.members.contains e.1 then dropL1 s e.2.core e.2.vale e.2.vd else s) s
      let wake (w : Wave) : Wave :=
        match w.wait with
        | some (.cbar m tok _) => if m = n && mine w && w.standing && tokenPassed ph tok then { w.advance 4 with wait := none } else w
        | _ => w
      { s with waves := Tbl.mapVals (fun _ w => wake w) s.waves }
    else s

/-- Tests a cluster barrier after events (R265); within one clock the test waits for its end. -/
def testCluster (s : State) (cl n : Nat) : State :=
  match s.clock with
  | some c => { s with clock := some { c with cbars := (cl, n) :: c.cbars.filter (fun x => decide (x ≠ (cl, n))) } }
  | none => testClusterNow s cl n

/-- Whether a wave has faulted and its lanes are not settled. -/
def Wave.faulted (w : Wave) : Bool := w.trap.isSome || decide (w.late ≠ [])

/-- The blocks being stopped for a save. -/
def savingBlocks (s : State) : List Nat :=
  (s.blocks.filter (fun e => match e.2.st with
    | .saving _ => true
    | _ => false)).map (fun e => e.1)

/-- A fault, and the choice of its block for a save, in one clock (R478): the fault is bound first. -/
def bindFaults (s : State) (c : OneClock) : State :=
  let chosen := (savingBlocks s).filter (fun b => !c.saving.contains b)
  if chosen = [] then s
  else { s with waves := s.waves.map (fun e =>
      (e.1, if chosen.contains e.2.blk && e.2.faulted && !c.faulted.contains e.1 then { e.2 with bindFirst := true } else e.2)) }

/-- A wave's barrier wait that goes on again, after a trap, a replay or a save, is over where its token has passed meanwhile (R263, R265,
R269, R276). -/
def testWait (s : State) (w : Nat) (wv : Wave) : State × Wave :=
  let past := { wv.advance 4 with wait := none }
  match wv.wait with
  | some (.bar n tok _) =>
    if wv.standing && tokenPassed (barrierOf s wv n).phase tok then (s.setWave w past, past) else (s, wv)
  | some (.cbar n tok _) =>
    if wv.standing && tokenPassed (clusterPhase s wv n) tok then (dropL1 (s.setWave w past) wv.core wv.vale wv.vd, past) else (s, wv)
  | _ => (s, wv)

/-- The end of a clock: every barrier that an event of it touched is tested once (R262, R265), and what faulted in it, a
phase that breaks among it (R502), is bound before a save it chose (R478). -/
def endClock (s : State) : State :=
  match s.clock with
  | none => s
  | some c =>
    let s := c.bars.reverse.foldl (fun s x => testBarrier s x.1 x.2) { s with clock := none, turns := s.turns + 1 }
    bindFaults (c.cbars.reverse.foldl (fun s x => testCluster s x.1 x.2) s) c

/-- Tests every barrier of a block and of its cluster, after a wave of it ends (R261, R262). -/
def testAll (s : State) (blk : Nat) : State :=
  match Tbl.get s.blocks blk with
  | none => s
  | some b =>
    let s := b.bars.foldl (fun s e => testBarrier s blk e.1) s
    (natsFrom 0 4).foldl (fun s n => testCluster s b.cluster n) s

/-! ## Register lending -/

/-- The pool key of a wave: its track in the block (R62). -/
def Wave.track (w : Wave) (card : List Word) : Nat := w.index / cardRoles card

/-- Blocks a pool holds (R62). -/
def poolCount (b : Block) (track : Nat) : Nat := Tbl.cell 0 b.pools track

/-- Whether a waiting take belongs to a pool. -/
def takeOf (s : State) (blk track : Nat) (t : Nat × Nat) : Bool :=
  match Tbl.get s.waves t.1 with
  | some w => decide (w.blk = blk) && decide (w.track (s.cardOf w.job) = track)
  | none => false

/-- The blocks a queued take claims. -/
def takeSize (s : State) (t : Nat × Nat) : Nat :=
  match (Tbl.get s.waves t.1).bind (fun w => w.outst.find? (fun o => decide (o.id = t.2))) with
  | some o => match o.op with
    | .rtake n _ => n
    | _ => 0
  | none => 0

/-- Serves the waiting takes of a pool, strictly first in, first out (R63). -/
def serveTakes (blk track : Nat) : Nat → State → State
  | 0, s => s
  | fuel + 1, s =>
    match s.takes.find? (takeOf s blk track), Tbl.get s.blocks blk with
    | some t, some b =>
      let n := takeSize s t
      if n ≤ poolCount b track && !scrubWaits s b.core b.vale b.vd then
        let s := s.modBlock blk (fun b => { b with pools := Tbl.setCell 0 b.pools track (poolCount b track - n) })
        let s := s.modWave t.1 (fun w => { w with held := w.held + n, outst := w.outst.filter (fun o => decide (o.id ≠ t.2)) })
        serveTakes blk track fuel { s with takes := s.takes.erase t }
      else s
    | _, _ => s

/-- Returns register blocks to a pool and serves its takes (R63, R64). -/
def givePool (s : State) (blk track n : Nat) : State :=
  let s := s.modBlock blk (fun b => { b with pools := Tbl.setCell 0 b.pools track (poolCount b track + n) })
  serveTakes blk track s.takes.length s

/-! ## The end of waves and blocks -/

/-- Adds an open session's statistics to the VD's counters in a glen (R343, R349). -/
def addStats (s : State) (g vale vd : Nat) (c : CovSession) : State :=
  let add (t : Tbl DWord) (k : Nat) (x : DWord) : Tbl DWord := Tbl.setCell 0 t (covStatKey g k) (Tbl.cell 0 t (covStatKey g k) + x)
  s.modVd vale vd (fun d => { d with stats := add (add (add (add d.stats 0 c.prims) 1 c.culled) 2 c.occlusion) 3 c.covsum })

/-- A team's engines leave the block that holds them (R314). -/
def releaseTeam (s : State) (blk : Nat) : State :=
  { s with
    cores := Tbl.mapVals (fun _ c =>
      if c.engine.holder = some blk then { c with engine := { c.engine with holder := none, lastHolder := some blk } } else c) s.cores
    claims := removeNat blk s.claims }

/-- Whether K-steps of a block are queued on an engine. -/
def stepsQueued (s : State) (blk : Nat) : Bool := s.cores.any (fun e => e.2.engine.queue.any (fun k => decide (k.blk = blk)))

/-- The coverage session of a retired block goes once its commands have (R498). -/
def closeRetired (s : State) (blk : Nat) : State :=
  match Tbl.get s.blocks blk with
  | none => s
  | some b =>
    if b.st ≠ .retired then s
    else
      let cov := s.glens.any (fun e => e.2.covq.any (fun c => decide (c.2.blk = blk)))
      match b.cov, cov with
      | some c, false => (addStats s (glenOfCore b.core) b.vale b.vd c).modBlock blk (fun b => { b with cov := none })
      | _, _ => s

/-- Whether everything a block has issued is done (R159, R376): no access of it in flight, no load, store or fence of its waves
outstanding, and no command accepted. -/
def blockQuiet (s : State) (blk : Nat) : Bool :=
  !s.inflight.any (fun e => decide (e.2.blk = blk)) && !s.cores.any (fun c => c.2.cmds.any (fun m => decide (m.2.blk = blk))) &&
    s.waves.all (fun e => decide (e.2.kind ≠ .ordinary) || decide (e.2.blk ≠ blk) || e.2.outst.all (fun o => match o.op with
      | .rtake _ _ => true
      | .cmds _ => true
      | _ => false))

/-- Whether a task has finished (R376): its wave has ended, and every access of it is recorded, buffered or performed. -/
def taskDone (s : State) (t : Task) : Bool :=
  match t.st with
  | .finished => true
  | .running b => (match Tbl.get s.blocks b with
    | some x => decide (x.st = .retired) && blockQuiet s b
    | none => false)
  | _ => false

/-- The context of a block whose last wave has ended stops at once (R550); a halted one stays halted until the block retires (R500). -/
def SeqCtx.stop (c : SeqCtx) : SeqCtx := if c.st.toNat ≤ 1 then { c with st := 2, wantBar := none, claim := none } else c

/-- Whether waves of a block have not ended. -/
def wavesLive (s : State) (b : Block) : Bool :=
  b.waves.any (fun x => match Tbl.get s.waves x with
    | some v => !v.ended
    | none => false)

/-- A block retires (R52, R108): dirty rows are written back, its team is released with it (R314), its storage is freed, and a task's block
finishes its task (R376), here or, where accesses are still to be done, once they are. -/
def retireBlock (s : State) (blk : Nat) (b : Block) : State :=
  let s := b.rows.foldl (fun s e => writeRowBack s blk e.1) s
  let s := bumpGen s b.core b.vale b.vd
  let s := match b.task with
    | some q => if blockQuiet s blk then s.modTask b.job q (fun t => { t with st := .finished }) else s
    | none => s
  closeRetired (releaseTeam (s.modBlock blk (fun b => { b with st := .retired, rows := [], pools := [] })) blk) blk

/-- The stream of a block whose last wave has ended stops (R550). -/
def stopStream (s : State) (blk : Nat) : State :=
  { s with claims := removeNat blk s.claims }.modBlock blk (fun b => { b with seqCtx := b.seqCtx.map SeqCtx.stop })

/-- A block's last wave has ended (R52, R550): its stream stops, and it retires once the K-steps already queued have finished and its dirty
rows may be written back (R108). -/
def finishBlock (s : State) (blk : Nat) : State :=
  match Tbl.get s.blocks blk with
  | none => s
  | some b =>
    let s := stopStream s blk
    if stepsQueued s blk || rowsBackWait s b then s else retireBlock s blk b

/-- A block whose last wave has ended retires when the last of its K-steps has (R550), and its coverage session goes when the last of its
commands has (R498). -/
def releaseRetired (s : State) (blk : Nat) : State :=
  match Tbl.get s.blocks blk with
  | none => s
  | some b => if b.st = .resident && !b.waves.isEmpty && !wavesLive s b then finishBlock s blk else closeRetired s blk

/-- The blocks retire that only waited for their rows' write-back (R108). -/
def retireWaiting (s : State) : State :=
  (s.blocks.filter (fun e => decide (e.2.st = .resident) && !e.2.rows.isEmpty && !e.2.waves.isEmpty && !wavesLive s e.2)).foldl (fun s e => releaseRetired s e.1) s

/-- Ends a wave (R261, R64): the generation goes up (R120), its register blocks return to its pool, a queued take is withdrawn (R490), barriers
stop expecting it, and the last wave stops the block's stream (R550) and retires the block. A handler or firmware wave frees its slot. -/
def endWave (s : State) (w : Nat) (wv : Wave) : State :=
  match wv.kind with
  | .handler | .firmware => endSlotWave (s.setWave w wv) w wv
  | .prologue => s.setWave w { wv with ended := true, active := 0 }
  | .ordinary =>
    let s := { s with takes := s.takes.filter (fun t => decide (t.1 ≠ w)) }
    let keepOut (o : Outst) : Bool := match o.op with
      | .rtake _ _ => false
      | _ => true
    let s := s.setWave w { wv with ended := true, active := 0, wait := none, stack := [], outst := wv.outst.filter keepOut }
    let s := bumpGen s wv.core wv.vale wv.vd
    let s := givePool s wv.blk (wv.track (s.cardOf wv.job)) wv.held
    match Tbl.get s.blocks wv.blk with
    | none => s
    | some b =>
      if wavesLive s b then testAll s wv.blk
      else
        let s := testAll (stopStream s wv.blk) wv.blk
        if b.st = .resident then finishBlock s wv.blk else s

/-! ## Running the pop, and coming back from an exception -/

/-- Whether the return link of a lane is poisoned (R515). -/
def linkPoison (w : Wave) (l : Nat) : Bool :=
  let f := Tbl.cell 0 w.lpair l
  w.rdPoison f l || w.rdPoison (f + 1) l

/-- Lanes of a list whose return link is misaligned (R551) or poisoned (R515). -/
def badLinks (w : Wave) (lanes : List Nat) : List Nat := lanes.filter (fun l => linkPoison w l || decide ((w.retTarget l).toNat % 4 ≠ 0))

/-- The fault of a lane whose link is bad (R515, R551). -/
def linkFault (w : Wave) (l : Nat) : LaneFault := if linkPoison w l then laneFault l cPoison 0 0 else laneFault l cAlign 0 (w.retTarget l)

/-- The wave that is executing. -/
def State.curWave (s : State) : Option (Nat × Wave) :=
  match s.cur with
  | .wave w => (Tbl.get s.waves w).map (fun x => (w, x))
  | _ => none

/-- Whether an image to roll back to is armed (R515). -/
def rollbackArmed (s : State) (vale vd : Nat) : Bool :=
  match s.vd? vale vd with
  | some d => d.arm && d.image.isSome
  | none => false

/-- The record of poison consumed by a wave (R515, R517). -/
def poisonRec (wv : Wave) (pos : Pos) (lane : Nat) (addr : DWord) : ErrRec :=
  { ErrRec.blank cPoison 2 (some wv.vale) (some wv.vd) with
    core := wv.core, pc := pos.pc.toNat, addr := addr.toNat, lanes := 2 ^ lane, slot := wv.slot, unit := 2 }

/-- The trap of a return, with the wave as it was before the instruction that ran the pop (R471); poison among its links rolls a VD back
that has an image armed (R515). -/
def raiseLinks (s : State) (w : Nat) (wv : Wave) (at_ : Pos) (d : BitVec 8) (base : Nat) (fs : List LaneFault) : State :=
  match fs.find? (fun f => decide (f.cause = cPoison)) with
  | some f =>
    if rollbackArmed s wv.vale wv.vd && !s.speculative wv then severity2 s wv.vale wv.vd (poisonRec wv at_ f.lane 0)
    else raise s w wv at_ wv.pos (.link d base) none fs
  | none => raise s w wv at_ wv.pos (.link d base) none fs

/-- A wave's state as the executing instruction found it, kept with its trap (R471). -/
def keepBefore (old : Option (Nat × Wave)) (s : State) (w : Nat) : State :=
  match old with
  | none => s
  | some (_, x) => s.modWave w (fun wv => { wv with trap := wv.trap.map (fun t =>
      { t with before := some ⟨x.active, x.exited, x.returned, x.depth, x.stack, x.replay⟩ }) })

/-- The return of a popped CALL entry (R255, R551): lanes with an aligned link split; the others fault MISALIGN, or POISON where
the link is poisoned (R515), and are set aside. A split that would pass 64 entries faults STACK_OVER in the instruction that runs the pop,
and changes nothing (R68, R491); where it comes back from an exception, in the lanes of the entry. -/
def returnLanes (s : State) (w : Nat) (wv : Wave) (at_ : Pos) : State :=
  let lanes := lanesOf wv.active
  let bad := badLinks wv lanes
  let good := lanes.filter (fun l => !bad.contains l)
  let t := fun l => wv.retTarget l
  let base := wv.stack.length
  if 64 < base + ((targetsOf good t).length - 1) then
    match s.curWave with
    | some (_, x) => raise s w x x.pos (x.nextPos 4) .instr none ((lanesOf x.part).map (fun l => laneFault l cOver 0 0))
    | none => raise s w { wv with active := 0 } at_ at_ (.link wv.depth base) none (lanes.map (fun l => laneFault l cOver 0 0))
  else
    let x := wv.split good t wv.depth
    if bad = [] then s.setWave w x
    else keepBefore s.curWave (raiseLinks s w x at_ wv.depth base (bad.map (linkFault wv))) w

/-- A RECONV entry's lanes go on after the JOIN at its address (R68, R483). -/
def arriveJoin (s : State) (w : Nat) (wv : Wave) (pc : DWord) (known : Option Clause) : State :=
  match fetchWord s wv.cacheCore wv.vale wv.vd pc with
  | (s, .error f) =>
    raise s w wv ⟨pc, none⟩ ⟨pc, none⟩ .join none ((lanesOf wv.active).map (fun l => laneFault l f.cause (BitVec.ofNat 32 f.reason) f.addr))
  | (s, .ok x) =>
    if x ≠ 0x7B000000 then
      raise s w wv ⟨pc, none⟩ ⟨pc, none⟩ .join none ((lanesOf wv.active).map (fun l => laneFault l cIllegal 0 0))
    else
      let c := match known with
        | some c => some c
        | none => clauseBefore s wv.cacheCore wv.vale wv.vd pc (natsFrom 1 15)
      s.setWave w { wv with pos := (Pos.mk pc c).after 4 }

/-- Runs the pop of R255 for a wave whose Active is empty. `at_` is the instruction that ran it; `known` is the clause of
that instruction when it is the JOIN at the entry's own address. -/
def settle (s : State) (w : Nat) (wv : Wave) (at_ : Pos) (joining : Bool) : State :=
  match popStack wv.stack { wv with replay := none, wait := none } with
  | .run x => s.setWave w x
  | .ended x => endWave s w x
  | .reconv x pc => arriveJoin s w x pc (if joining && decide (pc = at_.pc) then at_.clause else none)
  | .ret x => returnLanes s w x at_

/-- The lanes of a trap that took a resolution (R468). -/
def chosen (t : Trap) (r : Resolution) : Mask :=
  maskOf ((t.lanes.filter (fun f => decide (f.choice = some r))).map (fun f => f.lane))

/-- Joins a lane whose link is repaired to the path of its target among those of its return (R551): the current one, or an entry above the
`base` entries that stood on the stack before; with none, it becomes the uppermost entry. -/
def joinPath (d : BitVec 8) (base : Nat) (l : Nat) (w : Wave) : Wave :=
  let a := w.retTarget l
  let top := w.stack.take (w.stack.length - base)
  let i := top.findIdx (fun e => decide (e.kind = .path) && decide (e.pc = a) && decide (e.depth = d))
  if w.active ≠ 0 && decide (w.pos = ⟨a, none⟩) && decide (w.depth = d) then { w with active := w.active ||| laneBit l }
  else if i < top.length then { w with stack := w.stack.modify i (fun e => { e with mask := e.mask ||| laneBit l }) }
  else { w with stack := ⟨.path, a, laneBit l, d⟩ :: w.stack }

/-- Joins lanes one after another, and gives those whose path would be a 65th entry (R68). -/
def joinPaths (d : BitVec 8) (base : Nat) (ls : List Nat) (w : Wave) : Wave × List Nat :=
  ls.foldl (fun r l =>
    let x := joinPath d base l r.1
    if 64 < x.stack.length then (r.1, r.2 ++ [l]) else (x, r.2)) (w, [])

/-- The replays still to issue once lanes of a trap's instruction are to be replayed (R468), and when a wait of the wave goes on. -/
def Trap.replays (t : Trap) (lanes : Mask) (waits : Bool) : Replay :=
  { lanes := lanes, cont := t.next
    rest := match t.after with
      | some r => (r.lanes, r.cont) :: r.rest
      | none => []
    waits := match t.after.bind (fun r => r.waits) with
      | some k => some k
      | none => if waits then some (replaysLeft t.after) else none }

/-- A wave that waits goes on past its wait (R501): behind it, or where a replay of it continues. -/
def Trap.pastWait (t : Trap) (w : Wave) : Wave :=
  match t.after with
  | none => { w with pos := t.at_.after 4 }
  | some r => if r.waits.isSome then { w with pos := t.next, replay := some (r.skipWait (t.at_.after 4)) } else { w with pos := r.cont, replay := r.next }

/-- Comes back from an exception: ONE operation for every resumption, run when every faulting lane is resolved (R468,
R484, R501, R551). It is an acquire at VALE scope (R467). -/
def resumeTrap (s : State) (w : Nat) (wv : Wave) (t : Trap) : State :=
  let s := dropL1 s wv.core wv.vale wv.vd
  let kill := chosen t .kill ||| (match t.kind with
    | .fetch | .join | .link _ _ => chosen t .skip
    | _ => 0)
  let retry := chosen t .retry
  let wv := { wv with trap := none, exited := wv.exited ||| kill, active := wv.active &&& ~~~kill }
  let go (x : Wave) : State := if wv.active = 0 then settle s w wv t.at_ false else s.setWave w (skipGone (replaysLeft x.replay) x)
  match t.kind with
  | .instr =>
    let lanes := if retry = 0 then 0 else t.part.getD retry
    go (if lanes &&& wv.active = 0 then { wv with pos := t.next, replay := t.after }
      else { wv with pos := t.at_, replay := some (t.replays lanes wv.wait.isSome) })
  | .fetch | .soft => go { wv with pos := t.next, replay := t.after }
  | .join => if wv.active = 0 then settle s w wv t.at_ false else arriveJoin s w wv t.at_.pc none
  | .wait x => go (if retry = 0 then t.pastWait wv else { wv with pos := t.next, replay := t.after, wait := some x })
  | .link d base =>
    let ls := lanesOf retry
    if wv.active = 0 then
      if ls = [] then settle s w wv t.at_ false else returnLanes s w { wv with active := retry, depth := d } t.at_
    else
      let bad := badLinks wv ls
      let r := joinPaths d base (ls.filter (fun l => !bad.contains l)) wv
      if bad = [] && decide (r.2 = []) then s.setWave w r.1
      else raiseLinks s w r.1 t.at_ d base (bad.map (linkFault wv) ++ r.2.map (fun l => laneFault l cOver 0 0))

/-! ## The frame of an instruction -/

/-- Whether an instruction acts once per wave (R480). -/
def actsOnce : Instr → Bool
  | .barArrive _ | .barWait _ | .barSync _ | .barInit _ | .barexp _ | .cbarArrive _ | .cbarWait _ | .cbarSync _
  | .waitge _ | .mwait _ | .sleep _ | .forkSuspend _ | .rgive _ | .rtake _ | .codewr _ | .codeswap _
  | .encframeOpen _ | .encframeClose _ | .covbegin _ | .covres _ | .covend _ | .covpop _ | .tend _ | .tabort _
  | .tirrev _ => true
  | _ => false

/-- Whether an instruction is uniform (R38): its destination, or an access's address and data, name scalars. -/
def isUniform : Instr → Bool
  | .voteBallot _ | .reduce _ | .v2sFirst _ | .v2sLane _ | .icmp _ | .fcmp _ | .plop _ | .pmovFromreg _ | .voteAny _
  | .voteAll _ | .elect _ | .bra _ | .brx _ | .rcv _ | .join _ | .call _ | .callx _ | .callxTail _ | .ret _ | .exit _
  | .trap _ | .bkpt _ | .resumelRetry _ | .resumelSkip _ | .killl _ | .sset _ | .forkDetach _ | .nop _
  | .fence _ | .movxWr _ | .mxwr _ | .ckpt _ => false
  | i => !(Instr.regs i).isEmpty && (Instr.regs i).all (fun u => isScalar u.f)

/-- Whether an instruction uses the stash space (R495). -/
def usesStash : Instr → Bool
  | .ldS8 o | .ldB8 o | .ldS16 o | .ldB16 o | .ld32 o | .ld64 o | .ld128 o | .st8 o | .st16 o | .st32 o | .st64 o
  | .st128 o | .atomAdd o | .atomSmin o | .atomSmax o | .atomBmin o | .atomBmax o | .atomAnd o | .atomOr o | .atomXor o
  | .atomXchg o | .atomFadd o | .atomCas o | .atomAdd64 o | .atomCas64 o | .stmap o | .stunmap o | .stwb o | .stdrop o =>
    decide (o.space = 1)
  | _ => false

/-- Whether a VEC opcode or an access may appear in a prologue (R53, R495): every register operand scalar; the
one that a MOVX indexes is a vector register. -/
def prologueOk (i : Instr) : Bool :=
  !usesStash i &&
  match i with
  | .bra _ | .exit _ => true
  | .movxRd _ | .movxWr _ => false
  | .ldS8 _ | .ldB8 _ | .ldS16 _ | .ldB16 _ | .ld32 _ | .ld64 _ | .ld128 _ | .ldc _ =>
    (Instr.regs i).all (fun u => isScalar u.f)
  | _ =>
    match encode i with
    | w :: _ => decide (opcodeOf w ≤ 0x4F) && (Instr.regs i).all (fun u => isScalar u.f)
    | [] => false

/-- What a handler or firmware wave must not execute (R466, R495). -/
def slotForbidden (i : Instr) : Bool :=
  usesStash i ||
  match i with
  | .barArrive _ | .barWait _ | .barSync _ | .barInit _ | .barexp _ | .cbarArrive _ | .cbarWait _ | .cbarSync _
  | .forkSuspend _ | .forkDetach _ | .rgive _ | .rtake _ | .tspawn _ | .tend _ | .tabort _ | .tirrev _ | .mxrd _ | .mxwr _
  | .mxstat _ | .covbegin _ | .covline _ | .covquad _ | .covcube _ | .covtri _ | .covres _ | .covend _ | .covpop _ => true
  | .cpy o | .ccopy o | .tcopy o | .tgather o | .tstore o | .codewr o | .codeswap o | .encpost o | .encframeOpen o
  | .encframeClose o => !o.nobar
  | _ => false

/-- Whether an instruction is of the SYS class (R273). -/
def isSys : Instr → Bool
  | .resumelRetry _ | .resumelSkip _ | .killl _ | .originTag _ | .originAddr _ | .originReg _ | .rth _ | .sset _
  | .ckpt _ => true
  | _ => false

/-- Stage 4 of R479 (R495): whether a wave of this kind may execute an instruction; a firmware wave has no origin lane. -/
def privCause (k : WaveKind) (i : Instr) : Option (BitVec 8) :=
  match k with
  | .ordinary => if isSys i then some cPriv else none
  | .handler => if slotForbidden i then some cPriv else none
  | .firmware =>
    if slotForbidden i then some cPriv
    else match i with
      | .resumelRetry _ | .resumelSkip _ | .killl _ | .originTag _ | .originAddr _ | .originReg _ | .sset _ => some cField
      | _ => none
  | .prologue => if prologueOk i then none else some cPriv

/-- Stages 4 to 6 of R479: privilege, fields, registers against the allocation (R486). -/
def staticCause (w : Wave) (i : Instr) : Option (BitVec 8) :=
  match privCause w.kind i with
  | some c => some c
  | none =>
    if !Instr.wellFormed i then some cField
    else if (Instr.regs i).all (fun u => u.within w.held) then none else some cRange

/-- Opcodes whose D field names a predicate or is unused, wholly or in the forms of one M value (R178 to R181): PMOV and VOTE by
their M, MOVX.WR reads D. -/
def predicateWord (w : Word) : Bool :=
  let op := opcodeOf w
  let m := (w.extractLsb' 0 2).toNat
  decide (op = 0x00) || decide (op = 0x38) || decide (op = 0x39) || decide (op = 0x3A) || decide (op = 0x42) || (decide (op = 0x3C) && decide (m = 1)) ||
    (decide (op = 0x3D) && decide (m ≤ 1)) || (decide (op = 0x43) && decide (m = 1))

/-- Whether a VEC word, DDX, DDY, MXRD or MXSTAT names a scalar destination, which makes it uniform (R38), well-formed or not. -/
def scalarWord (w : Word) : Bool :=
  let op := opcodeOf w
  (decide (op ≤ 0x4F) || decide (op = 0xA8) || decide (op = 0xA9) || decide (op = 0xB0) || decide (op = 0xB2)) && !predicateWord w && isScalar (w.extractLsb' 17 7)

/-- Whether an instruction of those is so. -/
def scalarDest (i : Instr) : Bool :=
  match encode i with
  | w :: _ => scalarWord w
  | [] => false

/-- A fault of a whole instruction (R480): every lane that takes part, or one lane when it is uniform or acts once. -/
def raiseInstr (s : State) (w : Nat) (wv : Wave) (i : Instr) (cause : BitVec 8) (detail : Word) : State :=
  if actsOnce i || isUniform i || scalarDest i then raiseOnce s w wv (instrBytes i) cause detail 0
  else raiseLanes s w wv (instrBytes i) ((lanesOf wv.part).map (fun l => laneFault l cause detail 0))

/-- Executes a wave instruction (R165, R479 to R481): with no lane taking part it has no effect; a failed check faults;
otherwise its operation runs on the state, the wave and the lanes that take part. -/
def runWave (i : Instr) (op : State → Nat → Wave → State) (s : State) : Host.Outcome State Fault Refusal :=
  match s.curWave with
  | none => .fault .noAgent
  | some (w, wv) =>
    if wv.part = 0 then .next (s.setWave w (wv.advance (instrBytes i)))
    else match staticCause wv i with
      | some c => .next (raiseInstr s w wv i c 0)
      | none => .next (op s w wv)

/-- A lane of the list that reads a poisoned register word of the instruction's sources (R515). -/
def poisonedLanes (w : Wave) (fs : List RegField) (lanes : List Nat) : List Nat :=
  if w.poison = [] then [] else lanes.filter (fun l => fs.any (fun f => w.rdPoison f l))

/-- A wave consumes poison (R515): a rollback when one is armed, otherwise POISON in the lanes at the next issue slot; in
a speculative task it is deferred like any fault (R522). -/
def consumePoison (s : State) (w : Nat) (pos : Pos) (lanes : List (Nat × DWord)) : State :=
  match lanes, Tbl.get s.waves w with
  | (l, a) :: _, some wv =>
    if rollbackArmed s wv.vale wv.vd && !s.speculative wv then severity2 s wv.vale wv.vd (poisonRec wv pos l a)
    else s.modWave w (fun wv => { wv with late := wv.late ++ lanes.map (fun p =>
      { pos := pos, lane := p.1, cause := cPoison, detail := 0, addr := p.2, wait := none, tod := s.tod.toNat }) })
  | _, _ => s

/-- The predicates an instruction with register sources writes (R214, R239, R242). -/
def predicateDests : Instr → List Nat
  | .icmp o | .fcmp o => [o.pd.toNat]
  | .pmovFromreg _ => natsFrom 0 8
  | _ => []

/-- The effect of an instruction that only writes registers and predicates of its wave (R211): of the lanes that take part, those
that read poison get zero, in a predicate as in a register, and consume it (R515), a uniform instruction in its one lane (R463). -/
def aluWaveBy (i : Instr) (reads : Wave → List Nat → List Nat) (dst : Option (RegField × Nat)) (f : State → Wave → List Nat → Wave)
    (s : State) (w : Nat) (wv : Wave) : State :=
  let lanes := lanesOf wv.part
  let bad := if wv.poison = [] then [] else reads wv lanes
  let hit := if isUniform i || scalarDest i then (if bad = [] then [] else lanes.take 1) else bad
  let x := (f s wv lanes).advance (instrBytes i)
  let x := match dst with
    | some (d, n) => if bad = [] then x else (natsFrom 0 n).foldl (fun x j => x.wr (d + BitVec.ofNat 7 j) hit (fun _ => 0)) x
    | none => if bad = [] then x else (predicateDests i).foldl (fun x k => x.wrPred k hit (fun _ => false)) x
  consumePoison (s.setWave w x) w wv.pos (hit.map (fun l => (l, 0)))

/-- The effect of an instruction each of whose lanes reads its own words of some registers (R211). -/
def aluWave (i : Instr) (srcs : List RegField) (dst : Option (RegField × Nat)) (f : State → Wave → List Nat → Wave)
    (s : State) (w : Nat) (wv : Wave) : State :=
  aluWaveBy i (fun w ls => poisonedLanes w srcs ls) dst f s w wv

/-- An instruction whose lanes read words of other lanes (R243 to R248). -/
def runAluBy (i : Instr) (reads : Wave → List Nat → List Nat) (dst : Option (RegField × Nat)) (f : State → Wave → List Nat → Wave)
    (s : State) : Host.Outcome State Fault Refusal :=
  runWave i (aluWaveBy i reads dst f) s

/-- An instruction that only writes registers and predicates of its wave (R211). -/
def runAlu (i : Instr) (srcs : List RegField) (dst : Option (RegField × Nat)) (f : State → Wave → List Nat → Wave)
    (s : State) : Host.Outcome State Fault Refusal :=
  runWave i (aluWave i srcs dst f) s

end Sys2Proof.Machine
end

