-- ==== Sys2Proof/Machine/Issue.lean ====
section
/-! DEFINITION. Issue: which wave may issue, clause headers and their waits (R163 to R168), the word-level checks of R479
and R483, lookahead (R171, R172), and the charge an issue makes to its VD (R394, R396). -/
namespace Sys2Proof.Machine

/-- What an issue slot comes to: a state, a state once an instruction without lanes has taken the wave's track (R36), or an instruction
to execute in a state. -/
inductive Issued where
  | done (s : State)
  | idle (s : State)
  | run (s : State) (i : Instr)

/-- Whether a VD's cut has halted its issue (R406): from its count on. -/
def cutHalted (s : State) (vale vd : Nat) : Bool :=
  match (s.vd? vale vd).bind (fun d => d.cut) with
  | some c => c.halted || decide (c.count ≤ s.tod.toNat)
  | none => false

/-- Whether a VD's period boundary is due: it is applied before anything the VD does in the same clock (R394). -/
def Vd.boundaryDue (d : Vd) (tod : Nat) : Bool := decide (d.nextBoundary ≠ 0) && decide (d.nextBoundary ≤ tod)

/-- Whether a request to PF firmware that names a vale runs (R433, R476). -/
def pfNames (s : State) (vale : Nat) : Bool := s.pf.busy && decide ((s.pf.held.getD 0 0).toNat % 256 = vale)

/-- Whether a VD is served: it is enabled, its vale serves it, and it is not stopped or rolling back (R409, R474, R475). A reset of the
vale lets a running PF request that names it end first (R476). -/
def vdServed (s : State) (vale vd : Nat) : Bool :=
  !s.halted && match s.vale? vale, s.vd? vale vd with
    | some v, some d => !v.stopped && (!v.resetting || pfNames s vale) && d.en && !d.stopped && !d.vdStopped && !d.rolling
    | _, _ => false

/-- Whether a VD runs: it is served, it is not parked, and no boundary is due (R394). -/
def vdRuns (s : State) (vale vd : Nat) : Bool :=
  vdServed s vale vd && match s.vd? vale vd with
    | some d => !d.parked && !d.boundaryDue s.tod.toNat
    | none => false

/-- Whether a block of a job is being stopped for a save: handlers of its lanes run on in a VD that parks, so that the save completes
(R412, R471). -/
def jobSaving (s : State) (job : Nat) : Bool :=
  s.blocks.any (fun e => decide (e.2.job = job) && (match e.2.st with
    | .saving _ => true
    | _ => false))

/-- Whether VD_STOP has begun to stop a VD (R437). -/
def vdStopping (s : State) (vale vd : Nat) : Bool :=
  match s.vd? vale vd with
  | some d => d.stopReq.isSome
  | none => false

/-- Whether a VD's units may issue: it runs, no cut has halted it (R406), and VD_STOP does not stop it (R437). -/
def vdIssues (s : State) (vale vd : Nat) : Bool := vdRuns s vale vd && !cutHalted s vale vd && !vdStopping s vale vd

/-- Whether a wave may take an issue slot: its VD may issue, and its block is resident, not chosen for a save,
and has its team and accumulators again after one (R404). A cut
waits for handler waves (R471), so they issue on, and VD_STOP waits for firmware waves too (R437). -/
def canIssue (s : State) (w : Wave) : Bool :=
  (match w.kind with
    | .handler => vdRuns s w.vale w.vd || (vdServed s w.vale w.vd && jobSaving s w.job)
    | .firmware => vdRuns s w.vale w.vd && !cutHalted s w.vale w.vd
    | _ => vdIssues s w.vale w.vd) && !w.ended &&
    (if w.kind = .ordinary then
      match Tbl.get s.blocks w.blk with
      | some b => decide (b.st = .resident) && !b.preempt && decide ((b.seqCtx.map (fun c => c.restore)).getD [] = [])
      | none => false
    else true)

/-- Whether an outstanding instruction is a load, LDC, atomic with return or MXRD (R166, LDS). -/
def isLoadOp : OutOp → Bool
  | .load _ => true
  | .mxrd _ => true
  | _ => false

/-- Whether an outstanding instruction holds commands not yet accepted (R166, ASY). -/
def isCmdOp : OutOp → Bool
  | .cmds _ => true
  | _ => false

/-- The conditions of a clause header's wait hold (R166): LDS, STS, ASY, CNT. ASY does not wait for an
RTAKE that stands in its register pool (DESIGN CHOICE, log 125). -/
def clauseWait (s : State) (wid : Nat) (w : Wave) (h : Word) : Bool :=
  let acc (p : Access → Bool) : Bool := s.inflight.any (fun e => decide (e.2.wave = wid) && p e.2)
  (!h.getLsbD 15 || !w.outst.any (fun o => isLoadOp o.op)) && (!h.getLsbD 14 || !acc (fun a => !a.isCnt)) &&
    (!h.getLsbD 13 || !w.outst.any (fun o => isCmdOp o.op)) && (!h.getLsbD 12 || !acc (fun a => a.isCnt))

/-- Whether lookahead holds the next instruction (R171, R172): an outstanding instruction must complete first, or 16 are
outstanding. -/
def lookaheadHolds (w : Wave) : Bool := w.outst.any (fun o => decide (o.left ≤ w.issued)) || decide (16 ≤ w.outst.length)

/-- A wave whose oldest command meets a full queue is held at issue (R291): 64 commands in a copy engine's, 16 in an encoder lane's. -/
def queueHeld (s : State) (w : Wave) : Bool :=
  match w.outst.filterMap (fun o => match o.op with
    | .cmds cs => cs.head?
    | _ => none) with
  | [] => false
  | c :: _ => match c.op with
    | .encpost _ | .encframeOpen _ | .encframeClose _ => decide (16 ≤ (s.glen? (glenOfCore w.core)).encq.length)
    | _ => decide (64 ≤ (s.core? w.core).cmds.length)

/-- Every instruction issued before has completed, but for a queued RTAKE (R490). -/
def allComplete (w : Wave) : Bool := w.outst.all (fun o => match o.op with
  | .rtake _ _ => true
  | _ => false)

/-- Delivers the first late fault with those of its instruction, in lane order (R464, R492, R506, R515). The wave goes on afterwards where it
stood, with the wait and the replays it had (R276, R468). -/
def deliverLate (s : State) (w : Nat) (wv : Wave) (f : LateFault) : State :=
  if !allComplete wv then s
  else
    let same (g : LateFault) : Bool := decide (g.pos = f.pos) && decide (g.wait = f.wait)
    let fs := wv.late.filter same
    let wv := { wv with late := wv.late.filter (fun g => !same g) }
    let lanes := allLanes.flatMap (fun l => (fs.filter (fun g => decide (g.lane = l))).map (fun g => laneFault g.lane g.cause g.detail g.addr))
    match f.wait with
    | some x => raiseAt f.tod s w wv f.pos wv.pos wv.replay (.wait x) (some wv.part) lanes
    | none => raiseAt f.tod s w wv f.pos wv.pos wv.replay .instr none lanes

/-- The instruction that a word would be with M = 0 and with a literal of zeros where its own is not read: what it names, and so its stage 4
(R479, R495) and the lanes it binds (R480), for a word whose other fields name no form. -/
def bareInstr (x : Word) (lit : Option Word) : Option Instr :=
  let lit := if hasLiteral x then some (lit.getD 0xC0000000) else none
  match decodeWord x lit with
  | .ok i => some i
  | .error _ => match decodeWord (x &&& ~~~(3 : Word)) lit with
    | .ok i => some i
    | .error _ => none

/-- Fetches the literal word of an instruction word, if its format has one (R187). -/
def fetchLit (s : State) (wv : Wave) (x : Word) : State × Except AddrFault (Option Word) :=
  if hasLiteral x then
    match fetchWord s wv.cacheCore wv.vale wv.vd (wv.pos.pc + 4) with
    | (s, .error f) => (s, .error f)
    | (s, .ok l) => (s, .ok (some l))
  else (s, .ok none)

/-- Whether a literal would lie beyond the clause's last word (R187). -/
def literalBeyond (c : Clause) (p : Pos) : Bool := decide (4 * (c.n.toNat + 1) < (p.pc - c.hdr).toNat + 8)

/-- The quantum of a VD (R396). -/
def quantum (d : Vd) : Int := ((d.weightNow * 8 * (if d.boostEnd.isSome then 2 else 1) : Nat) : Int)

/-- A core's deficits once a VD of some keys has more than none, refilled round by round (R396). -/
def refilled (s : State) (keys : List Nat) : Nat → Tbl Int → Tbl Int
  | 0, t => t
  | fuel + 1, t =>
    if keys.any (fun k => decide (0 < (Tbl.get t k).getD 0)) then t
    else refilled s keys fuel (Tbl.mapVals (fun k x =>
      let q := ((s.vd? (k / 16) (k % 16)).map quantum).getD 0
      min (x + q) q) t)

/-- Charges an issue to a core's deficits (R396): they have been refilled for the VDs ready at the issuer, and are for one that has none
left where nothing was chosen there. The core keeps one RR and one set of deficits for all its issuers (DESIGN CHOICE, log 144). -/
def chargeCore (s : State) (core vale vd cost : Nat) : State :=
  let key := vdKey vale vd
  s.modCore core (fun c =>
    let t := if (Tbl.get c.deficit key).isSome then c.deficit else Tbl.set c.deficit key 0
    let t := refilled s [key] 16 t
    { c with deficit := Tbl.set t key ((Tbl.get t key).getD 0 - cost), rr := (vd + 1) % 16 })

/-- Whether a VD that is not parked has used what its cap allows in this period (R394). -/
def Vd.capped (d : Vd) : Bool := !d.parked && decide (d.capNow ≠ 0) && decide (d.capNow * d.capacity ≤ 256 * d.usedU)

/-- Charges issue cost to a VD's use and parks it at its cap (R394). -/
def chargeVd (s : State) (vale vd cost : Nat) : State :=
  let s := s.modVd vale vd (fun d =>
    { d with usedU := d.usedU + cost, stats := Tbl.setCell 0 d.stats 4 (Tbl.cell 0 d.stats 4 + BitVec.ofNat 64 cost) })
  match s.vd? vale vd with
  | none => s
  | some d =>
    if d.capped then parkVd s vale vd else s

/-- Counts an issue: those of one clock are equally old (R396). -/
def countTurn (s : State) : State := { s with turns := if s.clock.isSome then s.turns else s.turns + 1, sinceTick := s.sinceTick + 1 }

/-- The number of an issue made now. -/
def State.turnNow (s : State) : Nat := s.turns + 1

/-- The issue of a wave is a choice: a wave of its VD on its core that yielded before is the youngest no more (R167). -/
def unyield (s : State) (w : Nat) (wv : Wave) : State :=
  { s with waves := s.waves.map (fun e =>
      (e.1, if e.2.yielded && decide (e.1 ≠ w) && decide (e.2.core = wv.core) && decide (e.2.vale = wv.vale) && decide (e.2.vd = wv.vd) then
        { e.2 with yielded := false } else e.2)) }

/-- An instruction in which no lane takes part: it issues, has no effect and costs one clock (R36, R171). -/
def issueIdle (s : State) (w : Nat) (wv : Wave) (len : Nat) : State :=
  let x := { wv.advance len with issued := wv.issued + 1, lastIssue := s.turnNow }
  let s := unyield (countTurn s) w wv
  chargeVd (chargeCore (s.setWave w x) wv.core wv.vale wv.vd 1) wv.vale wv.vd 1

/-- Takes an instruction word through stages 1 to 3 of R479 and its decoding; a prologue's 65,537th does not issue (R496). -/
def issueWord (s : State) (w : Nat) (wv : Wave) (c : Clause) : Issued :=
  if wv.kind = .prologue && decide (65536 ≤ wv.issued) then
    .done (raise s w wv wv.pos wv.pos .instr none [laneFault 0 cProgress 0 0])
  else if fetchWaits s wv.cacheCore wv.vale wv.vd wv.pos.pc then .done s
  else match fetchWord s wv.cacheCore wv.vale wv.vd wv.pos.pc with
  | (s, .error f) => .done (raiseFetch s w wv f.cause (BitVec.ofNat 32 f.reason) f.addr)
  | (s, .ok x) =>
    let op := opcodeOf x
    let len := if hasLiteral x then 8 else 4
    let lanes (m : Mask) (cause : BitVec 8) : List LaneFault := (lanesOf m).map (fun l => laneFault l cause 0 0)
    if x.extractLsb' 28 4 = 0xF then .done (raiseFetch s w wv cIllegal 0 0)
    else if !opAssigned op then .done (raise s w wv wv.pos (wv.nextPos len) .instr none (lanes wv.arriving cIllegal))
    else if opClass op ≠ c.cls then .done (raise s w wv wv.pos (wv.nextPos len) .instr none (lanes wv.arriving cClass))
    else if wv.part = 0 then .idle (issueIdle s w wv len)
    else
      let bad (s : State) (lit : Option Word) : Issued :=
        .done (match bareInstr x lit with
          | some i => raiseInstr s w wv i ((privCause wv.kind i).getD cField) 0
          | none => raise s w wv wv.pos (wv.nextPos len) .instr none (lanes wv.part cField))
      if hasLiteral x && literalBeyond c wv.pos then bad s none
      else if hasLiteral x && fetchWaits s wv.cacheCore wv.vale wv.vd (wv.pos.pc + 4) then .done s
      else
        match fetchLit s wv x with
        | (s, .error f) => .done (raiseFetch s w wv f.cause (BitVec.ofNat 32 f.reason) f.addr)
        | (s, .ok lit) =>
          match decodeWord x lit with
          | .error _ => bad s lit
          | .ok i => .run { s with cur := .wave w } i

/-- A valid header's faults (R483): the class 0b111, N = 0, reserved bits. -/
def headerCause (x : Word) : Option (BitVec 8) :=
  if x.extractLsb' 28 4 ≠ 0xF then some cIllegal
  else if x.extractLsb' 21 3 = 7 then some cIllegal
  else if x.extractLsb' 24 4 = 0 || decide (x.extractLsb' 0 11 ≠ 0) then some cField
  else none

/-- Opens the clause of a header a wave has fetched (R163, R168), and takes its first word once the header's wait is over; with YLD the wave
has then waited no time, and the next issue choice comes first (R167, R396). -/
def issueHeader (s : State) (w : Nat) (wv : Wave) (x : Word) : Issued :=
  match headerCause x with
  | some c => .done (raiseFetch s w wv c 0 0)
  | none =>
    if !clauseWait s w wv x then .done s
    else
      let c := clauseOf wv.pos.pc x
      let wv := { wv with pos := ⟨wv.pos.pc + 4, some c⟩, reread := false }
      if x.getLsbD 11 then .done (countTurn (s.setWave w { wv with yielded := true, lastIssue := s.turnNow }))
      else issueWord (s.setWave w wv) w wv c

/-- A wave resumed within a clause reads the clause's header again, without its wait (R169): a fault of it is raised at the header (R195,
R483). A wave that goes on past the clause's last word reads the next header then. -/
def readAgain (s : State) (w : Nat) (wv : Wave) (c : Clause) : State × Option Wave :=
  match fetchWord s wv.cacheCore wv.vale wv.vd c.hdr with
  | (s, .error f) => (raiseFetchAt s w wv ⟨c.hdr, none⟩ f.cause (BitVec.ofNat 32 f.reason) f.addr, none)
  | (s, .ok x) =>
    match headerCause x with
    | some e => (raiseFetchAt s w wv ⟨c.hdr, none⟩ e 0 0, none)
    | none =>
      let d := clauseOf c.hdr x
      let pos : Pos := if 4 * d.n.toNat < (wv.pos.pc - c.hdr).toNat then ⟨wv.pos.pc, none⟩ else ⟨wv.pos.pc, some d⟩
      let wv := { wv with pos := pos, reread := false }
      (s.setWave w wv, some wv)

/-- Takes the next word of a wave: a header first when one is due (R168). -/
def issueNext (s : State) (w : Nat) (wv : Wave) : Issued :=
  match wv.pos.clause with
  | some c => issueWord s w wv c
  | none =>
    if fetchWaits s wv.cacheCore wv.vale wv.vd wv.pos.pc then .done s
    else match fetchWord s wv.cacheCore wv.vale wv.vd wv.pos.pc with
    | (s, .error f) => .done (raiseFetch s w wv f.cause (BitVec.ofNat 32 f.reason) f.addr)
    | (s, .ok x) => issueHeader s w wv x

/-- Whether a wave must read its clause's header again before it does anything else (R169), and that clause. -/
def Wave.unread (w : Wave) : Option Clause := if w.reread then w.pos.clause else none

/-- A wave's turn (R396): it comes back from an exception, delivers a late fault, or issues its next word. -/
def issueWave (s : State) (w : Nat) (defer : Bool) : Issued :=
  match Tbl.get s.waves w with
  | none => .done s
  | some wv =>
    if !canIssue s wv then .done s
    else match wv.trap with
      | some t =>
        if (t.deferred && s.speculative wv) || !t.lanes.all (fun f => f.resolved) then .done s else .done (resumeTrap s w wv t)
      | none =>
        match wv.late with
        | f :: _ => .done (deliverLate s w wv f)
        | [] =>
          let go (s : State) (wv : Wave) : Issued :=
            let (s, wv) := testWait s w wv
            if (wv.wait.isSome && wv.standing) || lookaheadHolds wv || queueHeld s wv then .done s else issueNext { s with defer := defer } w wv
          match wv.unread with
          | some c =>
            if fetchWaits s wv.cacheCore wv.vale wv.vd c.hdr then .done s
            else match readAgain s w wv c with
              | (s, none) => .done s
              | (s, some wv) => go s wv
          | none => go s wv

/-- Track-clocks an instruction costs (R36, R253, R394). -/
def issueCost (wv : Wave) (i : Instr) : Nat :=
  let ctrl := match encode i with
    | x :: _ => decide (opClass (opcodeOf x) = 3)
    | [] => false
  if ctrl || isUniform i || decide (wv.kind = .prologue) then 1 else max 1 (ceilDiv (laneCount wv.part) 2)

/-- After an instruction: if the wave moved, its issue counts for lookahead, its charge and its watchdog (R171, R394,
R473); the executing agent is none again. -/
def countIssue (before after : State) (w : Nat) (i : Instr) : State :=
  let s := countTurn { after with cur := .none, defer := false }
  match Tbl.get before.waves w with
  | none => s
  | some b =>
    if Tbl.get s.waves w = some b then s
    else
      let s := (unyield s w b).modWave w (fun x => { x with
        issued := x.issued + 1, lastIssue := after.turnNow
        wdog := (lanesOf b.part).foldl (fun t l => Tbl.erase t l) x.wdog })
      let cost := issueCost b i
      chargeVd (chargeCore s b.core b.vale b.vd cost) b.vale b.vd cost

end Sys2Proof.Machine
end

