-- ==== Sys2Proof/Machine/Access.lean ====
section
/-! DEFINITION. Memory accesses: addresses of lanes (R96 to R103, R503), reading and writing targets (R108, R112, R138,
R149 to R154), what makes an access wait (R110, R137, R144, R156), and performing it. -/
namespace Sys2Proof.Machine

/-! ## Lane addresses -/

/-- The spaces of a memory instruction (R180). -/
inductive Space where
  | global | stash | const
deriving DecidableEq, Repr

/-- The space a field names. -/
def spaceOf (x : BitVec 2) : Space := if x = 0 then .global else if x = 1 then .stash else .const

/-- The effective address of a lane (R96, R279). -/
def effAddr (w : Wave) (o : MmFields) (l : Nat) : DWord :=
  if o.space = 0 then w.rd64 o.a l + dwordOfInt o.offset
  else ((w.rd o.a l + wordOfInt o.offset).setWidth 64)

/-- The block of a rank in a block's cluster (R102): a member that has retired keeps its stash while the cluster stands (DESIGN CHOICE,
log 91). -/
def peerBlock (s : State) (b : Block) (rank : Nat) : Option (Nat × Block) :=
  match Tbl.get s.clusters b.cluster with
  | none => none
  | some c => Tbl.first (fun k x => c.members.contains k && decide (x.rank = rank)) s.blocks

/-- A stash address of n bytes (R101, R102): the block and offset it names. -/
def stashTarget (s : State) (blk addr n : Nat) : Option (Nat × Nat) :=
  match Tbl.get s.blocks blk with
  | none => none
  | some b =>
    let off := addr % 2 ^ 18
    let rank := addr / 2 ^ 18 % 16
    if 2 ^ 23 ≤ addr then none
    else if !bitOf addr 22 then
      (if rank = 0 && decide (off + n ≤ b.stashKib * 1024) then some (blk, off) else none)
    else match peerBlock s b rank with
      | none => none
      | some (k, p) => if off + n ≤ p.stashKib * 1024 then some (k, off) else none

/-- Whether an access of a kind to a row reaches its line (R108): an unmapping only writes dirty sectors back. -/
def Row.reached (r : Row) : AccKind → Bool
  | .row => false
  | .stmap => (match r.st with
    | .mappedDirty _ => true
    | _ => false)
  | _ => true

/-- Why the fill of a row with a line of another package fails now (R506, log 98), if it does. -/
def farFailure (s : State) (r : Row) (off : Nat) : Option AddrFault :=
  if farLine r.line && decide (r.st = .mappedInvalid) then
    (Config.farFill r.line s.tod.toNat).1.map (fun x => ⟨cProtect, 12 + min x 2, BitVec.ofNat 64 (lineAddr s r.line + off % 128)⟩)
  else none

/-- The fault of an access to n bytes of a block's stash that reaches a mapped row whose line has left the vale (R32, R503 step 4), or whose fill
from another package fails. -/
def rowGone (s : State) (blk off n : Nat) (k : AccKind := .load) : Option AddrFault :=
  match Tbl.get s.blocks blk with
  | none => none
  | some b =>
    if b.rows.isEmpty then none
    else (unitsOf 128 off n).findSome? (fun row => match Tbl.get b.rows row with
      | some r =>
        if r.reached k && !lineThere s b.vale r.line then
          some ⟨cXlate, 6, BitVec.ofNat 64 (lineAddr s r.line + max off (128 * row) % 128)⟩
        else if r.reached k && decide (k ≠ .stmap) then farFailure s r (max off (128 * row))
        else none
      | none => none)

/-- The size of a constant bank for a wave (R103, R353): none for a bank that is not there, and no bound where bank 1
reads zero (R283, R466). -/
def bankSize (s : State) (w : Wave) (bank : Nat) : Option Nat :=
  if bank = 0 then some 128
  else if bank = 1 then
    (if w.kind ≠ .ordinary then some (2 ^ 24)
    else match s.taskOf w with
      | some (_, t) => if t.root then some (cardField (s.cardOf w.job) 0 47 32) else some 72
      | none => some (cardField (s.cardOf w.job) 0 47 32))
  else none

/-- Whether bank 1 of a wave is a record in memory (R103): not of a child task (R353), nor outside a block (R466). -/
def recordWave (s : State) (w : Wave) : Bool :=
  decide (w.kind = .ordinary) && (match s.taskOf w with
    | some (_, t) => t.root
    | none => true)

/-- The address of a byte of a wave's record (R103). -/
def recordVa (s : State) (w : Wave) (off : Nat) : Nat :=
  let card := s.cardOf w.job
  let rec_ := ((Tbl.get s.blocks w.blk).map (fun (b : Block) => b.record.toNat)).getD 0
  (card64 card 0x10 + rec_ * cardField card 0 47 32 + off) % 2 ^ 64

/-- The word a core's constant cache holds at an address of a VD (R104). -/
def constFind (s : State) (w : Wave) (va : Nat) : Option CachedWord :=
  (s.core? w.core).ccache.find? (fun e => decide (e.vale = w.vale) && decide (e.vd = w.vd) && decide (e.addr = va))

/-- Where a constant access leads (R103): a byte of a bank, or, for a record that does not lie in local memory, the place it
lies in. -/
def recordAccess (s : State) (w : Wave) (bank off n : Nat) : State × Except AddrFault Xlat :=
  let here : Except AddrFault Xlat := .ok ⟨.const bank off, 0, false, false, false, 0⟩
  if bank ≠ 1 || !recordWave s w || (constFind s w (recordVa s w off)).isSome then (s, here)
  else match translate s (some w.cacheCore) w.vale w.vd (recordVa s w off) n .load with
    | (s, .ok x) => (match x.target with
      | .mem _ => (s, here)
      | _ => (s, .ok x))
    | (s, .error f) => (s, .error f)

/-- A lane's request: the checks of stage 8 (R503), alignment first, then the translated target. A row mapped to a line that has left the
vale faults as its line would (R32). -/
def laneAccess (s : State) (w : Wave) (sp : Space) (ea : DWord) (n : Nat) (k : AccKind) : State × Except AddrFault Xlat :=
  if ea.toNat % n ≠ 0 then (s, .error ⟨cAlign, 0, ea⟩)
  else match sp with
    | .global => translate s (some w.cacheCore) w.vale w.vd ea.toNat n k
    | .stash =>
      match stashTarget s w.blk ea.toNat n with
      | some (b, off) => (match rowGone s b off n k with
        | some f => (s, .error f)
        | none => (s, .ok ⟨.stash b off, 0, false, false, false, 0⟩))
      | none => (s, .error ⟨cProtect, 11, ea⟩)
    | .const =>
      let bank := ea.toNat / 2 ^ 24
      let off := ea.toNat % 2 ^ 24
      match bankSize s w bank with
      | some z => if off + n ≤ z then recordAccess s w bank off n else (s, .error ⟨cProtect, 11, ea⟩)
      | none => (s, .error ⟨cProtect, 11, ea⟩)

/-- Whether a lane's translation must wait for a line of the tables (R108, R156): of a global address, or of a record's word (R103). -/
def laneWalks (s : State) (w : Wave) (sp : Space) (ea : Nat) (k : AccKind) : Bool :=
  match sp with
  | .global => walkWaits s (some w.cacheCore) w.vale w.vd ea k
  | .stash => false
  | .const =>
    let va := recordVa s w (ea % 2 ^ 24)
    decide (ea / 2 ^ 24 = 1) && recordWave s w && (constFind s w va).isNone && walkWaits s (some w.cacheCore) w.vale w.vd va .load

/-- The lane fault of an address fault; a misaligned or stash fault shows its address (R275). -/
def faultOf (l : Nat) (f : AddrFault) : LaneFault := laneFault l f.cause (BitVec.ofNat 32 f.reason) f.addr

/-! ## Lines held and rows recalled -/

/-- Whether n bytes of a block's stash lie in a recorded range (R110). -/
def scoreboardHolds (s : State) (blk off n : Nat) : Bool :=
  s.cores.any (fun c => c.2.sb.any (fun e => decide (e.blk = blk) && decide (e.lo < off + n) && decide (off < e.hi)))

/-! ## Reading and writing stash -/

/-- A line of another package as a fill finds it: free bytes (DESIGN CHOICE, log 98); other rows give it up. -/
def farRow (s : State) (line : Nat) : State × List Byte :=
  let s := recallLine s line noRow noRow
  ({ s with freeCount := s.freeCount + 128 }, (natsFrom s.freeCount 128).map Config.freeByte)

/-- Fills a row that is MAPPED_INVALID from its line's home with the hint of the access (R108, R114). A row whose line has left the vale stays
as it is (R32): what reads it faults. A row's page is never NC (R285). -/
def fillRow (s : State) (blk row : Nat) (hint : BitVec 2 := 0) : State :=
  match Tbl.get s.blocks blk with
  | none => s
  | some b =>
    match Tbl.get b.rows row with
    | none => s
    | some r =>
      if r.st ≠ .mappedInvalid || !lineThere s b.vale r.line then s
      else
        let (s, bs) := if farLine r.line then farRow s r.line else homeRead s (dieOfCore b.core) b.vale b.vd (128 * r.line) 128 hint false false
        let bad := (natsFrom 0 4).filter (fun j => if farLine r.line then (Config.farFill r.line s.tod.toNat).2.getLsbD j
          else diePoisoned s (dieOfCore b.core) (128 * r.line + 32 * j) 32)
        s.modBlock blk (fun b => { b with
          stash := (natsFrom 0 128).foldl (fun t i => Tbl.setCell 0 t (128 * row + i) (bs.getD i 0)) b.stash
          stashPoison := (bad.flatMap (fun j => natsFrom (32 * row + 8 * j) 8)).foldl (fun p k => insertNat k p)
            (b.stashPoison.filter (fun k => decide (k / 32 ≠ row)))
          rows := Tbl.set b.rows row { r with st := .mappedClean } })

/-- Reads bytes of a block's stash; mapped rows are filled first (R108). -/
def readStash (s : State) (blk off n : Nat) (hint : BitVec 2 := 0) : State × List Byte × Bool :=
  let s := (unitsOf 128 off n).foldl (fun s row => fillRow s blk row hint) s
  match Tbl.get s.blocks blk with
  | none => (s, [], false)
  | some b => (s, (natsFrom off n).map (fun k => Tbl.cell 0 b.stash k), (unitsOf 4 off n).any (fun k => b.stashPoison.contains k))

/-- Writes stash bytes with no row state: a local row, or what a copy engine expands. -/
def putStash (s : State) (blk off : Nat) (bs : List Byte) : State :=
  s.modBlock blk (fun b => { b with
    stash := (natsFrom 0 bs.length).foldl (fun t i => Tbl.setCell 0 t (off + i) (bs.getD i 0)) b.stash
    stashPoison := if b.stashPoison = [] then [] else b.stashPoison.filter (fun k => !coversUnit 4 off bs.length k) })

/-- The sectors of a row that n bytes at an offset touch, as the row's mask (R107). -/
def rowSectors (off n : Nat) : BitVec 4 :=
  (unitsOf 32 off n).foldl (fun m j => m ||| BitVec.ofNat 4 (2 ^ (j % 4))) 0

/-- Writes bytes of a block's stash: a mapped row is filled and becomes dirty (R108). -/
def writeStash (s : State) (blk off : Nat) (bs : List Byte) (hint : BitVec 2 := 0) : State :=
  let row := off / 128
  let s := putStash (fillRow s blk row hint) blk off bs
  s.modBlock blk (fun b => match Tbl.get b.rows row with
    | none => b
    | some r =>
      let m := rowSectors off bs.length
      let old := match r.st with
        | .mappedDirty x => x
        | _ => 0
      { b with rows := Tbl.set b.rows row { r with st := .mappedDirty (old ||| m) } })

/-! ## Loads of memory -/

/-- What a page permits of caches (R126): L1, compression, and whether it is a DEVICE page. -/
structure PageKind where
  l1 : Bool
  nc : Bool
  dev : Bool
deriving DecidableEq, Repr

/-- The kind of a translated page. -/
def Xlat.page (x : Xlat) : PageKind := ⟨x.l1, x.nc, x.dev⟩

/-- The kind of a request's page. -/
def LaneReq.page (r : LaneReq) : PageKind := ⟨r.l1, r.nc, r.dev⟩

/-- How a load reads memory (R138): from the home, or from L1 where a copy may serve it. An acquire at WAVE or BLOCK scope may be
served as a relaxed load is there (log 88). -/
def loadFromHome (ord scope : BitVec 3) : Bool := decide (ord ≠ 0) && decide (2 ≤ scope.toNat)

/-- Reads memory for a wave's load (R112, R114, R138): bytes, and whether a sector of the home is poisoned. A line that a mapped row owns is
read at its home, which recalls the row (R108). -/
def readMemLoad (s : State) (w : Wave) (k n : Nat) (ord scope : BitVec 3) (hint : BitVec 2) (page : PageKind) :
    State × List Byte × Bool :=
  let sec := k / 32
  match if loadFromHome ord scope || !page.l1 || decide (hint = 3) || rowOwns s (k / 128) then none else l1Find s w.core w.vale w.vd sec with
  | some e => (s, (natsFrom (k % 32) n).map (fun i => e.data.getD i 0), false)
  | none =>
    let die := dieOfCore w.core
    let (s, bs) := homeRead s die w.vale w.vd k n hint page.nc page.dev
    let bad := diePoisoned s die k n
    let known := (l1Find s w.core w.vale w.vd sec).isSome
    let s := if !bad && page.l1 && (known || decide (hint ≠ 3)) then
        l1Put s w.core w.vale w.vd sec (seenBytes s die (32 * sec) 32) (decide (hint = 1))
      else s
    (s, bs, bad)

/-! ## Constant space -/

/-- The card a wave's bank 0 holds (R48, R466, R283). -/
def bank0 (s : State) (w : Wave) : List Word :=
  match w.kind with
  | .prologue =>
    match (s.vd? w.vale w.vd).bind (fun d => Tbl.get d.queues w.queueOf) with
    | some q => q.card
    | none => []
  | _ => s.cardOf w.job

/-- A word of constant space (R103, R104, R283, R353, R466), through the 16 KiB constant cache for bank 1, which holds
nothing of a DEVICE page (R126). -/
def readConst (s : State) (w : Wave) (bank off : Nat) : State × Word × Bool :=
  if bank = 0 then (s, wordAt (bank0 s w) (off / 4), false)
  else if w.kind ≠ .ordinary then (s, 0, false)
  else
    let task := match s.taskOf w with
      | some (_, t) => if t.root then none else some t
      | none => none
    match task with
    | some t => (s, wordAt (loWord t.ts :: hiWord t.ts :: t.args) (off / 4), false)
    | none =>
      let va := recordVa s w off
      match constFind s w va with
      | some e => (s, e.word, false)
      | none =>
        match translate s (some w.cacheCore) w.vale w.vd va 4 .load with
        | (s, .error _) => (s, 0, true)
        | (s, .ok x) =>
          match x.target with
          | .mem k =>
            let (s, bs) := homeRead s (dieOfCore w.core) w.vale w.vd k 4 0 x.nc x.dev
            let v : Word := BitVec.ofNat 32 (natLE bs)
            if diePoisoned s (dieOfCore w.core) k 4 then (s, 0, true)
            else if x.dev then (s, v, false)
            else (s.modCore w.core (fun c => { c with ccache := (⟨w.vale, w.vd, va, v, x.lg⟩ :: c.ccache).take 4096 }), v, false)
          | t => let r := elseBytes s w.vale t 4; (r.1, BitVec.ofNat 32 (natLE r.2), false)

/-- Whether a read of constant space must wait: a word of a record that is in no cache (R108, R150, R156). -/
def constWaits (s : State) (w : Wave) (bank off : Nat) : Bool :=
  decide (bank = 1) && recordWave s w && (constFind s w (recordVa s w off)).isNone &&
    (walkWaits s (some w.cacheCore) w.vale w.vd (recordVa s w off) .load || match (translate s (some w.cacheCore) w.vale w.vd (recordVa s w off) 4 .load).2 with
      | .ok x => readWaits s (dieOfCore w.core) x.target 4
      | .error _ => false)

/-! ## Atomics -/

/-- New(old) of an atomic (R284). -/
def atomNew (op : AtomOp) (old x w : DWord) : DWord :=
  let a := loWord old
  let b := loWord x
  let r (v : Word) : DWord := v.setWidth 64
  match op with
  | .add => r (a + b)
  | .smin => r (if b.toInt < a.toInt then b else a)
  | .smax => r (if a.toInt < b.toInt then b else a)
  | .bmin => r (if b.toNat < a.toNat then b else a)
  | .bmax => r (if a.toNat < b.toNat then b else a)
  | .and => r (a &&& b)
  | .or => r (a ||| b)
  | .xor => r (a ^^^ b)
  | .xchg => r b
  | .cas => if a = b then w else old
  | .fadd => r (faddW a b)
  | .add64 => old + x
  | .cas64 => if old = x then w else old

/-- dst + src for every element of a reduce kind, rounded to its format (R292). -/
def reduceBytes : Nat → Nat → List Byte → List Byte → List Byte
  | 0, _, _, _ => []
  | fuel + 1, n, d, x =>
    match d with
    | [] => []
    | _ =>
      let f := if n = 4 then fp32 else bf16
      bytesLE n (rne f (addV (valOf f (natLE (d.take n))) (valOf f (natLE (x.take n))))) ++ reduceBytes fuel n (d.drop n) (x.drop n)

/-- What an access does to the bytes at its place (R149, R284, R288): the bytes after, from the bytes before. -/
def accApply (op : AccOp) (old : List Byte) : List Byte :=
  match op with
  | .store bs => bs
  | .bad bs => bs
  | .atom a x w => bytesLE (atomSize a) (atomNew a (BitVec.ofNat 64 (natLE old)) x w).toNat
  | .add v => bytesLE 8 (BitVec.ofNat 64 (natLE old) + v).toNat
  | .reduce n bs => reduceBytes 32 n old bs

/-! ## What makes an access wait -/

/-- Whether two targets of given sizes share a byte. -/
def overlaps (a : Target) (n : Nat) (b : Target) (m : Nat) : Bool :=
  match a, b with
  | .mem x, .mem y => decide (x < y + m) && decide (y < x + n)
  | .stash p x, .stash q y => decide (p = q) && decide (x < y + m) && decide (y < x + n)
  | .remote x, .remote y => decide (x < y + m) && decide (y < x + n)
  | .post x, .post y => decide (x < y + m) && decide (y < x + n)
  | _, _ => false

/-- The line an access reaches: a mapped row's own line, for a stash access through it (R108, R139), under the key its page has now
(R161). -/
def homeOf (s : State) (t : Target) : Target :=
  match t with
  | .stash b off => (match (Tbl.get s.blocks b).bind (fun x => Tbl.get x.rows (off / 128)) with
    | some r => if farLine r.line then .remote (lineAddr s r.line + off % 128) else .mem (s.nowKey (128 * r.line + off % 128))
    | none => t)
  | .mem k => .mem (s.nowKey k)
  | _ => t

/-- The key of the line a stash access reaches through a mapped row (R108), if its row is mapped. -/
def rowKey (s : State) (b off : Nat) : Option Nat :=
  ((Tbl.get s.blocks b).bind (fun x => Tbl.get x.rows (off / 128))).map (fun r => 128 * r.line + off % 128)

/-- Whether a stash access goes through a mapped row (R108). -/
def throughRow (s : State) (t : Target) : Bool :=
  match t with
  | .stash b off => (rowKey s b off).isSome
  | _ => false

/-- Whether two accesses of one wave keep program order: they share a byte (R137), by a row or by its line (R108), or both go to
DEVICE pages (R126). -/
def ordered (s : State) (t : Target) (n : Nat) (dev : Bool) (u : Target) (m : Nat) (udev : Bool) : Bool :=
  overlaps (homeOf s t) n (homeOf s u) m || (dev && udev)

/-- An earlier access of the wave that keeps program order with this one, and has neither been performed nor become a forwarded
update (R137, R150). -/
def ownPending (s : State) (wid upTo : Nat) (t : Target) (n : Nat) (dev load : Bool) : Bool :=
  s.inflight.any (fun e => decide (e.2.wave = wid) && decide (e.1 < upTo) && ordered s t n dev e.2.target e.2.op.size e.2.dev &&
    !(load && e.2.sent && !e.2.op.isAtomic && (match e.2.target with
      | .mem _ => true
      | _ => false)))

/-- The places of the band scales an MXRD reads (R311, R325), 16 bytes each, word by word. -/
def MxReq.scales (r : MxReq) (blk : Nat) : List Target :=
  if r.f.getLsbD 4 then []
  else (([r.saAddr, r.sbAddr].filter (fun a => !a.getLsbD 18)).map (fun a => a.toNat % 2 ^ 18)).flatMap
    (fun a => (unitsOf 4 a 16).map (fun k => .stash blk (4 * k)))

/-- An earlier load of the wave, or MXRD, that is not yet complete and keeps program order with this access (R137, R153). -/
def ownLoadPending (s : State) (w : Wave) (upTo : Nat) (t : Target) (n : Nat) (dev : Bool) : Bool :=
  w.outst.any (fun o => decide (o.id < upTo) && match o.op with
    | .load op => op.lanes.any (fun r => ordered s t n dev r.target op.size r.dev)
    | .mxrd r => (r.scales w.blk).any (fun u => ordered s t n dev u 4 false)
    | _ => false)

/-- An acquire of the wave, earlier than `upTo`, is not yet performed (R144), or a fence at CLUSTER scope or wider, which no later access
of the wave passes (R113): a load or fence, or an atomic in flight. -/
def acquirePending (s : State) (wid : Nat) (w : Wave) (upTo : Nat) : Bool :=
  w.outst.any (fun o => decide (o.id < upTo) && match o.op with
    | .load op => isAcq op.ord
    | .fence k sc _ _ => isAcq k || decide (2 ≤ sc.toNat)
    | _ => false) ||
  s.inflight.any (fun e => decide (e.2.wave = wid) && decide (e.1 < upTo) && e.2.op.isAtomic && isAcq e.2.ord)

/-- The scope of an access where it goes (R139): at most CLUSTER for a stash access that no row maps. -/
def scopeAt (s : State) (t : Target) (scope : BitVec 3) : BitVec 3 :=
  match homeOf s t with
  | .stash _ _ => if 2 < scope.toNat then 2 else scope
  | _ => scope

/-- A release fence of the wave, earlier than `upTo`, is not yet performed (R145). -/
def fencePending (w : Wave) (upTo : Nat) : Bool :=
  w.outst.any (fun o => decide (o.id < upTo) && match o.op with
    | .fence k _ _ _ => isRel k
    | _ => false)

/-- The data registers of an access of the wave are still to be read (R172, R488). -/
def dataUnread (w : Wave) (id : Nat) : Bool :=
  w.outst.any (fun o => match o.op with
    | .stores accs _ => accs.contains id
    | _ => false)

/-- Writes of a vale's agents to other packages, earlier than `upTo`, that are not acknowledged or not yet sent (R154): whichever agent made
one, it may happen before a release of the vale (DEDUCED, log 101). -/
def postedPending (s : State) (vale upTo : Nat) : Bool :=
  s.inflight.any (fun e => decide (e.1 < upTo) && decide (e.2.vale = vale) && (match e.2.target with
    | .remote _ => true
    | _ => false))

/-- Whether a release of the wave at a scope must still wait (R144, R146, R154): an earlier access or load, a command not
accepted, an update across a saddle, or, at SYSTEM scope, a posted write. -/
def releaseWaits (s : State) (wid : Nat) (w : Wave) (upTo : Nat) (scope : BitVec 3) (crossing : Bool) : Bool :=
  let posted (t : Target) : Bool := match t with
    | .remote _ => true
    | _ => false
  s.inflight.any (fun e => decide (e.2.wave = wid) && decide (e.1 < upTo) && !(crossing && e.2.sent) &&
      (decide (scope = 5) || !posted e.2.target)) ||
    w.outst.any (fun o => decide (o.id < upTo) && match o.op with
      | .load _ => true
      | .cmds _ => true
      | .fence _ _ _ _ => true
      | .mxrd _ => true
      | _ => false) ||
    (!crossing && decide (3 ≤ scope.toNat) && updatesPending s (dieOfCore w.core)) ||
    (decide (scope = 5) && postedPending s w.vale upTo)

/-- A store of the wave that crosses saddles waits for its die's count of updates to fall: the wave is held (R151). -/
def crossingHeld (s : State) (wid : Nat) (w : Wave) : Bool :=
  updatesFull s (dieOfCore w.core) && s.inflight.any (fun e => decide (e.2.wave = wid) && !e.2.sent && (match e.2.target with
    | .mem k => decide (dieOfKey k ≠ dieOfCore w.core)
    | _ => false))

/-- Whether a wave's access to stash is held at issue: it overlaps a recorded range (R110, R111). -/
def stashHeld (s : State) (t : Target) (n : Nat) : Bool :=
  match t with
  | .stash b off => scoreboardHolds s b off n
  | _ => false

/-- Whether an access to a mapped row that n bytes of a block's stash touch must wait: for a line that an engine holds (R156), and, where the row
must be filled first, for the line at its home (R131, R150, R151, R518). -/
def fillWaits (s : State) (blk off n : Nat) (held : Nat → Bool := lineHeld s) : Bool :=
  (unitsOf 128 off n).any (fun row => match (Tbl.get s.blocks blk).bind (fun x => Tbl.get x.rows row) with
    | some r =>
      let die := ((Tbl.get s.blocks blk).map (fun b => dieOfCore b.core)).getD 0
      held r.line || (farLine r.line && decide (r.st = .mappedInvalid) && farBusy s (lineAddr s r.line)) ||
        (decide (r.st = .mappedInvalid) && !farLine r.line && (lineLocked s r.line || recallWaits s r.line blk row || atomicInFlight s die r.line ||
        lineComing s die r.line || routeStalled s die (dieOfKey (128 * r.line))))
    | none => false)

/-- Whether bytes of a target are held back from any access now (R110, R130, R156). -/
def targetWaits (s : State) (t : Target) (n : Nat) (write : Bool) : Bool :=
  match t with
  | .stash b off =>
    scoreboardHolds s b off n || fillWaits s b off n
  | _ => homeWaits s t n write

end Sys2Proof.Machine
end

