-- ==== Sys2Proof/Machine/TaskOps.lean ====
section
/-! DEFINITION. What the task units do for ordered tasks: order and the commit frontier (R354, R366), read sets (R360,
R361), speculative lines (R359, R362), abort (R365), and committing a group of lines (R159, R363, R367). -/
namespace Sys2Proof.Machine

/-! ## Order -/

/-- (timestamp, seq) order (R354). -/
def tsBefore (ts : DWord) (q : Nat) (ts' : DWord) (q' : Nat) : Bool :=
  decide (ts.toNat < ts'.toNat) || (decide (ts = ts') && decide (q < q'))

/-- Records of a job (R44). -/
def cardRecords (card : List Word) : Nat := card64 card 0x18 % 2 ^ 32

/-- The address of a record of a job (R44). -/
def rootVa (j : Job) (i : Nat) : Nat := (card64 j.card 0x10 + i * cardField j.card 0 47 32) % 2 ^ 64

/-- What a read of a root record comes to: its timestamp, a failure, or that its answer is still to come from another package. -/
inductive RootGot where
  | value (x : DWord)
  | failed
  | later

/-- The first 8 bytes of a record of a job (R353, R355): as memory stands once mapped rows have given their lines up (R108), of a post word or
a register where it lies there (R415, R417), as the package that holds it last answered (`seen`), and a free value at a reserved offset
(DESIGN CHOICE, log 96). -/
def rootGot (s : State) (j : Job) (seen : Option (Nat × Option DWord)) (i : Nat) : RootGot :=
  match translate s none j.vale j.vd (rootVa j i) 8 .load with
  | (_, .ok x) =>
    match x.target with
    | .mem k =>
      if diePoisoned s (valeDie s j.vale) k 8 then .failed else .value (BitVec.ofNat 64 (natLE (seenBytes s (valeDie s j.vale) k 8)))
    | .post o => .value (if o % 4096 < 512 then BitVec.ofNat 64 (natLE (postBytes s j.vale o 8).2) else Config.farRecord (rootVa j i))
    | .control o => .value (BitVec.ofNat 64 (natLE (controlBytes s o 8)))
    | _ =>
      match seen with
      | some (k, x) => if k / 2 = i then x.elim .failed .value else .later
      | none => .later
  | (_, .error _) => .failed

/-- Whether the read of a root record must wait (R108, R150, R156). -/
def rootWaits (s : State) (j : Job) (i : Nat) : Bool :=
  walkWaits s none j.vale j.vd (rootVa j i) .load || match (translate s none j.vale j.vd (rootVa j i) 8 .load).2 with
    | .ok x => readWaits s (valeDie s j.vale) x.target 8
    | .error _ => false

/-- The timestamp of the next root record, if one is left (R353), or, where it is not known, the least it can be. -/
def nextRootTs (s : State) (j : Job) (o : Ordered) : Option DWord :=
  if o.rootNext < cardRecords j.card then
    match rootGot s j o.rootSeen o.rootNext with
    | .value x => some (if x.toNat < o.rootTs.toNat then o.rootTs else x)
    | _ => some o.rootTs
  else none

/-- CFRONT's timestamp for a job (R366): all ones when nothing is left. -/
def frontierTs (s : State) (j : Job) (o : Ordered) : DWord :=
  let ts := o.tasks.map (fun e => e.2.ts.toNat)
  let ts := match nextRootTs s j o with
    | some x => x.toNat :: ts
    | none => ts
  match ts with
  | [] => BitVec.allOnes 64
  | t :: r => BitVec.ofNat 64 (r.foldl min t)

/-- Whether a task is the frontier (R366): no other task precedes it, and the next root record would follow it. -/
def isFrontier (s : State) (job seq : Nat) : Bool :=
  match Tbl.get s.jobs job with
  | none => false
  | some j => match j.ord with
    | none => false
    | some o => match Tbl.get o.tasks seq with
      | none => false
      | some t =>
        o.tasks.all (fun e => decide (e.1 = seq) || tsBefore t.ts seq e.2.ts e.1) &&
          (match nextRootTs s j o with
            | some x => decide (t.ts.toNat ≤ x.toNat)
            | none => true)

/-! ## Read sets -/

/-- Rotates a 10-bit chunk left (R361). -/
def rot10 (c n : Nat) : Nat := (c * 2 ^ n + c / 2 ^ (10 - n)) % 1024

/-- H1 of a sector key (R361). -/
def sigH1 (x : Nat) : Nat :=
  bitsOf x 9 0 ^^^ bitsOf x 19 10 ^^^ bitsOf x 29 20 ^^^ bitsOf x 39 30 ^^^ bitsOf x 49 40 ^^^ bitsOf x 54 50

/-- H2 of a sector key (R361). -/
def sigH2 (x : Nat) : Nat :=
  bitsOf x 9 0 ^^^ rot10 (bitsOf x 19 10) 3 ^^^ rot10 (bitsOf x 29 20) 6 ^^^ rot10 (bitsOf x 39 30) 9 ^^^
    rot10 (bitsOf x 49 40) 2 ^^^ rot10 (bitsOf x 54 50) 5

/-- The key of a target among a task's lines (R359), if it is memory. -/
def specKey : Target → Option Nat
  | .mem k => some k
  | .remote pa => some (farKey pa)
  | _ => none

/-- The key of a place that is no memory, by which a task's reads of it are known (R360): a post word's or a register's. -/
def elseKey : Target → Option Nat
  | .post o => some (2 ^ 62 + o)
  | .control o => some (2 ^ 63 + o)
  | _ => none

/-- The sector key of a key (R361): bits [59:5] of its physical address, in the direct window for local memory. -/
def sectorKey (s : State) (k : Nat) : Nat := (if 2 ^ 60 ≤ k then k - 2 ^ 60 else s.pkgId.toNat * 2 ^ 47 + k) / 32

/-- Records a sector read (R360): 256 exactly, later ones in the signature. -/
def Task.addRead (t : Task) (x : Nat) : Task :=
  if t.reads.contains x then t
  else if t.reads.length < 256 then { t with reads := insertNat x t.reads }
  else { t with sig := insertNat (sigH1 x) (insertNat (sigH2 x) t.sig) }

/-- Whether a read set holds a sector, exactly or by Match (R361, R363). -/
def Task.readsSector (t : Task) (x : Nat) : Bool := t.reads.contains x || (t.sig.contains (sigH1 x) && t.sig.contains (sigH2 x))

/-! ## Abort -/

/-- One round of gathering children. -/
def childrenOf (tasks : Tbl Task) (qs : List Nat) : List Nat :=
  (tasks.filter (fun e => match e.2.parent with
    | some p => qs.contains p && !qs.contains e.1
    | none => false)).map (fun e => e.1)

/-- Descendants of a task, itself included (R365). -/
def descend (tasks : Tbl Task) : Nat → List Nat → List Nat
  | 0, qs => qs
  | n + 1, qs => descend tasks n (qs ++ childrenOf tasks qs)

/-- Removes a block that stops without retiring: its waves, accesses and storage (R365). -/
def removeBlock (s : State) (blk : Nat) : State :=
  match Tbl.get s.blocks blk with
  | none => s
  | some b =>
    let s := bumpGen s b.core b.vale b.vd
    let s := freeHandlers s (fun _ => false)
    { s with
      waves := Tbl.keep (fun _ w => !(decide (w.kind = .ordinary) && decide (w.blk = blk))) s.waves
      inflight := Tbl.keep (fun _ a => decide (a.blk ≠ blk) || a.sent) s.inflight
      takes := s.takes.filter (fun t => !b.waves.contains t.1)
      blocks := Tbl.erase s.blocks blk }

/-- The block a task runs in or finished in. -/
def taskBlock (t : Task) : Option Nat :=
  match t.st with
  | .running b => some b
  | .saved b => some b
  | _ => none

/-- Aborts a task (R365): it and its descendants stop, descendants are discarded, and it is PENDING again. -/
def abortTask (s : State) (job seq : Nat) : State :=
  match (Tbl.get s.jobs job).bind (fun (j : Job) => j.ord) with
  | none => s
  | some o =>
    let all := descend o.tasks o.tasks.length [seq]
    let blocks := all.filterMap (fun q => (Tbl.get o.tasks q).bind taskBlock)
    let s := blocks.foldl removeBlock s
    let fresh (t : Task) : Task := { t with st := .pending, irrev := false, reads := [], sig := [], lines := [], fault := none }
    s.modJob job (fun j => { j with ord := j.ord.map (fun o =>
      { o with tasks := Tbl.modify (Tbl.keep (fun q _ => decide (q = seq) || !all.contains q) o.tasks) seq fresh }) })

/-- Aborts every task later than (ts, seq) whose read set holds one of the sectors written (R363, R367). -/
def abortReaders (s : State) (job : Nat) (ts : DWord) (seq : Nat) (sectors : List Nat) : State :=
  match (Tbl.get s.jobs job).bind (fun (j : Job) => j.ord) with
  | none => s
  | some o =>
    let hit := (o.tasks.filter (fun e => tsBefore ts seq e.2.ts e.1 && !e.2.irrev && sectors.any e.2.readsSector)).map (fun e => e.1)
    hit.foldl (fun s q => abortTask s job q) s

/-- Every L1 of a vale invalidates its copies of some lines (R159). -/
def dropLines (s : State) (vale : Nat) (lines : List Nat) : State :=
  { s with cores := Tbl.mapVals (fun _ c =>
      { c with l1 := c.l1.filter (fun e => !(decide (e.vale = vale) && lines.contains (e.sector / 4))) }) s.cores }

/-- A write of a task at its home that later tasks may have read before it (R367, R364): those abort, and no L1 of the vale keeps an older
copy for a later task to read. -/
def taskWrite (s : State) (vale job : Nat) (ts : DWord) (q k n : Nat) : State :=
  abortReaders (dropLines s vale (unitsOf 128 k n)) job ts q ((unitsOf 32 k n).map (fun x => sectorKey s (32 * x)))

/-- A write of an irrevocable task's block at its home (R367). -/
def irrevWrite (s : State) (blk k n : Nat) : State :=
  match Tbl.get s.blocks blk with
  | none => s
  | some b =>
    match b.task with
    | none => s
    | some q =>
      match ((Tbl.get s.jobs b.job).bind (fun (j : Job) => j.ord)).bind (fun o => Tbl.get o.tasks q) with
      | none => s
      | some t => taskWrite s b.vale b.job t.ts q k n

/-- An access's write at its home, for the task it belongs to: one of a group that goes to another package is checked again when it is
performed there (R364), as one of an irrevocable task is (R367). -/
def accessWrite (s : State) (a : Access) (k n : Nat) : State :=
  match a.task with
  | some (ts, q) => taskWrite s a.vale a.job ts q k n
  | none => irrevWrite s a.blk k n

/-! ## Speculative lines -/

/-- Bytes from an offset of a line after an operation at another offset of it. -/
def opOver (off : Nat) (bs : List Byte) (e : Nat × AccOp) : List Byte :=
  match e.2 with
  | .store xs => (natsFrom 0 bs.length).map (fun i =>
      if e.1 ≤ off + i && decide (off + i < e.1 + xs.length) then xs.getD (off + i - e.1) 0 else bs.getD i 0)
  | op =>
    if off ≤ e.1 && decide (e.1 + op.size ≤ off + bs.length) then
      bs.take (e.1 - off) ++ accApply op ((bs.drop (e.1 - off)).take op.size) ++ bs.drop (e.1 - off + op.size)
    else bs

/-- A line's own bytes over memory's, from an offset up (R359). -/
def SpecLine.over (l : SpecLine) (off : Nat) (bs : List Byte) : List Byte :=
  l.later.foldl (opOver off) ((natsFrom 0 bs.length).map (fun i => (Tbl.get l.bytes (off + i)).getD (bs.getD i 0)))

/-- Whether an operation of a line touches a byte range of it. -/
def opTouches (off n : Nat) (e : Nat × AccOp) : Bool := decide (e.1 < off + n) && decide (off < e.1 + e.2.size)

/-- Whether the task itself wrote every byte of a range of a line (R360): a byte of a counter add is its own only where the counter
was. -/
def SpecLine.owns (l : SpecLine) (off n : Nat) : Bool :=
  let step (own : Nat → Bool) (e : Nat × AccOp) : Nat → Bool :=
    let here (i : Nat) : Bool := decide (e.1 ≤ i) && decide (i < e.1 + e.2.size)
    match e.2 with
    | .store _ => fun i => here i || own i
    | op => fun i => if here i then (natsFrom e.1 op.size).all own else own i
  (natsFrom off n).all (l.later.foldl step (fun i => (Tbl.get l.bytes i).isSome))

/-- The bytes of memory a read of a range of a line needs: whole counters where adds are buffered (R359). -/
def SpecLine.span (l : SpecLine) (off n : Nat) : Nat × Nat :=
  if l.later.any (opTouches off n) then (off / 8 * 8, max n 8) else (off, n)

/-- The share of every set that a core offers speculative lines under a card (R359). -/
def specWays (c : Core) (card : List Word) : Nat :=
  let u := (256 - c.stashKib) / 32
  let w := cardField card 0x70 8 5
  if w = 0 then 0 else min (ceilDiv (w * 4 * u) 16) (4 * u - 1)

/-- The ways of a set of a core that a share of some ways leaves free of speculative lines (R359, R362). -/
def specFree (s : State) (core ways set : Nat) : List Nat :=
  (natsFrom 0 (min ways (l1Ways (s.core? core)))).filter (fun w => !specAt s core set w)

/-- A task takes a line it will write (R359): the lowest free way of its share (DESIGN CHOICE, log 105), from which another line leaves L1. -/
def specTake (s : State) (job core q line : Nat) : State :=
  match ((Tbl.get s.jobs job).bind (fun (j : Job) => j.ord)).bind (fun o => Tbl.get o.tasks q) with
  | none => s
  | some t =>
    if (Tbl.get t.lines line).isSome then s
    else match specFree s core t.ways (line % 64) with
      | [] => s
      | y :: _ =>
        let s := s.modCore core (fun c => { c with l1 := c.l1.filter (fun e => !e.inWay (line % 64) y) })
        s.modTask job q (fun t => { t with lines := Tbl.set t.lines line { core := core, way := y, bytes := [], later := [], pages := [], hint := 0, nc := false } })

/-- Whether a task finds a way for every line it would write (R359, R362). -/
def specFits (s : State) (w : Wave) (t : Task) (lines : List Nat) : Bool :=
  let new := lines.filter (fun l => (Tbl.get t.lines l).isNone)
  new.all (fun l => decide ((new.filter (fun x => decide (x % 64 = l % 64))).length ≤ (specFree s w.core t.ways (l % 64)).length))

/-- The bytes of memory a speculative read needs (R359): the line's own part is merged over them. -/
def specSpan (t : Task) (k n : Nat) : Nat × Nat :=
  match Tbl.get t.lines (k / 128) with
  | none => (k, n)
  | some l => let r := l.span (k % 128) n; (k / 128 * 128 + r.1, r.2)

/-- Whether a task itself wrote every byte of a range (R360). -/
def specOwns (t : Task) (k n : Nat) : Bool :=
  match Tbl.get t.lines (k / 128) with
  | none => false
  | some l => l.owns (k % 128) n

/-- A speculative read's bytes, from those of memory over its span (R359), and its sectors recorded unless every byte is the task's own
(R360). -/
def specRead (s : State) (w : Wave) (q : Nat) (t : Task) (k n : Nat) (bs : List Byte) : State × List Byte :=
  let k0 := (specSpan t k n).1
  let s := if specOwns t k n then s
    else s.modTask w.job q (fun t => (unitsOf 32 k n).foldl (fun t x => t.addRead (sectorKey s (32 * x))) t)
  match Tbl.get t.lines (k / 128) with
  | none => (s, bs)
  | some l => (s, ((l.over (k0 % 128) bs).drop (k - k0)).take n)

/-- Buffers a write in a task's line (R358, R359): a store in its bytes, unless a buffered add lies below it; a counter add, and such a
store, in order after them. The line keeps the hint and the kind of the page it was last written with (R114, R126). -/
def specOp (s : State) (w : Wave) (q k : Nat) (op : AccOp) (page : Nat × Nat × Nat) (hint : BitVec 2) (nc : Bool) : State :=
  let put (l : SpecLine) : SpecLine :=
    let off := k % 128
    let l := { l with pages := if l.pages.contains page then l.pages else page :: l.pages, hint := hint, nc := nc }
    match op with
    | .store bs =>
      if l.later.any (opTouches off bs.length) then { l with later := l.later ++ [(off, op)] }
      else { l with bytes := (natsFrom 0 bs.length).foldl (fun x i => Tbl.set x (off + i) (bs.getD i 0)) l.bytes }
    | _ => { l with later := l.later ++ [(off, op)] }
  (specTake s w.job w.core q (k / 128)).modTask w.job q (fun t => { t with lines := Tbl.modify t.lines (k / 128) put })

/-! ## Commit -/

/-- Whether the homes of a task's lines can be locked now (R159): no engine holds one, no migration locks one, no recall waits,
and every update that may happen before the task's TEND is applied, as for a release of its core (R151). A group that a migration's own
invalidation waits for goes whatever the migration has locked, so that neither waits for the other (R524): `locks` is false for it. -/
def groupReady (s : State) (vale vd : Nat) (t : Task) (locks : Bool := true) : Bool :=
  t.lines.all (fun e =>
    decide (2 ^ 53 ≤ e.1) || (!homeWaits s (.mem (128 * e.1)) 128 locks && !undoWaits s vale vd (128 * e.1) 128 &&
      crossReady s (dieOfCore e.2.core) (dieOfKey (128 * e.1)) true (128 * e.1) 128))

/-- Whether a task's lines can be committed now (R159). -/
def lockReady (s : State) (job q : Nat) (locks : Bool := true) : Bool :=
  match Tbl.get s.jobs job with
  | none => false
  | some j => match j.ord.bind (fun o => Tbl.get o.tasks q) with
    | none => false
    | some t => groupReady s j.vale j.vd t locks

/-- Runs of neighbouring bytes of a line, cut where sectors begin. -/
def runsOf (t : Tbl Byte) : List (Nat × List Byte) :=
  t.foldl (fun rs e =>
    match rs.reverse with
    | (o, bs) :: old => if o + bs.length = e.1 && decide (e.1 % 32 ≠ 0) then (((o, bs ++ [e.2]) :: old).reverse) else rs ++ [(e.1, [e.2])]
    | [] => [(e.1, [e.2])]) []

/-- The operations of a line at its home, in order (R363): only bytes of its mask, then its adds. -/
def SpecLine.ops (l : SpecLine) : List (Nat × AccOp) := (runsOf l.bytes).map (fun r => (r.1, .store r.2)) ++ l.later

/-- Where a migration that has copied its lines put a byte (R129): what is written there while the locks hold goes to both copies, so that no
load reads an older one (R161, R524). -/
def copiedKey (s : State) (k : Nat) : Option Nat :=
  (s.migrations.find? (fun m => decide (3 ≤ m.2.step) && decide (movedKey m.2.runs k ≠ k))).map (fun m => movedKey m.2.runs k)

/-- Writes bytes at their home for a group, and in a migration's copy of them. -/
def groupPut (s : State) (vale vd : Nat) (ipa : Option Nat) (k : Nat) (bs : List Byte) (l : SpecLine) : State :=
  let s := vdStore s vale vd ipa k bs l.hint l.nc false
  match copiedKey s k with
  | some c => dropLines (l2Write s vale vd c bs l.hint l.nc false) vale (unitsOf 128 c bs.length)
  | none => s

/-- Writes one line of a group at its home (R363). A line of another package goes as posted writes (R154). -/
def commitLine (s : State) (job vale vd line : Nat) (own : DWord × Nat) (l : SpecLine) : State :=
  if 2 ^ 53 ≤ line then
    l.ops.foldl (fun s e =>
      let (id, s) := s.fresh
      let a : Access := { wave := 0, blk := 0, job := job, vale := vale, vd := vd, core := l.core, pos := ⟨0, none⟩, lane := 0
                          target := .remote (128 * line - 2 ^ 60 + e.1), va := 0, op := e.2, ord := 0, scope := 3, lg := 16, nc := l.nc
                          ipa := (l.pages.head?).map (fun p => p.2.1), dev := false, hint := l.hint, isCnt := false, sent := false, task := some own }
      { s with inflight := Tbl.set s.inflight id a }) s
  else
    let s := l.pages.foldl (fun s p => markDirty s vale vd (some p.2.1)) (recallLine s line noRow noRow)
    let ipa := (l.pages.head?).map (fun p => p.2.1 / 128 * 128)
    l.ops.foldl (fun s e =>
      let k := 128 * line + e.1
      crossNow (groupPut s vale vd (ipa.map (fun a => a + e.1)) k (accApply e.2 (memBytes s k e.2.size)) l) (dieOfCore l.core) k false) s

/-- The sectors a group writes (R363 step 3). -/
def groupSectors (s : State) (t : Task) : List Nat :=
  t.lines.flatMap (fun e =>
    ((e.2.bytes.map (fun b => b.1)) ++ e.2.later.flatMap (fun a => natsFrom a.1 a.2.size)).foldl
      (fun xs i => insertNat (sectorKey s (128 * e.1 + i)) xs) [])

/-- Steps 1 to 4 of R363: the task's lines are performed as one group and later readers are aborted. -/
def commitGroup (s : State) (job seq : Nat) : State :=
  match Tbl.get s.jobs job with
  | none => s
  | some j =>
    match j.ord.bind (fun o => Tbl.get o.tasks seq) with
    | none => s
    | some t =>
      let secs := groupSectors s t
      let s := dropLines s j.vale (t.lines.map (fun e => e.1))
      let s := t.lines.foldl (fun s e => commitLine s job j.vale j.vd e.1 (t.ts, seq) e.2) s
      let s := s.modTask job seq (fun t => { t with lines := [] })
      abortReaders s job t.ts seq secs

/-- Delivers a deferred fault at the frontier (R369); poison rolls a VD back that has an image armed (R515, R522). -/
def deliverDeferred (s : State) (w : Nat) (wv : Wave) (t : Trap) : State :=
  match t.lanes.find? (fun f => decide (f.cause = cPoison)) with
  | some f =>
    if rollbackArmed s wv.vale wv.vd then severity2 s wv.vale wv.vd { poisonRec wv t.at_ f.lane f.addr with deferred := true, tod := some t.tod }
    else takeTrap s w wv t
  | none => takeTrap s w wv t

/-- A frontier task whose lines can be locked becomes irrevocable (R367): its group commits, and its deferred fault, if any, is delivered (R369). -/
def makeIrrevocable (s : State) (job seq : Nat) : State :=
  match Tbl.get s.jobs job with
  | none => s
  | some j =>
    match j.ord.bind (fun o => Tbl.get o.tasks seq) with
    | none => s
    | some t =>
      if t.irrev then s
      else
        let s := commitGroup s job seq
        let s := s.modTask job seq (fun t => { t with irrev := true, reads := [], sig := [] })
        match taskBlock t with
        | none => s
        | some blk =>
          s.waves.foldl (fun s e =>
            if e.2.kind = .ordinary && decide (e.2.blk = blk) && (Tbl.get s.waves e.1).isSome then
              match e.2.trap with
              | some tr => if tr.deferred then deliverDeferred s e.1 e.2 tr else s
              | none => s
            else s) s

end Sys2Proof.Machine
end

