-- ==== Sys2Proof/Machine/Perform.lean ====
section
/-! DEFINITION. Performing accesses: stores, atomics without return and counter adds at their homes (R149), updates across
saddles (R150, R151), posted requests to other packages (R153, R154), loads and atomics with return (R172), and what the
task units see of writes (R361, R367). -/
namespace Sys2Proof.Machine

/-! ## Requests to other packages -/

/-- The key of an ordered pair of packages after one more flit (R425): the key's number and its counter, before which reaches 2^48 the
key is replaced. -/
def nextFlit (k : Nat × Nat) : Nat × Nat := if k.2 + 2 < 2 ^ 48 then (k.1, k.2 + 1) else (k.1 + 1, 1)

/-- Counts a flit this package sends to another under the pair's key (R425). The package Cols establish a pair's keys, by an SPDM session with
mutual authentication, before its first flit. -/
def countFlit (s : State) (peer : Nat) : State :=
  { s with pairKeys := Tbl.set s.pairKeys peer (nextFlit ((Tbl.get s.pairKeys peer).getD (0, 0))) }

/-- Counts a flit another package sends to this one under the pair's key (R425). -/
def countFlitIn (s : State) (peer : Nat) : State :=
  { s with pairKeysIn := Tbl.set s.pairKeysIn peer (nextFlit ((Tbl.get s.pairKeysIn peer).getD (0, 0))) }

/-- The 96-bit IV of the next flit of a pair (R425): a 32-bit fixed field and the 64-bit flit counter. -/
def flitIv (s : State) (peer : Nat) (sends : Bool) : BitVec 96 :=
  let k := (Tbl.get (if sends then s.pairKeys else s.pairKeysIn) peer).getD (0, 0)
  Config.ivFixed peer sends k.1 ++ BitVec.ofNat 64 k.2

/-- Sends a request to another package for a VD (R422, R423, R425): 32-bit sequence numbers per package. -/
def sendRequest (s : State) (die vale vd : Nat) (pc : DWord) (pa : Nat) (access : Option Nat) (load : Option (Nat × Nat × Nat)) : State :=
  let pkg := pa / 2 ^ 47
  let sq := (Tbl.get s.outSeq pkg).getD 0
  let (id, s) := s.fresh
  let conf := ((s.vale? vale).map (fun (v : Vale) => v.conf)).getD false
  let s := if conf then countFlit s pkg else s
  { s with
    outSeq := Tbl.set s.outSeq pkg (sq + 1)
    outReqs := Tbl.set s.outReqs id
      { vale := vale, vd := vd, die := die, pc := pc, pkg := pkg, link := linkFor s die pkg, seq := sq, pa := pa, access := access,
        load := load, eng := none, sentAt := s.tod.toNat } }

/-! ## Performing at the home -/

/-- Marks lanes of a list of (lane, cause, detail, address) faulting at the wave's next issue slot. -/
def lateFaults (s : State) (w : Nat) (pos : Pos) (fs : List (Nat × BitVec 8 × Word × DWord)) : State :=
  s.modWave w (fun x => { x with late := x.late ++ fs.map (fun f =>
    { pos := pos, lane := f.1, cause := f.2.1, detail := f.2.2.1, addr := f.2.2.2, wait := none, tod := s.tod.toNat }) })

/-- A wave's acquire at CLUSTER scope or wider, once performed, drops its VD's L1 lines (R113, R144). -/
def acquireDone (s : State) (a : Access) : State :=
  if a.wave ≠ 0 && isAcq a.ord && decide (2 ≤ (scopeAt s a.target a.scope).toNat) then dropL1 s a.core a.vale a.vd else s

/-- An add or atomic that no wave made finds poison (R515, R516, R549): nothing is written, and a record says so. -/
def agentPoison (s : State) (a : Access) : State :=
  let r : ErrRec := { ErrRec.blank cPoison 1 (some a.vale) (some a.vd) with pc := a.pos.pc.toNat, addr := a.va.toNat, detail := trapDetail 0 0 0 0 0 }
  match a.op with
  | .reduce _ _ => severity2 s a.vale a.vd { r with sev := 2, unit := 3, core := a.core }
  | _ => record s r

/-- The rows that give a line up to an access (R108): of every block, but, for an update, none of its own die, which were filled with it. -/
def givesUp (a : Access) (b : Block) : Bool := !a.sent || decide (dieOfCore b.core ≠ dieOfCore a.core)

/-- Performs an access on local memory at its home slice (R149, R152): a mapped row gives the line up first (R108), the
write is logged for its VD (R408), and the issuing core's L1 copy is updated (R112), where a crossing store has not done so
when it was sent. An atomic that finds poison writes nothing and its lane consumes it (R515). -/
def performMem (s : State) (a : Access) (k : Nat) : State :=
  let n := a.op.size
  let s := recallRows s (k / 128) noRow noRow (givesUp a)
  if a.op.isAtomic && memPoisoned s k n then
    if a.wave = 0 then agentPoison s a else consumePoison s a.wave a.pos [(a.lane % 16, a.va)]
  else
    let bs := accApply a.op (memBytes s k n)
    let s := accessWrite (vdStore s a.vale a.vd a.ipa k bs a.hint a.nc a.dev) a k n
    let s := match a.op with
      | .bad _ => poisonSectors s (unitsOf 32 k n)
      | _ => s
    let s := if a.op.isAtomic then l1Store s a.core a.vale a.vd k (seenBytes s (dieOfCore a.core) k n)
      else if a.sent then s else l1Store s a.core a.vale a.vd k bs
    acquireDone s a

/-- Writes bytes of a block's stash for an agent: through a mapped row it is a global access to the row's line (R139), so the sectors present
in the L1 of the agent's core follow (R112), and where an irrevocable task of its block writes, later readers abort (R367). -/
def putStashFor (s : State) (blk core vale vd b off : Nat) (bs : List Byte) (hint : BitVec 2 := 0) : State :=
  let s := writeStash s b off bs hint
  match rowKey s b off with
  | some k => irrevWrite (l1Store s core vale vd k bs) blk k bs.length
  | none => s

/-- What a load read through a mapped row replaces an older copy in the L1 of its core (R108, R112, R143); a poisoned sector leaves it. -/
def freshenL1 (s : State) (core vale vd b off : Nat) (bs : List Byte) (bad : Bool) : State :=
  match rowKey s b off with
  | none => s
  | some k =>
    if bad then s.modCore core (fun c => { c with l1 := c.l1.filter (fun e => !(decide (e.vale = vale) && (unitsOf 32 k bs.length).contains e.sector)) })
    else l1Store s core vale vd k bs

/-- Performs an access on a block's stash (R108, R139). -/
def performStash (s : State) (a : Access) (b off : Nat) : State :=
  let (s, old, bad) := readStash s b off a.op.size a.hint
  if a.op.isAtomic && bad then consumePoison s a.wave a.pos [(a.lane % 16, a.va)]
  else acquireDone (putStashFor s a.blk a.core a.vale a.vd b off (accApply a.op old) a.hint) a

/-- Sets a post word (R415); queue 63's word belongs to the part (R531). -/
def setPost (s : State) (vale idx : Nat) (x : DWord) : State :=
  s.modVale vale (fun v => { v with posts := Tbl.setCell 0 v.posts idx x })

/-- A store by an agent of the package to a post word (R415); software may not write queue 63's (R531). -/
def postStore (s : State) (vale idx : Nat) (x : DWord) : State :=
  if idx % 64 = 63 then queueFault s vale (idx / 64) 63 8 x.toNat (qPostSeen s vale (idx / 64) 63) else setPost s vale idx x

/-- Whether a wave's access through a mapped row must wait for the wave's earlier accesses that have not left (R108): a write-back
carries what it wrote with release order (DEDUCED, log 101). -/
def rowOrderWaits (s : State) (wid id : Nat) (t : Target) : Bool :=
  throughRow s t && s.inflight.any (fun e => decide (e.2.wave = wid) && decide (e.1 < id) && !e.2.sent)

/-- Whether an access in flight may be performed, or sent, now (R137, R144, R156, R130, R408). An engine's or the Col's release
waits for its die's updates where none of them goes ahead of it (R155, R157), and at SYSTEM scope for the vale's posted writes (R154). -/
def accReady (s : State) (id : Nat) (a : Access) : Bool :=
  let n := a.op.size
  let crossing := match a.target with
    | .mem k => decide (dieOfKey k ≠ dieOfCore a.core)
    | _ => false
  !ownPending s a.wave id a.target n a.dev false && !targetWaits s a.target n true && !rowOrderWaits s a.wave id a.target &&
    (match Tbl.get s.waves a.wave with
      | some w =>
        !ownLoadPending s w id a.target n a.dev && !acquirePending s a.wave w id && !fencePending w id && !dataUnread w id &&
          !(isRel a.ord && releaseWaits s a.wave w id (scopeAt s a.target a.scope) crossing)
      | none => !(isRel a.ord && ((!crossing && decide (3 ≤ a.scope.toNat) && updatesPending s (dieOfCore a.core)) ||
          (decide (a.scope = 5) && postedPending s a.vale id)))) &&
    (match a.target with
      | .mem k => !undoWaits s a.vale a.vd k n
      | _ => true)

/-- The host posts of a vale that no earlier write holds back any more set their words, in order (R415). -/
def settlePosts (inflight : Tbl Access) (v : Vale) : List (Nat × DWord × List Nat) → Vale
  | [] => { v with hostPosts := [] }
  | p :: ps =>
    if p.2.2.any (fun k => (Tbl.get inflight k).isSome) then { v with hostPosts := p :: ps }
    else settlePosts inflight { v with posts := Tbl.setCell 0 v.posts p.1 p.2.1 } ps

/-- Settles the host posts of every vale (R415). -/
def tryPosts (s : State) : State :=
  { s with vales := Tbl.mapVals (fun _ v => if v.hostPosts = [] then v else settlePosts s.inflight v v.hostPosts) s.vales }

/-- An access leaves the pipeline; host posts may have waited for it (R415). -/
def dropAccess (s : State) (id : Nat) : State := tryPosts { s with inflight := Tbl.erase s.inflight id }

/-- Performs an access in flight, or sends it on its way (R149 to R154), when nothing holds it; a store that crosses saddles updates
the sectors present in its core's L1 as it is sent (R112). A store to the control window is performed by ACCESS_PERFORMED alone. -/
def performAccess (s : State) (id : Nat) : State :=
  match Tbl.get s.inflight id with
  | none => s
  | some a =>
    if a.sent || !accReady s id a then s
    else match a.target with
      | .mem k =>
        if dieOfKey k = dieOfCore a.core then dropAccess (performMem s a k) id
        else if updatesFull s (dieOfCore a.core) then s
        else
          let s := sendUpdate s id a k
          (match a.op with
            | .store bs => l1Store s a.core a.vale a.vd k bs
            | _ => s)
      | .stash b off => dropAccess (performStash s a b off) id
      | .remote pa =>
        if a.lane ≠ rowLane && farBusy s pa then recallLine s (farKey pa / 128) noRow noRow else
        let s := markDirty { s with inflight := Tbl.set s.inflight id { a with sent := true } } a.vale a.vd a.ipa
        sendRequest s (dieOfCore a.core) a.vale a.vd a.pos.pc pa (some id) none
      | .post o =>
        let x : DWord := match a.op with
          | .store bs => BitVec.ofNat 64 (natLE bs)
          | _ => 0
        dropAccess (irrevWrite (postStore s a.vale (postWordOf o) x) a.blk (2 ^ 62 + o) 8) id
      | .control _ => s
      | .const _ _ => dropAccess s id

/-- Issues an access: it enters the memory pipeline, and is performed at once unless it may complete later. -/
def issueAccess (s : State) (a : Access) : State :=
  let (id, s) := s.fresh
  let s := { s with inflight := Tbl.set s.inflight id a }
  if s.defer then s else performAccess s id

/-! ## Loads and atomics with return -/

/-- Whether a lower lane of the same instruction reads a byte of this lane's and has not completed (R137, R279). -/
def laneBehind (s : State) (op : LoadOp) (r : LaneReq) : Bool :=
  op.lanes.any (fun q => decide (q.lane < r.lane) && ordered s q.target op.size q.dev r.target op.size r.dev)

/-- Whether a lane's part of a load may be performed now. An atomic whose home lies on another die is performed when its home knows all that
it depends on (R151). -/
def reqReady (s : State) (wid lid : Nat) (w : Wave) (op : LoadOp) (r : LaneReq) : Bool :=
  let n := op.size
  !ownPending s wid lid r.target n r.dev true && !ownLoadPending s w lid r.target n r.dev && !laneBehind s op r &&
    !targetWaits s r.target n op.atom.isSome && !acquirePending s wid w lid && !(op.atom.isSome && rowOrderWaits s wid lid r.target) &&
    !(op.atom.isSome && fencePending w lid) && !(isRel op.ord && releaseWaits s wid w lid (scopeAt s r.target op.scope) false) &&
    (match r.target with
      | .mem k =>
        let die := dieOfCore w.core
        !atomicInFlight s die (k / 128) && !routeStalled s die (dieOfKey k) && !(op.atom.isSome && (undoWaits s w.vale w.vd k n ||
          (decide (dieOfKey k ≠ die) && !crossReady s die (dieOfKey k) (isRel op.ord) k n)))
      | .const bank off => !constWaits s w bank off
      | _ => true)

/-- The j-th register of a lane's loaded value (R281, R284). -/
def loadWord (op : LoadOp) (bs : List Byte) (j : Nat) : Word :=
  let x := natLE bs
  if op.size < 4 then
    (match op.ext with
      | .sext => wordOfInt (sextNat x (8 * op.size))
      | .zext => BitVec.ofNat 32 x)
  else BitVec.ofNat 32 (x / 2 ^ (32 * j))

/-- Writes a lane's loaded value into its registers (R281, R284). -/
def writeLoad (w : Wave) (op : LoadOp) (lane : Nat) (bs : List Byte) : Wave :=
  (natsFrom 0 op.words).foldl (fun w j => w.wr (op.dst + BitVec.ofNat 7 j) [lane % 16] (fun _ => loadWord op bs j)) w

/-- A choice for each of the registers of a pair or quad whose instruction is in its lookahead window (R488): a free value (DESIGN CHOICE, log
13). -/
def laterRegs (s : State) (late : Bool) (words : Nat) : State × Nat :=
  if late && decide (1 < words) then ({ s with freeCount := s.freeCount + 1 }, (Config.freeByte s.freeCount).toNat) else (s, 0)

/-- Writes a lane's loaded value, but for the registers of a mask, which are written later (R488). -/
def writeNow (w : Wave) (op : LoadOp) (lane : Nat) (bs : List Byte) (later : Nat) : Wave :=
  if later = 0 then writeLoad w op lane bs
  else ((natsFrom 0 op.words).filter (fun j => !bitOf later j)).foldl (fun w j =>
    w.wr (op.dst + BitVec.ofNat 7 j) [lane % 16] (fun _ => loadWord op bs j)) w

/-- The registers of a mask with what they are to hold. -/
def restOf (op : LoadOp) (lane : Nat) (bs : List Byte) (later : Nat) : List (RegField × Nat × Word) :=
  if later = 0 then []
  else ((natsFrom 0 op.words).filter (fun j => bitOf later j)).map (fun j => (op.dst + BitVec.ofNat 7 j, lane % 16, loadWord op bs j))

/-- An outstanding load as it now stands: it ends once every lane has its data in its registers. -/
def putLoad (w : Wave) (lid : Nat) (op : LoadOp) : Wave :=
  { w with outst := if op.lanes = [] && decide (op.rest = []) then w.outst.filter (fun q => decide (q.id ≠ lid))
                    else w.outst.map (fun q => if q.id = lid then { q with op := .load op } else q) }

/-- Writes the registers whose values came back before, in the lanes of a mask (R488). -/
def flushLoad (s : State) (wid lid : Nat) (op : LoadOp) (lanes : Mask) : State :=
  if op.rest = [] then s
  else s.modWave wid (fun w => putLoad ((op.rest.filter (fun r => hasLane lanes r.2.1)).foldl (fun w r => w.wr r.1 [r.2.1] (fun _ => r.2.2)) w) lid
    { op with rest := op.rest.filter (fun r => !hasLane lanes r.2.1) })

/-- The lane a request's fault is bound to: the recorded lane of a uniform access is 16 plus its lowest lane. -/
def reqLane (l : Nat) : Nat := l % 16

/-- A speculative task's load or atomic on memory (R358 to R360): read through its own line, an atomic's write buffered. -/
def specReq (s : State) (w : Wave) (op : LoadOp) (r : LaneReq) (q : Nat) (t : Task) (k : Nat) : State × List Byte × Bool :=
  let sp := specSpan t k op.size
  let (s, bs, bad) := readMemLoad s w sp.1 sp.2 (if op.atom.isSome then 1 else op.ord) (if op.atom.isSome then 3 else op.scope) op.hint r.page
  let bad := bad && !specOwns t k op.size
  let (s, bs) := specRead s w q t k op.size bs
  match op.atom with
  | none => (s, bs, bad)
  | some a =>
    if bad then (s, bs, true)
    else (specOp s w q k (.store (accApply (.atom a r.x r.w) bs)) (r.va.toNat, r.ipa.getD 0, r.lg) op.hint r.nc, bs, false)

/-- Reads local memory for a lane, or performs its atomic at the home (R152, R284). -/
def readHome (s : State) (w : Wave) (op : LoadOp) (r : LaneReq) (k : Nat) : State × List Byte × Bool :=
  match op.atom with
  | none => readMemLoad s w k op.size op.ord op.scope op.hint r.page
  | some a =>
    let die := dieOfCore w.core
    let s := mergeKnown (recallLine s (k / 128) noRow noRow) die (dieOfKey k)
    let old := memBytes s k op.size
    if memPoisoned s k op.size then (s, old, true)
    else
      let s := crossNow (irrevWrite (vdStore s w.vale w.vd r.ipa k (accApply (.atom a r.x r.w) old) op.hint r.nc r.dev) w.blk k op.size) die k (isRel op.ord)
      (l1Store s w.core w.vale w.vd k (seenBytes s die k op.size), old, false)

/-- A speculative task's read set takes the sectors of a read that no line of its own serves (R360). -/
def noteRead (s : State) (w : Wave) (k n : Nat) : State :=
  match s.taskOf w with
  | some (q, t) => if t.irrev then s else s.modTask w.job q (fun t => (unitsOf 32 k n).foldl (fun t x => t.addRead (sectorKey s (32 * x))) t)
  | none => s

/-- Reads a lane's target, or performs its atomic: the bytes returned and whether they are poisoned. -/
def readReq (s : State) (w : Wave) (op : LoadOp) (r : LaneReq) : State × List Byte × Bool :=
  match r.target with
  | .mem k =>
    match s.taskOf w with
    | some (q, t) => if t.irrev then readHome s w op r k else specReq s w op r q t k
    | none => readHome s w op r k
  | .stash b off =>
    let (s, old, bad) := readStash s b off op.size op.hint
    match op.atom with
    | none => (freshenL1 s w.core w.vale w.vd b off old bad, old, bad)
    | some a => if bad then (s, old, true) else (putStashFor s w.blk w.core w.vale w.vd b off (accApply (.atom a r.x r.w) old) op.hint, old, false)
  | .const bank off =>
    let (s, v, bad) := readConst s w bank off
    (s, bytesLE 4 v.toNat, bad)
  | t =>
    let s := match elseKey t with
      | some k => noteRead s w k op.size
      | none => s
    let x := elseBytes s w.vale t op.size
    (x.1, x.2, false)

/-- Performs one lane of an outstanding load, if nothing holds it: registers are written, or poison is consumed (R515).
A request to another package is sent instead and answered later (R154): from then on its sectors are read ones (R364), and an atomic's page is
dirty (R436). With `late` some registers of a pair or quad are written later (R488). -/
def loadLane (wid lid lane : Nat) (s : State) (late : Bool := false) : State :=
  match Tbl.get s.waves wid with
  | none => s
  | some w =>
    match w.outst.find? (fun o => decide (o.id = lid)) with
    | none => s
    | some o =>
      match o.op with
      | .load op =>
        match op.lanes.find? (fun r => decide (r.lane = lane)) with
        | none => s
        | some r =>
          if !reqReady s wid lid w op r then s
          else
            let remote := match r.target with
              | .remote pa => some pa
              | _ => none
            match remote with
            | some pa =>
              if s.outReqs.any (fun q => decide (q.2.load = some (wid, lid, lane))) then s
              else if farBusy s pa then recallLine s (farKey pa / 128) noRow noRow
              else
                let s := if op.atom.isSome then markDirty s w.vale w.vd r.ipa else noteRead s w (farKey pa) op.size
                sendRequest s (dieOfCore w.core) w.vale w.vd op.pos.pc pa none (some (wid, lid, lane))
            | none =>
              let (s, bs, bad) := readReq s w op r
              let bs := if bad || (r.helper && op.atom.isSome) then bs.map (fun _ => 0) else bs
              let bad := bad && !r.helper
              let (s, later) := laterRegs s late op.words
              let op' := { op with lanes := op.lanes.filter (fun q => decide (q.lane ≠ lane)), rest := op.rest ++ restOf op lane bs later }
              let s := s.modWave wid (fun w => putLoad (writeNow w op lane bs later) lid op')
              let s := if op'.lanes = [] && isAcq op.ord && decide (2 ≤ (scopeAt s r.target op.scope).toNat) then dropL1 s w.core w.vale w.vd else s
              if bad then consumePoison s wid op.pos [(reqLane lane, r.va)] else s
      | _ => s

/-- Drops an outstanding instruction of a wave. -/
def dropOutst (s : State) (wid id : Nat) : State :=
  s.modWave wid (fun w => { w with outst := w.outst.filter (fun o => decide (o.id ≠ id)) })

/-- Whether a fence may be performed now (R144 to R146): earlier loads for an acquire, every earlier access for a
release, and for FENCE.SC at VALE scope or wider the updates its die has sent. -/
def fenceReady (s : State) (wid id : Nat) (w : Wave) (kind scope : BitVec 3) (sc : Bool) : Bool :=
  (!isAcq kind || !(w.outst.any (fun o => decide (o.id < id) && match o.op with
      | .load _ => true
      | .mxrd _ => true
      | _ => false))) &&
    (!isRel kind || !releaseWaits s wid w id scope false) &&
    (!sc || decide (scope.toNat < 3) || !updatesPending s (dieOfCore w.core))

/-- Performs a fence, if it may be: at CLUSTER scope or wider it drops the VD's L1 lines (R113). -/
def performFence (s : State) (wid id : Nat) (w : Wave) (kind scope : BitVec 3) (sc : Bool) : State :=
  if fenceReady s wid id w kind scope sc then
    let s := dropOutst s wid id
    if 2 ≤ scope.toNat then dropL1 s w.core w.vale w.vd else s
  else s

/-- The data bytes of a store of n bytes from registers T on, in a lane (R282). -/
def storeData (w : Wave) (t : RegField) (n l : Nat) : List Byte :=
  ((natsFrom 0 (ceilDiv n 4)).flatMap (fun j => bytesLE 4 (w.rdN t j l).toNat)).take n

/-- x and w of an atomic in a lane, from T on (R284). -/
def atomData (w : Wave) (a : AtomOp) (t : RegField) (l : Nat) : DWord × DWord :=
  let z (j : Nat) : DWord := (w.rdN t j l).setWidth 64
  match a with
  | .cas => (z 0, z 1)
  | .add64 => (w.rd64 t l, 0)
  | .cas64 => (w.rd64 t l, w.rd64 (t + 2) l)
  | _ => (z 0, 0)

/-- An access's operation with its data read from the wave's registers now. -/
def readData (w : Wave) (t : RegField) (l : Nat) : AccOp → AccOp
  | .store bs => .store (storeData w t bs.length l)
  | .atom a _ _ => .atom a (atomData w a t l).1 (atomData w a t l).2
  | .add _ => .add ((w.rd t l).setWidth 64)
  | op => op

/-- Two words, each the old one where its bit of a mask is set. -/
def mix64 (m : Nat) (old new : DWord) : DWord :=
  pairOf (if bitOf m 0 then loWord old else loWord new) (if bitOf m 1 then hiWord old else hiWord new)

/-- An operation whose data words are each the ones it was issued with or those of another (R488): the old ones where a mask says so. -/
def mixOp (m : Nat) (old new : AccOp) : AccOp :=
  match old, new with
  | .store bs, .store cs => .store ((natsFrom 0 cs.length).map (fun i => if bitOf m (i / 4) then bs.getD i 0 else cs.getD i 0))
  | .atom _ x w, .atom a y z => .atom a (mix64 m x y) (mix64 (m / 4) w z)
  | _, op => op

/-- Reads the data registers of outstanding stores in the lanes of a mask (R172, R488). -/
def completeStores (s : State) (wid id : Nat) (accs : List Nat) (t : RegField) (lanes : Mask) : State :=
  let now := accs.filter (fun k => match Tbl.get s.inflight k with
    | some a => hasLane lanes (a.lane % 16)
    | none => true)
  let s := now.foldl (fun s k => match Tbl.get s.waves wid, Tbl.get s.inflight k with
    | some w, some a =>
      let (s, m) := laterRegs s true (ceilDiv a.op.size 4)
      { s with inflight := Tbl.set s.inflight k { a with op := mixOp m a.op (readData w t (a.lane % 16) a.op) } }
    | _, _ => s) s
  let left := accs.filter (fun k => !now.contains k)
  if left = [] then dropOutst s wid id
  else s.modWave wid (fun w => { w with outst := w.outst.map (fun o => if o.id = id then { o with op := .stores left t } else o) })

/-- Completes lanes of a load, with what came back before first. -/
def completeLanes (s : State) (wid lid : Nat) (op : LoadOp) (lanes : Mask) (late : Bool) : State :=
  ((op.lanes.map (fun (r : LaneReq) => r.lane)).filter (fun l => hasLane lanes (l % 16))).foldl (fun s l => loadLane wid lid l s late)
    (flushLoad s wid lid op lanes)

/-- Completes lanes of an outstanding load, atomic, LDC, store or counter add in ascending order (R137), or a fence; a
uniform instruction's one access is completed by any lane of the mask that is its lowest. -/
def completeLoad (s : State) (wid lid : Nat) (lanes : Mask) (late : Bool := false) : State :=
  match Tbl.get s.waves wid with
  | none => s
  | some w =>
    match w.outst.find? (fun o => decide (o.id = lid)) with
    | none => s
    | some o =>
      match o.op with
      | .load op => completeLanes s wid lid op lanes late
      | .fence kind scope sc _ => performFence s wid lid w kind scope sc
      | .stores accs t => completeStores s wid lid accs t lanes
      | _ => s

/-- Issues a load: outstanding with its lookahead, and performed at once unless it may complete later. -/
def issueLoad (s : State) (wid : Nat) (l : Nat) (op : LoadOp) : State :=
  let (id, s) := s.fresh
  let s := s.modWave wid (fun w => { w with outst := w.outst ++ [⟨id, w.issued + 1 + l, .load op⟩] })
  if op.lanes = [] then s.modWave wid (fun w => { w with outst := w.outst.filter (fun o => decide (o.id ≠ id)) })
  else if s.defer then s else completeLoad s wid id 0xFFFF

end Sys2Proof.Machine
end

