-- ==== Sys2Proof/Machine/Agent.lean ====
section
/-! DEFINITION. Reads by engines and by the part (R51, R57, R155, R156, R292): local memory at its home, the post pages, the control window,
and other packages, whose answers come over the fabric (R153, R154, R506). -/
namespace Sys2Proof.Machine

/-- What an agent's access comes to: a value, a fault, or that it must wait, for an answer from another package where an address there is
named. -/
inductive Got (α : Type) where
  | ok (x : α)
  | fault (f : AddrFault)
  | wait (ask : Option Nat)

/-- Cuts n bytes at an address where 16-byte units meet. -/
def cut16 : Nat → Nat → Nat → List (Nat × Nat)
  | 0, _, _ => []
  | fuel + 1, a, n =>
    if n = 0 then []
    else
      let m := min n (16 - a % 16)
      (a % 2 ^ 64, m) :: cut16 fuel (a + m) (n - m)

/-- Whether another command holds a line (R156): any for a read, one accepted before for a write. -/
def lineHeldFrom (s : State) (id line : Nat) (write : Bool) : Bool :=
  s.cores.any (fun c => c.2.cmds.any (fun m => decide (m.1 ≠ id) && (!write || decide (m.1 < id)) && s.holds m.2.held line))

/-! ## Other packages -/

/-- The answer an agent of a core has had for the 16 bytes at an address of another package: `tag` is the command, wave or job it reads
for. -/
def engAnswer (s : State) (core tag pa : Nat) : Option EngAnswer :=
  s.engGot.find? (fun a => decide (a.core = core) && decide (a.tag = tag) && decide (a.pa = pa / 16 * 16))

/-- Sends an agent's read of 16 bytes to another package, unless it is under way (R153, R154), or a mapped row must give its line up
first (R108). -/
def engAsk (s : State) (core tag vale vd : Nat) (pc : DWord) (ask : Option Nat) : State :=
  match ask with
  | none => s
  | some pa =>
    if s.outReqs.any (fun q => decide (q.2.eng = some (core, tag)) && decide (q.2.pa = pa)) then s
    else if farBusy s pa then recallLine s (farKey pa / 128) noRow noRow
    else
      let t := sendRequest s (dieOfCore core) vale vd pc pa none none
      { t with outReqs := Tbl.modify t.outReqs s.nextId (fun q => { q with eng := some (core, tag) }) }

/-- The answers an agent has had for a command, wave or job are used up. -/
def engForget (s : State) (core tag : Nat) : State :=
  if s.engGot = [] then s else { s with engGot := s.engGot.filter (fun a => !(decide (a.core = core) && decide (a.tag = tag))) }

/-! ## Reads -/

/-- Reads up to 16 bytes, within a 16-byte unit, at a translated place for an agent of a core: the bytes, and whether any is poisoned. -/
def targetRead (s : State) (core tag vale vd : Nat) (x : Xlat) (n : Nat) : State × Got (List Byte × Bool) :=
  match x.target with
  | .mem k =>
    if lineHeldFrom s tag (k / 128) false || recallWaits s (k / 128) noRow noRow || routeStalled s (dieOfCore core) (dieOfKey k) ||
        atomicInFlight s (dieOfCore core) (k / 128) then (s, .wait none)
    else
      let r := homeRead s (dieOfCore core) vale vd k n 0 x.nc x.dev
      (r.1, .ok (r.2, diePoisoned r.1 (dieOfCore core) k n))
  | .remote pa =>
    match engAnswer s core tag pa with
    | none => (s, .wait (some (pa / 16 * 16)))
    | some a => match a.fault with
      | some (c, r) => (s, .fault ⟨c, r, BitVec.ofNat 64 pa⟩)
      | none => (s, .ok ((a.bytes.drop (pa % 16)).take n, a.bad))
  | t =>
    let r := elseBytes s vale t n
    (r.1, .ok (r.2, false))

/-- Reads up to 16 bytes at a global address for a VD, as an engine of a core: a line that a migration locks waits (R131). -/
def engRead16 (s : State) (core tag vale vd va n : Nat) : State × Got (List Byte × Bool) :=
  if walkWaits s (some core) vale vd va .load then (s, .wait none)
  else match translate s (some core) vale vd va n .load with
  | (s, .error f) => (s, .fault f)
  | (s, .ok x) =>
    let locked := match x.target with
      | .mem k => lineLocked s (k / 128)
      | _ => false
    if locked then (s, .wait none) else targetRead s core tag vale vd x n

/-- Reads n bytes at a global address for a VD (R155): the bytes and whether any is poisoned. -/
def engRead (s : State) (core tag vale vd va n : Nat) : State × Got (List Byte × Bool) :=
  (cut16 (n / 16 + 2) va n).foldl (fun (a : State × Got (List Byte × Bool)) p =>
    match a.2 with
    | .ok (bs, bad) =>
      match engRead16 a.1 core tag vale vd p.1 p.2 with
      | (s, .ok (cs, b)) => (s, .ok (bs ++ cs, bad || b))
      | r => r
    | _ => a) (s, .ok ([], false))

/-- Reads 64 bits at an address for a VD as the part does (R51, R57, R549): the value, none while it must wait, or the cause and reason of a
failure. A value of another package is asked for, and its answer stays until the reader has done with it; `tag` is the reader. -/
def partRead (s : State) (tag vale vd : Nat) (pc : Nat) (addr : DWord) : State × Except AddrFault (Option DWord) :=
  if walkWaits s none vale vd addr.toNat .load then (s, .ok none)
  else match translate s none vale vd addr.toNat 8 .load with
  | (s, .error f) => (s, .error f)
  | (s, .ok x) =>
    let core := scalarCore s vale
    match targetRead s core tag vale vd x 8 with
    | (s, .fault f) => (engForget s core tag, .error f)
    | (_, .wait ask) => (engAsk s core tag vale vd (BitVec.ofNat 64 pc) ask, .ok none)
    | (s, .ok (bs, bad)) => if bad then (s, .error ⟨cPoison, 0, addr⟩) else (s, .ok (some (BitVec.ofNat 64 (natLE bs))))

end Sys2Proof.Machine
end

