-- ==== Sys2Proof/Machine/MemOps.lean ====
section
/-! DEFINITION. The memory instructions (R279 to R288): loads, stores, constant loads, atomics, row operations,
PREFETCH, FENCE and CNTADD, with what a speculative task does instead (R358 to R362). -/
namespace Sys2Proof.Machine

/-! ## The frame of a memory instruction -/

/-- The registers an address is read from (R180). -/
def addrFields (o : MmFields) : List RegField := if o.space = 0 then [o.a, o.a + 1] else [o.a]

/-- Consecutive register fields. -/
def fieldsFrom (f : RegField) (n : Nat) : List RegField := (natsFrom 0 n).map (fun j => f + BitVec.ofNat 7 j)

/-- The lanes an instruction's accesses are made for: of a mask, or one access for a uniform instruction, recorded as 16
plus its lowest lane (R279). -/
def accLanes (i : Instr) (m : Mask) : List Nat :=
  if isUniform i then (lanesOf (lowestLane m)).map (fun l => 16 + l) else lanesOf m

/-- Lanes that take part and are not helpers (R204). -/
def Wave.live (w : Wave) : Mask := w.part &&& ~~~w.helper

/-- Past a memory instruction, or into the exception of the lanes that failed (R463, R480). -/
def finishMem (i : Instr) (s : State) (w : Nat) (fs : List (Nat × AddrFault)) : State :=
  match Tbl.get s.waves w, fs with
  | none, _ => s
  | some wv, [] => s.setWave w (wv.advance (instrBytes i))
  | some wv, f :: _ =>
    if isUniform i then
      raise s w wv wv.pos (wv.nextPos (instrBytes i)) .instr (some wv.part) ((lanesOf (lowestLane wv.part)).map (fun l => faultOf l f.2))
    else raiseLanes s w wv (instrBytes i) (fs.map (fun f => faultOf f.1 f.2))

/-- What a speculative task may not write (R358): DEVICE pages, the producer post pages among them, and, by an atomic, memory homed
outside the vale. -/
def specBars (k : AccKind) (x : Xlat) : Bool :=
  match x.target with
  | .mem _ => x.dev
  | .stash _ _ => false
  | .remote _ => x.dev || decide (k = .atomic)
  | _ => true

/-- The fault of a speculative task's write to a DEVICE page (R358): TASK, where R503 would name the page's own checks. -/
def specFault (spec : Bool) (k : AccKind) (f : AddrFault) : AddrFault :=
  if spec && k.writes && f.cause = cProtect && (decide (f.reason = 9) || decide (f.reason = 15)) then ⟨cTask, 0, 0⟩ else f

/-- Lanes with their translated addresses, and lanes that fault. -/
structure Resolved where
  oks : List (Nat × Xlat × DWord)
  bad : List (Nat × AddrFault)

/-- Stage 8 of R479 for a memory instruction, lane by lane in ascending order (R503, R358). -/
def resolveLanes (s : State) (w : Wave) (o : MmFields) (n : Nat) (k : AccKind) (spec : Bool) (ls : List Nat) :
    State × Resolved :=
  ls.foldl (fun (a : State × Resolved) l =>
    let ea := effAddr w o (l % 16)
    match laneAccess a.1 w (spaceOf o.space) ea n k with
    | (s, .error f) => (s, { a.2 with bad := a.2.bad ++ [(l, specFault spec k f)] })
    | (s, .ok x) =>
      if spec && k.writes && specBars k x then (s, { a.2 with bad := a.2.bad ++ [(l, ⟨cTask, 0, 0⟩)] })
      else (s, { a.2 with oks := a.2.oks ++ [(l, x, ea)] })) (s, ⟨[], []⟩)

/-- Lines of memory a speculative task must hold to write these places (R359). -/
def memLines (oks : List (Nat × Xlat × DWord)) : List Nat :=
  oks.foldl (fun ls r => match specKey r.2.1.target with
    | some k => insertNat (k / 128) ls
    | none => ls) []

/-- A task that finds no way stalls until it is the frontier, and then becomes irrevocable (R362, R367); the instruction
issues again. -/
def stallTask (s : State) (w : Nat) (wv : Wave) : State :=
  match s.taskOf wv with
  | none => s
  | some (q, _) =>
    if isFrontier s wv.job q && lockReady s wv.job q then makeIrrevocable s wv.job q else s.setWave w { wv with wait := some .irrevocable }

/-- Whether the translation of a lane's address must wait, which holds the instruction at issue (R108, R156). -/
def walksWait (s : State) (w : Wave) (o : MmFields) (k : AccKind) (ls : List Nat) : Bool :=
  ls.any (fun l => laneWalks s w (spaceOf o.space) (effAddr w o (l % 16)).toNat k)

/-- Whether an instruction of the wave is held at issue by the places it would access (R110, R111, R359): a recorded range of stash,
or, for a speculative task's write, an earlier load that has not read. -/
def placesHeld (s : State) (wv : Wave) (spec : Bool) (n : Nat) (k : AccKind) (oks : List (Nat × Xlat × DWord)) : Bool :=
  oks.any (fun x => stashHeld s x.2.1.target n || (spec && k.writes && ownLoadPending s wv s.nextId x.2.1.target n x.2.1.dev))

/-- Whether a lane of a memory instruction is a helper (R66): a uniform one is a helper's where no other lane takes part. -/
def helps (i : Instr) (wv : Wave) (l : Nat) : Bool := if isUniform i then decide (wv.live = 0) else hasLane wv.helper l

/-- A memory instruction with a stage-7 check of R358, sources that may be poisoned (R515), and its work on the lanes
that remain, which answers the lanes that fault; an error holds it at issue. A helper lane raises no POISON (R482). -/
def runMem (i : Instr) (srcs : List RegField) (task : Bool) (lanes : Wave → Mask)
    (op : State → Nat → Wave → List Nat → Except State (State × List (Nat × AddrFault))) (s : State) :
    Host.Outcome State Fault Refusal :=
  runWave i (fun s w wv =>
    if task && s.speculative wv then raiseInstr s w wv i cTask 0
    else if crossingHeld s w wv then s
    else
      let ls := accLanes i (lanes wv)
      let bad := poisonedLanes wv srcs (ls.map (fun l => l % 16))
      match op s w wv (ls.filter (fun l => !bad.contains (l % 16))) with
      | .error s => s
      | .ok (s, fs) => consumePoison (finishMem i s w fs) w wv.pos ((bad.filter (fun l => !helps i wv l)).map (fun l => (l, 0)))) s

/-! ## Loads -/

/-- Issues a load, LDC or atomic with return for its lanes (R281, R283, R284): a helper lane that would fault, and every
helper lane of an atomic, reads zero (R482, R66), as does a lane whose address is poisoned (R515). -/
def loadLanes (i : Instr) (o : MmFields) (n words : Nat) (ext : Extend) (atom : Option AtomOp)
    (check : State → Wave → Xlat → DWord → Option AddrFault) (s : State) (w : Nat) (wv : Wave) (ls : List Nat) :
    Except State (State × List (Nat × AddrFault)) :=
  let spec := s.speculative wv
  let helper := helps i wv
  let pois := (accLanes i wv.part).filter (fun l => !ls.contains l)
  let zero := pois ++ (if atom.isSome then ls.filter helper else [])
  let kind : AccKind := if atom.isSome then .atomic else .load
  if walksWait s wv o kind ls then .error s else
  let (s, r) := resolveLanes s wv o n kind spec (ls.filter (fun l => !zero.contains l))
  let late := r.oks.filterMap (fun x => (check s wv x.2.1 x.2.2).map (fun f => (x.1, f)))
  let oks := r.oks.filter (fun x => !(late.map (fun f => f.1)).contains x.1)
  let bad := r.bad ++ late
  let zero := zero ++ (bad.map (fun f => f.1)).filter helper
  let fits := match atom, s.taskOf wv with
    | some _, some (_, t) => t.irrev || specFits s wv t (memLines oks)
    | _, _ => true
  if placesHeld s wv spec n kind oks then .error s else
  if !fits then .error (stallTask s w wv) else
  let s := match s.taskOf wv with
    | some (q, t) => if atom.isSome && !t.irrev then (memLines oks).foldl (fun s l => specTake s wv.job wv.core q l) s else s
    | none => s
  let s := s.modWave w (fun x => zero.foldl (fun x l =>
    (natsFrom 0 words).foldl (fun x j => x.wr (o.t + BitVec.ofNat 7 j) [l % 16] (fun _ => 0)) x) x)
  let req (x : Nat × Xlat × DWord) : LaneReq :=
    let d := match atom with
      | some a => atomData wv a o.t (x.1 % 16)
      | none => (0, 0)
    { lane := x.1, target := x.2.1.target, va := x.2.2, l1 := x.2.1.l1, nc := x.2.1.nc, dev := x.2.1.dev, helper := helper x.1, x := d.1, w := d.2, ipa := some x.2.1.ipa, lg := x.2.1.lg }
  let ord : BitVec 3 := if atom.isSome && decide (o.ord = 0) then 1 else o.ord
  let l : LoadOp := { pos := wv.pos, size := n, ext := ext, words := words, dst := o.t, ord := ord, scope := o.scope,
                      hint := o.hint, atom := atom, lanes := oks.map req }
  .ok (issueLoad s w o.l.toNat l, bad.filter (fun f => !helper f.1))

/-- No further check. -/
def noCheck (_ : State) (_ : Wave) (_ : Xlat) (_ : DWord) : Option AddrFault := none

/-- A load of n bytes into registers from T on (R281). -/
def runLoad (i : Instr) (o : MmFields) (n words : Nat) (ext : Extend) (s : State) : Host.Outcome State Fault Refusal :=
  runMem i (addrFields o) false Wave.part (loadLanes i o n words ext none noCheck) s

/-- LD.S8 (R281). -/
def execLdS8 (o : MmFields) (s : State) : Host.Outcome State Fault Refusal := runLoad (.ldS8 o) o 1 1 .sext s
/-- LD.B8 (R281). -/
def execLdB8 (o : MmFields) (s : State) : Host.Outcome State Fault Refusal := runLoad (.ldB8 o) o 1 1 .zext s
/-- LD.S16 (R281). -/
def execLdS16 (o : MmFields) (s : State) : Host.Outcome State Fault Refusal := runLoad (.ldS16 o) o 2 1 .sext s
/-- LD.B16 (R281). -/
def execLdB16 (o : MmFields) (s : State) : Host.Outcome State Fault Refusal := runLoad (.ldB16 o) o 2 1 .zext s
/-- LD.32 (R281). -/
def execLd32 (o : MmFields) (s : State) : Host.Outcome State Fault Refusal := runLoad (.ld32 o) o 4 1 .zext s
/-- LD.64 (R281). -/
def execLd64 (o : MmFields) (s : State) : Host.Outcome State Fault Refusal := runLoad (.ld64 o) o 8 2 .zext s
/-- LD.128 (R281). -/
def execLd128 (o : MmFields) (s : State) : Host.Outcome State Fault Refusal := runLoad (.ld128 o) o 16 4 .zext s

/-- Bank 1 of a wave that holds a record: its word must translate (R103, R503). -/
def constCheck (s : State) (w : Wave) (x : Xlat) (_ : DWord) : Option AddrFault :=
  match x.target with
  | .const 1 off =>
    if !recordWave s w || (constFind s w (recordVa s w off)).isSome then none
    else match (translate s (some w.cacheCore) w.vale w.vd (recordVa s w off) 4 .load).2 with
      | .error f => some f
      | .ok _ => none
  | _ => none

/-- LDC (R283). -/
def execLdc (o : MmFields) (s : State) : Host.Outcome State Fault Refusal :=
  runMem (.ldc o) (addrFields o) false Wave.part (loadLanes (.ldc o) o 4 1 .zext none constCheck) s

/-! ## Stores -/

/-- An access of a wave at its instruction. -/
def accessOf (w : Nat) (wv : Wave) (o : MmFields) (ord : BitVec 3) (cnt : Bool) (op : AccOp) (x : Nat × Xlat × DWord) : Access :=
  { wave := w, blk := wv.blk, job := wv.job, vale := wv.vale, vd := wv.vd, core := wv.core, pos := wv.pos, lane := x.1,
    target := x.2.1.target, va := x.2.2, op := op, ord := ord, scope := o.scope, ipa := some x.2.1.ipa, lg := x.2.1.lg, nc := x.2.1.nc, dev := x.2.1.dev
    hint := o.hint, isCnt := cnt, sent := false }

/-- Issues accesses in ascending lane order (R137). When they may complete later their data registers stay to be read
inside the lookahead window (R172, R488). -/
def issueStores (s : State) (w : Nat) (o : MmFields) (as : List Access) : State :=
  let r := as.foldl (fun (a : State × List Nat) x =>
    let (id, s) := a.1.fresh
    let s := { s with inflight := Tbl.set s.inflight id x }
    (if s.defer then s else performAccess s id, a.2 ++ [id])) (s, [])
  if r.1.defer && !r.2.isEmpty then
    let (id, s) := r.1.fresh
    s.modWave w (fun wv => { wv with outst := wv.outst ++ [⟨id, wv.issued + 1 + o.l.toNat, .stores r.2 o.t⟩] })
  else r.1

/-- Buffers a speculative task's accesses to memory (R358, R359). -/
def specStores (s : State) (w : Nat) (wv : Wave) (q : Nat) (as : List Access) : State :=
  as.foldl (fun s a =>
    match specKey a.target with
    | none => s
    | some k =>
      let page := (a.va.toNat, a.ipa.getD 0, a.lg)
      match a.op with
      | .atom b x y =>
        let t := (s.taskOf wv).map (fun p => p.2)
        match t with
        | none => s
        | some t =>
          let sp := specSpan t k (atomSize b)
          let (s, old, bad) := readMemLoad s wv sp.1 sp.2 1 3 a.hint ⟨true, a.nc, a.dev⟩
          let bad := bad && !specOwns t k (atomSize b)
          let (s, old) := specRead s wv q t k (atomSize b) old
          if bad then consumePoison s w wv.pos [(a.lane % 16, a.va)] else specOp s wv q k (.store (accApply (.atom b x y) old)) page a.hint a.nc
      | op => specOp s wv q k op page a.hint a.nc) s

/-- Issues a store, atomic without return or counter add for its lanes (R282, R284, R288). -/
def storeLanes (o : MmFields) (n : Nat) (k : AccKind) (ord : BitVec 3) (cnt : Bool) (data : Wave → Nat → AccOp)
    (s : State) (w : Nat) (wv : Wave) (ls : List Nat) : Except State (State × List (Nat × AddrFault)) :=
  let spec := s.speculative wv
  if walksWait s wv o k ls then .error s else
  let (s, r) := resolveLanes s wv o n k spec ls
  let as := r.oks.map (fun x => accessOf w wv o ord cnt (data wv (x.1 % 16)) x)
  if placesHeld s wv spec n k r.oks then .error s
  else match s.taskOf wv with
  | some (q, t) =>
    if t.irrev || decide (o.space = 1) then .ok (issueStores s w o as, r.bad)
    else if specFits s wv t (memLines r.oks) then .ok (specStores s w wv q as, r.bad)
    else .error (stallTask s w wv)
  | none => .ok (issueStores s w o as, r.bad)

/-- Whether a scope bars a speculative task's access (R358): PACKAGE or SYSTEM, but that of a stash access is at most CLUSTER
(R139). -/
def wideScope (o : MmFields) : Bool := decide (4 ≤ o.scope.toNat) && decide (o.space ≠ 1)

/-- A store of n bytes (R282). -/
def runStore (i : Instr) (o : MmFields) (n : Nat) (s : State) : Host.Outcome State Fault Refusal :=
  runMem i (addrFields o ++ fieldsFrom o.t (ceilDiv n 4)) (wideScope o) Wave.live
    (storeLanes o n .store o.ord false (fun w l => .store (storeData w o.t n l))) s

/-- ST.8 (R282). -/
def execSt8 (o : MmFields) (s : State) : Host.Outcome State Fault Refusal := runStore (.st8 o) o 1 s
/-- ST.16 (R282). -/
def execSt16 (o : MmFields) (s : State) : Host.Outcome State Fault Refusal := runStore (.st16 o) o 2 s
/-- ST.32 (R282). -/
def execSt32 (o : MmFields) (s : State) : Host.Outcome State Fault Refusal := runStore (.st32 o) o 4 s
/-- ST.64 (R282). -/
def execSt64 (o : MmFields) (s : State) : Host.Outcome State Fault Refusal := runStore (.st64 o) o 8 s
/-- ST.128 (R282). -/
def execSt128 (o : MmFields) (s : State) : Host.Outcome State Fault Refusal := runStore (.st128 o) o 16 s

/-! ## Atomics -/

/-- Registers an atomic reads from T on (R284). -/
def atomWords : AtomOp → Nat
  | .cas => 2
  | .add64 => 2
  | .cas64 => 4
  | _ => 1

/-- An atomic, with or without return (R284); a weak one acts as relaxed (R135). -/
def runAtom (i : Instr) (o : MmFields) (a : AtomOp) (s : State) : Host.Outcome State Fault Refusal :=
  let srcs := addrFields o ++ fieldsFrom o.t (atomWords a)
  if o.nr then
    runMem i srcs (wideScope o) Wave.live
      (storeLanes o (atomSize a) .atomic (if o.ord = 0 then 1 else o.ord) false
        (fun w l => .atom a (atomData w a o.t l).1 (atomData w a o.t l).2)) s
  else
    runMem i srcs (wideScope o) Wave.part (loadLanes i o (atomSize a) (atomSize a / 4) .zext (some a) noCheck) s

/-- ATOM.ADD (R284). -/
def execAtomAdd (o : MmFields) (s : State) : Host.Outcome State Fault Refusal := runAtom (.atomAdd o) o .add s
/-- ATOM.SMIN (R284). -/
def execAtomSmin (o : MmFields) (s : State) : Host.Outcome State Fault Refusal := runAtom (.atomSmin o) o .smin s
/-- ATOM.SMAX (R284). -/
def execAtomSmax (o : MmFields) (s : State) : Host.Outcome State Fault Refusal := runAtom (.atomSmax o) o .smax s
/-- ATOM.BMIN (R284). -/
def execAtomBmin (o : MmFields) (s : State) : Host.Outcome State Fault Refusal := runAtom (.atomBmin o) o .bmin s
/-- ATOM.BMAX (R284). -/
def execAtomBmax (o : MmFields) (s : State) : Host.Outcome State Fault Refusal := runAtom (.atomBmax o) o .bmax s
/-- ATOM.AND (R284). -/
def execAtomAnd (o : MmFields) (s : State) : Host.Outcome State Fault Refusal := runAtom (.atomAnd o) o .and s
/-- ATOM.OR (R284). -/
def execAtomOr (o : MmFields) (s : State) : Host.Outcome State Fault Refusal := runAtom (.atomOr o) o .or s
/-- ATOM.XOR (R284). -/
def execAtomXor (o : MmFields) (s : State) : Host.Outcome State Fault Refusal := runAtom (.atomXor o) o .xor s
/-- ATOM.XCHG (R284). -/
def execAtomXchg (o : MmFields) (s : State) : Host.Outcome State Fault Refusal := runAtom (.atomXchg o) o .xchg s
/-- ATOM.CAS (R284). -/
def execAtomCas (o : MmFields) (s : State) : Host.Outcome State Fault Refusal := runAtom (.atomCas o) o .cas s
/-- ATOM.FADD (R284). -/
def execAtomFadd (o : MmFields) (s : State) : Host.Outcome State Fault Refusal := runAtom (.atomFadd o) o .fadd s
/-- ATOM.ADD64 (R284). -/
def execAtomAdd64 (o : MmFields) (s : State) : Host.Outcome State Fault Refusal := runAtom (.atomAdd64 o) o .add64 s
/-- ATOM.CAS64 (R284). -/
def execAtomCas64 (o : MmFields) (s : State) : Host.Outcome State Fault Refusal := runAtom (.atomCas64 o) o .cas64 s

/-- CNTADD (R288). -/
def execCntadd (o : MmFields) (s : State) : Host.Outcome State Fault Refusal :=
  runMem (.cntadd o) (addrFields o ++ [o.t]) (wideScope o) Wave.live
    (storeLanes o 8 .count o.ord true (fun w l => .add ((w.rd o.t l).setWidth 64))) s

/-! ## Rows -/

/-- Makes a row local and zero (R108); its dirty sectors are written back first unless they are dropped. -/
def unbindRow (s : State) (blk row : Nat) (drop : Bool) : State :=
  let s := if drop then s else writeRowBack s blk row
  let s := match Tbl.get s.blocks blk with
    | some b => bumpGen s b.core b.vale b.vd
    | none => s
  s.modBlock blk (fun b => { b with
    rows := Tbl.erase b.rows row
    stash := (natsFrom (128 * row) 128).foldl (fun t k => Tbl.erase t k) b.stash
    stashPoison := b.stashPoison.filter (fun k => decide (k / 32 ≠ row)) })

/-- A bound row of a block. -/
def rowAt (s : State) (blk row : Nat) : Option Row := (Tbl.get s.blocks blk).bind (fun (b : Block) => Tbl.get b.rows row)

/-- Whether a row holds dirty sectors (R107). -/
def rowDirty (s : State) (blk row : Nat) : Bool :=
  match rowAt s blk row with
  | some r => (match r.st with
    | .mappedDirty _ => true
    | _ => false)
  | none => false

/-- Whether a row operation must still wait: for the wave's own accesses to the row (R137), and, where it writes dirty
sectors back, as a release at VALE scope (R108) and for what their homes need (R151, R156, R408). -/
def rowWaits (s : State) (w : Nat) (wv : Wave) (blk row : Nat) (writes : Bool) : Bool :=
  ownPending s w s.nextId (.stash blk (128 * row)) 128 false false || ownLoadPending s wv s.nextId (.stash blk (128 * row)) 128 false ||
    (writes && rowDirty s blk row && (releaseWaits s w wv s.nextId 3 false ||
      (match rowAt s blk row with
        | some r => (match Tbl.get s.blocks blk with
          | some b => rowBackWaits s b r
          | none => false)
        | none => false)))

/-- The row operations other than STMAP (R285), on the rows the lanes name. -/
def runRow (i : Instr) (o : MmFields) (writes : Bool) (f : State → Nat → Nat → State) (s : State) :
    Host.Outcome State Fault Refusal :=
  runMem i [o.a] true Wave.live (fun s w wv ls =>
    let (s, r) := resolveLanes s wv o 1 (if writes then .stmap else .row) false ls
    let rows := r.oks.filterMap (fun x => match x.2.1.target with
      | .stash b off => some (b, off / 128)
      | _ => none)
    if rows.any (fun x => rowWaits s w wv x.1 x.2 writes) then .error s
    else .ok (rows.foldl (fun s x => if (rowAt s x.1 x.2).isSome then f s x.1 x.2 else s) s, r.bad)) s

/-- STUNMAP (R285, R108). -/
def execStunmap (o : MmFields) (s : State) : Host.Outcome State Fault Refusal :=
  runRow (.stunmap o) o true (fun s b r => unbindRow s b r false) s

/-- STWB (R285, R108). -/
def execStwb (o : MmFields) (s : State) : Host.Outcome State Fault Refusal := runRow (.stwb o) o true writeRowBack s

/-- STDROP (R285, R108). -/
def execStdrop (o : MmFields) (s : State) : Host.Outcome State Fault Refusal :=
  runRow (.stdrop o) o false (fun s b r => unbindRow s b r true) s

/-- Binds a row to a line (R285, R107). -/
def bindRow (s : State) (blk row line : Nat) (ipa : Nat) : State :=
  let s := if (rowAt s blk row).isSome then unbindRow s blk row false else s
  s.modBlock blk (fun b => { b with rows := Tbl.set b.rows row { line := line, ipa := some ipa, st := .mappedInvalid } })

/-- One lane of STMAP: its row, and the line its pair names; a failing lane leaves its row as it stood (R285). A line of
another package is bound as one of this package is (log 98); what is no memory fails as PROTECT reason 9. -/
def mapLane (s : State) (wv : Wave) (o : MmFields) (l : Nat) : State × Except AddrFault (Nat × Nat × Nat × Nat) :=
  match laneAccess s wv .stash (effAddr wv o l) 128 .stmap with
  | (s, .error f) => (s, .error f)
  | (s, .ok x) =>
    match x.target with
    | .stash b off =>
      let g := wv.rd64 o.t l
      match laneAccess s wv .global g 128 .stmap with
      | (s, .error f) => (s, .error f)
      | (s, .ok y) =>
        match y.target with
        | .mem k => (s, .ok (b, off / 128, k / 128, y.ipa))
        | .remote pa => (s, .ok (b, off / 128, farKey pa / 128, y.ipa))
        | _ => (s, .error ⟨cProtect, 9, g⟩)
    | _ => (s, .error ⟨cProtect, 11, effAddr wv o l⟩)

/-- STMAP (R285): in ascending lane order, so that of two lanes naming one row the higher stands. -/
def execStmap (o : MmFields) (s : State) : Host.Outcome State Fault Refusal :=
  runMem (.stmap o) [o.a, o.t, o.t + 1] true Wave.live (fun s w wv ls =>
    if ls.any (fun l => laneWalks s wv .global (wv.rd64 o.t (l % 16)).toNat .stmap) then .error s else
    let r := ls.foldl (fun (a : State × List (Nat × Nat × Nat × Nat) × List (Nat × AddrFault)) l =>
      match mapLane a.1 wv o (l % 16) with
      | (s, .ok x) => (s, a.2.1 ++ [x], a.2.2)
      | (s, .error f) => (s, a.2.1, a.2.2 ++ [(l, f)])) (s, [], [])
    if r.2.1.any (fun x => rowWaits r.1 w wv x.1 x.2.1 true) then .error s
    else .ok (r.2.1.foldl (fun s x => bindRow s x.1 x.2.1 x.2.2.1 x.2.2.2) r.1, r.2.2)) s

/-! ## PREFETCH and FENCE -/

/-- Brings a line into its home slice, and its sectors into the wave's L1 unless the page or the hint leaves L1 out (R286, R114), but for
poisoned ones. -/
def fillL1 (s : State) (w : Wave) (line : Nat) (hint : BitVec 2) (page : PageKind) : State :=
  (natsFrom (4 * line) 4).foldl (fun s sec =>
    if diePoisoned s (dieOfCore w.core) (32 * sec) 32 then s
    else
      let (s, bs) := homeRead s (dieOfCore w.core) w.vale w.vd (32 * sec) 32 hint page.nc page.dev
      if page.l1 && decide (hint ≠ 3) then l1Put s w.core w.vale w.vd sec bs (decide (hint = 1)) else s) s

/-- The line a lane's PREFETCH brings in (R286): none where a check fails, the page is a DEVICE page, or the line is of another package (DESIGN
CHOICE, log 147). -/
def prefetchOf (s : State) (wv : Wave) (o : MmFields) (l : Nat) : State × Option (Nat × PageKind) :=
  match translate s (some wv.cacheCore) wv.vale wv.vd (effAddr wv o (l % 16)).toNat 1 .load with
  | (s, .error _) => (s, none)
  | (s, .ok x) =>
    match x.target with
    | .mem k => (s, if x.dev then none else some (k / 128, x.page))
    | _ => (s, none)

/-- PREFETCH (R286): a failure, or a DEVICE page, drops it silently; it waits for a line an engine holds (R156). -/
def execPrefetch (o : MmFields) (s : State) : Host.Outcome State Fault Refusal :=
  runMem (.prefetch o) [] false Wave.part (fun s _ wv ls =>
    if walksWait s wv { o with space := 0 } .load ls then .error s else
    let r := ls.foldl (fun (a : State × List (Nat × PageKind)) l =>
      let x := prefetchOf a.1 wv o l
      (x.1, a.2 ++ x.2.toList)) (s, [])
    if r.2.any (fun x => readWaits r.1 (dieOfCore wv.core) (.mem (128 * x.1)) 128) then .error r.1
    else .ok (r.2.foldl (fun s x => fillL1 s wv x.1 o.hint x.2) r.1, [])) s

/-- FENCE (R287): once for the wave; nothing in a speculative task at VALE scope or narrower (R358). -/
def execFence (o : MmFields) (s : State) : Host.Outcome State Fault Refusal :=
  runMem (.fence o) [] (wideScope o) Wave.part (fun s w wv _ =>
    if s.speculative wv then .ok (s, [])
    else
      let (id, s) := s.fresh
      let sc := decide (o.t = 1)
      let s := s.modWave w (fun x => { x with
        outst := x.outst ++ [⟨id, x.issued + 1 + o.l.toNat, .fence o.ord o.scope sc id⟩] })
      .ok (if s.defer then s else performFence s w id wv o.ord o.scope sc, [])) s

end Sys2Proof.Machine
end

