-- ==== Sys2Proof/Machine/Place.lean ====
section
/-! DEFINITION. Placing a block on a core: the conditions of R393, the resources of R17, R62, R105 and R132, and the block
and waves as they stand when placed (R41, R61, R262, R306). -/
namespace Sys2Proof.Machine

/-- Tracks a block takes (R47, R62). -/
def cardTracks (card : List Word) : Nat := cardWaves card / cardRoles card

/-- Register blocks a block reserves on each of its tracks (R62). -/
def cardReserve (card : List Word) : Nat :=
  ((natsFrom 0 (cardRoles card)).map (cardBase card)).foldl (fun a x => a + x) (cardField card 0x18 56 53)

/-- STASH_KIB (R44). -/
def cardStash (card : List Word) : Nat := cardField card 0x18 50 43

/-- Blocks per cluster (R44). -/
def cardCluster (card : List Word) : Nat := cardField card 0x18 42 38

/-- Whether a block holds its core's resources. -/
def holdsCore (b : Block) : Bool :=
  match b.st with
  | .resident => true
  | .saving _ => true
  | _ => false

/-- The blocks that hold resources of a core. -/
def blocksOn (s : State) (core : Nat) : List (Nat × Block) :=
  s.blocks.filter (fun e => decide (e.2.core = core) && holdsCore e.2)

/-- Register blocks reserved on a track of a core (R62). -/
def trackUsed (s : State) (core t : Nat) : Nat :=
  (blocksOn s core).foldl (fun n e => if e.2.tracks.contains t then n + cardReserve (s.cardOf e.2.job) else n) 0

/-- Whether a wave holds its slot (R261): until it has ended, its loads have written and its stores have entered the pipeline. -/
def Wave.holdsSlot (w : Wave) : Bool := !w.ended || w.outst.any (fun o => match o.op with
  | .load _ => true
  | .mxrd _ => true
  | .stores _ _ => true
  | _ => false)

/-- Waves on a track of a core; a track has 4 wave slots (R16). -/
def trackWaves (s : State) (core t : Nat) : Nat :=
  Tbl.count (fun _ (w : Wave) => decide (w.kind = .ordinary) && decide (w.core = core) && decide (w.slot / 4 = t) && w.holdsSlot) s.waves

/-- The tracks of a core with room for one track's waves of a card (R62, R393). -/
def freeTracks (s : State) (core : Nat) (card : List Word) : List Nat :=
  (natsFrom 0 32).filter (fun t =>
    decide (trackUsed s core t + cardReserve card ≤ 16) && decide (trackWaves s core t + cardRoles card ≤ 4))

/-- Whether an active lease reserves the lease window of a core (R411). -/
def leasedCore (s : State) (core : Nat) : Bool :=
  s.leases.any (fun l => decide (l.2.glen = glenOfCore core) && l.2.cores.getLsbD (core % 16) && decide (l.2.st = 2))

/-- KiB of stash a core offers now: below the new boundary of a conversion that shrinks it (R133), and below the lease
window (R411). -/
def stashOffer (s : State) (core : Nat) : Nat :=
  let c := s.core? core
  let k := match c.convert with
    | some k => min k c.stashKib
    | none => c.stashKib
  if leasedCore s core then k - 64 else k

/-- The lowest 1 KiB-aligned offset where a range of stash is free (R106, R393). -/
def stashRoom (s : State) (core kib top : Nat) : Option Nat :=
  let used := (blocksOn s core).map (fun e => (e.2.stashBase, e.2.stashKib))
  (0 :: used.map (fun u => u.1 + u.2)).foldl (fun (best : Option Nat) b =>
    let ok := decide (b + kib ≤ top) && used.all (fun u => decide (b + kib ≤ u.1) || decide (u.1 + u.2 ≤ b))
    match best with
    | some x => if ok && decide (b < x) then some b else some x
    | none => if ok then some b else none) none

/-- Waves resident on a core. -/
def residentWaves (s : State) (core : Nat) : Nat :=
  Tbl.count (fun _ (w : Wave) => decide (w.kind = .ordinary) && decide (w.core = core) && w.holdsSlot) s.waves

/-- The VDs with waves on a core (R393). -/
def vdsOn (s : State) (core : Nat) : List Nat :=
  (blocksOn s core).foldl (fun ks e => insertNat (vdKey e.2.vale e.2.vd) ks) []

/-- Whether the carve-out of a core suits a card (R44, R132): one that requires it needs one that is not being changed. -/
def carveOk (c : Core) (card : List Word) : Bool :=
  let cv := cardField card 0x70 2 0
  decide (cv = 0) || (decide (c.stashKib = 32 * cv) && c.convert.isNone)

/-- Whether the current code-table bank of a core is the one a card requires (R44). -/
def bankOk (c : Core) (card : List Word) : Bool :=
  !bitOf (cardField card 0x70 3 3) 0 || (bitOf (cardField card 0x70 4 4) 0 == c.current)

/-- The placement conditions of R393 on a core that do not depend on the carve-out. -/
def fitsBut (s : State) (core vale vd : Nat) (card : List Word) : Bool :=
  let on := blocksOn s core
  !glenFenced s (glenOfCore core) && decide (on.length < 16) && decide (residentWaves s core + cardWaves card ≤ 128) &&
    decide (cardTracks card ≤ (freeTracks s core card).length) &&
    (decide (card64 card 0x60 = 0) || decide ((on.filter (fun e => e.2.seqCtx.isSome)).length < 2)) &&
    (let ks := vdsOn s core
     ks.contains (vdKey vale vd) || decide (ks.length < 4)) &&
    bankOk (s.core? core) card && !scrubWaits s core vale vd && !(leasedCore s core && decide (cardField card 0x70 2 0 = 1))

/-- Whether a block of a card fits on a core as it stands (R393). -/
def fitsCore (s : State) (core vale vd : Nat) (card : List Word) : Bool :=
  let c := s.core? core
  fitsBut s core vale vd card && carveOk c card && (stashRoom s core (cardStash card) (stashOffer s core)).isSome

/-- Whether two of a list of cores have the less resident waves first, ties to the lower index (R393). -/
def pickCore (s : State) (cores : List Nat) : Option Nat :=
  cores.foldl (fun (best : Option Nat) c => match best with
    | none => some c
    | some b => if residentWaves s c < residentWaves s b then some c else some b) none

/-- A wave as it is placed: 16 active lanes, every register and predicate zero (R61, R105, R119). -/
def freshWave (kind : WaveKind) (vale vd job blk index core slot role held : Nat) (entry : DWord) : Wave :=
  { kind := kind, vale := vale, vd := vd, job := job, blk := blk, index := index, core := core, slot := slot, role := role,
    held := held, pos := ⟨entry, none⟩, replay := none, active := 0xFFFF, helper := 0, exited := 0, returned := 0, lpair := [],
    depth := 0, stack := [], v := [], s := [], p := [], poison := [], outst := [], wait := none, trap := none, late := [],
    wdog := [], lastIssue := 0, yielded := false, ended := false, issued := 0, queueOf := 0, reread := false, bindFirst := false }

/-- A sequencer context at placement (R306, R307): only rank 0 of a cluster fetches. -/
def freshSeq (card : List Word) (rank : Nat) : Option SeqCtx :=
  if card64 card 0x60 = 0 then none
  else some { spc := BitVec.ofNat 64 (card64 card 0x60), st := if rank = 0 then 0 else 2, m := [], d := [], loaded := 0, ri := [],
              loops := [], team := none, claim := none, saAddr := 0x40000, sbAddr := 0x40000, steps := [], wantBar := none, restore := [] }

/-- The wave slots a track's waves take: the lowest free of the track's four (log 31). -/
def freeSlots (s : State) (core t n : Nat) : List Nat :=
  ((natsFrom (4 * t) 4).filter (fun x => !s.waves.any (fun e =>
    decide (e.2.kind = .ordinary) && decide (e.2.core = core) && decide (e.2.slot = x) && e.2.holdsSlot))).take n

/-- The deficits of a core as a VD comes to hold a block there: one that becomes resident starts with 0 (R396). -/
def startDeficit (s : State) (core vale vd : Nat) : Tbl Int :=
  let d := (s.core? core).deficit
  if (vdsOn s core).contains (vdKey vale vd) && (Tbl.get d (vdKey vale vd)).isSome then d else Tbl.set d (vdKey vale vd) 0

/-- Places one block of a card on a core and answers its identifier (R41, R62). -/
def placeBlock (s : State) (core job cluster rank : Nat) (record : Word) (entry : DWord) (task : Option Nat) : Nat × State :=
  let card := s.cardOf job
  let (vale, vd) := match Tbl.get s.jobs job with
    | some j => (j.vale, j.vd)
    | none => (0, 0)
  let (id, s) := s.fresh
  let roles := cardRoles card
  let tracks := (freeTracks s core card).take (cardTracks card)
  let r := tracks.foldl (fun (a : State × List Nat × Nat) t =>
    let slots := freeSlots s core t roles
    (natsFrom 0 roles).foldl (fun (a : State × List Nat × Nat) k =>
      let (w, s) := a.1.fresh
      let wave := freshWave .ordinary vale vd job id a.2.2 core (slots.getD k 0) k (cardBase card k) entry
      ({ s with waves := Tbl.set s.waves w { wave with lastIssue := s.turns } }, a.2.1 ++ [w], a.2.2 + 1)) a) (s, [], 0)
  let s := r.1
  let b : Block :=
    { job := job, vale := vale, vd := vd, core := core, cluster := cluster, rank := rank, record := record, tracks := tracks,
      pools := if cardField card 0x18 56 53 = 0 then [] else (natsFrom 0 tracks.length).map (fun i => (i, cardField card 0x18 56 53)), stashKib := cardStash card,
      stashBase := (stashRoom s core (cardStash card) (stashOffer s core)).getD 0, stash := [], stashPoison := [],
      rows := [], bars := [], waves := r.2.1, seqCtx := freshSeq card rank, cov := none, st := .resident, copyHalted := false,
      task := task, fork := none, saveAt := none, preempt := false, stopTod := 0, placed := s.nextId,
      accSaved := [], codeSaved := none }
  let t := startDeficit s core vale vd
  let s := { s with blocks := Tbl.set s.blocks id b }
  (id, s.modCore core (fun c => { c with deficit := t }))

end Sys2Proof.Machine
end

