-- ==== Sys2Proof/Machine/Matrix.lean ====
section
/-! DEFINITION. Matrix arithmetic: the canonical slab (R85 to R88), the K-step (R89), its clocks (R319), and the readout
and writing of accumulators (R90, R91). -/
namespace Sys2Proof.Machine

/-- The fields of a descriptor (R311). -/
structure Desc where
  bands : Bool
  scales : Bool
  bitmap : Bool
  planes : Nat
  format : Nat
  base : Nat
  stride : Nat
  bandStride : Nat
  ring : Nat
  bscale : Nat

/-- Reads a descriptor's words (R311). -/
def descOf (ws : List Word) : Desc :=
  let w (j : Nat) : Nat := (wordAt ws j).toNat
  { bands := bitOf (w 0) 26, scales := bitOf (w 0) 25, bitmap := bitOf (w 0) 24, planes := bitsOf (w 0) 23 20,
    format := bitsOf (w 0) 19 16, base := w 1 % 2 ^ 18, stride := w 2 % 2 ^ 18, bandStride := w 3 % 2 ^ 18,
    ring := w 4 % 32, bscale := w 5 % 2 ^ 18 }

/-- The full number of significand planes of a format code (R87, R294). -/
def fullPlanes (format : Nat) : Nat :=
  match format with
  | 0 => 2
  | 1 => 4
  | 2 => 3
  | 3 => 8
  | 4 => 11
  | 5 => 8
  | 6 => 4
  | _ => 8

/-- Whether a format accumulates in S32 (R89). -/
def isIntFormat (format : Nat) : Bool := decide (format = 5) || decide (format = 6)

/-- Whether a format is FP8. -/
def isFp8 (format : Nat) : Bool := decide (format = 1) || decide (format = 2)

/-- Bytes of the exponent component (R297). -/
def expBytes (format : Nat) : Nat := if format = 0 then 2048 else if isIntFormat format then 0 else 8192

/-- Bytes of a slab (R297). -/
def slabSize (format planes : Nat) (bitmap scales : Bool) : Nat :=
  1024 + expBytes format + 1024 * planes + (if bitmap then 1024 else 0) +
    (if format = 0 then 1024 else if isFp8 format && scales then 256 else 0)

/-- Bytes of a descriptor's slabs. -/
def Desc.size (d : Desc) : Nat := slabSize d.format d.planes d.bitmap d.scales

/-- The exponent bias of a format's slab elements (R86). -/
def slabBias (format : Nat) : Int :=
  match format with
  | 0 => 1
  | 1 => 7
  | 4 => 15
  | 2 => 15
  | _ => 127

/-- A bit of a slab plane: vector v's word at byte 8v, bit k (R85). -/
def planeBit (mem : Nat → Byte) (plane v k : Nat) : Bool := (mem (plane + 8 * v + k / 8)).getLsbD (k % 8)

/-- The value of an E3M5 block scale (R77). -/
def e3m5 (b : Byte) : Val :=
  let e := b.toNat / 32
  let m := b.toNat % 32
  if e = 0 then .fin false m 256 else Val.scaled false (32 + m) ((e : Int) - 9)

/-- Element k of vector v of a slab at a base, at the declared planes and times its block scale (R86, R87, R78). -/
def slabElem (mem : Nat → Byte) (d : Desc) (base v k : Nat) : Val :=
  let full := fullPlanes d.format
  let sgn := planeBit mem base v k
  let exps := base + 1024
  let planes := exps + expBytes d.format
  let m := (natsFrom 0 d.planes).foldl (fun m j => m + (if planeBit mem (planes + 1024 * j) v k then 2 ^ (full - 1 - j) else 0)) 0
  let raw : Val :=
    if isIntFormat d.format then .fin sgn m 1
    else
      let e := if d.format = 0 then 2 * bit1 (planeBit mem exps v k) + bit1 (planeBit mem (exps + 1024) v k)
        else (mem (exps + 64 * v + k)).toNat
      if d.format ≠ 0 && decide (e = 255) then (if planeBit mem planes v k then .nan else .inf sgn)
      else Val.scaled sgn m ((e : Int) - slabBias d.format - ((full : Int) - 1))
  let scales := planes + 1024 * d.planes + (if d.bitmap then 1024 else 0)
  if d.format = 0 then mulV raw (e3m5 (mem (scales + 8 * v + k / 8)))
  else if isFp8 d.format && d.scales then mulV raw (e3m5 (mem (scales + 2 * v + k / 32)))
  else raw

/-- The bitmap bit of an element (R88). -/
def slabBit (mem : Nat → Byte) (d : Desc) (base v k : Nat) : Bool :=
  planeBit mem (base + 1024 + expBytes d.format + 1024 * d.planes) v k

/-- The products of output (i, j) of a K-step (R88, R89). -/
def products (mem : Nat → Byte) (da db : Desc) (a b : Nat) (sparse : Bool) (i j : Nat) : List Val :=
  (natsFrom 0 64).map (fun k =>
    let x := slabElem mem da a i k
    let y := slabElem mem db b j k
    let odd (v : Val) : Bool := v.isNan || v.isInf
    if sparse && !(slabBit mem da a i k && slabBit mem db b j k) && !odd x && !odd y then .zero else mulV x y)

/-- The FP32 update of one accumulator element by a K-step's products (R89). -/
def stepF32 (acc : Word) (ps : List Val) : Word :=
  let x := valOf fp32 acc.toNat
  let pinf := ps.any (fun p => p.isInf && !p.neg?)
  let ninf := ps.any (fun p => p.isInf && p.neg?)
  if x.isNan || ps.any Val.isNan || (pinf && ninf) then 0x7FC00000
  else if pinf || ninf then BitVec.ofNat 32 (rne fp32 (addV x (.inf ninf)))
  else
    let logs := ps.filterMap (fun p => match p with
      | .fin _ n d => if n = 0 then none else some (log2Frac n d)
      | _ => none)
    match logs with
    | [] => acc
    | e :: t =>
      let w : Int := t.foldl max e - 47
      let units (p : Val) : Int := match p with
        | .fin sg n d =>
          if 0 ≤ w then (sNum sg n) / ((d * 2 ^ w.toNat : Nat) : Int) else (sNum sg (n * 2 ^ (-w).toNat)) / (d : Int)
        | _ => 0
      let q := ps.foldl (fun q p => q + units p) 0
      if q = 0 then acc else BitVec.ofNat 32 (rne fp32 (addV x (Val.scaled (decide (q < 0)) q.natAbs w)))

/-- The S32 update of one element (R89), and whether it was clamped. -/
def stepS32 (acc : Word) (ps : List Val) : Word × Bool :=
  let q := ps.foldl (fun q p => q + (match p with
    | .fin sg n d => sNum sg (n / d)
    | _ => 0)) 0
  let x := acc.toInt + q
  let y := clampInt x (-(2 ^ 31)) (2 ^ 31 - 1)
  (wordOfInt y, decide (x ≠ y))

/-- Sets the sticky bits an element's value calls for (R316). -/
def Engine.note (e : Engine) (x : Word) : Engine :=
  if e.s32 then e
  else
    let v := valOf fp32 x.toNat
    { e with nan := e.nan || v.isNan, inf := e.inf || v.isInf }

/-- Performs a K-step or MZERO on an engine (R317, R318), reading the stash through `mem`. -/
def Engine.perform (e : Engine) (mem : Nat → Byte) (k : KStep) : Engine :=
  match k.zero with
  | some kind =>
    { e with acc := [], accPoison := [], s32 := decide (kind = 1), nan := false, inf := false, sat := false, ksteps := 0, valid := true }
  | none =>
    let da := descOf k.da
    let db := descOf k.db
    let e := if k.ovw then { e with acc := [], accPoison := [] } else e
    let cells := (natsFrom 0 128).flatMap (fun i => (natsFrom 0 128).map (fun j => (i, j)))
    let e := cells.foldl (fun (e : Engine) c =>
      let n := 128 * c.1 + c.2
      let old := Tbl.cell 0 e.acc n
      let ps := products mem da db k.aBase k.bBase k.sparse c.1 c.2
      if e.s32 then
        let r := stepS32 old ps
        { e with acc := Tbl.setCell 0 e.acc n r.1, sat := e.sat || r.2 }
      else
        let x := stepF32 old ps
        ({ e with acc := Tbl.setCell 0 e.acc n x } : Engine).note x) e
    { e with ksteps := e.ksteps + 1 }

/-- Clocks of a pair of formats for MMA, or the floor for MMAS (R319). -/
def formatClocks (format : Nat) (sparse : Bool) : Nat :=
  match format with
  | 0 => if sparse then 32 else 128
  | 1 => if sparse then 64 else 256
  | 2 => if sparse then 64 else 256
  | 6 => if sparse then 64 else 256
  | _ => if sparse then 128 else 512

/-- Triples whose two bitmap bits are both 1 (R319). -/
def setTriples (mem : Nat → Byte) (da db : Desc) (a b : Nat) : Nat :=
  (natsFrom 0 64).foldl (fun n k =>
    let col (d : Desc) (base : Nat) : Nat := ((natsFrom 0 128).filter (fun v => slabBit mem d base v k)).length
    n + col da a * col db b) 0

/-- The clocks a K-step takes on a member (R319). -/
def kstepClocks (mem : Nat → Byte) (k : KStep) : Nat :=
  if k.zero.isSome then 0
  else
    let da := descOf k.da
    let db := descOf k.db
    let dense := max (formatClocks da.format false) (formatClocks db.format false)
    if k.sparse then
      let u := (k.bands.map (fun b => setTriples mem da db k.aBase b)).foldl max 0
      max (max (formatClocks da.format true) (formatClocks db.format true)) (ceilDiv (dense * u) 1048576)
    else dense

/-! ## Readout -/

/-- The value of an accumulator element (R90). -/
def accValue (e : Engine) (i j : Nat) : Val :=
  let x := Tbl.cell 0 e.acc (128 * i + j)
  if e.s32 then Val.ofInt x.toInt else valOf fp32 x.toNat

/-- Columns per register and bits per column of an MXRD format (R325). -/
def mxFormat (fmt : Nat) : Nat × Nat :=
  match fmt with
  | 3 => (2, 16)
  | 4 => (2, 16)
  | 6 => (4, 8)
  | 7 => (4, 8)
  | 1 => (1, 16)
  | 2 => (1, 16)
  | _ => (1, 32)

/-- Converts a scaled element to an MXRD format (R90, R84). -/
def mxConvert (fmt : Nat) (sat : Bool) (v : Val) : Nat :=
  match fmt with
  | 0 => convertF v fp32 .rn sat
  | 1 => convertF v bf16 .rn sat
  | 3 => convertF v bf16 .rn sat
  | 2 => convertF v fp16 .rn sat
  | 4 => convertF v fp16 .rn sat
  | 6 => convertF v e4m3 .rn sat
  | 7 => convertF v e5m2 .rn sat
  | _ => wrapInt (convertI v (-(2 ^ 31)) (2 ^ 31 - 1) .rn) 32

/-- Converts an MXWR source to an engine's KIND (R91): the source is FP32, or S32 for format 5. -/
def mxSource (fmt : Nat) (s32 : Bool) (x : Word) : Word :=
  let v := if fmt = 5 then Val.ofInt x.toInt else valOf fp32 x.toNat
  if s32 then wordOfInt (convertI v (-(2 ^ 31)) (2 ^ 31 - 1) .rn) else BitVec.ofNat 32 (convertF v fp32 .rn false)

end Sys2Proof.Machine
end

