-- ==== Sys2Proof/Machine/Slab.lean ====
section
/-! DEFINITION. Layout records (R294, R295) and the expansion of an element into the canonical slab (R85 to R88). -/
namespace Sys2Proof.Machine

/-! ## Layout records -/

/-- The fields of a layout record (R294). -/
structure Layout where
  format : Nat
  ndim : Nat
  kdim : Nat
  vdim : Nat
  planes : Nat
  bitmap : Bool
  scales : Bool
  base : Nat
  sbase : Nat

/-- Reads a record's words (R294). -/
def layoutOf (ws : List Word) : Layout :=
  let w (j : Nat) : Nat := (wordAt ws j).toNat
  { format := bitsOf (w 0) 23 16, ndim := bitsOf (w 0) 26 24, kdim := bitsOf (w 0) 29 27, vdim := w 1 % 8, planes := bitsOf (w 1) 6 3,
    bitmap := bitOf (w 1) 7, scales := bitOf (w 1) 8, base := (dwordAt ws 2).toNat, sbase := (dwordAt ws 4).toNat }

/-- SIZE_d (R294). -/
def laySize (ws : List Word) (d : Nat) : Nat := (wordAt ws (6 + d)).toNat

/-- STRIDE_d for d from 1 (R294). -/
def layStride (ws : List Word) (d : Nat) : Nat := (dwordAt ws (12 + 2 * (d - 1))).toNat

/-- SSTRIDE_d (R294). -/
def laySStride (ws : List Word) (d : Nat) : Nat := (dwordAt ws (22 + 2 * d)).toNat

/-- Bits of an element in memory (R294). -/
def elemBits (format : Nat) : Nat :=
  match format with
  | 0 => 4
  | 1 => 8
  | 2 => 8
  | 3 => 16
  | 4 => 16
  | 5 => 8
  | 6 => 4
  | 7 => 4
  | _ => 32

/-- The block length of a format's block scales, 0 for none (R78). -/
def blockLen (l : Layout) : Nat := if l.format = 0 then 8 else if isFp8 l.format && l.scales then 32 else 0

/-- Whether coordinates are in range (R295). -/
def inRange (ws : List Word) (l : Layout) (x : Nat → Int) : Bool :=
  (natsFrom 0 l.ndim).all (fun d => decide (0 ≤ x d) && decide (x d < (laySize ws d : Int)))

/-- The byte address of an element in range (R295), modulo 2^64. -/
def elemAddr (ws : List Word) (l : Layout) (x : Nat → Int) : Nat :=
  let first := (x 0).toNat * elemBits l.format / 8
  ((natsFrom 1 (l.ndim - 1)).foldl (fun a d => a + (x d).toNat * layStride ws d) (l.base + first)) % 2 ^ 64

/-- The byte address of an element's block scale (R295), modulo 2^64. -/
def scaleAddr (ws : List Word) (l : Layout) (x : Nat → Int) : Nat :=
  ((natsFrom 0 l.ndim).foldl (fun a d => if d = l.kdim then a else a + (x d).toNat * laySStride ws d)
    (l.sbase + (x l.kdim).toNat / max 1 (blockLen l))) % 2 ^ 64

/-! ## Expansion -/

/-- An expanded element (R86): sign, exponent byte and significand, plane 0 its most significant bit. -/
structure Expanded where
  sign : Bool
  exp : Nat
  sig : Nat

/-- A zero element. -/
def Expanded.zero : Expanded := ⟨false, 0, 0⟩

/-- Expands a float code with ew exponent and fw fraction bits (R86); `inf` and `nan` say what an all-ones exponent
means. -/
def expandFloat (ew fw code : Nat) (special : Nat → Option Bool) : Expanded :=
  let m := code % 2 ^ fw
  let e := code / 2 ^ fw % 2 ^ ew
  let sg := bitOf code (ew + fw)
  match if e = 2 ^ ew - 1 then special m else none with
  | some true => ⟨sg, 0xFF, 2 ^ fw⟩
  | some false => ⟨sg, 0xFF, 0⟩
  | none =>
    if e = 0 && decide (m = 0) then ⟨sg, 0, 0⟩ else ⟨sg, max e 1, (if e = 0 then 0 else 2 ^ fw) + m⟩

/-- Expands a two's complement code of n bits as sign and magnitude (R86). -/
def expandInt (n code : Nat) : Expanded :=
  let x := sextNat code n
  ⟨decide (x < 0), 0, x.natAbs⟩

/-- Expand(code, P) for a format (R86, R87); a code-table code has been replaced by its BF16 entry. -/
def expand (format planes code : Nat) : Expanded :=
  let ieee (m : Nat) : Option Bool := some (decide (m ≠ 0))
  let e := match format with
    | 0 => expandFloat 2 1 code (fun _ => none)
    | 1 => expandFloat 4 3 code (fun m => if m = 7 then some true else none)
    | 2 => expandFloat 5 2 code ieee
    | 4 => expandFloat 5 10 code ieee
    | 5 => expandInt 8 code
    | 6 => expandInt 4 code
    | _ => expandFloat 8 7 code ieee
  let cut := 2 ^ (fullPlanes format - planes)
  { e with sig := e.sig / cut * cut }

/-- Whether an expanded element counts as non-zero for the bitmap (R88). -/
def Expanded.nonzero (e : Expanded) : Bool := decide (e.sig ≠ 0) || decide (e.exp = 0xFF)

/-! ## What a slab byte holds -/

/-- A component of a slab at an offset (R85): what its byte takes from elements or from a scale. -/
inductive SlabPart where
  /-- bit i of the byte is `f` of element k + i of vector v -/
  | bits (v k : Nat) (f : Expanded → Bool)
  /-- the exponent byte of element k of vector v -/
  | exp (v k : Nat)
  /-- the scale of block b of vector v -/
  | scale (v b : Nat)

/-- The component of a slab at byte offset o (R85). -/
def slabPart (l : Layout) (o : Nat) : SlabPart :=
  let plane (r : Nat) (f : Expanded → Bool) : SlabPart := .bits (r / 8) (8 * (r % 8)) f
  let full := fullPlanes l.format
  let eb := expBytes l.format
  if o < 1024 then plane o (fun e => e.sign)
  else if o < 1024 + eb then
    let r := o - 1024
    if l.format = 0 then plane (r % 1024) (fun e => bitOf e.exp (1 - r / 1024)) else .exp (r / 64) (r % 64)
  else
    let r := o - 1024 - eb
    if r < 1024 * l.planes then plane (r % 1024) (fun e => bitOf e.sig (full - 1 - r / 1024))
    else
      let r := r - 1024 * l.planes
      if l.bitmap && decide (r < 1024) then plane r Expanded.nonzero
      else
        let r := if l.bitmap then r - 1024 else r
        let per := 64 / max 1 (blockLen l)
        .scale (r / max 1 per) (r % max 1 per)

end Sys2Proof.Machine
end

