-- ==== Sys2Proof/Machine/Sync.lean ====
section
/-! DEFINITION. Barriers and waits (R262 to R269, R492, R493), and the events that end a wait: MONITOR_WAKE and
SLEEP_WAKE. -/
namespace Sys2Proof.Machine

/-- A control instruction that acts once per wave on scalar operands: a poisoned operand is consumed by the wave's lowest
lane, and the instruction has no effect (R515, R480). -/
def runOnce (i : Instr) (srcs : List RegField) (op : State → Nat → Wave → State) (s : State) :
    Host.Outcome State Fault Refusal :=
  runWave i (fun s w wv =>
    let low := lanesOf (lowestLane wv.part)
    if poisonedLanes wv srcs low = [] then op s w wv
    else consumePoison (s.setWave w (wv.advance (instrBytes i))) w wv.pos (low.map (fun l => (l, 0)))) s

/-- A scalar operand of an instruction that acts once. -/
def Wave.scal (w : Wave) (f : RegField) : Word := w.rd f 0

/-- A scalar pair. -/
def Wave.scal64 (w : Wave) (f : RegField) : DWord := w.rd64 f 0

/-- Adds an arrival to a cluster barrier and tests it (R265). -/
def arriveCluster (s : State) (wv : Wave) (n : Nat) : State :=
  match Tbl.get s.blocks wv.blk with
  | none => s
  | some b =>
    testCluster { s with clusters := Tbl.modify s.clusters b.cluster (fun c =>
      { c with arrived := Tbl.set c.arrived n ((Tbl.get c.arrived n).getD 0 + 1) }) } b.cluster n

/-- Whether an arrival, a release at a scope, must still wait (R263, R144). -/
def arriveWaits (s : State) (w : Nat) (wv : Wave) (scope : BitVec 3) : Bool := releaseWaits s w wv s.nextId scope false

/-- The wave after an ARRIVE, its phase written where W = 1 (R263). -/
def arrived (o : VaFields) (wv : Wave) (phase : Word) : Wave :=
  (if o.b.getLsbD 6 then wv.wr o.d (lanesOf wv.part) (fun _ => phase) else wv).advance 4

/-- BAR.ARRIVE (R263). -/
def execBarArrive (o : VaFields) (s : State) : Host.Outcome State Fault Refusal :=
  runOnce (.barArrive o) [] (fun s w wv =>
    let n := o.b.toNat % 16
    if arriveWaits s w wv 1 then s
    else modBarrier (s.setWave w (arrived o wv (barrierOf s wv n).phase)) wv.blk n (fun x => { x with arrived := x.arrived + 1 })) s

/-- BAR.WAIT (R263). -/
def execBarWait (o : VaFields) (s : State) : Host.Outcome State Fault Refusal :=
  runOnce (.barWait o) [o.a] (fun s w wv =>
    let n := o.b.toNat % 16
    let tok := wv.scal o.a
    if tokenPassed (barrierOf s wv n).phase tok then s.setWave w (wv.advance 4)
    else s.setWave w { wv with wait := some (.bar n tok false) }) s

/-- BAR.SYNC (R263). -/
def execBarSync (o : VaFields) (s : State) : Host.Outcome State Fault Refusal :=
  runOnce (.barSync o) [] (fun s w wv =>
    let n := o.b.toNat % 16
    if arriveWaits s w wv 1 then s
    else modBarrier (s.setWave w { wv with wait := some (.bar n (barrierOf s wv n).phase true) }) wv.blk n
      (fun x => { x with arrived := x.arrived + 1 })) s

/-- Whether a wave or the sequencer of a block waits on a barrier (R263). -/
def barrierWaited (s : State) (blk n : Nat) : Bool :=
  s.waves.any (fun e => decide (e.2.blk = blk) && match e.2.wait with
    | some (.bar m _ _) => decide (m = n)
    | _ => false) ||
  match (Tbl.get s.blocks blk).bind (fun (b : Block) => b.seqCtx) with
  | some c => c.wantBar.any (fun x => decide (x.1 = n))
  | none => false

/-- Whether BAR.INIT faults BARRIER (R263, R493). -/
def initBad (s : State) (wv : Wave) (n : Nat) (v : Word) : Bool :=
  let x := barrierOf s wv n
  let e := v.toNat % 128
  decide (x.arrived ≠ 0) || decide (x.sect ≠ 0) || x.armed || barrierWaited s wv.blk n || (decide (64 < e) && decide (e ≠ 127)) ||
    decide (v.toNat / 256 ≠ 0) || (v.getLsbD 7 && decide (card64 (s.cardOf wv.job) 0x60 = 0))

/-- BAR.INIT (R263). In ALL mode EXPECT keeps its value, which nothing but a save record shows (DESIGN CHOICE, log 93). -/
def execBarInit (o : VaFields) (s : State) : Host.Outcome State Fault Refusal :=
  runOnce (.barInit o) [o.a] (fun s w wv =>
    let n := o.b.toNat % 16
    let v := wv.scal o.a
    if initBad s wv n v then raiseOnce s w wv 4 cBarrier 0 0
    else
      let e := v.toNat % 128
      (s.setWave w (wv.advance 4)).modBlock wv.blk (fun b =>
        let x := ((Tbl.get b.bars n).getD Barrier.fresh).clear
        let y := { x with count := decide (e ≠ 127), expect := if e = 127 then x.expect else e, seq := v.getLsbD 7 }
        { b with bars := Tbl.set b.bars n y })) s

/-- BAREXP (R264). -/
def execBarexp (o : VaFields) (s : State) : Host.Outcome State Fault Refusal :=
  runOnce (.barexp o) [o.a] (fun s w wv =>
    let n := o.b.toNat % 16
    let sum := (barrierOf s wv n).expSect + (wv.scal o.a).toNat
    if 2 ^ 24 ≤ sum then raiseOnce s w wv 4 cBarrier 0 0
    else modBarrier (s.setWave w (wv.advance 4)) wv.blk n (fun x => { x with expSect := sum, armed := true })) s

/-- CBAR.ARRIVE (R265). A speculative task runs the CBAR forms and BAREXP as other blocks do (DESIGN CHOICE, log 132). -/
def execCbarArrive (o : VaFields) (s : State) : Host.Outcome State Fault Refusal :=
  runOnce (.cbarArrive o) [] (fun s w wv =>
    let n := o.b.toNat % 4
    if arriveWaits s w wv 2 then s
    else arriveCluster (s.setWave w (arrived o wv (clusterPhase s wv n))) wv n) s

/-- CBAR.WAIT (R265): an acquire at CLUSTER scope when it passes. -/
def execCbarWait (o : VaFields) (s : State) : Host.Outcome State Fault Refusal :=
  runOnce (.cbarWait o) [o.a] (fun s w wv =>
    let n := o.b.toNat % 4
    let tok := wv.scal o.a
    if tokenPassed (clusterPhase s wv n) tok then dropL1 (s.setWave w (wv.advance 4)) wv.core wv.vale wv.vd
    else s.setWave w { wv with wait := some (.cbar n tok false) }) s

/-- CBAR.SYNC (R265). -/
def execCbarSync (o : VaFields) (s : State) : Host.Outcome State Fault Refusal :=
  runOnce (.cbarSync o) [] (fun s w wv =>
    let n := o.b.toNat % 4
    if arriveWaits s w wv 2 then s
    else arriveCluster (s.setWave w { wv with wait := some (.cbar n (clusterPhase s wv n) true) }) wv n) s

/-! ## Memory waits -/

/-- What one read of a waiting address comes to. -/
inductive Polled where
  | value (v : DWord)
  | poisoned
  | fault (f : AddrFault)
  /-- the read must wait, or its answer is still to come from another package -/
  | later

/-- Reads n bytes at an address for a wait (R266, R267), at their home whatever the scope, where adds are performed (R158): an address
on a DEVICE page faults PROTECT. -/
def pollWait (s : State) (w : Nat) (wv : Wave) (addr : DWord) (n : Nat) (ord scope : BitVec 3) : State × Polled :=
  if laneWalks s wv .global addr.toNat .load then (s, .later) else
  match laneAccess s wv .global addr n .load with
  | (s, .error f) => (s, .fault f)
  | (s, .ok x) =>
    if x.dev then (s, .fault ⟨cProtect, 9, addr⟩)
    else if ownPending s w s.nextId x.target n false true || ownLoadPending s wv s.nextId x.target n false || acquirePending s w wv s.nextId ||
        readWaits s (dieOfCore wv.core) x.target n then (s, .later)
    else match x.target with
      | .mem k =>
        let (s, bs, bad) := readMemLoad s wv k n ord scope 3 x.page
        (s, if bad then .poisoned else .value (BitVec.ofNat 64 (natLE bs)))
      | .remote pa =>
        if s.outReqs.any (fun q => decide (q.2.load = some (w, 0, 0))) then (s, .later)
        else if farBusy s pa then (recallLine s (farKey pa / 128) noRow noRow, .later)
        else (sendRequest s (dieOfCore wv.core) wv.vale wv.vd wv.pos.pc pa none (some (w, 0, 0)), .later)
      | t => let r := elseBytes s wv.vale t n; (r.1, .value (BitVec.ofNat 64 (natLE r.2)))

/-- Whether a value ends a wait. -/
def waitPasses (x : Wait) (v : DWord) : Bool :=
  match x with
  | .waitge _ t _ => decide (t.toNat ≤ v.toNat)
  | .mwait _ e _ => decide (loWord v ≠ e)
  | _ => false

/-- Ends a wait: WAITGE is an acquire at its scope (R266), a wake from MWAIT is none (R267). -/
def passWait (s : State) (w : Nat) (wv : Wave) (x : Wait) : State :=
  let s := s.setWave w { wv.advance 4 with wait := none }
  match x with
  | .waitge _ _ sc => if 2 ≤ sc.toNat then dropL1 s wv.core wv.vale wv.vd else s
  | _ => s

/-- Reads for a wait, and goes on or waits (R266, R267). -/
def pollOnce (s : State) (w : Nat) (wv : Wave) (x : Wait) : State :=
  let (addr, n, ord, scope) : DWord × Nat × BitVec 3 × BitVec 3 := match x with
    | .waitge a _ sc => (a, 8, 2, sc)
    | .mwait a _ sc => (a, 4, 1, sc)
    | _ => (0, 4, 1, 0)
  let off := { wv with wait := none }
  match pollWait s w wv addr n ord scope with
  | (s, .fault f) => raiseOnce s w off 4 f.cause (BitVec.ofNat 32 f.reason) f.addr
  | (s, .poisoned) =>
    consumePoison (s.setWave w (off.advance 4)) w wv.pos ((lanesOf (lowestLane wv.part)).map (fun l => (l, addr)))
  | (s, .value v) => if waitPasses x v then passWait s w wv x else s.setWave w { wv with wait := some x }
  | (s, .later) => s.setWave w { wv with wait := some x }

/-- A wait on memory; a speculative task faults TASK (R358). -/
def runMemWait (i : Instr) (srcs : List RegField) (f : Wave → Wait) (s : State) : Host.Outcome State Fault Refusal :=
  runOnce i srcs (fun s w wv => if s.speculative wv then raiseOnce s w wv 4 cTask 0 0 else pollOnce s w wv (f wv)) s

/-- WAITGE (R266). -/
def execWaitge (o : VaFields) (s : State) : Host.Outcome State Fault Refusal :=
  runMemWait (.waitge o) [o.a, o.a + 1, o.b, o.b + 1] (fun w => .waitge (w.scal64 o.a) (w.scal64 o.b) (o.d.setWidth 3)) s

/-- MWAIT (R267). -/
def execMwait (o : VaFields) (s : State) : Host.Outcome State Fault Refusal :=
  runMemWait (.mwait o) [o.a, o.a + 1, o.b] (fun w => .mwait (w.scal64 o.a) (w.scal o.b) (o.d.setWidth 3)) s

/-- YIELD (R268). -/
def execYield (o : VaFields) (s : State) : Host.Outcome State Fault Refusal :=
  runOnce (.yield o) [] (fun s w wv => s.setWave w { wv.advance 4 with yielded := true }) s

/-- SLEEP (R268). -/
def execSleep (o : VaFields) (s : State) : Host.Outcome State Fault Refusal :=
  runOnce (.sleep o) [o.a] (fun s w wv =>
    let n := (wv.scal o.a).toNat
    if n = 0 then s.setWave w { wv.advance 4 with yielded := true }
    else s.setWave w { wv with wait := some (.sleep (s.tod + BitVec.ofNat 64 n)) }) s

/-! ## The events that end waits -/

/-- MONITOR_WAKE (R266, R267): a waiting wave reads its line again. -/
def execMonitorWake (wave : Nat) (s : State) : Host.Outcome State Fault Refusal :=
  .next (match Tbl.get s.waves wave with
    | none => s
    | some wv =>
      if !canIssue s wv || !wv.standing then s
      else match wv.wait with
        | some (.waitge a t sc) => pollOnce s wave wv (.waitge a t sc)
        | some (.mwait a e sc) => pollOnce s wave wv (.mwait a e sc)
        | _ => s)

/-- SLEEP_WAKE (R268): the TOD counter has reached the wake count; a wave whose block has been saved, or whose VD has stopped, sleeps on
(R269, R474). -/
def execSleepWake (wave : Nat) (s : State) : Host.Outcome State Fault Refusal :=
  .next (match Tbl.get s.waves wave with
    | none => s
    | some wv =>
      match wv.wait with
      | some (.sleep t) => if t.toNat ≤ s.tod.toNat && wv.standing && canIssue s wv then s.setWave wave { wv.advance 4 with wait := none } else s
      | _ => s)

end Sys2Proof.Machine
end

