-- ==== Sys2Proof/Machine/Tasks.lean ====
section
/-! DEFINITION. Ordered tasks: TSPAWN, TEND, TABORT and TIRREV (R374 to R378), admission (R355), placement (R356) and
commit (R363, R367 to R369). Gates and reads the part makes for a VD (R51, R549) come first. -/
namespace Sys2Proof.Machine

/-! ## The part's own reads for a VD -/

/-- The record of a failed access the part makes for a VD (R549). -/
def partRec (vale vd pc : Nat) (f : AddrFault) : ErrRec :=
  { ErrRec.blank f.cause 1 (some vale) (some vd) with pc := pc, addr := f.addr.toNat, detail := trapDetail 0 0 0 f.reason 0 }

/-- The gate threshold of a record (R51). -/
def gateAt (card : List Word) (i : Nat) : Nat :=
  (card64 card 0x38 + cardField card 0x40 31 0 * (i / max 1 (cardField card 0x40 63 32) + 1)) % 2 ^ 64

/-- Whether a failed read of the part for a VD waits for an invalidation or a QCBWR before it is tried again (R549). The key is three times
a queue's number for its post word, three times a job's plus 1 for its gate, three times a block's plus 2 for its FORK.SUSPEND counter. -/
def readHeld (s : State) (vale vd key : Nat) : Bool := ((s.vd? vale vd).map (fun d => d.heldReads.contains key)).getD false

/-- A failed read waits. -/
def holdRead (s : State) (vale vd key : Nat) : State := s.modVd vale vd (fun d => { d with heldReads := insertNat key d.heldReads })

/-- The failed reads of a VD that some keys name may be tried again. -/
def releaseReads (s : State) (vale vd : Nat) (p : Nat → Bool) : State :=
  s.modVd vale vd (fun d => if d.heldReads = [] then d else { d with heldReads := d.heldReads.filter (fun k => !p k) })

/-- Whether the gate of a record of a job is open (R51); a failed read counts as closed, writes one record for its
episode and is tried again later (R549), and one whose line is held, or whose answer is still to come from another package, waits. A closed
gate is read anew at its next test. -/
def gateOpen (s : State) (job : Nat) (i : Nat) : State × Bool :=
  match Tbl.get s.jobs job with
  | none => (s, false)
  | some j =>
    let g := BitVec.ofNat 64 (card64 j.card 0x30)
    if g = 0 then (s, true)
    else if readHeld s j.vale j.vd (3 * job + 1) then (s, false)
    else match partRead s job j.vale j.vd j.addr g with
      | (s, .ok none) => (s, false)
      | (s, .ok (some v)) =>
        let opened := decide (gateAt j.card i ≤ v.toNat)
        let s := if opened then s else engForget s (scalarCore s j.vale) job
        (s.modJob job (fun j => { j with gateBad := false }), opened)
      | (s, .error f) =>
        let s := if j.gateBad then s else record s (partRec j.vale j.vd j.addr f)
        ((holdRead s j.vale j.vd (3 * job + 1)).modJob job (fun j => { j with gateBad := true }), false)

/-- What an open gate's test is for the cores a record's blocks go to: an acquire (R51, R141). -/
def gateAcquire (s : State) (j : Job) (cores : List Nat) : State :=
  if card64 j.card 0x30 = 0 then s else acquireOn s cores j.vale j.vd

/-! ## Entries -/

/-- The ordered state of a job. -/
def orderedOf (s : State) (job : Nat) : Option Ordered := (Tbl.get s.jobs job).bind (fun (j : Job) => j.ord)

/-- Task entries held in a vale (R355). -/
def valeTasks (s : State) (vale : Nat) : Nat :=
  s.jobs.foldl (fun n e => if e.2.vale = vale then n + ((e.2.ord.map (fun o => o.tasks.length)).getD 0) else n) 0

/-- Whether the vale's task units have a free entry (R355). -/
def entryFree (s : State) (vale : Nat) : Bool :=
  match s.vale? vale with
  | some v => decide (valeTasks s vale < 4096 * v.n)
  | none => false

/-- A task entry as it arrives (R354). -/
def freshTask (ts : DWord) (parent : Option Nat) (record : Word) (entry : DWord) (args : List Word) : Task :=
  { ts := ts, parent := parent, root := parent.isNone, record := record, entry := entry, args := args, st := .pending,
    irrev := false, core := 0, ways := 0, reads := [], sig := [], lines := [], fault := none }

/-- Adds a task with the job's next seq (R354). -/
def addTask (s : State) (job : Nat) (t : Task) : State :=
  s.modJob job (fun j => { j with ord := j.ord.map (fun o =>
    { o with tasks := Tbl.set o.tasks o.seqNext t, seqNext := o.seqNext + 1 }) })

/-- The latest task of a list of entries in (timestamp, seq) order. -/
def latestTask (es : Tbl Task) : Option Nat :=
  (es.foldl (fun (b : Option (Nat × Task)) e => match b with
    | none => some e
    | some x => if tsBefore x.2.ts x.1 e.2.ts e.1 then some e else some x) none).map (fun e => e.1)

/-- The earliest task of a list of entries. -/
def earliestTask (es : Tbl Task) : Option Nat :=
  (es.foldl (fun (b : Option (Nat × Task)) e => match b with
    | none => some e
    | some x => if tsBefore e.2.ts e.1 x.2.ts x.1 then some e else some x) none).map (fun e => e.1)

/-- Step 1 of R368: while no entry is free, the latest task after the spawner that has children is aborted. -/
def freeEntries (vale job q : Nat) : Nat → State → State
  | 0, s => s
  | fuel + 1, s =>
    if entryFree s vale then s
    else match orderedOf s job with
      | none => s
      | some o =>
        match Tbl.get o.tasks q with
        | none => s
        | some t =>
          let c := o.tasks.filter (fun e => tsBefore t.ts q e.2.ts e.1 && o.tasks.any (fun x => decide (x.2.parent = some e.1)))
          match latestTask c with
          | none => s
          | some x => freeEntries vale job q fuel (abortTask s job x)

/-! ## The task instructions -/

/-- A task instruction outside an ORDERED job faults TASK (R278, R374). -/
def runTask (i : Instr) (op : State → Nat → Wave → Nat → Task → State) (s : State) : Host.Outcome State Fault Refusal :=
  runWave i (fun s w wv =>
    match s.taskOf wv with
    | none => raiseInstr s w wv i cTask 0
    | some (q, t) => op s w wv q t) s

/-- The lanes of a TSPAWN that fault (R375). -/
def spawnFault (s : State) (o : VaFields) (wv : Wave) (t : Task) (l : Nat) : Option AddrFault :=
  let off := (wv.rd o.b l).toNat
  let kib := ((Tbl.get s.blocks wv.blk).map (fun (b : Block) => b.stashKib)).getD 0
  if (wv.rd64 (o.a + 2) l).toNat < t.ts.toNat then some ⟨cTask, 0, 0⟩
  else if off % 64 ≠ 0 || decide (kib * 1024 < off + 64) then some ⟨cAlign, 0, BitVec.ofNat 64 off⟩
  else none

/-- What making children comes to: the lanes that found the limits of R354 or R368, those whose arguments are poisoned (R515), and
those left when the spawner must stall. -/
structure Spawned where
  failed : List Nat
  poisoned : List Nat
  left : List Nat

/-- Makes the children of some lanes in ascending order (R368, R375). -/
def spawnLanes (w : Nat) (wv : Wave) (o : VaFields) (q : Nat) : List Nat → State → State × Spawned
  | [], s => (s, ⟨[], [], []⟩)
  | l :: ls, s =>
    let lane := l % 16
    match orderedOf s wv.job with
    | none => (s, ⟨[], [], []⟩)
    | some od =>
      if 2 ^ 32 - 1 ≤ od.seqNext then
        let r := spawnLanes w wv o q ls s
        (r.1, { r.2 with failed := l :: r.2.failed })
      else
        let (s, bs, bad) := readStash s wv.blk (wv.rd o.b lane).toNat 64
        if bad then
          let r := spawnLanes w wv o q ls s
          (r.1, { r.2 with poisoned := l :: r.2.poisoned })
        else
          let s := freeEntries wv.vale wv.job q od.tasks.length s
          if entryFree s wv.vale then
            let t := freshTask (wv.rd64 (o.a + 2) lane) (some q) (((orderedOf s wv.job).bind (fun x => Tbl.get x.tasks q)).elim 0 (fun t => t.record))
              (wv.rd64 o.a lane) (wordsOfBytes bs)
            spawnLanes w wv o q ls (addTask s wv.job t)
          else if isFrontier s wv.job q then
            let r := spawnLanes w wv o q ls s
            (r.1, { r.2 with failed := l :: r.2.failed })
          else (s, ⟨[], [], l :: ls⟩)

/-- Whether a TSPAWN is held at issue: the arguments of a lane cannot be read yet (R110, R137, R375). -/
def spawnHeld (s : State) (w : Nat) (wv : Wave) (o : VaFields) (ls : List Nat) : Bool :=
  ls.any (fun l =>
    let t : Target := .stash wv.blk (wv.rd o.b (l % 16)).toNat
    targetWaits s t 64 false || ownPending s w s.nextId t 64 false true || ownLoadPending s wv s.nextId t 64 false)

/-- The instruction at a wave's place issues again with some lanes, and the wave goes on as it would have (R368). -/
def again (w : Wave) (lanes : Mask) : Replay :=
  match w.replay with
  | some r => { r with lanes := lanes }
  | none => { lanes := lanes, cont := w.nextPos 4 }

/-- TSPAWN (R375, R368). -/
def execTspawn (o : VaFields) (s : State) : Host.Outcome State Fault Refusal :=
  runTask (.tspawn o) (fun s w wv q t =>
    let uni := isScalar o.a && isScalar o.b
    let live := wv.live
    let ls := if uni then (lanesOf (lowestLane live)).map (fun l => 16 + l) else lanesOf live
    let pois := poisonedLanes wv (fieldsFrom o.a 4 ++ [o.b]) (ls.map (fun l => l % 16))
    let ls := ls.filter (fun l => !pois.contains (l % 16))
    let bad := ls.filterMap (fun l => (spawnFault s o wv t (l % 16)).map (fun f => (l, f)))
    let good := ls.filter (fun l => !(bad.map (fun f => f.1)).contains l)
    if spawnHeld s w wv o good then s
    else
      let r := spawnLanes w wv o q good s
      let s := r.1
      let pois := pois ++ r.2.poisoned.map (fun l => l % 16)
      if r.2.left ≠ [] then
        let left := maskOf ((r.2.left ++ bad.map (fun f => f.1)).map (fun l => l % 16) ++ pois)
        s.modWave w (fun x => { x with wait := some (.spawn left), replay := some (again x (if uni then wv.part else left)) })
      else
        let fs := bad ++ r.2.failed.map (fun l => (l, (⟨cTask, 0, 0⟩ : AddrFault)))
        let s := match Tbl.get s.waves w, fs with
          | none, _ => s
          | some x, [] => s.setWave w (x.advance 4)
          | some x, f :: _ =>
            if uni then raiseOnce s w x 4 f.2.cause 0 f.2.addr else raiseLanes s w x 4 (fs.map (fun f => faultOf f.1 f.2))
        consumePoison s w wv.pos (pois.map (fun l => (l, 0)))) s

/-- TEND (R376). -/
def execTend (o : VaFields) (s : State) : Host.Outcome State Fault Refusal :=
  runTask (.tend o) (fun s w wv _ _ => if allComplete wv then endWave s w wv else s) s

/-- TABORT (R377). -/
def execTabort (o : VaFields) (s : State) : Host.Outcome State Fault Refusal :=
  runTask (.tabort o) (fun s w wv q t => if t.irrev then raiseOnce s w wv 4 cTask 0 0 else abortTask s wv.job q) s

/-- TIRREV (R378): waits for the frontier, and goes on irrevocable. -/
def execTirrev (o : VaFields) (s : State) : Host.Outcome State Fault Refusal :=
  runTask (.tirrev o) (fun s w wv q t =>
    if t.irrev then s.setWave w (wv.advance 4)
    else if isFrontier s wv.job q && lockReady s wv.job q then
      (makeIrrevocable s wv.job q).modWave w (fun x => x.advance 4)
    else s.setWave w { wv with wait := some .irrevocable }) s

/-! ## Admission, placement and commit -/

/-- The effect of reading a root record at its home (R108, R126). -/
def rootTouch (s : State) (j : Job) (i : Nat) : State :=
  match translate s none j.vale j.vd (rootVa j i) 8 .load with
  | (s, .ok x) => (match x.target with
    | .mem k => (homeRead s (valeDie s j.vale) j.vale j.vd k 8 0 x.nc x.dev).1
    | _ => s)
  | (s, .error _) => s

/-- The tag of a read of a job's next root record in another package: before its gate is open, and after. -/
def rootTag (job : Nat) (opened : Bool) : Nat := 2 ^ 64 + 2 * job + bit1 opened

/-- Reads a job's next root record where it lies in another package, or asks for it (R154, R355): before its gate is open for the frontier
alone (R366), and once more after that for its admission. -/
def rootFetch (s : State) (job : Nat) (j : Job) (o : Ordered) (opened : Bool) : State :=
  let i := o.rootNext
  let known := o.rootSeen.any (fun x => if opened then decide (x.1 = 2 * i + 1) else decide (x.1 / 2 = i))
  let core := scalarCore s j.vale
  let tag := rootTag job opened
  let put (s : State) (x : Option DWord) : State :=
    (engForget s core tag).modJob job (fun j => { j with ord := j.ord.map (fun o => { o with rootSeen := some (2 * i + bit1 opened, x) }) })
  if known then s
  else match (translate s none j.vale j.vd (rootVa j i) 8 .load).2 with
    | .error _ => s
    | .ok x => match x.target with
      | .remote _ =>
        match targetRead s core tag j.vale j.vd x 8 with
        | (_, .wait ask) => engAsk s core tag j.vale j.vd (BitVec.ofNat 64 j.addr) ask
        | (s, .fault _) => put s none
        | (s, .ok (bs, bad)) => put s (if bad then none else some (BitVec.ofNat 64 (natLE bs)))
      | _ => s

/-- Admits the next root record once it is read (R353), or stops admission with a CARD record of severity 2 where it cannot be (R355). -/
def admitRoot (s : State) (job : Nat) (j : Job) (o : Ordered) : State :=
  match rootGot s j (o.rootSeen.filter (fun x => decide (x.1 % 2 = 1))) o.rootNext with
  | .later => s
  | .failed =>
    let s := s.modJob job (fun j => { j with ord := j.ord.map (fun o => { o with stuck := true }) })
    severity2 s j.vale j.vd (schedRec cCard 2 (some j.vale) (some j.vd) j.addr 6 0 j.queue j.number o.rootNext)
  | .value x =>
    let ts := if x.toNat < o.rootTs.toNat then o.rootTs else x
    let t := freshTask ts none (BitVec.ofNat 32 o.rootNext) (BitVec.ofNat 64 (card64 j.card 0x08)) []
    (addTask s job t).modJob job (fun j => { j with ord := j.ord.map (fun o =>
      { o with rootNext := o.rootNext + 1, rootTs := ts }) })

/-- TASK_ADMIT (R353, R355): the next root record of a job, when an entry is free and its gate is open. A record that
cannot be read stops admission with a CARD record of severity 2. -/
def execTaskAdmit (job glen : Nat) (s : State) : Host.Outcome State Fault Refusal :=
  .next (match Tbl.get s.jobs job with
    | none => s
    | some j =>
      match s.vale? j.vale, j.ord with
      | some v, some o =>
        if !(decide (v.first ≤ glen) && decide (glen < v.first + v.n)) || !vdIssues s j.vale j.vd || o.stuck ||
            decide (cardRecords j.card ≤ o.rootNext) || walkWaits s none j.vale j.vd (rootVa j o.rootNext) .load then s
        else
          let s := rootFetch s job j o false
          if !entryFree s j.vale || decide (2 ^ 32 - 1 ≤ o.seqNext) then s
          else match gateOpen s job o.rootNext with
            | (s, false) => s
            | (s, true) =>
              if rootWaits s j o.rootNext then s
              else
                let s := rootTouch (rootFetch s job j ((orderedOf s job).getD o) true) j o.rootNext
                admitRoot s job j ((orderedOf s job).getD o)
      | _, _ => s)

/-- Running or finished tasks whose read sets a glen's task unit holds (R356). -/
def readSets (s : State) (glen : Nat) : Nat :=
  s.jobs.foldl (fun n e => match e.2.ord with
    | none => n
    | some o => n + (o.tasks.filter (fun t => decide (glenOfCore t.2.core = glen) && decide (t.2.st ≠ .pending))).length) 0

/-- Whether a core can take a task of a job (R356): the card fits there, and its glen's read-set store has room. -/
def taskFits (s : State) (j : Job) (core : Nat) : Bool := fitsCore s core j.vale j.vd j.card && decide (readSets s (glenOfCore core) < 2048)

/-- The task that is aborted to make room for the frontier (R356): the latest that runs speculatively, or, where none runs, the
latest that has finished (log 107). -/
def roomVictim (o : Ordered) : Option Nat :=
  match latestTask (o.tasks.filter (fun e => !e.2.irrev && (match e.2.st with
    | .running _ => true
    | _ => false))) with
  | some x => some x
  | none => latestTask (o.tasks.filter (fun e => decide (e.2.st = .finished)))

/-- Whether the frontier of a job is saved: it is placed before any other task (R356, R370, R373). -/
def frontierSaved (o : Ordered) : Bool := o.tasks.any (fun e => match e.2.st with
  | .saved _ => true
  | _ => false)

/-- Aborts the task that makes room for the frontier (R356). -/
def makeRoom (s : State) (job : Nat) : State :=
  match (orderedOf s job).bind roomVictim with
  | some x => abortTask s job x
  | none => s

/-- TASK_PLACE (R356): the earliest pending task goes to the core, if it fits there; when it is the frontier and no core of the vale
can take it, another task is aborted first. A saved frontier comes before it. -/
def execTaskPlace (job core : Nat) (s : State) : Host.Outcome State Fault Refusal :=
  .next (match Tbl.get s.jobs job with
    | none => s
    | some j =>
      match s.vale? j.vale, j.ord with
      | some v, some o =>
        match earliestTask (o.tasks.filter (fun e => decide (e.2.st = .pending))) with
        | none => s
        | some q =>
          if !(coresOf v).contains core || !vdIssues s j.vale j.vd || frontierSaved o then s
          else
            let s := if isFrontier s job q && !(coresOf v).any (taskFits s j) then makeRoom s job else s
            match (orderedOf s job).bind (fun o => Tbl.get o.tasks q) with
            | none => s
            | some t =>
              if !taskFits s j core then s
              else
                let s := if t.root then gateAcquire s j [core] else s
                let (cl, s) := s.fresh
                let (b, s) := placeBlock s core job cl 0 t.record t.entry (some q)
                let s := { s with clusters := Tbl.set s.clusters cl { job := job, glen := glenOfCore core, members := [b], phase := [], arrived := [] } }
                s.modTask job q (fun t => { t with st := .running b, core := core, ways := specWays (s.core? core) j.card })
      | _, _ => s)

/-- Lets the waves of a task that wait for it to become irrevocable issue again. -/
def wakeTask (s : State) (job blk : Nat) : State :=
  { s with waves := Tbl.mapVals (fun _ w =>
      if w.kind = .ordinary && decide (w.job = job) && decide (w.blk = blk) && decide (w.wait = some .irrevocable) then
        { w with wait := none } else w) s.waves }

/-- Lets the stalled spawners of a job try again (R368). -/
def wakeSpawns (s : State) (job : Nat) : State :=
  { s with waves := Tbl.mapVals (fun _ w =>
      if w.job = job then (match w.wait with
        | some (.spawn _) => { w with wait := none }
        | _ => w) else w) s.waves }

/-- Commits a finished frontier task whose lines can be locked (R363): its group is performed and its entry freed. -/
def commitTask (s : State) (job q : Nat) : State :=
  wakeSpawns ((commitGroup s job q).modJob job (fun j => { j with ord := j.ord.map (fun o => { o with tasks := Tbl.erase o.tasks q }) })) job

/-- TASK_COMMIT (R363, R367 to R369): the frontier task commits when it has finished, and becomes irrevocable when it
waits for that or holds a deferred fault; a stopped VD commits nothing (R474). -/
def execTaskCommit (job : Nat) (s : State) : Host.Outcome State Fault Refusal :=
  .next (match orderedOf s job with
    | none => s
    | some o =>
      match earliestTask o.tasks with
      | none => s
      | some q =>
        match Tbl.get o.tasks q with
        | none => s
        | some t =>
          let stopped := match Tbl.get s.jobs job with
            | some j => !vdServed s j.vale j.vd
            | none => true
          if stopped || !isFrontier s job q || !lockReady s job q then s
          else if taskDone s t then commitTask s job q
          else match t.st with
            | .running b =>
              let waits := s.waves.any (fun e => decide (e.2.kind = .ordinary) && decide (e.2.blk = b) && decide (e.2.wait = some .irrevocable))
              if t.fault.isSome || waits then wakeTask (makeIrrevocable s job q) job b else wakeSpawns s job
            | _ => s)

end Sys2Proof.Machine
end

