-- ==== Sys2Proof/Machine/CopyEngine.lean ====
section
/-! DEFINITION. The copy engine of a core (R291 to R300, R155 to R157, R507 to R509, R516): what a command reads and
writes, its acceptance, its sectors, its failure and its retirement. -/
namespace Sys2Proof.Machine

/-! ## What engines read and write -/

/-- Reads n bytes at a stash address of a block for a command (R101, R102), which waits for lines that others hold (R156); a row whose line has left the vale
faults as the line would (R32). -/
def engStash (s : State) (id blk va n : Nat) : State × Got (List Byte × Bool) :=
  match stashTarget s blk va n with
  | none => (s, .fault ⟨cAsync, 4, BitVec.ofNat 64 va⟩)
  | some (b, off) =>
    match rowGone s b off n with
    | some f => (s, .fault f)
    | none =>
      if fillWaits s b off n (fun l => lineHeldFrom s id l false) then (s, .wait none)
      else
        let (s, bs, bad) := readStash s b off n
        (s, .ok (bs, bad))

/-- Writes bytes at a stash address of a command's block; poisoned data poisons the words it covers (R514). -/
def engPutStash (s : State) (core id : Nat) (c : Cmd) (va : Nat) (bs : List Byte) (bad : Bool) : State × Got Unit :=
  match stashTarget s c.blk va bs.length with
  | none => (s, .fault ⟨cAsync, 4, BitVec.ofNat 64 va⟩)
  | some (b, off) =>
    match rowGone s b off bs.length with
    | some f => (s, .fault f)
    | none =>
      if fillWaits s b off bs.length (fun l => lineHeldFrom s id l false) then (s, .wait none)
      else
        let s := putStashFor s c.blk core c.vale c.vd b off bs
        let s := if bad then s.modBlock b (fun x => { x with stashPoison := (unitsOf 4 off bs.length).foldl (fun p k => insertNat k p) x.stashPoison }) else s
        (s, .ok ())

/-- Whether a command is the encoder lane's, which its job does not wait for (R52). -/
def Cmd.encodes (c : Cmd) : Bool := decide (c.kind = .encopen) || decide (c.kind = .encpost) || decide (c.kind = .encclose)

/-- An access of an engine that goes out as a posted request or an update (R153, R155). -/
def engAccess (core : Nat) (c : Cmd) (t : Target) (va : Nat) (ipa : Option Nat) (op : AccOp) : Access :=
  { wave := 0, blk := c.blk, job := if c.encodes then 0 else c.job, vale := c.vale, vd := c.vd, core := core, pos := ⟨c.pc, none⟩, lane := c.lane, target := t,
    va := BitVec.ofNat 64 va, op := op, ord := 3, scope := c.scope, ipa := ipa, lg := 16, nc := false, dev := false, hint := 0, isCnt := false
    sent := false }

/-- A command's access that is under way, of a copy engine or an encoder lane: what it writes is written once it is performed (R154, R155,
R304). -/
def engSend (s : State) (core id : Nat) (a : Access) (f : State → Nat → State) : State :=
  let (k, s) := s.fresh
  let s := f { s with inflight := Tbl.set s.inflight k a } k
  let note (t : Tbl Cmd) : Tbl Cmd := Tbl.modify t id (fun y => { y with posted := y.posted ++ [k] })
  (s.modCore core (fun x => { x with cmds := note x.cmds })).modGlen (glenOfCore core) (fun x => { x with encq := note x.encq })

/-- Sends a posted request of a command to another package (R154), whose page is dirty from now on (R436). -/
def engPost (s : State) (core id : Nat) (c : Cmd) (pa va ipa : Nat) (op : AccOp) : State :=
  engSend (markDirty s c.vale c.vd (some ipa)) core id { engAccess core c (.remote pa) va (some ipa) op with sent := true }
    (fun s k => sendRequest s (dieOfCore core) c.vale c.vd c.pc pa (some k) none)

/-- Performs an engine's write at its home, or sends it across the saddles (R149 to R151); the L1 of its core follows a store (R112). A
poisoned store poisons the sector it reaches (R514). -/
def engPut (s : State) (core id : Nat) (c : Cmd) (ord : BitVec 3) (va k : Nat) (x : Xlat) (op : AccOp) : State :=
  let a : Access := { engAccess core c (.mem k) va (some x.ipa) op with ord := ord, lg := x.lg, nc := x.nc, dev := x.dev }
  if dieOfKey k = dieOfCore core then performMem s a k
  else
    let s := engSend s core id a (fun s i => sendUpdate s i a k)
    match op with
    | .store bs => l1Store s core c.vale c.vd k bs
    | _ => s

/-- Writes up to 32 bytes in one 32-byte sector at a global address for a command; an add that finds poison there consumes it (R516). A
release at VALE scope on its own die waits for the die's updates (R144). A write of the control window is performed by ACCESS_PERFORMED
(R97). -/
def engWrite (s : State) (core id : Nat) (c : Cmd) (ord : BitVec 3) (va n : Nat) (op : AccOp) : State × Got Unit :=
  if walkWaits s (some core) c.vale c.vd va .store then (s, .wait none)
  else match translate s (some core) c.vale c.vd va n (if op.isAtomic then .atomic else .store) with
  | (s, .error e) => (s, .fault e)
  | (s, .ok x) =>
    match x.target with
    | .mem k =>
      let line := k / 128
      if lineHeldFrom s id line true || routeStalled s (dieOfCore core) (dieOfKey k) || lineLocked s line || recallWaits s line noRow noRow ||
          undoWaits s c.vale c.vd k n || (decide (dieOfKey k ≠ dieOfCore core) && updatesFull s (dieOfCore core)) ||
          (isRel ord && decide (dieOfKey k = dieOfCore core) && updatesPending s (dieOfCore core)) then (s, .wait none)
      else if op.isAtomic && memPoisoned s k n then (s, .fault ⟨cPoison, 0, BitVec.ofNat 64 va⟩)
      else (engPut s core id c ord va k x op, .ok ())
    | .remote pa => if farBusy s pa then (recallLine s (farKey pa / 128) noRow noRow, .wait none) else (engPost s core id c pa va x.ipa op, .ok ())
    | .post o =>
      let r := postBytes s c.vale o n
      (postStore r.1 c.vale (postWordOf o) (BitVec.ofNat 64 (natLE (accApply op r.2))), .ok ())
    | .control _ =>
      (engSend s core id { engAccess core c x.target va (some x.ipa) op with ord := ord, lg := x.lg, dev := x.dev } (fun s _ => s), .ok ())
    | _ => (s, .ok ())

/-! ## Commands -/

/-- Whether a command's destination, or its source, is stash (R292, R293, R296, R298). -/
def dstStash (c : Cmd) : Bool :=
  match c.kind with
  | .cpy => decide (c.sub = 0) || decide (c.sub = 3)
  | .ccopy => decide (c.sub = 0) || decide (c.sub = 3)
  | .tcopy => true
  | .tgather => true
  | _ => false

/-- Whether a CPY or CCOPY reads stash. -/
def srcStash (c : Cmd) : Bool := decide (c.sub = 1) || decide (c.sub = 3)

/-- A pair of a command's A group. -/
def Cmd.pairA (c : Cmd) (j : Nat) : Nat := (dwordAt c.a j).toNat

/-- The destination of a CPY or CCOPY: an address, or a stash address in the pair's low register (R290). -/
def Cmd.dst (c : Cmd) : Nat := if dstStash c then (wordAt c.a 0).toNat else c.pairA 0

/-- The source of a CPY or CCOPY. -/
def Cmd.src (c : Cmd) : Nat := if srcStash c then (wordAt c.a 2).toNat else c.pairA 2

/-- The length of a CPY or CCOPY. -/
def Cmd.len (c : Cmd) : Nat := (wordAt c.b 0).toNat

/-- Element size of a reduce kind, 0 for a plain copy (R292). -/
def reduceSize (c : Cmd) : Nat :=
  match c.kind with
  | .cpy => if c.sub = 4 then 4 else if c.sub = 5 then 2 else 0
  | _ => 0

/-- Coordinate d of a TCOPY, TSTORE or, with the K origin, a TGATHER, for vector v and element k (R296, R298). -/
def coordAt (c : Cmd) (l : Layout) (v k d : Nat) : Int :=
  match c.kind with
  | .tgather =>
    if d = l.vdim then (BitVec.ofNat 32 (natLE ((c.mask.drop (4 * v)).take 4))).toInt else (wordAt c.b 1).toInt + (k : Int)
  | _ =>
    if l.ndim = 1 then (wordAt c.b 0).toInt + (k : Int)
    else (wordAt c.b d).toInt + (if d = l.vdim then (v : Int) else 0) + (if d = l.kdim then (k : Int) else 0)

/-- Whether element (v, k) of a command's box is in range (R295, R296). -/
def boxInRange (c : Cmd) (l : Layout) (v k : Nat) : Bool :=
  !(decide (l.ndim = 1) && decide (0 < v)) && inRange c.layout l (coordAt c l v k)

/-- Rows of a TSTORE's box (R299). -/
def boxRows (c : Cmd) : Nat := (wordAt c.a 3).toNat % 128 + 1

/-- Columns of a TSTORE's box (R299). -/
def boxCols (c : Cmd) : Nat := bitsOf (wordAt c.a 3).toNat 23 8

/-- Bytes from one row of a TSTORE's source to the next (R299). -/
def boxPitch (c : Cmd) (l : Layout) : Nat := ceilDiv (boxCols c * (elemBits l.format / 8)) 16 * 16

/-- The bytes a TSTORE writes in row r: global address and stash address of each (R299). -/
def boxBytes (c : Cmd) (l : Layout) (r : Nat) : List (Nat × Nat) :=
  let sz := elemBits l.format / 8
  (natsFrom 0 (boxCols c)).flatMap (fun j =>
    if boxInRange c l r j then
      (natsFrom 0 sz).map (fun i => ((elemAddr c.layout l (coordAt c l r j) + i) % 2 ^ 64, (wordAt c.a 2).toNat + r * boxPitch c l + j * sz + i))
    else [])

/-- A TSTORE's sectors in the order written, row by row and ascending in each, with their bytes. -/
def boxPieces (c : Cmd) (l : Layout) : List (Nat × List (Nat × Nat)) :=
  (natsFrom 0 (boxRows c)).flatMap (fun r =>
    let bs := boxBytes c l r
    (bs.foldl (fun ss b => insertNat (b.1 / 32) ss) []).map (fun q => (q, bs.filter (fun b => decide (b.1 / 32 = q)))))

/-- Whether sector i of a CCOPY is selected (R293). -/
def maskBit (c : Cmd) (i : Nat) : Bool := (c.mask.getD (i / 8) 0).getLsbD (i % 8)

/-- The selected sectors of a CCOPY (R293). -/
def chosenSectors (c : Cmd) : List Nat := (natsFrom 0 (c.len / 32)).filter (maskBit c)

/-- The j-th sector a CPY or CCOPY writes: destination, source and length (R292, R293). -/
def sectorOf (c : Cmd) (j : Nat) : Nat × Nat × Nat :=
  match c.kind with
  | .ccopy =>
    let i := (chosenSectors c).getD j 0
    (c.dst + 32 * i, c.src + 32 * i, 32)
  | _ =>
    let lo := 32 * (c.dst / 32 + j)
    let a := max c.dst lo
    let z := min (c.dst + c.len) (lo + 32)
    (a, c.src + (a - c.dst), z - a)

/-- Sectors a command writes (R292, R293, R297, R299). -/
def totalOf (c : Cmd) : Nat :=
  let l := layoutOf c.layout
  match c.kind with
  | .cpy => ceilDiv (c.dst + c.len) 32 - c.dst / 32
  | .ccopy => (chosenSectors c).length
  | .tcopy => slabSize l.format l.planes l.bitmap l.scales / 32
  | .tgather => slabSize l.format l.planes l.bitmap l.scales / 32
  | .tstore => (boxPieces c l).length
  | _ => 0

/-! ## Content -/

/-- A layout record's faults that hold whatever the opcode (R294, R509). A KDIM or VDIM at or beyond NDIM counts as reason 5 (DESIGN CHOICE,
log 129). -/
def layoutBad (ws : List Word) (store : Bool) : Option Nat :=
  let l := layoutOf ws
  let w (j : Nat) : Nat := (wordAt ws j).toNat
  if w 0 % 65536 ≠ 1 || decide (w 0 / 2 ^ 30 ≠ 0) || decide (w 1 / 2 ^ 9 ≠ 0) || decide (w 11 ≠ 0) || decide (w 20 ≠ 0) || decide (w 21 ≠ 0) ||
      decide (9 < l.format) || decide (l.ndim = 0) || decide (5 < l.ndim) || (!store && decide (l.planes = 0)) then some 1
  else if l.ndim ≤ l.kdim || decide (l.ndim ≤ l.vdim) || (decide (l.kdim = l.vdim) && decide (1 < l.ndim)) ||
      (natsFrom 0 l.ndim).any (fun d => decide (laySize ws d = 0)) ||
      (!store && (decide (fullPlanes l.format < l.planes) || (l.scales && !isFp8 l.format))) then some 5
  else none

/-- The content fault of a command, by reason (R509), or none. -/
def contentBad (s : State) (c : Cmd) : Option Nat :=
  let l := layoutOf c.layout
  let room (va n : Nat) : Bool := (stashTarget s c.blk va n).isSome
  match c.kind with
  | .cpy =>
    if c.len < 16 || decide (2 ^ 24 < c.len) then some 2
    else if c.len % 16 ≠ 0 || decide (c.dst % 16 ≠ 0) || decide (c.src % 16 ≠ 0) then some 3
    else if dstStash c && (decide (wordAt c.a 1 ≠ 0) || !room c.dst c.len) then some 4
    else if srcStash c && (decide (wordAt c.a 3 ≠ 0) || !room c.src c.len) then some 4
    else none
  | .ccopy =>
    if 2 ^ 21 < c.len then some 2
    else if c.len % 32 ≠ 0 || decide (c.dst % 32 ≠ 0) || decide (c.src % 32 ≠ 0) then some 3
    else if dstStash c && (decide (wordAt c.a 1 ≠ 0) || !room c.dst c.len) then some 4
    else if srcStash c && (decide (wordAt c.a 3 ≠ 0) || !room c.src c.len) then some 4
    else none
  | .tcopy | .tgather =>
    if c.pairA 0 % 128 ≠ 0 then some 3
    else match layoutBad c.layout false with
      | some r => some r
      | none =>
        let slab := (wordAt c.a 2).toNat
        let gather := decide (c.kind = .tgather)
        let k0 : Int := if gather then (wordAt c.b 1).toInt else (wordAt c.b l.kdim).toInt
        if 7 < l.format || (gather && decide (l.ndim ≠ 2)) || (decide (blockLen l ≠ 0) && decide (k0 % (blockLen l : Int) ≠ 0)) then some 5
        else if slab % 128 ≠ 0 || (gather && decide ((wordAt c.b 0).toNat % 4 ≠ 0)) then some 3
        else if !room slab (32 * c.total) || (gather && !room (wordAt c.b 0).toNat 512) then some 4
        else none
  | .tstore =>
    if c.pairA 0 % 128 ≠ 0 then some 3
    else match layoutBad c.layout true with
      | some r => some r
      | none =>
        let box := (wordAt c.a 3).toNat
        let at_ := (wordAt c.a 2).toNat
        if l.format = 0 || decide (l.format = 6) || decide (l.format = 7) then some 5
        else if bitOf box 7 || decide (box / 2 ^ 24 ≠ 0) || decide (boxCols c = 0) then some 2
        else if at_ % 16 ≠ 0 then some 3
        else if !room at_ (boxRows c * boxPitch c l) then some 4
        else none
  | .codewr => if c.pairA 0 % 32 ≠ 0 then some 3 else none
  | _ => none

/-! ## Failure and removal -/

/-- Changes a command. -/
def modCmd (s : State) (core id : Nat) (f : Cmd → Cmd) : State :=
  s.modCore core (fun x => { x with cmds := Tbl.modify x.cmds id f })

/-- Removes a command: its held lines are released and its scoreboard entries removed. -/
def dropCmd (s : State) (core id : Nat) : State :=
  let s := (engForget s core id).modCore core (fun x => { x with cmds := Tbl.erase x.cmds id })
  { s with cores := Tbl.mapVals (fun _ x =>
      if x.sb.any (fun e => decide (e.cmd = id)) then { x with sb := x.sb.filter (fun e => decide (e.cmd ≠ id)) } else x) s.cores }

/-- The record of a command that fails (R507). -/
def cmdRec (c : Cmd) (unit : Nat) (f : AddrFault) : ErrRec :=
  { ErrRec.blank f.cause 1 (some c.vale) (some c.vd) with
    core := c.core, pc := c.pc.toNat, addr := if f.cause = cAsync then 0 else f.addr.toNat, lanes := 2 ^ (c.lane % 16), slot := c.slot,
    unit := unit, detail := trapDetail 0 0 0 f.reason 0 }

/-- Breaks the barrier a command would have counted on (R508). -/
def breakFor (s : State) (c : Cmd) : State :=
  match c.bar with
  | some n => if (Tbl.get s.blocks c.blk).isSome then breakBarrier s c.blk n else s
  | none => s

/-- Halts a block's copy queue after a failed command (R508): the commands accepted after it are discarded, the barriers
concerned break, and the members of its team lose VALID. -/
def haltCopies (s : State) (core id : Nat) (c : Cmd) : State :=
  match Tbl.get s.blocks c.blk with
  | none => s
  | some b =>
    let later := (s.core? core).cmds.filter (fun e => decide (e.2.blk = c.blk) && decide (id < e.1))
    let s := later.foldl (fun s e => breakFor (dropCmd s core e.1) e.2) (breakFor s c)
    let s := s.modBlock c.blk (fun b => { b with copyHalted := true })
    let es := (b.seqCtx.bind (fun x => x.team)).elim [] (fun t => t.engines)
    es.foldl (fun s e => s.modCore e (fun x => { x with engine := { x.engine with valid := false } })) s

/-- A command fails (R507, R516): a record of severity 1, or for poison what R515 and R535 say. -/
def failCmd (s : State) (core id : Nat) (c : Cmd) (f : AddrFault) : State :=
  let s := haltCopies (dropCmd s core id) core id c
  let r := cmdRec c 3 f
  if f.cause = cPoison then severity2 s c.vale c.vd { r with sev := 2 } else record s r

/-! ## Acceptance -/

/-- Whether a lane's earlier accesses have been performed (R155, R291). -/
def laneClear (s : State) (w : Nat) (wv : Wave) (upTo lane : Nat) : Bool :=
  let mine (l : Nat) : Bool := decide (16 ≤ lane) || decide (16 ≤ l) || decide (l = lane)
  !s.inflight.any (fun e => decide (e.2.wave = w) && decide (e.1 < upTo) && mine e.2.lane) &&
    !wv.outst.any (fun o => decide (o.id < upTo) && match o.op with
      | .load op => op.lanes.any (fun r => mine r.lane)
      | .mxrd r => r.sel.any (fun p => mine p.1)
      | .fence _ _ _ _ => true
      | .cmds _ => true
      | _ => false)

/-- The lines a command's destination holds (R156): of the translations it finds at acceptance. -/
def destLines (s : State) (core : Nat) (c : Cmd) : List Nat :=
  if dstStash c then []
  else
    let l := layoutOf c.layout
    let vas : List Nat := match c.kind with
      | .cpy => (unitsOf 128 c.dst c.len).map (fun j => 128 * j)
      | .ccopy => (chosenSectors c).foldl (fun ls i => insertNat ((c.dst + 32 * i) / 128 * 128) ls) []
      | .tstore => (boxPieces c l).foldl (fun ls p => insertNat (p.1 / 4 * 128) ls) []
      | _ => []
    vas.foldl (fun ks va => match (translate s (some core) c.vale c.vd va 16 .store).2 with
      | .ok x => (match x.target with
        | .mem k => insertNat (k / 128) ks
        | _ => ks)
      | .error _ => ks) []

/-- The stash range a command writes (R109): its first byte and length. -/
def destRange (c : Cmd) : Nat × Nat :=
  match c.kind with
  | .cpy => (c.dst, c.len)
  | .ccopy =>
    match chosenSectors c with
    | [] => (c.dst, 0)
    | i :: t => (c.dst + 32 * i, 32 * ((i :: t).getLast (List.cons_ne_nil i t) + 1 - i))
  | _ => ((wordAt c.a 2).toNat, 32 * c.total)

/-- The scoreboard entry of a command, with the core that holds the destination (R109). -/
def sbEntryOf (s : State) (id : Nat) (c : Cmd) : Option (Nat × SbEntry) :=
  let r := destRange c
  if !dstStash c || decide (r.2 = 0) then none
  else match stashTarget s c.blk r.1 r.2 with
    | none => none
    | some (b, off) =>
      (Tbl.get s.blocks b).map (fun x => (x.core, ⟨id, b, off / 128 * 128, ceilDiv (off + r.2) 128 * 128⟩))

/-- Reads what a command reads as part of its acceptance (R293, R296): a layout record, whose poison goes on into all that the command writes,
or a mask, whose poison it consumes (R516). -/
def readContent (s : State) (core : Nat) (c : Cmd) : State × Got Cmd :=
  let rec_ (n va : Nat) (put : Cmd → List Byte → Cmd) (eat : Bool) : State × Got Cmd :=
    match engRead s core c.wave c.vale c.vd va n with
    | (s, .ok (bs, bad)) => (s, .ok (if bad && eat then { c with pre := some (cPoison, 0, va) } else { put c bs with badRec := bad }))
    | (s, .fault f) => (s, .ok { c with pre := some (f.cause, f.reason, f.addr.toNat) })
    | (s, .wait ask) => (s, .wait ask)
  match c.kind with
  | .tcopy | .tgather | .tstore =>
    if c.pairA 0 % 128 ≠ 0 then (s, .ok { c with pre := some (cAsync, 3, 0) })
    else rec_ 128 (c.pairA 0) (fun c bs => { c with layout := wordsOfBytes bs }) false
  | .ccopy =>
    if 2 ^ 21 < c.len || decide (c.len % 32 ≠ 0) then (s, .ok c)
    else rec_ (ceilDiv c.len 256) (c.pairA 4) (fun c bs => { c with mask := bs }) true
  | _ => (s, .ok c)

/-- The bank a TCOPY or TGATHER accepted now binds to (R94): the current one after every CODESWAP accepted before. -/
def boundBank (c : Core) : Nat :=
  let swaps := (c.cmds.filter (fun e => decide (e.2.kind = .codeswap))).length
  bit1 (c.current != decide (swaps % 2 = 1))

/-- Takes a command into a core's queue (R291): whether it is accepted, or discarded (R508). Mapped rows give up the lines it is to hold
(R108, R156). Where it must wait for an answer from another
package, the read is sent. -/
def acceptCopy (s : State) (core : Nat) (c : Cmd) : State × Bool :=
  if 64 ≤ (s.core? core).cmds.length then (s, false)
  else if ((Tbl.get s.blocks c.blk).map (fun b => b.copyHalted)).getD false then (breakFor s c, true)
  else match readContent s core c with
    | (_, .wait ask) => (engAsk s core c.wave c.vale c.vd c.pc ask, false)
    | (_, .fault _) => (s, false)
    | (u, .ok c) =>
      let (id, u) := (engForget u core c.wave).fresh
      let c := { c with bank := some (boundBank (u.core? core)), accepted := u.tod.toNat }
      let c := { c with total := if c.pre.isSome then 0 else totalOf c }
      let ok := c.pre.isNone && (contentBad u c).isNone
      let lines := if ok then destLines u core c else []
      let c := { c with held := lines }
      if lines.any (fun j => recallWaits u j noRow noRow) then (s, false)
      else
      let u := lines.foldl (fun u j => recallLine u j noRow noRow) u
      match if ok then sbEntryOf u id c else none with
      | some (k, e) =>
        if 32 ≤ (u.core? k).sb.length then (s, false)
        else ((u.modCore k (fun x => { x with sb := x.sb ++ [e] })).modCore core (fun x => { x with cmds := Tbl.set x.cmds id c }), true)
      | none => (u.modCore core (fun x => { x with cmds := Tbl.set x.cmds id c }), true)

/-! ## Sectors -/

/-- A code-table entry as a command of a VD reads it through a bank (R93, R95). -/
def tableEntry (x : Core) (c : Cmd) (code : Nat) : Nat :=
  let b := if c.bank = some 1 then x.bank1 else x.bank0
  match b.owner with
  | some (v, d, g) =>
    if v = c.vale && decide (d = c.vd) && decide (g = (Tbl.get x.gen (vdKey v d)).getD 0) then (b.entries.getD code 0).toNat else 0
  | none => 0

/-- Element (v, k) of a command's slab, expanded (R296, R298), and whether its source, or the index that names it, is poisoned (R516). -/
def elemAt (s : State) (core id : Nat) (c : Cmd) (l : Layout) (v k : Nat) : State × Got (Expanded × Bool) :=
  if c.badIdx.contains v then (s, .ok (Expanded.zero, true))
  else if !boxInRange c l v k then (s, .ok (Expanded.zero, false))
  else
    let x := coordAt c l v k
    let bits := elemBits l.format
    match engRead s core id c.vale c.vd (elemAddr c.layout l x) (max 1 (bits / 8)) with
    | (s, .ok (bs, bad)) =>
      let raw := natLE bs
      let code := if bits = 4 then raw / 2 ^ (4 * ((x 0).toNat % 2)) % 16 else raw
      let code := if l.format = 7 then tableEntry (s.core? core) c code else code
      (s, .ok (expand l.format l.planes code, bad))
    | (s, .fault f) => (s, .fault f)
    | (s, .wait k) => (s, .wait k)

/-- A byte of a command's slab at offset o (R85, R296), and whether its sources are poisoned. -/
def slabByte (s : State) (core id : Nat) (c : Cmd) (l : Layout) (o : Nat) : State × Got (Byte × Bool) :=
  match slabPart l o with
  | .exp v k =>
    match elemAt s core id c l v k with
    | (s, .ok (e, bad)) => (s, .ok (BitVec.ofNat 8 e.exp, bad))
    | (s, .fault f) => (s, .fault f)
    | (s, .wait k) => (s, .wait k)
  | .bits v k f =>
    (natsFrom 0 8).foldl (fun (a : State × Got (Byte × Bool)) i =>
      match a.2 with
      | .ok (b, bad) =>
        match elemAt a.1 core id c l v (k + i) with
        | (s, .ok (e, p)) => (s, .ok (if f e then b ||| BitVec.ofNat 8 (2 ^ i) else b, bad || p))
        | (s, .fault f) => (s, .fault f)
        | (s, .wait k) => (s, .wait k)
      | _ => a) (s, .ok (0, false))
  | .scale v b =>
    let k := b * blockLen l
    if c.badIdx.contains v then (s, .ok (0, true))
    else if !boxInRange c l v k then (s, .ok (0, false))
    else match engRead s core id c.vale c.vd (scaleAddr c.layout l (coordAt c l v k)) 1 with
      | (s, .ok (bs, bad)) => (s, .ok (bs.headD 0, bad))
      | (s, .fault f) => (s, .fault f)
      | (s, .wait k) => (s, .wait k)

/-- The j-th sector of a command's slab. -/
def slabSector (s : State) (core id : Nat) (c : Cmd) (l : Layout) (j : Nat) : State × Got (List Byte × List Bool) :=
  (natsFrom (32 * j) 32).foldl (fun (a : State × Got (List Byte × List Bool)) o =>
    match a.2 with
    | .ok (bs, bad) =>
      match slabByte a.1 core id c l o with
      | (s, .ok (b, p)) => (s, .ok (bs ++ [b], bad ++ [p || c.badRec]))
      | (s, .fault f) => (s, .fault f)
      | (s, .wait k) => (s, .wait k)
    | _ => a) (s, .ok ([], []))

/-- Writes the next sector of a CPY or CCOPY (R292, R293, R516). -/
def copySector (s : State) (core id : Nat) (c : Cmd) : State × Got Unit :=
  let (d, x, n) := sectorOf c c.done
  let r := if srcStash c then engStash s id c.blk x n else engRead s core id c.vale c.vd x n
  match r with
  | (s, .fault f) => (s, .fault f)
  | (s, .wait k) => (s, .wait k)
  | (s, .ok (bs, bad)) =>
    if dstStash c then engPutStash s core id c d bs bad
    else
      let z := reduceSize c
      if z = 0 then engWrite s core id c 0 d n (if bad then .bad bs else .store bs)
      else if bad then (s, .fault ⟨cPoison, 0, BitVec.ofNat 64 x⟩)
      else engWrite s core id c 0 d n (.reduce z bs)

/-- The runs of bytes of a TSTORE's sector that lie together in memory and in stash, first byte of each and length (R136). -/
def boxRuns : List (Nat × Nat) → List (Nat × Nat × Nat)
  | [] => []
  | b :: t => match boxRuns t with
    | (g, x, n) :: rest => if b.1 + 1 = g && decide (b.2 + 1 = x) then (b.1, b.2, n + 1) :: rest else (b.1, b.2, 1) :: (g, x, n) :: rest
    | [] => [(b.1, b.2, 1)]

/-- Writes the next sector of a TSTORE (R299), run by run. -/
def storeSector (s : State) (core id : Nat) (c : Cmd) : State × Got Unit :=
  match (boxPieces c (layoutOf c.layout))[c.done]? with
  | none => (s, .ok ())
  | some p =>
    (boxRuns p.2).foldl (fun (a : State × Got Unit) b =>
      match a.2 with
      | .ok _ =>
        match engStash a.1 id c.blk b.2.1 b.2.2 with
        | (s, .ok (bs, bad)) => engWrite s core id c 0 b.1 b.2.2 (if bad || c.badRec then .bad bs else .store bs)
        | (s, .fault f) => (s, .fault f)
        | (s, .wait k) => (s, .wait k)
      | _ => a) (s, .ok ())

/-- Writes the next sector of a TCOPY or TGATHER (R296, R298). -/
def expandSector (s : State) (core id : Nat) (c : Cmd) : State × Got Unit :=
  match slabSector s core id c (layoutOf c.layout) c.done with
  | (s, .fault f) => (s, .fault f)
  | (s, .wait k) => (s, .wait k)
  | (s, .ok (bs, bad)) =>
    let at_ := (wordAt c.a 2).toNat + 32 * c.done
    (natsFrom 0 8).foldl (fun (a : State × Got Unit) j =>
      match a.2 with
      | .ok _ => engPutStash a.1 core id c (at_ + 4 * j) ((bs.drop (4 * j)).take 4) (((bad.drop (4 * j)).take 4).contains true)
      | _ => a) (s, .ok ())

/-- The virtual line of a command's j-th sector. -/
def lineOfPiece (c : Cmd) (j : Nat) : Nat :=
  match c.kind with
  | .tstore => ((boxPieces c (layoutOf c.layout)).getD j (0, [])).1 / 4
  | _ => (sectorOf c j).1 / 128

/-- Whether the sector just written is the last of its line, and of itself: TSTORE rows may share one (R299). -/
def lastTouch (c : Cmd) (j : Nat) : Bool × Bool :=
  match c.kind with
  | .tstore =>
    let rest := (boxPieces c (layoutOf c.layout)).drop (j + 1)
    let q := ((boxPieces c (layoutOf c.layout)).getD j (0, [])).1
    (rest.all (fun p => decide (p.1 / 4 ≠ q / 4)), rest.all (fun p => decide (p.1 ≠ q)))
  | _ => (decide (j + 1 = c.total) || decide (lineOfPiece c (j + 1) ≠ lineOfPiece c j), true)

/-- A sector has been written (R156, R157): its line is released with its last sector, and it counts. -/
def sectorDone (s : State) (core id : Nat) (c : Cmd) : State :=
  let t := lastTouch c c.done
  let s := if t.1 && !dstStash c then
      (match (translate s (some core) c.vale c.vd (128 * lineOfPiece c c.done) 16 .store).2 with
        | .ok x => (match x.target with
          | .mem k => modCmd s core id (fun y => { y with held := removeNat (k / 128) y.held })
          | _ => s)
        | .error _ => s)
    else s
  let s := modCmd (engForget s core id) core id (fun y => { y with done := y.done + 1, posted := [] })
  match c.bar with
  | some n => if t.2 && (Tbl.get s.blocks c.blk).isSome then countSector s c.blk n else s
  | none => s

/-- The fault a command meets before its first write: at its acceptance, or in its content (R507). -/
def startFault (s : State) (c : Cmd) : Option AddrFault :=
  if c.done ≠ 0 then none
  else match c.pre with
    | some (k, r, a) => some ⟨k, r, BitVec.ofNat 64 a⟩
    | none => (contentBad s c).map (fun r => ⟨cAsync, r, 0⟩)

/-- Whether a TCOPY or TGATHER must wait for a CODEWR accepted before it (R94). -/
def tableWaits (x : Core) (id : Nat) (c : Cmd) : Bool :=
  (decide (c.kind = .tcopy) || decide (c.kind = .tgather)) && x.cmds.any (fun e => decide (e.2.kind = .codewr) && decide (e.1 < id))

/-- The index list of a TGATHER, read once, when the command starts, with the indices that are poisoned (R298). -/
def loadIndices (s : State) (core id : Nat) (c : Cmd) : State × Got Cmd :=
  if c.kind = .tgather && decide (c.mask = []) then
    (natsFrom 0 128).foldl (fun (a : State × Got Cmd) v =>
      match a.2 with
      | .ok c =>
        match engStash a.1 id c.blk ((wordAt c.b 0).toNat + 4 * v) 4 with
        | (s, .ok (bs, bad)) =>
          let put (y : Cmd) : Cmd := { y with mask := y.mask ++ bs, badIdx := if bad then y.badIdx ++ [v] else y.badIdx }
          (modCmd s core id put, .ok (put c))
        | (s, .fault f) => (s, .fault f)
        | (s, .wait k) => (s, .wait k)
      | _ => a) (s, .ok c)
  else (s, .ok c)

/-- COPY_SECTOR_WRITTEN (R157, R507): the next sector of a command, or its failure; where it must wait for an answer from another package,
the read is sent. -/
def execCopySectorWritten (core cmd : Nat) (s : State) : Host.Outcome State Fault Refusal :=
  .next (match Tbl.get (s.core? core).cmds cmd with
    | none => s
    | some c =>
      match startFault s c with
      | some f => failCmd s core cmd c f
      | none =>
        if s.halted || decide (c.total ≤ c.done) || tableWaits (s.core? core) cmd c then s
        else if c.posted ≠ [] then (if c.posted.any (fun k => (Tbl.get s.inflight k).isSome) then s else sectorDone s core cmd c)
        else match loadIndices s core cmd c with
          | (_, .wait _) => s
          | (s, .fault f) => failCmd s core cmd c f
          | (s, .ok c) =>
            let r := match c.kind with
              | .cpy | .ccopy => copySector s core cmd c
              | .tstore => storeSector s core cmd c
              | _ => expandSector s core cmd c
            match r with
            | (_, .wait ask) => engAsk s core cmd c.vale c.vd c.pc ask
            | (s, .fault f) => failCmd s core cmd c f
            | (s, .ok _) => if (((Tbl.get (s.core? core).cmds cmd).map (fun y => y.posted)).getD []) = [] then sectorDone s core cmd c else s)

/-! ## Retirement -/

/-- The counter add of a command (R291): a release at its scope, in flight from the engine's core. -/
def counterAdd (s : State) (core : Nat) (c : Cmd) (x : Xlat) (addr : DWord) : State :=
  issueAccess s { engAccess core c x.target addr.toNat (some x.ipa) (.add (BitVec.ofNat 64 c.inc)) with lg := x.lg, nc := x.nc, dev := x.dev }

/-- Retires a command that has written everything, with its counter add (R291). -/
def retireCmd (s : State) (core id : Nat) (c : Cmd) : State :=
  match c.ctr with
  | none => dropCmd s core id
  | some a =>
    if a.toNat % 8 ≠ 0 then failCmd s core id c ⟨cAlign, 0, a⟩
    else if walkWaits s (some core) c.vale c.vd a.toNat .atomic then s
    else match translate s (some core) c.vale c.vd a.toNat 8 .atomic with
      | (s, .error f) => failCmd s core id c f
      | (s, .ok x) => counterAdd (dropCmd s core id) core c x a

/-- Writes a code-table bank from a CODEWR's bytes (R95, R300). -/
def putBank (s : State) (core : Nat) (c : Cmd) (bs : List Byte) : State :=
  s.modCore core (fun x =>
    let b : Bank := { entries := (natsFrom 0 16).map (fun j => BitVec.ofNat 16 (natLE ((bs.drop (2 * j)).take 2))),
                      owner := some (c.vale, c.vd, (Tbl.get x.gen (vdKey c.vale c.vd)).getD 0) }
    if x.current then { x with bank0 := b } else { x with bank1 := b })

/-- Retires the command of a copy engine (R291, R94, R157). -/
def retireCopy (s : State) (core id : Nat) : State :=
  match Tbl.get (s.core? core).cmds id with
  | none => s
  | some c =>
    let x := s.core? core
    let before (p : Cmd → Bool) : Bool := x.cmds.any (fun e => decide (e.1 < id) && p e.2)
    let code (y : Cmd) : Bool := decide (y.kind = .codewr) || decide (y.kind = .codeswap)
    let target := bit1 (!x.current)
    match startFault s c with
    | some f => failCmd s core id c f
    | none =>
      if c.done < c.total || c.posted ≠ [] || (c.ordered && before (fun y => y.ordered && decide (y.wave = c.wave))) then s
      else match c.kind with
        | .codeswap => if before code then s else retireCmd (s.modCore core (fun x => { x with current := !x.current, chooser := some (c.vale, c.vd) })) core id c
        | .codewr =>
          if before code || before (fun y => (decide (y.kind = .tcopy) || decide (y.kind = .tgather)) && decide (y.bank = some target)) then s
          else match engRead s core id c.vale c.vd (c.pairA 0) 32 with
            | (_, .wait ask) => engAsk s core id c.vale c.vd c.pc ask
            | (s, .fault f) => failCmd s core id c f
            | (s, .ok (bs, bad)) =>
              if bad then failCmd s core id c ⟨cPoison, 0, BitVec.ofNat 64 (c.pairA 0)⟩ else retireCmd (putBank s core c bs) core id c
        | _ => retireCmd s core id c

end Sys2Proof.Machine
end

