-- ==== Sys2Proof/Machine/Encoder.lean ====
section
/-! DEFINITION. The encoder lane of a glen (R302 to R304, R509, R510, R516): frames, posts, bands and closes. -/
namespace Sys2Proof.Machine

/-- The core an encoder lane's accesses are counted at: the first of its glen. -/
def encCore (glen : Nat) : Nat := 16 * glen

/-! ## Frame descriptors -/

/-- Bands of a frame (R302). -/
def frameBands (ws : List Word) : Nat := ceilDiv (bitsOf (wordAt ws 1).toNat 31 16) 64

/-- Bytes of a sample (R302): two for Main 10. -/
def sampleBytes (ws : List Word) : Nat := if bitsOf (wordAt ws 0).toNat 19 16 = 2 then 2 else 1

/-- The content fault of a frame descriptor, by reason (R302, R509). A QP above 51 counts as a reserved value (DESIGN CHOICE, log 128). -/
def frameBad (ws : List Word) : Option Nat :=
  let w (j : Nat) : Nat := (wordAt ws j).toNat
  let codec := bitsOf (w 0) 19 16
  let width := w 1 % 65536
  let height := w 1 / 65536
  if w 0 % 65536 ≠ 1 || decide (2 < codec) || decide (w 0 / 2 ^ 29 ≠ 0) || decide (w 11 ≠ 0) || decide (w 13 / 2 ^ 8 ≠ 0) || decide (w 14 ≠ 0) || decide (w 15 ≠ 0) ||
      (decide (codec ≠ 0) && decide (51 < bitsOf (w 0) 28 21)) then some 1
  else if width < 16 || decide (7680 < width) || decide (width % 8 ≠ 0) || decide (height < 16) || decide (4320 < height) ||
      decide (height % 8 ≠ 0) then some 2
  else if w 6 % 16 ≠ 0 || decide (w 7 % 16 ≠ 0) then some 3
  else none

/-- The rows of a band (R302): address and length in bytes of each. -/
def bandRows (ws : List Word) (b : Nat) : List (Nat × Nat) :=
  let w (j : Nat) : Nat := (wordAt ws j).toNat
  let width := w 1 % 65536
  let height := w 1 / 65536
  let n := width * sampleBytes ws
  let rows (base pitch lo hi : Nat) : List (Nat × Nat) := (natsFrom lo (hi - lo)).map (fun r => ((base + r * pitch) % 2 ^ 64, n))
  rows (dwordAt ws 2).toNat (w 6) (64 * b) (min (64 * b + 64) height) ++
    rows (dwordAt ws 4).toNat (w 7) (32 * b) (min (32 * b + 32) (height / 2))

/-! ## Acceptance -/

/-- The open frame of a VD that a descriptor address names (R303): of two, the one whose OPEN was accepted first (DESIGN CHOICE, log 97). -/
def openFrame (s : State) (glen : Nat) (c : Cmd) : Option (Nat × Frame) :=
  Tbl.first (fun _ f => decide (f.own.vale = c.vale) && decide (f.own.vd = c.vd) && decide (f.desc = c.pairA 0) && f.closed.isNone)
    (s.glen? glen).frames

/-- Changes a frame. -/
def modFrame (s : State) (glen f : Nat) (g : Frame → Frame) : State :=
  s.modGlen glen (fun x => { x with frames := Tbl.modify x.frames f g })

/-- Queues an encoder command, in the state its acceptance leaves. -/
def queueEnc (s : State) (glen id : Nat) (c : Cmd) : State :=
  s.modGlen glen (fun x => { x with encq := Tbl.set x.encq id c })

/-- The bands a closing frame still has encoded: those before the first that is not posted (R303). -/
def closeLimit (f : Frame) : Nat := ((natsFrom 0 (frameBands f.words)).takeWhile (fun b => f.posted.contains b)).length

/-- Takes a command into an encoder lane's queue (R291, R303); the post of a failed frame counts as one of a band that is never
encoded (R510). The answer tells whether it is accepted. The frame it acts on is kept as its bank; where a descriptor lies in another package,
its read is sent. -/
def acceptEnc (s : State) (glen : Nat) (c : Cmd) : State × Bool :=
  let g := s.glen? glen
  let core := encCore glen
  if 16 ≤ g.encq.length then (s, false)
  else
    let (id, u) := s.fresh
    let c := { c with accepted := s.tod.toNat }
    let fails (k : BitVec 8) (r a : Nat) : State × Bool := (queueEnc (engForget u core c.wave) glen id { c with pre := some (k, r, a) }, true)
    match c.kind with
    | .encopen =>
      if 4 ≤ g.frames.length then (s, false)
      else if c.pairA 0 % 64 ≠ 0 then fails cAsync 3 0
      else match engRead u core c.wave c.vale c.vd (c.pairA 0) 64 with
        | (_, .wait ask) => (engAsk s core c.wave c.vale c.vd c.pc ask, false)
        | (_, .fault f) => fails f.cause f.reason f.addr.toNat
        | (u, .ok (bs, bad)) =>
          let u := engForget u core c.wave
          if bad then (queueEnc u glen id { c with pre := some (cPoison, 0, c.pairA 0) }, true)
          else match frameBad (wordsOfBytes bs) with
            | some r => (queueEnc u glen id { c with pre := some (cAsync, r, 0) }, true)
            | none =>
              let f : Frame := { own := c, desc := c.pairA 0, words := wordsOfBytes bs, posted := [], encoded := 0, bytes := 0, full := false,
                                 failed := false, closed := none, out := none }
              let u := u.modGlen glen (fun x => { x with frames := Tbl.set x.frames id f })
              (queueEnc u glen id { c with bank := some id }, true)
    | .encpost =>
      let b := (wordAt c.b 0).toNat % 65536
      match openFrame u glen c with
      | none => fails cAsync 7 0
      | some (k, f) =>
        if frameBands f.words ≤ b then fails cAsync 7 0
        else (queueEnc (modFrame u glen k (fun f => { f with posted := insertNat b f.posted })) glen id { c with bank := some k, total := if f.failed then frameBands f.words else b }, true)
    | _ =>
      match openFrame u glen c with
      | none => fails cAsync 7 0
      | some (k, _) => (queueEnc (modFrame u glen k (fun f => { f with closed := some (closeLimit f) })) glen id { c with bank := some k }, true)

/-! ## Bands -/

/-- Whether a frame has a ready band (R303). -/
def bandReady (f : Frame) : Bool :=
  !f.failed && f.posted.contains f.encoded && decide (f.encoded < f.closed.getD (frameBands f.words))

/-- The frame whose ready band the lane takes next: the one whose band it is writing, else the first accepted (R303). -/
def nextBand (s : State) (glen : Nat) : Option (Nat × Frame) :=
  match Tbl.first (fun _ f => bandReady f && f.out.isSome) (s.glen? glen).frames with
  | some x => some x
  | none => Tbl.first (fun _ f => bandReady f) (s.glen? glen).frames

/-- The oldest post of a band of a frame. -/
def postOf (s : State) (glen k b : Nat) : Option (Nat × Cmd) :=
  Tbl.first (fun _ c => decide (c.kind = .encpost) && decide (c.bank = some k) && decide (c.total = b)) (s.glen? glen).encq

/-- Reads the samples of a band. -/
def readBand (s : State) (core id : Nat) (c : Cmd) (rows : List (Nat × Nat)) : State × Got (List Byte) :=
  rows.foldl (fun (a : State × Got (List Byte)) r =>
    match a.2 with
    | .ok bs =>
      match engRead a.1 core id c.vale c.vd r.1 r.2 with
      | (s, .ok (cs, bad)) => if bad then (s, .fault ⟨cPoison, 0, BitVec.ofNat 64 r.1⟩) else (s, .ok (bs ++ cs))
      | (s, .fault f) => (s, .fault f)
      | (s, .wait k) => (s, .wait k)
    | _ => a) (s, .ok [])

/-- Writes bytes at a global address for an encoder command, in an order (R303). -/
def writeOut (s : State) (core id : Nat) (c : Cmd) (ord : BitVec 3) (va : Nat) (bs : List Byte) : State × Got Unit :=
  ((cut16 (bs.length / 16 + 2) va bs.length).foldl (fun (a : (State × Got Unit) × List Byte) p =>
    match a.1.2 with
    | .ok _ => (engWrite a.1.1 core id c ord p.1 p.2 (.store (a.2.take p.2)), a.2.drop p.2)
    | _ => a) ((s, .ok ()), bs)).1

/-- Writes what it can of bytes at a global address for an encoder command: how many, and why it stopped. -/
def writeSome (s : State) (core id : Nat) (c : Cmd) (va : Nat) (bs : List Byte) : State × Nat × Got Unit :=
  (cut16 (bs.length / 16 + 2) va bs.length).foldl (fun (a : State × Nat × Got Unit) p =>
    match a.2.2 with
    | .ok _ =>
      match engWrite a.1 core id c 0 p.1 p.2 (.store ((bs.drop a.2.1).take p.2)) with
      | (s, .ok _) => (s, a.2.1 + p.2, .ok ())
      | (_, .wait k) => (a.1, a.2.1, .wait k)
      | (s, .fault f) => (s, a.2.1, .fault f)
    | _ => a) (s, 0, .ok ())

/-- The encoding of a frame fails (R507, R510, R516): a record with the post's place, and nothing halts. -/
def failFrame (s : State) (glen k : Nat) (c : Cmd) (f : AddrFault) : State :=
  let s := modFrame s glen k (fun x => { x with failed := true, out := none })
  let r := cmdRec c 7 f
  if f.cause = cPoison then severity2 s c.vale c.vd { r with sev := 2 } else record s r

/-- Writes the output of a frame's band, as far as it can now (R304, R151): the band is encoded once all of it is written. -/
def writeBand (s : State) (glen k : Nat) (f : Frame) (id : Nat) (c : Cmd) (o : List Byte × Nat × Bool) : State :=
  match writeSome s (encCore glen) id c ((dwordAt f.words 8).toNat + f.bytes + o.2.1) (o.1.drop o.2.1) with
  | (s, _, .fault e) => failFrame s glen k c e
  | (s, n, .wait _) => modFrame s glen k (fun x => { x with out := some (o.1, o.2.1 + n, o.2.2) })
  | (s, _, .ok _) => modFrame s glen k (fun x =>
      { x with encoded := x.encoded + 1, bytes := x.bytes + o.1.length, full := x.full || o.2.2, out := none })

/-- BAND_ENCODED (R303, R304): the lane's next ready band is read and encoded, and its output written, in as many of these events as the writes
take. -/
def execBandEncoded (glen frame : Nat) (s : State) : Host.Outcome State Fault Refusal :=
  .next (match nextBand s glen with
    | none => s
    | some (k, f) =>
      if k ≠ frame || s.halted then s
      else match postOf s glen k f.encoded with
        | none => s
        | some (id, c) =>
          let core := encCore glen
          match f.out with
          | some o => writeBand s glen k f id c o
          | none =>
            match readBand s core id c (bandRows f.words f.encoded) with
            | (_, .wait ask) => engAsk s core id c.vale c.vd c.pc ask
            | (s, .fault e) => failFrame s glen k c e
            | (s, .ok samples) =>
              let out := Config.encodeBand s.freeCount f.words f.encoded samples
              let room := (wordAt f.words 10).toNat - f.bytes
              let s := engForget { s with freeCount := s.freeCount + 1 } core id
              writeBand s glen k f id c (out.take room, 0, decide (room < out.length)))

/-! ## Retirement -/

/-- The frame that an encoder command's retirement ends: that of a CLOSE (R303). -/
def closesFrame (g : Glen) (id : Nat) : Option Nat := (Tbl.get g.encq id).bind (fun c => if c.kind = .encclose then c.bank else none)

/-- Removes an encoder command, and with a CLOSE its frame (R303). -/
def dropEnc (s : State) (glen id : Nat) : State :=
  (engForget s (encCore glen) id).modGlen glen (fun x => { x with
    encq := Tbl.erase x.encq id
    frames := match closesFrame x id with
      | some k => Tbl.erase x.frames k
      | none => x.frames })

/-- An encoder command fails (R507, R508): nothing halts. -/
def failEnc (s : State) (glen id : Nat) (c : Cmd) (f : AddrFault) : State :=
  let r := cmdRec c 7 f
  let s := dropEnc s glen id
  if f.cause = cPoison then severity2 s c.vale c.vd { r with sev := 2 } else record s r

/-- Retires an encoder command with its counter add, a release at VALE scope (R158, R291, R304). -/
def finishEnc (s : State) (glen id : Nat) (c : Cmd) : State :=
  match c.ctr with
  | none => dropEnc s glen id
  | some a =>
    if a.toNat % 8 ≠ 0 then failEnc s glen id c ⟨cAlign, 0, a⟩
    else if walkWaits s (some (encCore glen)) c.vale c.vd a.toNat .atomic then s
    else match translate s (some (encCore glen)) c.vale c.vd a.toNat 8 .atomic with
      | (s, .error f) => failEnc s glen id c f
      | (s, .ok x) => counterAdd (dropEnc s glen id) (encCore glen) { c with scope := 3 } x a

/-- STATUS of a frame at its CLOSE (R302, R303, R510). -/
def frameStatus (f : Frame) : Nat :=
  if f.failed || decide (f.encoded < frameBands f.words) then 2 else if f.full then 1 else 0

/-- Whether a write of an encoder command is still under way (R154, R304). -/
def encPosted (s : State) (c : Cmd) : Bool := c.posted.any (fun k => (Tbl.get s.inflight k).isSome)

/-- Whether a post to a frame has not retired: its counter add comes before the frame's CLOSE retires (R304). -/
def postsLeft (s : State) (glen k : Nat) : Bool :=
  (s.glen? glen).encq.any (fun e => decide (e.2.kind = .encpost) && decide (e.2.bank = some k))

/-- Whether an older post of the same band of a frame has not retired: a band's second post retires after its first (R304). -/
def postBefore (s : State) (glen k id b : Nat) : Bool :=
  (s.glen? glen).encq.any (fun e => decide (e.2.kind = .encpost) && decide (e.2.bank = some k) && decide (e.2.total = b) && decide (e.1 < id))

/-- Retires the oldest encoder command, or one whose work is done (R291, R303, R304, R510): a post once its band's bitstream has been
written, a CLOSE once its BYTES and STATUS have, with release. -/
def retireEnc (s : State) (glen id : Nat) : State :=
  match Tbl.get (s.glen? glen).encq id with
  | none => s
  | some c =>
    match c.pre with
    | some (k, r, a) => failEnc s glen id c ⟨k, r, BitVec.ofNat 64 a⟩
    | none =>
      if c.ordered && (s.glen? glen).encq.any (fun e => decide (e.1 < id) && e.2.ordered && decide (e.2.wave = c.wave)) then s
      else if encPosted s c then s
      else if c.kind = .encopen || decide (c.done = 1) then finishEnc s glen id c
      else match c.bank.bind (fun k => (Tbl.get (s.glen? glen).frames k).map (fun f => (k, f))) with
        | none => dropEnc s glen id
        | some (k, f) =>
          match c.kind with
          | .encpost =>
            if f.failed && decide (f.encoded ≤ c.total) then dropEnc s glen id
            else if c.total < f.encoded then (if postBefore s glen k id c.total then s else finishEnc s glen id c)
            else match f.closed with
              | some n => if n ≤ f.encoded then dropEnc s glen id else s
              | none => s
          | _ =>
            if (!f.failed && decide (f.encoded < f.closed.getD 0)) || postsLeft s glen k then s
            else
              let core := encCore glen
              match writeOut s core id c 3 (f.desc + 0x30) (bytesLE 4 f.bytes ++ [BitVec.ofNat 8 (frameStatus f)]) with
              | (_, .wait _) => s
              | (s, .fault e) => failEnc s glen id c e
              | (s, .ok _) =>
                let s := s.modGlen glen (fun x => { x with encq := Tbl.modify x.encq id (fun y => { y with done := 1 }) })
                match Tbl.get (s.glen? glen).encq id with
                | some y => if encPosted s y then s else finishEnc s glen id y
                | none => s

end Sys2Proof.Machine
end

