-- ==== Sys2Proof/Machine/Async.lean ====
section
/-! DEFINITION. The ASYNC instructions (R289 to R304): how commands are issued, held and accepted, register lending (R301,
R494), and the events COMMAND_ACCEPT and COMMAND_RETIRE. -/
namespace Sys2Proof.Machine

/-! ## Operands -/

/-- The fields of an ASYNC instruction that issues commands. -/
def asyncFields : Instr → Option AsFields
  | .cpy o | .ccopy o | .tcopy o | .tgather o | .tstore o | .codewr o | .codeswap o | .encpost o | .encframeOpen o | .encframeClose o => some o
  | _ => none

/-- The kind of an instruction's commands, and the sizes of its A group and B operands (R290). -/
def asyncShape : Instr → CopyKind × Nat × Nat
  | .cpy _ => (.cpy, 4, 1)
  | .ccopy _ => (.ccopy, 6, 1)
  | .tcopy _ => (.tcopy, 3, 5)
  | .tgather _ => (.tgather, 3, 2)
  | .tstore _ => (.tstore, 4, 5)
  | .codewr _ => (.codewr, 2, 0)
  | .encpost _ => (.encpost, 2, 1)
  | .encframeOpen _ => (.encopen, 2, 0)
  | .encframeClose _ => (.encclose, 2, 0)
  | _ => (.codeswap, 0, 0)

/-- Whether an instruction's commands go to the encoder lane. -/
def isEncKind (k : CopyKind) : Bool := decide (k = .encopen) || decide (k = .encpost) || decide (k = .encclose)

/-- The registers an ASYNC instruction reads (R290, R185). -/
def asyncSrcs (i : Instr) (o : AsFields) : List RegField :=
  let sh := asyncShape i
  fieldsFrom o.a sh.2.1 ++ fieldsFrom o.b sh.2.2 ++ (if o.c = 1 then [o.creg, o.creg + 1] else [])

/-- The words of consecutive registers in a lane. -/
def regWords (w : Wave) (f : RegField) (n l : Nat) : List Word := (natsFrom 0 n).map (fun j => w.rdN f j l)

/-- The operands of a command as its wave's registers hold them now: the A group, and the B operands with the counter's
address (R401). -/
def readOperands (w : Wave) (i : Instr) (o : AsFields) (l : Nat) : List Word × List Word :=
  let sh := asyncShape i
  (regWords w o.a sh.2.1 l, regWords w o.b sh.2.2 l ++ (if o.c = 1 then regWords w o.creg 2 l else []))

/-- The command a waiting one becomes when it is accepted: operands saved with it (R401), or read now (R172). -/
def cmdOf (w : Nat) (wv : Wave) (c : WaitCmd) : Cmd :=
  let o := (asyncFields c.op).getD ⟨0, 0, 0, 0, 0, none⟩
  let sh := asyncShape c.op
  let r := if c.a = [] && decide (c.b = []) then readOperands wv c.op o (c.lane % 16) else (c.a, c.b)
  { wave := w, slot := wv.slot, core := wv.core, lane := c.lane, blk := wv.blk, job := wv.job, vale := wv.vale, vd := wv.vd,
    pc := c.pos.pc, kind := sh.1, sub := o.kind.toNat, a := r.1, b := r.2.take sh.2.2,
    bar := if isEncKind sh.1 || decide (sh.1 = .codewr) || decide (sh.1 = .codeswap) || o.nobar then none else some o.bar.toNat,
    scope := o.scope, ctr := if o.c = 1 then some (dwordAt r.2 sh.2.2) else none, inc := o.inc.toNat, ordered := o.ordered,
    layout := [], badRec := false, mask := [], bank := none, held := [], badIdx := [], done := 0, total := 0, pre := none, posted := [], accepted := 0 }

/-! ## Acceptance -/

/-- Accepts the first commands of an outstanding ASYNC instruction while its engine takes them, in lane order (R155,
R291); the commands left. -/
def acceptFrom (w oid : Nat) : List WaitCmd → State → State × List WaitCmd
  | [], s => (s, [])
  | c :: t, s =>
    match Tbl.get s.waves w with
    | none => (s, c :: t)
    | some wv =>
      let m := cmdOf w wv c
      if !laneClear s w wv oid c.lane then (s, c :: t)
      else match if isEncKind m.kind then acceptEnc s (glenOfCore wv.core) m else acceptCopy s wv.core m with
        | (s, true) => acceptFrom w oid t s
        | (s, false) => (s, c :: t)

/-- Offers the oldest ASYNC instruction a wave has outstanding to its engine (R155). -/
def acceptCmds (s : State) (w : Nat) : State :=
  match Tbl.get s.waves w with
  | none => s
  | some wv =>
    match wv.outst.find? (fun o => isCmdOp o.op) with
    | none => s
    | some o =>
      match o.op with
      | .cmds cs =>
        let r := acceptFrom w o.id cs s
        if r.2 = [] then dropOutst r.1 w o.id
        else r.1.modWave w (fun x => { x with outst := x.outst.map (fun y => if y.id = o.id then { y with op := .cmds r.2 } else y) })
      | _ => s

/-- Issues the commands of an ASYNC instruction: outstanding until its engine has accepted them, with its lookahead
(R172). -/
def issueCmds (s : State) (w : Nat) (l : Nat) (cs : List WaitCmd) : State :=
  if cs = [] then s
  else
    let (id, s) := s.fresh
    let s := s.modWave w (fun x => { x with outst := x.outst ++ [⟨id, x.issued + 1 + l, .cmds cs⟩] })
    if s.defer then s else acceptCmds s w

/-- The unaccepted commands of a wave, oldest first. -/
def waitingCmds (w : Wave) : List WaitCmd :=
  w.outst.flatMap (fun o => match o.op with
    | .cmds cs => cs
    | _ => [])

/-- An ASYNC instruction that issues commands (R289): TASK in a speculative task (R358); one command for each lane of Live,
or one for the instruction; a lane that reads poison issues none (R515), and helper lanes alone issue none, of those that act once too
(R482; DEDUCED, log 95). It waits at issue where the wave would hold more than the 16 commands a save record has room for (R401;
DEDUCED, log 109). -/
def runAsync (i : Instr) (o : AsFields) (once : Bool) (s : State) : Host.Outcome State Fault Refusal :=
  runWave i (fun s w wv =>
    if s.speculative wv then raiseInstr s w wv i cTask 0
    else
      let low := (lanesOf (lowestLane wv.live)).map (fun l => 16 + l)
      let ls := if once || isUniform i then low else lanesOf wv.live
      if 16 < (waitingCmds wv).length + ls.length then s
      else
      let bad := poisonedLanes wv (asyncSrcs i o) (ls.map (fun l => l % 16))
      let cs := (ls.filter (fun l => !bad.contains (l % 16))).map (fun l => ({ pos := wv.pos, op := i, lane := l, a := [], b := [] } : WaitCmd))
      let s := issueCmds (s.setWave w (wv.advance (instrBytes i))) w o.l.toNat cs
      consumePoison s w wv.pos (bad.map (fun l => (l, 0)))) s

/-- CPY (R292). -/
def execCpy (o : AsFields) (s : State) : Host.Outcome State Fault Refusal := runAsync (.cpy o) o false s
/-- CCOPY (R293). -/
def execCcopy (o : AsFields) (s : State) : Host.Outcome State Fault Refusal := runAsync (.ccopy o) o false s
/-- TCOPY (R296). -/
def execTcopy (o : AsFields) (s : State) : Host.Outcome State Fault Refusal := runAsync (.tcopy o) o false s
/-- TGATHER (R298). -/
def execTgather (o : AsFields) (s : State) : Host.Outcome State Fault Refusal := runAsync (.tgather o) o false s
/-- TSTORE (R299). -/
def execTstore (o : AsFields) (s : State) : Host.Outcome State Fault Refusal := runAsync (.tstore o) o false s
/-- CODEWR (R300). -/
def execCodewr (o : AsFields) (s : State) : Host.Outcome State Fault Refusal := runAsync (.codewr o) o true s
/-- CODESWAP (R300). -/
def execCodeswap (o : AsFields) (s : State) : Host.Outcome State Fault Refusal := runAsync (.codeswap o) o true s
/-- ENCPOST (R304). -/
def execEncpost (o : AsFields) (s : State) : Host.Outcome State Fault Refusal := runAsync (.encpost o) o false s
/-- ENCFRAME.OPEN (R303). -/
def execEncframeOpen (o : AsFields) (s : State) : Host.Outcome State Fault Refusal := runAsync (.encframeOpen o) o true s
/-- ENCFRAME.CLOSE (R303). -/
def execEncframeClose (o : AsFields) (s : State) : Host.Outcome State Fault Refusal := runAsync (.encframeClose o) o true s

/-- COMMAND_ACCEPT (R291): the engine takes what a wave holds at acceptance, if it can. What an ended wave still held is never accepted:
the spec performs the accepted ones only (R52, R261; DEDUCED, log 89). -/
def execCommandAccept (wave : Nat) (s : State) : Host.Outcome State Fault Refusal :=
  .next (match Tbl.get s.waves wave with
    | some wv => if canIssue s wv then acceptCmds s wave else s
    | none => s)

/-- COMMAND_RETIRE (R291): a command that has written everything retires; a coverage command has COV_COMMAND_RETIRE. -/
def execCommandRetire (unit : EngineUnit) (cmd : Nat) (s : State) : Host.Outcome State Fault Refusal :=
  .next (if s.halted then s else match unit with
    | .copy core => retireCopy s core cmd
    | .encoder glen => retireEnc s glen cmd
    | .coverage _ => s)

/-! ## Register lending -/

/-- Whether an outstanding instruction of a wave writes a vector register from r up (R301). -/
def outstWrites (w : Wave) (r : Nat) : Bool :=
  w.outst.any (fun o => match o.op with
    | .load op => !isScalar op.dst && decide (r < op.dst.toNat + op.words)
    | .mxrd m => !isScalar m.dst && decide (r < m.dst.toNat + (if m.f.getLsbD 5 then 4 else 1))
    | _ => false)

/-- A wave without its registers from r up. -/
def Wave.dropRegs (w : Wave) (r : Nat) : Wave :=
  { w with
    v := Tbl.keep (fun k _ => decide (k < 16 * r)) w.v
    poison := w.poison.filter (fun k => decide (k < 16 * r) || decide (1536 ≤ k)) }

/-- RGIVE (R63, R301, R494). -/
def execRgive (o : AsFields) (s : State) : Host.Outcome State Fault Refusal :=
  runWave (.rgive o) (fun s w wv =>
    let n := o.a.toNat
    if n = 0 || decide (11 < n) || decide (wv.held ≤ n) then raiseOnce s w wv 4 cLend 0 0
    else if outstWrites wv (8 * (wv.held - n)) then s
    else
      let s := s.setWave w { (wv.dropRegs (8 * (wv.held - n))).advance 4 with held := wv.held - n }
      givePool (bumpGen s wv.core wv.vale wv.vd) wv.blk (wv.track (s.cardOf wv.job)) n) s

/-- The blocks a wave's waiting takes claim (R63). -/
def pendingTakes (w : Wave) : Nat :=
  w.outst.foldl (fun n o => match o.op with
    | .rtake k _ => n + k
    | _ => n) 0

/-- RTAKE (R63, R301, R494). -/
def execRtake (o : AsFields) (s : State) : Host.Outcome State Fault Refusal :=
  runWave (.rtake o) (fun s w wv =>
    let n := o.a.toNat
    let card := s.cardOf wv.job
    if n = 0 || decide (11 < n) || decide (cardMax card wv.role < wv.held + pendingTakes wv + n) then raiseOnce s w wv 4 cLend 0 0
    else
      let (id, s) := s.fresh
      let x := wv.advance 4
      let s := s.setWave w { x with outst := x.outst ++ [⟨id, x.issued + 1 + o.l.toNat, .rtake n wv.pos⟩] }
      let s := { s with takes := s.takes ++ [(w, id)] }
      serveTakes wv.blk (wv.track card) s.takes.length s) s

end Sys2Proof.Machine
end

