-- ==== Sys2Proof/Machine/Stream.lean ====
section
/-! DEFINITION. The matrix stream (R306 to R324, R330, R500, R550) and the events of the matrix engines: KSTEP_RETIRE and
TEAM_CLAIM. -/
namespace Sys2Proof.Machine

/-- Changes a block's sequencer context. -/
def modSeq (s : State) (blk : Nat) (f : SeqCtx → SeqCtx) : State :=
  s.modBlock blk (fun b => { b with seqCtx := b.seqCtx.map f })

/-- The word has completed: the context runs on from the next (R308). -/
def seqDone (s : State) (blk : Nat) : State := modSeq s blk (fun c => { c with spc := c.spc + 4, st := 0, wantBar := none })

/-- The word has to wait (R308). -/
def seqWait (s : State) (blk : Nat) : State := modSeq s blk (fun c => { c with st := 1 })

/-- The stream halts, and leaves the block's barriers (R330). -/
def seqHalt (s : State) (blk addr : Nat) : State := testLeft (haltSeq s blk cAsync 8 addr) blk

/-- A stream word's execution in its context: a word with a bad field halts the stream (R500). -/
def runStream (i : Instr) (op : State → Nat → Block → SeqCtx → State) (s : State) : Host.Outcome State Fault Refusal :=
  match s.cur with
  | .seq blk =>
    match Tbl.get s.blocks blk with
    | none => .fault .noAgent
    | some b => match b.seqCtx with
      | none => .fault .noAgent
      | some c => .next (if Instr.wellFormed i then op s blk b c else seqHalt s blk 0)
  | _ => .fault .noAgent

/-- A sequencer register (R306). -/
def SeqCtx.reg (c : SeqCtx) (r : Nat) : Word := Tbl.cell 0 c.m r

/-- Sets a sequencer register. -/
def SeqCtx.setReg (c : SeqCtx) (r : Nat) (x : Word) : SeqCtx := { c with m := Tbl.setCell 0 c.m r x }

/-- A descriptor slot. -/
def SeqCtx.slot (c : SeqCtx) (d : BitVec 3) : List Word := (Tbl.get c.d d.toNat).getD []

/-- The ring index of a slot. -/
def SeqCtx.ring (c : SeqCtx) (d : BitVec 3) : Nat := Tbl.cell 0 c.ri d.toNat

/-- MNOP (R322). -/
def execMnop (rest : BitVec 26) (s : State) : Host.Outcome State Fault Refusal :=
  runStream (.mnop rest) (fun s blk _ _ => seqDone s blk) s

/-! ## Teams -/

/-- Adds engine clocks to a lease's meter (R410, R411), which saturates and reports it once (R539). -/
def meterAdd (s : State) (idx clocks : Nat) : State :=
  match Tbl.get s.leases idx with
  | none => s
  | some l =>
    let n := l.meter.toNat + l.rate * clocks
    if n < 2 ^ 64 - 1 then { s with leases := Tbl.set s.leases idx { l with meter := BitVec.ofNat 64 n } }
    else
      let x := { l with meter := BitVec.allOnes 64, full := true }
      let s := { s with leases := Tbl.set s.leases idx x }
      if l.full then s else leaseRecords s idx x 3

/-- The engines of a lease, in core order (R410). -/
def leaseEngines (l : Lease) : List Nat := ((natsFrom 0 16).filter (fun j => l.cores.getLsbD j)).map (fun j => 16 * l.glen + j)

/-- The lease a handle names (R410). -/
def leaseOf (s : State) (h : Word) : Option (Nat × Lease) := Tbl.first (fun _ l => decide (l.handle = h)) s.leases

/-- Whether a team's lease has ended (R315). -/
def leaseEnded (s : State) (t : Team) : Bool :=
  decide (t.mode = 2) && (match leaseOf s t.handle with
    | some (_, l) => decide (l.st = 3)
    | none => true)

/-- Whether a team's lease takes no further step: its end has come (R411). -/
def leaseOver (s : State) (t : Team) : Bool :=
  decide (t.mode = 2) && (match leaseOf s t.handle with
    | some (_, l) => decide (l.st = 3) || l.revoked || decide (l.stop.toNat ≤ s.tod.toNat)
    | none => true)

/-- The team an MTEAM names, or none when it halts (R313, R330). -/
def teamOf (s : State) (b : Block) (c : SeqCtx) (mode tm1 : BitVec 2) (first hreg : BitVec 4) : Option Team :=
  let t := tm1.toNat + 1
  let f := first.toNat
  match mode.toNat with
  | 0 => if t = 1 && f = 0 then some ⟨mode, f, 0, [b.core]⟩ else none
  | 1 =>
    let ms := (natsFrom f t).filterMap (fun r => (peerBlock s b r).map (fun p => p.2.core))
    if ms.length = t then some ⟨mode, f, 0, ms⟩ else none
  | 2 =>
    match leaseOf s (c.reg hreg.toNat) with
    | none => none
    | some (_, l) =>
      let es := leaseEngines l
      if l.borrower = b.vale && decide (l.st ≠ 3) && !l.revoked && decide (f + t ≤ es.length) then some ⟨mode, f, l.handle, (es.drop f).take t⟩
      else none
  | _ => none

/-- Whether an engine is leased now, so that only LEASE teams may claim it (R411). -/
def engineLeased (s : State) (core : Nat) : Bool :=
  s.leases.any (fun l => decide (l.2.st = 2) && (leaseEngines l.2).contains core)

/-- The team a block's context waits to claim. -/
def claimOf (s : State) (blk : Nat) : Option Team :=
  ((Tbl.get s.blocks blk).bind (fun (b : Block) => b.seqCtx)).bind (fun c => c.claim)

/-- Whether the lease window of a core may be granted to a block's VD: the scrub its generations wait for is done (R120, R122). -/
def windowClean (s : State) (blk core : Nat) : Bool :=
  match Tbl.get s.blocks blk with
  | some b => !scrubWaits s core b.vale b.vd
  | none => false

/-- Whether the claim of a block can be met: every engine free, no earlier claim on one of them, and the team's own lease started, its
windows free to be granted (R122, R313, R314, R315). -/
def claimReady (s : State) (blk : Nat) (t : Team) : Bool :=
  let before := s.claims.takeWhile (fun x => decide (x ≠ blk))
  let lease := decide (t.mode = 2)
  (!lease || (match leaseOf s t.handle with
    | some (_, l) => decide (l.st = 2) && t.engines.all (windowClean s blk)
    | none => false)) && t.engines.all (fun e =>
    ((s.core? e).engine.holder).isNone && (engineLeased s e == lease) &&
      !before.any (fun x => match claimOf s x with
        | some y => y.engines.contains e
        | none => false))

/-- Meets a waiting claim, if it can be: a fresh engine unless the block was its last holder (R314); a resumed block's
accumulators and status words are restored (R329). -/
def tryClaim (s : State) (blk : Nat) : State :=
  match claimOf s blk with
  | none => s
  | some t =>
    if !claimReady s blk t then s
    else
      let s := t.engines.foldl (fun s e => s.modCore e (fun c =>
        let g := if c.engine.lastHolder = some blk then c.engine else Engine.fresh
        { c with engine := { g with holder := some blk, lastHolder := some blk } })) s
      let s := { s with claims := removeNat blk s.claims }
      let old := ((((Tbl.get s.blocks blk).bind (fun (b : Block) => b.seqCtx)).map (fun c => c.restore))).getD []
      if old = [] then seqDone (modSeq s blk (fun c => { c with team := some t, claim := none })) blk
      else
        let s := (t.engines.zip old).foldl (fun s p => s.modCore p.1 (fun c =>
          { c with engine := { p.2 with holder := some blk, lastHolder := some blk, queue := [] } })) s
        modSeq s blk (fun c => { c with team := some t, claim := none, restore := [] })

/-- MTEAM (R313). -/
def execMteam (mode tm1 : BitVec 2) (first hreg : BitVec 4) (z : BitVec 14) (s : State) : Host.Outcome State Fault Refusal :=
  runStream (.mteam mode tm1 first hreg z) (fun s blk b c =>
    if c.steps ≠ [] then seqWait s blk
    else if c.claim.isSome then tryClaim s blk
    else match teamOf s b c mode tm1 first hreg with
      | none => seqHalt s blk 0
      | some t =>
        let s := releaseTeam s blk
        let s := { s with claims := s.claims ++ [blk] }
        tryClaim (modSeq s blk (fun c => { c with team := none, claim := some t, st := 1 })) blk) s

/-- After a stream word: one uniform issue is charged to the VD (R308, R394), when the word is first taken up: a context in WAITING takes
up the word it waits in again. -/
def countSeq (before after : State) (blk : Nat) : State :=
  let s := { after with cur := .none }
  match Tbl.get before.blocks blk with
  | some x =>
    if x.seqCtx.any (fun c => decide (c.st = 1)) then s else chargeVd (chargeCore s x.core x.vale x.vd 1) x.vale x.vd 1
  | none => s

/-- TEAM_CLAIM (R314): a waiting claim whose engines are all free is met, and its MTEAM word completes (R308). -/
def execTeamClaim (blk : Nat) (s : State) : Host.Outcome State Fault Refusal := .next (tryClaim s blk)

/-! ## Descriptors -/

/-- Whether a descriptor breaks R311 in a block with `size` bytes of stash (R330). -/
def descBad (ws : List Word) (size : Nat) : Bool :=
  let d := descOf ws
  let w (j : Nat) : Nat := (wordAt ws j).toNat
  decide (w 0 % 65536 ≠ 1) || decide (w 0 / 2 ^ 27 ≠ 0) || decide (7 < d.format) || decide (d.planes = 0) ||
    decide (fullPlanes d.format < d.planes) || (d.scales && !isFp8 d.format) || decide (w 1 / 2 ^ 18 ≠ 0) ||
    decide (w 2 / 2 ^ 18 ≠ 0) || decide (w 3 / 2 ^ 18 ≠ 0) || decide (w 4 / 32 ≠ 0) || decide (w 5 / 2 ^ 18 ≠ 0) ||
    decide (w 6 ≠ 0) || decide (w 7 ≠ 0) || decide (d.base % 128 ≠ 0) || decide (d.stride % 128 ≠ 0) || decide (d.ring = 0) ||
    decide (16 < d.ring) || decide (size < d.base + (d.ring - 1) * d.stride + d.size) ||
    (d.bands && (decide (d.bscale % 2 ≠ 0) || decide (size < d.bscale + 16)))

/-- MDESC (R312). Poison among the words it reads is not consumed (DESIGN CHOICE, log 130); a row whose line has left the vale halts the
stream with its fault (R32; DEDUCED, log 142). -/
def execMdesc (slot : BitVec 3) (mreg : BitVec 4) (z : BitVec 1) (off : BitVec 18) (s : State) : Host.Outcome State Fault Refusal :=
  runStream (.mdesc slot mreg z off) (fun s blk b c =>
    let a := ((c.reg mreg.toNat).toNat + off.toNat) % 2 ^ 18
    if a % 32 ≠ 0 || decide (b.stashKib * 1024 < a + 32) then seqHalt s blk a
    else if (rowGone s blk a 32).isSome then testLeft (haltSeq s blk cXlate 6 a) blk
    else if targetWaits s (.stash blk a) 32 false then seqWait s blk
    else
      let (s, bs, _) := readStash s blk a 32
      let ws := wordsOfBytes bs
      if descBad ws (b.stashKib * 1024) then seqHalt s blk a
      else seqDone (modSeq s blk (fun c =>
        { c with d := Tbl.set c.d slot.toNat ws, loaded := c.loaded ||| BitVec.ofNat 8 (2 ^ slot.toNat), ri := Tbl.setCell 0 c.ri slot.toNat 0 })) blk) s

/-! ## Steps -/

/-- A member's engine as the team sees it: a member of an ended lease reads as +0 with VALID 0 (R315). -/
def memberEngine (s : State) (t : Team) (m : Nat) : Engine :=
  if leaseEnded s t then { Engine.fresh with valid := false } else (s.core? (t.engines.getD m 0)).engine

/-- The lease a team's steps belong to. -/
def teamLease (s : State) (t : Team) : Option Nat := if t.mode = 2 then (leaseOf s t.handle).map (fun l => l.1) else none

/-- Whether every member's queue has room for one more step (R318). -/
def queuesFree (s : State) (t : Team) : Bool := leaseEnded s t || t.engines.all (fun e => decide (((s.core? e).engine.queue).length < 4))

/-- The KIND a member will have once its queue has run (R317). -/
def kindAfter (e : Engine) : Bool := e.queue.foldl (fun k q => match q.zero with
  | some x => decide (x = 1)
  | none => k) e.s32

/-- Queues a step on every member (R318); `f` gives each member's entry. Once the team's lease is over nothing is queued
(R315). -/
def queueStep (s : State) (blk : Nat) (t : Team) (f : Nat → Nat → KStep) : State :=
  if leaseOver s t then seqDone s blk else
  let (id, s) := s.fresh
  let s := (natsFrom 0 t.engines.length).foldl (fun s j => s.modCore (t.engines.getD j 0) (fun c =>
    { c with engine := { c.engine with queue := c.engine.queue ++ [f id j] } })) s
  seqDone (modSeq s blk (fun c => { c with steps := c.steps ++ [id] })) blk

/-- MZERO (R317). -/
def execMzero (kind : BitVec 1) (z : BitVec 25) (s : State) : Host.Outcome State Fault Refusal :=
  runStream (.mzero kind z) (fun s blk _ c =>
    match c.team with
    | none => seqHalt s blk 0
    | some t =>
      if !queuesFree s t then seqWait s blk
      else queueStep s blk t (fun id _ => { id := id, blk := blk, zero := some kind, sparse := false, ovw := false, aBase := 0,
                                            bBase := 0, da := [], db := [], bands := [], lease := teamLease s t, read := [], readBad := false })) s

/-- MMA and MMAS (R318). -/
def runMma (i : Instr) (da db : BitVec 3) (ovw : BitVec 1) (sparse : Bool) (s : State) : Host.Outcome State Fault Refusal :=
  runStream i (fun s blk b c =>
    match c.team with
    | none => seqHalt s blk 0
    | some t =>
      if !c.loaded.getLsbD da.toNat || !c.loaded.getLsbD db.toNat then seqHalt s blk 0
      else
        let x := descOf (c.slot da)
        let y := descOf (c.slot db)
        let a := x.base + c.ring da * x.stride
        let bands := (natsFrom 0 t.engines.length).map (fun j => y.base + c.ring db * y.stride + j * y.bandStride)
        let int := isIntFormat x.format
        let size := b.stashKib * 1024
        if int ≠ isIntFormat y.format || (natsFrom 0 t.engines.length).any (fun j => kindAfter (memberEngine s t j) ≠ int) ||
            (sparse && !(x.bitmap && y.bitmap)) then seqHalt s blk 0
        else if size < a + x.size then seqHalt s blk a
        else match bands.find? (fun p => decide (size < p + y.size)) with
          | some p => seqHalt s blk p
          | none =>
            if !queuesFree s t then seqWait s blk
            else
              let entry (id j : Nat) : KStep := { id := id, blk := blk, zero := none, sparse := sparse, ovw := decide (ovw = 1), aBase := a,
                                                  bBase := bands.getD j 0, da := c.slot da, db := c.slot db, bands := bands, lease := teamLease s t, read := [], readBad := false }
              let s := queueStep s blk t entry
              modSeq s blk (fun c => { c with
                saAddr := if x.bands then BitVec.ofNat 19 x.bscale else 0x40000
                sbAddr := if y.bands then BitVec.ofNat 19 y.bscale else 0x40000 })) s

/-- MMA (R318). -/
def execMma (da db : BitVec 3) (ovw : BitVec 1) (z : BitVec 19) (s : State) : Host.Outcome State Fault Refusal :=
  runMma (.mma da db ovw z) da db ovw false s

/-- MMAS (R318). -/
def execMmas (da db : BitVec 3) (ovw : BitVec 1) (z : BitVec 19) (s : State) : Host.Outcome State Fault Refusal :=
  runMma (.mmas da db ovw z) da db ovw true s

/-- A byte of a block's stash, as an engine reads it. -/
def stashByte (b : Block) (k : Nat) : Byte := Tbl.cell 0 b.stash k

/-- Whether a slab of a block holds a poisoned word (R516). -/
def slabPoisoned (b : Block) (base n : Nat) : Bool := b.stashPoison.any (fun k => decide (base / 4 ≤ k) && decide (k < (base + n) / 4))

/-- The slabs a step reads: base and length (R318). -/
def KStep.slabs (k : KStep) : List (Nat × Nat) :=
  if k.zero.isSome then [] else [(k.aBase, (descOf k.da).size), (k.bBase, (descOf k.db).size)]

/-- Whether a step on a leased engine must wait for the lease window: for the conversion that makes room for it, or for rows that a
resident block held at START (R411). -/
def windowWaits (s : State) (core : Nat) (k : KStep) : Bool :=
  k.lease.isSome && k.zero.isNone &&
    (let c := s.core? core
     let top := min c.stashKib (c.convert.getD c.stashKib)
     decide (top < 64) || (blocksOn s core).any (fun e => decide (top - 64 < e.2.stashBase + e.2.stashKib)))

/-- The rows of a block's stash in a range that are MAPPED_INVALID (R108). -/
def invalidRows (b : Block) (base n : Nat) : List Nat :=
  (b.rows.filter (fun r => decide (base / 128 ≤ r.1) && decide (128 * r.1 < base + n) && decide (r.2.st = .mappedInvalid))).map (fun r => r.1)

/-- Whether a step's reads must wait: a recorded range (R110), or a row whose line is held or locked (R131, R156). -/
def slabsWait (s : State) (b : Block) (k : KStep) : Bool :=
  k.slabs.any (fun r => scoreboardHolds s k.blk r.1 r.2 || (invalidRows b r.1 r.2).any (fun x => targetWaits s (.stash k.blk (128 * x)) 1 false))

/-- Fills the rows of a step's slabs from their homes (R108). -/
def fillSlabs (s : State) (b : Block) (k : KStep) : State :=
  k.slabs.foldl (fun s r => (invalidRows b r.1 r.2).foldl (fun s x => fillRow s k.blk x) s) s

/-- A byte of a step's slabs: as it was read, or as it stands (R320). -/
def KStep.byte (k : KStep) (b : Block) (n : Nat) : Byte :=
  match Tbl.get k.read (n / 4) with
  | some w => w.extractLsb' (8 * (n % 4)) 8
  | none => stashByte b n

/-- The step that runs on a core's engine reads one aligned word of its slabs now (R320); what it has not read when it retires it
reads then. -/
def readSlab (s : State) (core word : Nat) : State :=
  match (s.core? core).engine.queue with
  | [] => s
  | k :: rest =>
    match Tbl.get s.blocks k.blk with
    | none => s
    | some b =>
      if windowWaits s core k || slabsWait s b k || !k.slabs.any (fun r => decide (r.1 ≤ 4 * word) && decide (4 * word < r.1 + r.2)) then s
      else
        let (s, bs, bad) := readStash s k.blk (4 * word) 4
        let k := if (Tbl.get k.read word).isSome then k
          else { k with read := Tbl.set k.read word (BitVec.ofNat 32 (natLE bs)), readBad := k.readBad || bad }
        s.modCore core (fun c => { c with engine := { c.engine with queue := k :: rest } })

/-- An engine after its oldest step (R317, R318, R516, R330): VALID stays 0 where poison was used or the stream has halted. -/
def retired (e : Engine) (b : Block) (k : KStep) (bad : Bool) : Engine :=
  let e := ({ e with queue := e.queue.drop 1 } : Engine).perform (k.byte b) k
  let halted := match b.seqCtx with
    | some c => decide (c.st = 3)
    | none => false
  if bad || halted then { e with valid := false } else e

/-- The start of a step's slab that reaches a mapped row whose line has left the vale (R32). -/
def slabGone (s : State) (k : KStep) : Option Nat := (k.slabs.find? (fun r => (rowGone s k.blk r.1 r.2).isSome)).map (fun r => r.1)

/-- KSTEP_RETIRE (R317 to R320, R516): the oldest step queued on a core's engine is performed, once its slabs are clear
of the range scoreboard; the slabs of a step on a leased engine go through its lease window, which nothing else reads (R315). A slab whose
line has left the vale halts the stream (R32; DEDUCED, log 142). -/
def execKstepRetire (core : Nat) (s : State) : Host.Outcome State Fault Refusal :=
  .next (match (s.core? core).engine.queue with
    | [] => s
    | k :: rest =>
      match Tbl.get s.blocks k.blk with
      | none => s.modCore core (fun c => { c with engine := { c.engine with queue := rest } })
      | some b =>
        if windowWaits s core k || slabsWait s b k then s
        else
          let s := fillSlabs s b k
          let s := match slabGone s k, b.seqCtx with
            | some a, some c => if c.st = 3 then s else testLeft (haltSeq s k.blk cXlate 6 a) k.blk
            | _, _ => s
          let b := (Tbl.get s.blocks k.blk).getD b
          let e := (s.core? core).engine
          let bad := k.zero.isNone && (k.readBad || k.slabs.any (fun r => slabPoisoned b r.1 r.2) || (!k.ovw && decide (e.accPoison ≠ [])))
          let clocks := kstepClocks (k.byte b) k
          let s := s.modCore core (fun c => { c with engine := retired e b k bad })
          let s := s.modVd b.vale b.vd (fun d => { d with stats := Tbl.setCell 0 d.stats 5 (Tbl.cell 0 d.stats 5 + BitVec.ofNat 64 clocks) })
          let s := match k.lease with
            | some l => meterAdd s l clocks
            | none => s
          let pending := s.cores.any (fun c => c.2.engine.queue.any (fun q => decide (q.id = k.id)))
          let s := if pending then s else modSeq s k.blk (fun c => { c with steps := removeNat k.id c.steps })
          let s := releaseRetired s k.blk
          if bad then
            let r : ErrRec := { ErrRec.blank cPoison 2 (some b.vale) (some b.vd) with core := b.core, unit := 4 }
            severity2 s b.vale b.vd r
          else s)

/-! ## Stream control -/

/-- MLOOP with its count (R321). -/
def runLoop (i : Instr) (span : BitVec 10) (n : SeqCtx → Word) (s : State) : Host.Outcome State Fault Refusal :=
  runStream i (fun s blk b c =>
    let e := c.spc + BitVec.ofNat 64 (4 * span.toNat)
    if span.toNat < 2 then seqHalt s blk 0
    else if fetchWaits s b.core b.vale b.vd e then seqWait s blk
    else match fetchWord s b.core b.vale b.vd e with
      | (s, .error f) => testLeft (haltSeq s blk f.cause f.reason 0) blk
      | (s, .ok w) =>
        if w.extractLsb' 26 6 ≠ 7 then seqHalt s blk 0
        else if n c = 0 then modSeq s blk (fun c => { c with spc := e + 4, st := 0 })
        else if 4 ≤ c.loops.length then seqHalt s blk 0
        else seqDone (modSeq s blk (fun c => { c with loops := ⟨c.spc + 4, n c⟩ :: c.loops })) blk) s

/-- MLOOP with an immediate count (R321). -/
def execMloop (span : BitVec 10) (count : BitVec 15) (s : State) : Host.Outcome State Fault Refusal :=
  runLoop (.mloop span count) span (fun _ => count.setWidth 32) s

/-- MLOOP with a register count (R321). -/
def execMloopMreg (span : BitVec 10) (z : BitVec 11) (mreg : BitVec 4) (s : State) : Host.Outcome State Fault Refusal :=
  runLoop (.mloopMreg span z mreg) span (fun c => c.reg mreg.toNat) s

/-- MENDL (R321). -/
def execMendl (rest : BitVec 26) (s : State) : Host.Outcome State Fault Refusal :=
  runStream (.mendl rest) (fun s blk _ c =>
    match c.loops with
    | [] => seqHalt s blk 0
    | l :: t =>
      if 1 < l.count.toNat then modSeq s blk (fun c => { c with spc := l.start, st := 0, loops := { l with count := l.count - 1 } :: t })
      else seqDone (modSeq s blk (fun c => { c with loops := t })) blk) s

/-- MSET (R322). -/
def execMset (mreg : BitVec 4) (imm : BitVec 22) (s : State) : Host.Outcome State Fault Refusal :=
  runStream (.mset mreg imm) (fun s blk _ _ => seqDone (modSeq s blk (fun c => c.setReg mreg.toNat (imm.signExtend 32))) blk) s

/-- MADD (R322). -/
def execMadd (mreg : BitVec 4) (imm : BitVec 22) (s : State) : Host.Outcome State Fault Refusal :=
  runStream (.madd mreg imm) (fun s blk _ _ =>
    seqDone (modSeq s blk (fun c => c.setReg mreg.toNat (c.reg mreg.toNat + imm.signExtend 32))) blk) s

/-- MBUF (R323). -/
def execMbuf (slots : BitVec 8) (z : BitVec 18) (s : State) : Host.Outcome State Fault Refusal :=
  runStream (.mbuf slots z) (fun s blk _ c =>
    if slots &&& ~~~c.loaded ≠ 0 then seqHalt s blk 0
    else seqDone (modSeq s blk (fun c => { c with
      ri := (natsFrom 0 8).foldl (fun t j =>
        if slots.getLsbD j then
          Tbl.setCell 0 t j ((Tbl.cell 0 t j + 1) % max 1 (descOf ((Tbl.get c.d j).getD [])).ring)
        else t) c.ri })) blk) s

/-- MBARW (R324). -/
def execMbarw (bar mreg : BitVec 4) (inc : BitVec 1) (z : BitVec 17) (s : State) : Host.Outcome State Fault Refusal :=
  runStream (.mbarw bar mreg inc z) (fun s blk b c =>
    let x := (Tbl.get b.bars bar.toNat).getD Barrier.fresh
    if tokenPassed x.phase (c.reg mreg.toNat) then
      seqDone (modSeq s blk (fun c => if inc = 1 then c.setReg mreg.toNat (c.reg mreg.toNat + 1) else c)) blk
    else modSeq s blk (fun c => { c with st := 1, wantBar := some (bar.toNat, c.reg mreg.toNat) })) s

/-- MBARA (R324). -/
def execMbara (bar : BitVec 4) (lag : BitVec 2) (z : BitVec 20) (s : State) : Host.Outcome State Fault Refusal :=
  runStream (.mbara bar lag z) (fun s blk b c =>
    let x := (Tbl.get b.bars bar.toNat).getD Barrier.fresh
    if !x.seq then seqHalt s blk 0
    else if lag.toNat < c.steps.length then seqWait s blk
    else modBarrier (seqDone s blk) blk bar.toNat (fun x => { x with arrived := x.arrived + 1 })) s

/-- MFENCE (R324). -/
def execMfence (rest : BitVec 26) (s : State) : Host.Outcome State Fault Refusal :=
  runStream (.mfence rest) (fun s blk _ c => if c.steps = [] then seqDone s blk else seqWait s blk) s

/-- MEND (R324): the context ends, and leaves the block's barriers. -/
def execMend (rest : BitVec 26) (s : State) : Host.Outcome State Fault Refusal :=
  runStream (.mend rest) (fun s blk _ c =>
    if c.steps = [] then testLeft (modSeq s blk (fun c => { c with spc := c.spc + 4, st := 2 })) blk else seqWait s blk) s

/-- Whether a block's sequencer may take its next word (R308, R394). -/
def canSequence (s : State) (b : Block) (c : SeqCtx) : Bool :=
  vdIssues s b.vale b.vd && decide (b.st = .resident) && !b.preempt && decide (c.st.toNat ≤ 1) && decide (c.restore = [])

/-- A sequencer's turn: it fetches the word at SPC (R308, R500). -/
def issueSeq (s : State) (blk : Nat) : Issued :=
  match Tbl.get s.blocks blk with
  | none => .done s
  | some b => match b.seqCtx with
    | none => .done s
    | some c =>
      if !canSequence s b c || fetchWaits s b.core b.vale b.vd c.spc then .done s
      else match fetchWord s b.core b.vale b.vd c.spc with
        | (s, .error f) => .done (testLeft (haltSeq s blk f.cause f.reason 0) blk)
        | (s, .ok w) =>
          match decodeStream w with
          | .error _ => .done (seqHalt s blk 0)
          | .ok i => .run { s with cur := .seq blk } i

end Sys2Proof.Machine
end

