-- ==== Sys2Proof/Machine/Mxs.lean ====
section
/-! DEFINITION. Accumulator access from waves: MXRD, MXWR and MXSTAT (R325 to R328, R330), and the events of memory traffic:
ACCESS_PERFORMED, LOAD_COMPLETE (R149, R172), SADDLE_UPDATE_APPLY and APPLIED_NOTICE (R151). -/
namespace Sys2Proof.Machine

/-- The sequencer context of a wave's block. -/
def seqOf (s : State) (wv : Wave) : Option SeqCtx := (Tbl.get s.blocks wv.blk).bind (fun (b : Block) => b.seqCtx)

/-- The team a wave's block holds. -/
def teamHeld (s : State) (wv : Wave) : Option Team := (seqOf s wv).bind (fun c => c.team)

/-- Whether a selection word is misused (R330): high bits set, a column beyond the team, or not a multiple of g. -/
def selBad (t : Team) (g n : Nat) (x : Word) : Bool :=
  let j := bitsOf x.toNat 15 7
  decide (x.toNat / 2 ^ 16 ≠ 0) || decide (128 * t.engines.length < j + n) || decide (j % g ≠ 0)

/-- A band scale (R311, R325), and whether its word of stash is poisoned (R515): 1.0 where none is recorded or NOSCALE is set. -/
def bandScale (b : Block) (addr : BitVec 19) (noscale : Bool) (n : Nat) : Val × Bool :=
  if noscale || addr.getLsbD 18 then (.fin false 1 1, false)
  else
    let a := addr.toNat % 2 ^ 18 + 2 * n
    (valOf bf16 ((stashByte b a).toNat + 256 * (stashByte b (a + 1)).toNat), b.stashPoison.contains (a / 4))

/-- A member's engine as an MXRD or MXWR of a block finds it: what another block has since claimed reads as +0 (R119, R314). -/
def ownEngine (s : State) (blk : Nat) (t : Team) (m : Nat) : Engine :=
  let e := memberEngine s t m
  if e.lastHolder = some blk then e else Engine.fresh

/-- The packed columns from j on of row i, as one register of an MXRD, and whether a word of them, or of the band scales they use, was
poisoned. -/
def mxWord (s : State) (blk : Nat) (b : Block) (r : MxReq) (i j : Nat) : Word × Bool :=
  let fmt := r.f.toNat % 8
  let (g, w) := mxFormat fmt
  (natsFrom 0 g).foldl (fun (a : Word × Bool) q =>
    let col := j + q
    let e := ownEngine s blk r.team (col / 128)
    let sa := bandScale b r.saAddr (r.f.getLsbD 4) (i / 64)
    let sb := bandScale b r.sbAddr (r.f.getLsbD 4) (col / 64)
    let v := mulV (mulV (accValue e i (col % 128)) sa.1) sb.1
    (a.1 ||| BitVec.ofNat 32 (mxConvert fmt (r.f.getLsbD 3) v * 2 ^ (w * q)),
      a.2 || sa.2 || sb.2 || e.accPoison.contains (128 * i + col % 128))) (0, false)

/-- Whether a wave's MXRD numbered `id` must wait (R110, R137, R144, R328): for its band scales, for an older MXRD of the wave, or for
an earlier acquire. -/
def mxWaits (s : State) (wid id : Nat) (w : Wave) (r : MxReq) : Bool :=
  (r.scales w.blk).any (fun t => targetWaits s t 4 false || ownPending s wid id t 4 false true) ||
    acquirePending s wid w id || w.outst.any (fun o => decide (o.id < id) && match o.op with
      | .mxrd _ => true
      | _ => false)

/-- Fills the mapped rows that hold the band scales of an MXRD (R108). -/
def fillBands (s : State) (blk : Nat) (r : MxReq) : State :=
  (r.scales blk).foldl (fun s t => match t with
    | .stash b off => fillRow s b (off / 128)
    | _ => s) s

/-- Completes an outstanding MXRD in the lanes of a mask, unless it must wait (R325, R328); a band scale in a row whose line has left the vale
faults its lanes (R32). -/
def completeMx (s : State) (wid id : Nat) (r : MxReq) (lanes : Mask) : State :=
  match Tbl.get s.waves wid with
  | none => s
  | some wv =>
    if mxWaits s wid id wv r then s else
    match (r.scales wv.blk).findSome? (fun t => match t with
      | .stash b off => rowGone s b off 4
      | _ => none) with
    | some f => lateFaults (dropOutst s wid id) wid r.pos (r.sel.map (fun x => (x.1 % 16, f.cause, BitVec.ofNat 32 f.reason, f.addr)))
    | none =>
    let s := fillBands s wv.blk r
    match Tbl.get s.blocks wv.blk with
    | some b =>
      let now := r.sel.filter (fun x => hasLane lanes (x.1 % 16))
      let left := r.sel.filter (fun x => !hasLane lanes (x.1 % 16))
      let g := (mxFormat (r.f.toNat % 8)).1
      let n := if r.f.getLsbD 5 then 4 else 1
      let res := now.foldl (fun (a : Wave × List (Nat × DWord)) x =>
        let i := x.2.toNat % 128
        let j := bitsOf x.2.toNat 15 7
        let ws := (natsFrom 0 n).map (fun q => mxWord s wv.blk b r i (j + g * q))
        let bad := ws.any (fun p => p.2)
        let wv := (natsFrom 0 n).foldl (fun wv q =>
          wv.wr (r.dst + BitVec.ofNat 7 q) [x.1 % 16] (fun _ => if bad then 0 else ((ws.getD q (0, false)).1))) a.1
        (wv, if bad then a.2 ++ [(x.1 % 16, 0)] else a.2)) (wv, [])
      let outst := if left = [] then res.1.outst.filter (fun o => decide (o.id ≠ id))
        else res.1.outst.map (fun o => if o.id = id then { o with op := .mxrd { r with sel := left } } else o)
      consumePoison (s.setWave wid { res.1 with outst := outst }) wid r.pos res.2
    | none => dropOutst s wid id

/-- Whether a wave's MXWR is held at issue (R144, R328): an MXRD of the wave has not read, or an earlier acquire is not performed. -/
def mxwrHeld (s : State) (w : Nat) (wv : Wave) : Bool :=
  acquirePending s w wv s.nextId || wv.outst.any (fun o => match o.op with
    | .mxrd _ => true
    | _ => false)

/-- The registers an MXRD or MXSTAT writes (R325, R327). -/
def mxDests : Instr → List RegField
  | .mxrd o => fieldsFrom o.d (if o.f.getLsbD 5 then 4 else 1)
  | .mxstat o => [o.d]
  | _ => []

/-- The frame of an MXS instruction: TASK in a speculative task (R358), RESERVED_FIELD without a team (R330), and the lanes
whose selection is misused, bound singly. The destination of a lane whose selection or data is poisoned receives zero (R515). -/
def runMx (i : Instr) (srcs : List RegField) (bad : Team → Word → Bool) (needTeam : Bool) (o : MxFields) (lanes : Wave → Mask)
    (held : State → Nat → Wave → Bool) (op : State → Nat → Wave → List Nat → State) (s : State) : Host.Outcome State Fault Refusal :=
  runWave i (fun s w wv =>
    if s.speculative wv then raiseInstr s w wv i cTask 0
    else if held s w wv then s
    else if needTeam && (teamHeld s wv).isNone then raiseInstr s w wv i cField 0
    else
      let t := (teamHeld s wv).getD ⟨0, 0, 0, []⟩
      let ls := accLanes i (lanes wv)
      let pois := poisonedLanes wv srcs (ls.map (fun l => l % 16))
      let ls := ls.filter (fun l => !pois.contains (l % 16))
      let wrong := ls.filter (fun l => bad t (wv.rd o.a (l % 16)))
      let s := op s w wv (ls.filter (fun l => !wrong.contains l))
      let s := if pois = [] then s else s.modWave w (fun x => (mxDests i).foldl (fun x d => x.wr d (pois.map (fun l => l % 16)) (fun _ => 0)) x)
      consumePoison (finishMem i s w (wrong.map (fun l => (l, (⟨cField, 0, 0⟩ : AddrFault))))) w wv.pos (pois.map (fun l => (l, 0)))) s

/-- Columns a lane's selection takes (R325, R326). -/
def mxSpan (f : BitVec 6) : Nat := (mxFormat (f.toNat % 8)).1 * (if f.getLsbD 5 then 4 else 1)

/-- What an MXRD of some lanes is to read: of the team its block holds, with the band scales recorded now (R325). -/
def mxReq (s : State) (wv : Wave) (o : MxFields) (ls : List Nat) : MxReq :=
  { pos := wv.pos, f := o.f, dst := o.d, team := (teamHeld s wv).getD ⟨0, 0, 0, []⟩
    saAddr := ((seqOf s wv).map (fun c => c.saAddr)).getD 0x40000, sbAddr := ((seqOf s wv).map (fun c => c.sbAddr)).getD 0x40000
    sel := ls.map (fun l => (l, wv.rd o.a (l % 16))) }

/-- MXRD (R325): outstanding with its lookahead, and read at once unless it may complete later. -/
def execMxrd (o : MxFields) (s : State) : Host.Outcome State Fault Refusal :=
  runMx (.mxrd o) [o.a] (fun t x => selBad t (mxFormat (o.f.toNat % 8)).1 (mxSpan o.f) x) true o Wave.part (fun _ _ _ => false) (fun s w wv ls =>
    let (id, s) := s.fresh
    let r := mxReq s wv o ls
    let s := s.modWave w (fun x => { x with outst := x.outst ++ [⟨id, x.issued + 1 + o.l.toNat, .mxrd r⟩] })
    if ls = [] then dropOutst s w id else if s.defer then s else completeMx s w id r 0xFFFF) s

/-- MXWR (R326): in ascending lane order; a written word's poison ends. -/
def execMxwr (o : MxFields) (s : State) : Host.Outcome State Fault Refusal :=
  runMx (.mxwr o) (o.a :: fieldsFrom o.d (if o.f.getLsbD 5 then 4 else 1)) (fun t x => selBad t 1 (mxSpan o.f) x) true o Wave.live mxwrHeld
    (fun s _ wv ls =>
      let t := (teamHeld s wv).getD ⟨0, 0, 0, []⟩
      ls.foldl (fun s l =>
        let x := (wv.rd o.a (l % 16)).toNat
        (natsFrom 0 (if o.f.getLsbD 5 then 4 else 1)).foldl (fun s q =>
          let j := bitsOf x 15 7 + q
          let n := 128 * (x % 128) + j % 128
          if leaseEnded s t then s else s.modCore (t.engines.getD (j / 128) 0) (fun c =>
            let v := mxSource (o.f.toNat % 8) c.engine.s32 (wv.rdN o.d q (l % 16))
            let e : Engine := { c.engine with acc := Tbl.setCell 0 c.engine.acc n v, accPoison := removeNat n c.engine.accPoison }
            { c with engine := e.note v })) s) s) s

/-- The status word of an engine that a team holds (R327). -/
def engineStatus (s : State) (t : Team) (e : Engine) : Word :=
  BitVec.ofNat 32 (bit1 e.valid + 2 + 4 * bit1 e.s32 + 8 * bit1 (!e.queue.isEmpty) + 16 * bit1 e.nan + 32 * bit1 e.inf +
    64 * bit1 e.sat + 128 * bit1 (decide (t.mode = 2)) + 256 * bit1 (leaseEnded s t) + 2 ^ 16 * e.ksteps.toNat)

/-- The status word of a member (R327). -/
def mxStatus (s : State) (t : Option Team) (m : Nat) : Word :=
  match t with
  | none => 0
  | some t => if t.engines.length ≤ m then 0 else engineStatus s t (memberEngine s t m)

/-- MXSTAT (R327): bits [1:0] of the selection name the member, and bits [31:16] must be zero (R330; DEDUCED, log 15). -/
def execMxstat (o : MxFields) (s : State) : Host.Outcome State Fault Refusal :=
  runMx (.mxstat o) [o.a] (fun _ x => decide (x.toNat / 2 ^ 16 ≠ 0)) false o Wave.part (fun _ _ _ => false) (fun s w wv ls =>
    s.modWave w (fun x => ls.foldl (fun x l => x.wr o.d [l % 16] (fun _ => mxStatus s (teamHeld s wv) ((wv.rd o.a (l % 16)).toNat % 4))) x)) s

/-! ## Memory traffic -/

/-- Completes lanes of an outstanding instruction: a load, atomic, LDC, store, counter add, fence or MXRD. -/
def completeOutst (s : State) (wid id : Nat) (lanes : Mask) : State :=
  match Tbl.get s.waves wid with
  | none => s
  | some w =>
    match w.outst.find? (fun o => decide (o.id = id)) with
    | none => s
    | some o =>
      match o.op with
      | .mxrd r => completeMx s wid id r lanes
      | _ => completeLoad s wid id lanes true

/-- LOAD_COMPLETE (R172): data comes back, in the lanes of a mask. -/
def execLoadComplete (wave load : Nat) (lanes : Mask) (s : State) : Host.Outcome State Fault Refusal :=
  .next (completeOutst s wave load lanes)

/-- Whether two updates touch a byte in common. -/
def Update.meets (u v : Update) : Bool := decide (u.key < v.key + v.op.size) && decide (v.key < u.key + u.op.size)

/-- Whether an update's home may apply it: it knows all that the update depends on (R151), and no earlier update of the same die to
its bytes is still to come (R143). -/
def updateReady (s : State) (u : Update) : Bool :=
  (natsFrom 0 8).all (fun i => serialGe (vecGet s.applied u.home i) (u.vc.getD i 0)) &&
    !s.updates.any (fun x => !x.applied && decide (x.origin = u.origin) && decide (x.seq ≠ u.seq) && serialGe u.seq x.seq && u.meets x)

/-- SADDLE_UPDATE_APPLY (R151): an update is applied at its home once its vector allows. -/
def execSaddleUpdateApply (die seq : Nat) (s : State) : Host.Outcome State Fault Refusal :=
  .next (match s.updates.find? (fun u => decide (u.origin = die) && decide (u.seq.toNat = seq) && !u.applied) with
    | none => s
    | some u =>
      let lines := unitsOf 128 u.key u.op.size
      let held := lines.any (fun l => lineHeldBut s u.access l || lineLocked s l || updateHeld s u l)
      if !updateReady s u || held || routeStalled s u.origin u.home then s
      else
        let s := { s with updates := s.updates.map (fun x => if x.origin = u.origin && decide (x.seq = u.seq) then { x with applied := true } else x) }
        match Tbl.get s.inflight u.access with
        | none => s
        | some a => dropAccess (performMem s a u.key) u.access)

/-- APPLIED_NOTICE (R151): the notice of an applied update reaches its origin, which broadcasts its contiguous count. -/
def execAppliedNotice (die seq : Nat) (s : State) : Host.Outcome State Fault Refusal :=
  .next (match s.updates.find? (fun u => decide (u.origin = die) && decide (u.seq.toNat = seq) && u.applied) with
    | none => s
    | some u =>
      if routeStalled s u.home u.origin then s else
      let s := mergeKnown s u.origin u.home
      let left := s.updates.filter (fun x => !(decide (x.origin = u.origin) && decide (x.seq = u.seq)))
      let upTo : BitVec 16 := match left.find? (fun x => decide (x.origin = die)) with
        | some x => x.seq - 1
        | none => vecGet s.known die die
      let upTo := if serialGe upTo (vecGet s.applied die die) then upTo else vecGet s.applied die die
      { s with updates := left, applied := (natsFrom 0 8).foldl (fun t a => vecSet t a die upTo) s.applied })

end Sys2Proof.Machine
end

