-- ==== Sys2Proof/Machine/Order.lean ====
section
/-! DEFINITION. The order in which a vale's jobs are offered slots (R391), cluster slots (R49), and what of a job fits a
glen (R393). -/
namespace Sys2Proof.Machine

/-! ## The deadline order -/

/-- The round-robin key of a job (R391). -/
def jobKey (j : Job) : Nat := 64 * j.vd + j.queue

/-- How far a job's key stands from the vale's pointer. -/
def keyDistance (v : Vale) (j : Job) : Nat := (jobKey j + 1024 - v.rrKey % 1024) % 1024

/-- Whether one job ranks before another (R391): by deadline, BACKGROUND last, equals by the round-robin key, then by
card number. -/
def ranksBefore (v : Vale) (a b : Job) : Bool :=
  let tie : Bool := decide (keyDistance v a < keyDistance v b) || (decide (keyDistance v a = keyDistance v b) && decide (a.number < b.number))
  match a.deadline, b.deadline with
  | some x, some y => decide (x.toNat < y.toNat) || (decide (x = y) && tie)
  | some _, none => true
  | none, some _ => false
  | none, none => tie

/-- Inserts a job in order. -/
def insertJob (v : Vale) (e : Nat × Job) : List (Nat × Job) → List (Nat × Job)
  | [] => [e]
  | x :: t => if ranksBefore v e.2 x.2 then e :: x :: t else x :: insertJob v e t

/-- Whether a job's queue is PARKED until a count still to come (R389). -/
def jobParked (s : State) (j : Job) : Bool := decide (s.tod.toNat < qParkUntil s j.vale j.vd j.queue)

/-- The first 64 jobs of a vale in order that are not PARKED (R391). -/
def jobOrder (s : State) (vale : Nat) : List (Nat × Job) :=
  match s.vale? vale with
  | none => []
  | some v =>
    ((s.jobs.filter (fun e => decide (e.2.vale = vale) && vdIssues s vale e.2.vd && !jobParked s e.2)).foldl (fun l e => insertJob v e l) []).take 64

/-- Moves the round-robin pointer past a job that takes a slot (R391). -/
def passKey (s : State) (j : Job) : State := s.modVale j.vale (fun v => { v with rrKey := (jobKey j + 1) % 1024 })

/-! ## Cluster slots -/

/-- The cores of a glen. -/
def glenCores (g : Nat) : List Nat := natsFrom (16 * g) 16

/-- Resident waves of a glen's cores (R393). -/
def glenWaves (s : State) (g : Nat) : Nat := (glenCores g).foldl (fun n c => n + residentWaves s c) 0

/-- Takes n cores, those with the fewest resident waves first (R393). -/
def pickCores (s : State) : Nat → List Nat → List Nat
  | 0, _ => []
  | n + 1, cs => match pickCore s cs with
    | none => []
    | some c => c :: pickCores s n (cs.filter (fun x => decide (x ≠ c)))

/-- Whether a core belongs to a chunk of a job that has not started (R49). -/
def unstartedOn (j : Job) (core : Nat) : Bool := j.chunks.any (fun e => e.2.round.isNone && e.2.cores.contains core)

/-- The cores of a glen that can take one more block of a job (R49). -/
def slotCores (s : State) (j : Job) (g : Nat) : List Nat :=
  (glenCores g).filter (fun c => fitsCore s c j.vale j.vd j.card && !unstartedOn j c)

/-- The cluster slot of a glen a chunk would take: CLUSTER cores (R49, R393). -/
def slotIn (s : State) (j : Job) (g : Nat) : Option (List Nat) :=
  let cs := pickCores s (cardCluster j.card) (slotCores s j g)
  if cs.length = cardCluster j.card && decide (cs ≠ []) then some cs else none

/-- Cluster slots free for a job in its vale (R49). -/
def freeSlotCount (s : State) (v : Vale) (j : Job) : Nat :=
  (natsFrom v.first v.n).foldl (fun n g => n + (slotCores s j g).length / max 1 (cardCluster j.card)) 0

/-- DIVK (R44). -/
def cardDivk (card : List Word) : Nat := cardField card 0x20 55 48

/-- MINCHUNK (R44). -/
def cardMinChunk (card : List Word) : Nat := cardField card 0x20 23 0

/-- MAXCHUNK (R44). -/
def cardMaxChunk (card : List Word) : Nat := cardField card 0x20 47 24

/-- The size of a chunk from the records left and the free slots F (R49). -/
def chunkOf (card : List Word) (left f : Nat) : Nat :=
  let c := ceilDiv left (max 1 (cardDivk card) * max 1 f)
  let c := min (max c (cardMinChunk card)) (cardMaxChunk card)
  min (ceilDiv c (max 1 (cardCluster card)) * cardCluster card) left

/-- The size of a job's next chunk (R49). -/
def chunkSize (s : State) (j : Job) : Nat :=
  match s.vale? j.vale with
  | none => 0
  | some v => chunkOf j.card (cardRecords j.card - j.next) (freeSlotCount s v j)

/-! ## Saved blocks -/

/-- Whether a core's code tables already equal a saved block's (R393, R95). -/
def tablesEqual (s : State) (core vale vd : Nat) (t : Bank × Bank × Bool) : Bool :=
  let c := s.core? core
  let same (x y : Bank) : Bool := x.owner.isNone || (decide (x.entries = y.entries) &&
    decide (y.owner = some (vale, vd, (Tbl.get c.gen (vdKey vale vd)).getD 0)))
  same t.1 c.bank0 && same t.2.1 c.bank1 && (t.2.2 == c.current)

/-- Whether a core's code tables suit a saved block (R393), beside what its card asks. -/
def tablesFit (s : State) (b : Block) (core : Nat) : Bool :=
  match b.codeSaved with
  | none => true
  | some t => tablesEqual s core b.vale b.vd t || decide (blocksOn s core = [])

/-- Whether a saved block fits on a core (R393). -/
def resumeFits (s : State) (b : Block) (core : Nat) : Bool := fitsCore s core b.vale b.vd (s.cardOf b.job) && tablesFit s b core

/-- Sessions open in a glen's coverage unit (R331), those of retired blocks with commands left among them. -/
def sessionsIn (s : State) (g : Nat) : Nat :=
  Tbl.count (fun _ (x : Block) => x.cov.isSome && (holdsCore x || decide (x.st = .retired)) && decide (glenOfCore x.core = g)) s.blocks

/-- Whether a block is saved and waits only for a slot. -/
def waitsSlot (b : Block) : Bool :=
  match b.st with
  | .saved _ f _ _ => !f
  | _ => false

/-- The members of a block's cluster that stand, in rank order. -/
def clusterBlocks (s : State) (b : Block) : List (Nat × Block) :=
  match Tbl.get s.clusters b.cluster with
  | none => []
  | some c => c.members.filterMap (fun m => (Tbl.get s.blocks m).map (fun x => (m, x)))

/-- Assigns distinct cores to saved blocks, each the one with the fewest resident waves (R393); none if one has no
place. -/
def assignCores (s : State) : List (Nat × Block) → List Nat → Option (List (Nat × Nat))
  | [], _ => some []
  | e :: t, cs =>
    match pickCore s (cs.filter (fun c => resumeFits s e.2 c)) with
    | none => none
    | some c => (assignCores s t (cs.filter (fun x => decide (x ≠ c)))).map (fun r => (e.1, c) :: r)

/-- The members of a saved cluster that must be placed again. -/
def savedMembers (s : State) (b : Block) : List (Nat × Block) := (clusterBlocks s b).filter (fun e => waitsSlot e.2)

/-- The cores of a glen that saved blocks take together (R393), if it has them, and sessions of its coverage unit for those that need one
(R331, R350). -/
def membersFit (s : State) (ms : List (Nat × Block)) (g : Nat) : Option (List (Nat × Nat)) :=
  if sessionsIn s g + (ms.filter (fun e => e.2.cov.isSome)).length ≤ 64 then assignCores s ms (glenCores g) else none

/-- Whether the gates of some records of a job are open (R51). -/
def gatesOpen (job : Nat) : List Nat → State → State × Bool
  | [], s => (s, true)
  | i :: t, s => match gateOpen s job i with
    | (s, false) => (s, false)
    | (s, true) => gatesOpen job t s

/-- The records whose gates saved blocks wait on (R51, R393): a child task has none. -/
def savedGates (s : State) (ms : List (Nat × Block)) : List Nat :=
  ms.flatMap (fun e => match e.2.task with
    | none => [e.2.record.toNat]
    | some q => match (orderedOf s e.2.job).bind (fun o => Tbl.get o.tasks q) with
      | some t => if t.root then [t.record.toNat] else []
      | none => [])

/-- A saved block or cluster of a job that fits a glen, its gates open (R391, R393). -/
def savedFits (s : State) (job g : Nat) : Bool :=
  s.blocks.any (fun e => decide (e.2.job = job) && waitsSlot e.2 && (membersFit s (savedMembers s e.2) g).isSome &&
    (gatesOpen job (savedGates s (savedMembers s e.2)) s).2)

/-! ## Offers -/

/-- Whether a job may be dealt its next chunk in a glen (R49, R51). -/
def chunkFits (s : State) (job : Nat) (j : Job) (g : Nat) : Bool :=
  j.ord.isNone && decide (j.next < cardRecords j.card) && (slotIn s j g).isSome && (gateOpen s job j.next).2

/-- Whether every block of a round has retired (R50), its K-steps among what it waits for (R550). -/
def roundOver (s : State) (cl : Nat) : Bool :=
  match Tbl.get s.clusters cl with
  | none => true
  | some c => c.members.all (fun m => match Tbl.get s.blocks m with
    | some b => decide (b.st = .retired) && !stepsQueued s m
    | none => true)

/-- The records of a chunk's next round (R50). -/
def roundSize (j : Job) (c : Chunk) : Nat := min (cardCluster j.card) (c.stop - c.next)

/-- Whether a chunk's next round has its cores: the round before it has retired, and every block fits (R50, R393). -/
def roundReady (s : State) (j : Job) (c : Chunk) : Bool :=
  let m := roundSize j c
  let cores := c.cores.take m
  let roundDone := match c.round with
    | some cl => roundOver s cl
    | none => true
  decide (m ≠ 0) && roundDone && vdIssues s j.vale j.vd && cores.all (fun k => fitsCore s k j.vale j.vd j.card) && decide (cores.length = m)

/-- Whether a chunk dealt to a glen has not started and could (R49 to R51). -/
def dealtFits (s : State) (job : Nat) (j : Job) (g : Nat) : Bool :=
  j.chunks.any (fun c => decide (c.2.glen = g) && c.2.round.isNone && roundReady s j c.2 && (gatesOpen job (natsFrom c.2.next (roundSize j c.2)) s).2)

/-- The job a free slot of a glen goes to (R391): the first in order with work that fits. -/
def firstOffer (s : State) (vale g : Nat) : Option Nat :=
  ((jobOrder s vale).find? (fun e => savedFits s e.1 g || dealtFits s e.1 e.2 g || chunkFits s e.1 e.2 g)).map (fun e => e.1)

/-- The glen work goes to when it fits several (R393): fewest resident waves, then the lowest index. -/
def bestGlen (s : State) (vale : Nat) (fits : Nat → Bool) : Option Nat :=
  match s.vale? vale with
  | none => none
  | some v =>
    ((natsFrom v.first v.n).filter fits).foldl (fun (b : Option Nat) g => match b with
      | none => some g
      | some x => if glenWaves s g < glenWaves s x then some g else some x) none

end Sys2Proof.Machine
end

