-- ==== Sys2Proof/Machine/Carve.lean ====
section
/-! DEFINITION. Changes of a core's carve-out between stash and L1 (R132 to R134, R411), with the event CARVE_CONVERSION. -/
namespace Sys2Proof.Machine

/-! ## One core -/

/-- Whether the L1 ways that a growing stash takes still hold something (R133): a speculative line, or a line with a write-through
in flight. `ways` are left. -/
def waysBusy (s : State) (core ways : Nat) : Bool :=
  s.jobs.any (fun e => match e.2.ord with
    | some o => o.tasks.any (fun t => t.2.lines.any (fun l => decide (l.2.core = core) && decide (ways ≤ l.2.way)))
    | none => false) ||
  s.inflight.any (fun e => decide (e.2.core = core) && (match e.2.target with
    | .mem k => (s.core? core).l1.any (fun x => decide (ways ≤ x.way) && decide (x.sector / 4 = k / 128))
    | _ => false))

/-- A conversion ends, if it can (R133): stash grows once the L1 ways it takes are clear, and they are invalidated; it shrinks once no
resident block owns a row it gives, and the new ways start empty. No block that requires the carve-out it stands under may be resident
(R132, R411). -/
def endConversion (s : State) (core : Nat) : State :=
  let c := s.core? core
  match c.convert with
  | none => s
  | some k =>
    let rows := (blocksOn s core).all (fun e => decide (e.2.stashBase + e.2.stashKib ≤ k))
    let carve := (blocksOn s core).any (fun e => decide (cardField (s.cardOf e.2.job) 0x70 2 0 ≠ 0))
    if carve || (decide (c.stashKib < k) && waysBusy s core (l1Ways c)) || (decide (k < c.stashKib) && !rows) then s
    else s.modCore core (fun c => { c with stashKib := k, convert := none, l1 := c.l1.filter (fun e => decide (e.way < l1Ways c)) })

/-- Starts a conversion (R133); a core that holds nothing in its way converts at once (R134). -/
def beginConversion (s : State) (core k : Nat) : State := endConversion (s.modCore core (fun c => { c with convert := some k })) core

/-- CARVE_CONVERSION (R133): a core's conversion ends. -/
def execCarveConversion (core : Nat) (s : State) : Host.Outcome State Fault Refusal := .next (endConversion s core)

/-! ## Which cores convert -/

/-- KiB a lease window takes of a core's stash (R411). -/
def windowKib (s : State) (core : Nat) : Nat := if leasedCore s core then 64 else 0

/-- Whether a block of a card has room in a core's stash once the carve-out is k (R132). -/
def roomUnder (s : State) (core k : Nat) (card : List Word) : Bool :=
  decide (windowKib s core ≤ k) && (stashRoom s core (cardStash card) (k - windowKib s core)).isSome

/-- The carve-out a core would convert to for a card (R132): CARVE's, or the least that has room. -/
def carveTarget (s : State) (core : Nat) (card : List Word) : Option Nat :=
  let cv := cardField card 0x70 2 0
  (if cv = 0 then (natsFrom 0 8).map (fun k => 32 * k) else [32 * cv]).find? (fun k => roomUnder s core k card)

/-- Whether a core may convert, and could then take a block of a card (R132). -/
def mayConvert (s : State) (core vale vd : Nat) (card : List Word) : Bool :=
  ((s.core? core).convert).isNone && fitsBut s core vale vd card &&
    (blocksOn s core).all (fun e => decide (cardField (s.cardOf e.2.job) 0x70 2 0 = 0)) && (carveTarget s core card).isSome &&
    !fitsCore s core vale vd card

/-- Whether a core is changing to a carve-out under which it takes a block of a card. -/
def willFit (s : State) (core vale vd : Nat) (card : List Word) : Bool :=
  let cv := cardField card 0x70 2 0
  match (s.core? core).convert with
  | some k => fitsBut s core vale vd card && (decide (cv = 0) || decide (k = 32 * cv)) && roomUnder s core k card
  | none => false

/-- What waits for a carve-out: blocks of a card, how many, and the cores of a glen that take one as they stand. -/
structure Need where
  vale : Nat
  vd : Nat
  card : List Word
  n : Nat
  now : Nat → List Nat
  suits : Nat → Bool

/-- The cores of a glen that will take a block once their conversion ends. -/
def Need.coming (s : State) (x : Need) (g : Nat) : List Nat := (glenCores g).filter (fun c => willFit s c x.vale x.vd x.card && x.suits c)

/-- The cores of a glen that may convert and could then take a block (R132). -/
def Need.convertible (s : State) (x : Need) (g : Nat) : List Nat := (glenCores g).filter (fun c => mayConvert s c x.vale x.vd x.card && x.suits c)

/-- Cores of a glen that take a block now or once the conversions under way have ended. -/
def Need.ready (s : State) (x : Need) (g : Nat) : Nat := (x.now g).length + (x.coming s g).length

/-- Whether some glen meets a need, as it stands or by conversions under way. -/
def Need.met (s : State) (x : Need) : Bool :=
  match s.vale? x.vale with
  | some v => (natsFrom v.first v.n).any (fun g => decide (x.n ≤ x.ready s g))
  | none => true

/-- The glen in which a need is met once more cores have converted (R132, R393). -/
def Need.glen (s : State) (x : Need) : Option Nat := bestGlen s x.vale (fun g => decide (x.n ≤ x.ready s g + (x.convertible s g).length))

/-- Starts the conversions a need asks for, when no core of the vale can take the work as it stands (R132). -/
def Need.start (s : State) (x : Need) : State :=
  if x.met s then s
  else match x.glen s with
    | none => s
    | some g => (pickCores s (x.n - x.ready s g) (x.convertible s g)).foldl (fun s c => match carveTarget s c x.card with
        | some k => beginConversion s c k
        | none => s) s

/-- What a job's next round needs (R132): the cores of a chunk that has not started are not for another. -/
def roundNeed (s : State) (j : Job) : Need :=
  { vale := j.vale, vd := j.vd, card := j.card, n := max 1 (cardCluster j.card), now := slotCores s j, suits := fun c => !unstartedOn j c }

/-- What saved blocks of a cluster need to be placed again (R132, R393). -/
def savedNeed (s : State) (b : Block) (ms : List (Nat × Block)) : Need :=
  let suits (c : Nat) : Bool := ms.all (fun e => tablesFit s e.2 c)
  { vale := b.vale, vd := b.vd, card := s.cardOf b.job, n := max 1 ms.length
    now := fun g => (glenCores g).filter (fun c => fitsCore s c b.vale b.vd (s.cardOf b.job) && suits c), suits := suits }

/-- Starts the conversions a job's next round needs, when no slot of the vale fits it as it stands (R132). -/
def startConversion (s : State) (j : Job) : State := (roundNeed s j).start s

/-- Whether a job's next round fits the vale, as it stands or once cores have converted (R132, R392). -/
def roundFits (s : State) (j : Job) : Bool := (roundNeed s j).met s || ((roundNeed s j).glen s).isSome

end Sys2Proof.Machine
end

