-- ==== Sys2Proof/Machine/ReadBack.lean ====
section
/-! DEFINITION. A saved block's records read back from the save area (R404): the layouts of R350 and R400 to R403, read where Save.lean
writes them. What the layouts have no place for stands as the block left it (log 26). -/
namespace Sys2Proof.Machine

/-- The number in n bytes at an offset of a record. -/
def recNat (bs : List Byte) (off n : Nat) : Nat := natLE ((bs.drop off).take n)

/-- A word at an offset of a record. -/
def recWord (bs : List Byte) (off : Nat) : Word := BitVec.ofNat 32 (recNat bs off 4)

/-- A 64-bit word at an offset of a record. -/
def recDWord (bs : List Byte) (off : Nat) : DWord := BitVec.ofNat 64 (recNat bs off 8)

/-- A table of n cells, each equal to the default left out. -/
def recTable {α : Type} [DecidableEq α] (d : α) (n : Nat) (f : Nat → α) : Tbl α := (natsFrom 0 n).foldl (fun t k => Tbl.setCell d t k (f k)) []

/-! ## Wave records -/

/-- A stack entry in the form of R67. -/
def readEntry16 (bs : List Byte) (off : Nat) : StackEntry :=
  { kind := match recNat bs (off + 10) 1 with
      | 0 => .reconv
      | 1 => .path
      | _ => .call
    pc := recDWord bs off, mask := BitVec.ofNat 16 (recNat bs (off + 8) 2), depth := BitVec.ofNat 8 (recNat bs (off + 11) 1) }

/-- Where a wave resumes (R169): at HEADER and WORD, the header to be read again; a wave whose next word is a header reads it as such. Until
the header has been read, the clause is taken to go on, and its predicate stands as the wave left it. -/
def readPos (bs : List Byte) (old : Pos) : Pos :=
  let pc := recDWord bs 0x08
  let hdr := recDWord bs 0x10
  let c := old.clause.getD { hdr := hdr, n := 0, cls := 0, pe := false, pi := 0, pn := false }
  if pc = hdr then ⟨pc, none⟩ else ⟨hdr + BitVec.ofNat 64 (4 * (recNat bs 0x18 1 % 16 + 1)), some { c with hdr := hdr, n := 15 }⟩

/-- What a wave waits on, by the FLAGS, the barrier, the address and the value its record names (R269, R400). The scope of an MWAIT, the upper
half of a SLEEP's count and the waits no flag names stand as the wave left them. -/
def readWait (bs : List Byte) (old : Option Wait) : Option Wait :=
  let flags := recNat bs 0x03 1
  let addr := recDWord bs 0x30
  if bitOf flags 2 then
    let came := bitOf flags 4
    if bitOf (recNat bs 0x04 4) 20 then some (.cbar (recNat bs 0x06 1 % 4) (recWord bs 0x38) came)
    else some (.bar (recNat bs 0x06 1 % 16) (recWord bs 0x38) came)
  else if bitOf flags 0 then
    if addr = 0 then
      let hi := match old with
        | some (.sleep t) => t.toNat / 2 ^ 32
        | _ => 0
      some (.sleep (BitVec.ofNat 64 (hi * 2 ^ 32 + recNat bs 0x38 4)))
    else
      let scope := match old with
        | some (.mwait _ _ x) => x
        | _ => 5
      some (.mwait addr (recWord bs 0x38) scope)
  else match old with
    | some (.bar _ _ _) => none
    | some (.cbar _ _ _) => none
    | some (.mwait _ _ _) => none
    | some (.sleep _) => none
    | w => w

/-- The instruction of a command record, from its word and literal (R401). -/
def readCmdOp (bs : List Byte) (off : Nat) (old : Instr) : Instr :=
  let w := recWord bs off
  match decodeWord w (if hasLiteral w then some (recWord bs (off + 4)) else none) with
  | .ok i => i
  | .error _ => old

/-- Reads the command records of commands that wait, oldest first (R401): the instruction, the lane and the operands. -/
def readCmds (bs : List Byte) : Nat → List WaitCmd → List WaitCmd
  | _, [] => []
  | off, c :: t =>
    let ws := (natsFrom 0 12).map (fun j => recWord bs (off + 0x10 + 4 * j))
    { c with op := readCmdOp bs off c.op, lane := c.lane / 16 * 16 + recNat bs (off + 8) 1 % 16, a := ws.take c.a.length, b := (ws.drop c.a.length).take c.b.length } :: readCmds bs (off + 64) t

/-- The commands of a wave's outstanding instructions, read from one offset on. -/
def readOutst (bs : List Byte) : Nat → List Outst → List Outst
  | _, [] => []
  | off, o :: t =>
    match o.op with
    | .cmds cs => { o with op := .cmds (readCmds bs off cs) } :: readOutst bs (off + 64 * cs.length) t
    | _ => o :: readOutst bs off t

/-- The bytes of a wave's record (R405). -/
def waveRecLength (bs : List Byte) : Nat :=
  let held := recNat bs 0x04 1
  let stack := recNat bs 0x05 1
  let tail := 192 + 512 * held + 16 * stack
  (tail + 32 + 64 * recNat bs (tail + 2) 1 + 127) / 128 * 128

/-- The words of some bytes of a record that lie in its poisoned sectors (R514): word j of those from an offset. -/
def badWords (bad : List Nat) (off n : Nat) : List Nat :=
  if bad = [] then [] else (natsFrom 0 n).filter (fun j => bad.contains ((off + 4 * j) / 32))

/-- The poisoned register words of a wave's record: vector cells, then scalars. -/
def readPoison (bad : List Nat) (held : Nat) : List Nat := badWords bad 192 (128 * held) ++ (badWords bad 64 32).map (fun n => sCell n)

/-- A wave with what its record holds, some of its sectors poisoned (R400, R401, R514). -/
def readWave (bs : List Byte) (bad : List Nat) (w : Wave) : Wave :=
  let held := recNat bs 0x04 1
  let stack := recNat bs 0x05 1
  let tail := 192 + 512 * held + 16 * stack
  { w with
    role := recNat bs 0x02 1, held := held, depth := BitVec.ofNat 8 (recNat bs 0x04 4 / 2 ^ 21), pos := readPos bs w.pos, reread := (readPos bs w.pos).clause.isSome
    active := BitVec.ofNat 16 (recNat bs 0x18 4 / 16), helper := BitVec.ofNat 16 (recNat bs 0x1C 2), exited := BitVec.ofNat 16 (recNat bs 0x1E 2)
    p := recTable 0 8 (fun k => BitVec.ofNat 16 (recNat bs (0x20 + 2 * k) 2)), wait := readWait bs w.wait
    s := recTable 0 32 (fun k => recWord bs (64 + 4 * k)), v := recTable 0 (128 * held) (fun k => recWord bs (192 + 4 * k))
    stack := (natsFrom 0 stack).reverse.map (fun k => readEntry16 bs (192 + 512 * held + 16 * k))
    returned := BitVec.ofNat 16 (recNat bs tail 2), lpair := recTable 0 16 (fun l => BitVec.ofNat 7 (recNat bs (tail + 16 + l) 1))
    poison := readPoison bad held, outst := readOutst bs (tail + 32) w.outst }

/-! ## Block records -/

/-- A barrier from its 128 bits (R402). -/
def readBarrier (x : Nat) : Barrier :=
  { phase := BitVec.ofNat 32 x, count := bitOf x 32, expect := bitsOf x 39 33, seq := bitOf x 40, arrived := bitsOf x 47 41, expSect := bitsOf x 71 48
    sect := bitsOf x 95 72, armed := bitOf x 96 }

/-- A session record (R350). -/
def readSession (bs : List Byte) : Option CovSession :=
  let w := recNat bs 0x160 4
  if bitOf w 23 then
    some { mode := BitVec.ofNat 7 (w / 2 ^ 16), desc := (natsFrom 0 4).map (fun j => recWord bs (0x164 + 4 * j)), head := recNat bs 0x174 1
           count := recNat bs 0x175 1, prims := recDWord bs 0x178, culled := recDWord bs 0x180, occlusion := recDWord bs 0x188, covsum := recDWord bs 0x190 }
  else none

/-- A code-table bank of a record, owned live when its bit says so (R402). -/
def readBank (bs : List Byte) (off vale vd : Nat) (live : Bool) : Bank :=
  if live then { entries := (natsFrom 0 16).map (fun j => BitVec.ofNat 16 (recNat bs (off + 2 * j) 2)), owner := some (vale, vd, 0) } else Bank.zero

/-- A sequencer context of a record (R403); the engines of its team are found again as it is claimed. -/
def readSeq (bs : List Byte) (c : SeqCtx) : SeqCtx :=
  let w := recNat bs 0x208 4
  let t := recNat bs 0x20C 4
  let depth := recNat bs 0x21C 4 % 8
  let loop (j : Nat) : Loop := { start := recDWord bs (0x230 + 16 * j), count := recWord bs (0x238 + 16 * j) }
  { c with
    spc := recDWord bs 0x200, st := BitVec.ofNat 2 w, loaded := BitVec.ofNat 8 (w / 4), saAddr := BitVec.ofNat 19 (recNat bs 0x214 4)
    sbAddr := BitVec.ofNat 19 (recNat bs 0x218 4), ri := recTable 0 8 (fun k => recNat bs (0x220 + k) 1 % 32)
    loops := (natsFrom 0 depth).reverse.map loop, m := recTable 0 16 (fun k => recWord bs (0x270 + 4 * k))
    d := ((natsFrom 0 8).filter (fun k => bitOf (w / 4) k)).map (fun k => (k, (natsFrom 0 8).map (fun j => recWord bs (0x2B0 + 32 * k + 4 * j))))
    team := c.team.map (fun x => { x with mode := BitVec.ofNat 2 t, first := t / 16 % 16, handle := recWord bs 0x210 }) }

/-- A member's accumulator and status word from a record (R327, R402). -/
def readEngine (bs : List Byte) (bad : List Nat) (off stat : Nat) (e : Engine) : Engine :=
  let x := recNat bs stat 4
  { e with acc := recTable 0 16384 (fun k => recWord bs (off + 4 * k)), accPoison := badWords bad off 16384, valid := bitOf x 0, s32 := bitOf x 2, nan := bitOf x 4, inf := bitOf x 5, sat := bitOf x 6
           ksteps := BitVec.ofNat 16 (x / 2 ^ 16) }

/-- The engines of a saved team, one after another. -/
def readEngines (bs : List Byte) (bad : List Nat) (off : Nat) : Nat → List Engine → List Engine
  | _, [] => []
  | k, e :: t => readEngine bs bad (off + 65536 * k) (0x3B0 + 4 * k) e :: readEngines bs bad off (k + 1) t

/-- The rows a record's BINDINGS name, as MAPPED_INVALID (R108, R402). -/
def readRows (pkg : Nat) (bs : List Byte) (rows : Nat) (old : Tbl Row) : Tbl Row :=
  (natsFrom 0 rows).filterMap (fun r =>
    let x := recNat bs (0x400 + 8 * r) 8
    let line := if bitsOf x 59 47 = pkg then bitsOf x 46 7 else farKey (bitsOf x 59 7 * 128) / 128
    if bitOf x 0 then some (r, { line := line, ipa := (Tbl.get old r).bind (fun y => if y.line = line then y.ipa else none), st := .mappedInvalid }) else none)

/-- The bytes of a block's record before its wave records (R402, R405). -/
def blockRecLength (b : Block) : Nat := (0x400 + b.stashKib * 1024 / 16 + b.stashKib * 1024 + 65536 * b.accSaved.length + 127) / 128 * 128

/-- A block with what its record holds, some of its sectors poisoned (R402, R514). -/
def readBlock (pkg : Nat) (bs : List Byte) (bad : List Nat) (b : Block) : Block :=
  let size := b.stashKib * 1024
  let hi := recNat bs 0x1E8 4
  let ct := recNat bs 0x1E0 1
  { b with
    record := recWord bs 0x04, rank := bitsOf (recNat bs 0x30 8) 21 18
    pools := recTable 0 32 (fun t => recNat bs (0x20 + t / 2) 1 / 16 ^ (t % 2) % 16 + 16 * (hi / 2 ^ t % 2))
    bars := (natsFrom 0 16).filterMap (fun n =>
      let x := readBarrier (recNat bs (0x40 + 16 * n) 16)
      if x = Barrier.fresh then none else some (n, x))
    cov := b.cov.bind (fun _ => readSession bs)
    codeSaved := b.codeSaved.map (fun _ => (readBank bs 0x1A0 b.vale b.vd (bitOf ct 1), readBank bs 0x1C0 b.vale b.vd (bitOf ct 2), bitOf ct 0))
    seqCtx := b.seqCtx.map (readSeq bs), rows := readRows pkg bs (size / 128) b.rows
    stash := recTable 0 size (fun k => BitVec.ofNat 8 (recNat bs (0x400 + size / 16 + k) 1))
    stashPoison := badWords bad (0x400 + size / 16) (size / 4), accSaved := readEngines bs bad (0x400 + size / 16 + size) 0 b.accSaved }

/-- A cluster's barriers from the record of one of its blocks (R402). -/
def readCluster (bs : List Byte) (c : Cluster) : Cluster :=
  { c with phase := recTable 0 4 (fun n => recWord bs (0x140 + 8 * n)), arrived := recTable 0 4 (fun n => recNat bs (0x144 + 8 * n) 2 % 1024) }

/-! ## A saved block -/

/-- The poisoned sectors of what follows the first n bytes of a record. -/
def badAfter (bad : List Nat) (n : Nat) : List Nat := (bad.filter (fun j => decide (n / 32 ≤ j))).map (fun j => j - n / 32)

/-- Waves read from the records that follow a block's, in WAVEID order. -/
def readWaves : List Nat → List Byte → List Nat → State → State
  | [], _, _, s => s
  | w :: t, bs, bad, s => readWaves t (bs.drop (waveRecLength bs)) (badAfter bad (waveRecLength bs)) (s.modWave w (readWave bs bad))

/-- The poisoned sectors of n bytes at an IPA that is a multiple of 32, counted from it (R514). -/
def ipaBad (s : State) (v : Vale) (a n : Nat) : List Nat :=
  if !ipaPoisoned s v a n then [] else (natsFrom 0 (n / 32)).filter (fun j => ipaPoisoned s v (a + 32 * j) 32)

/-- Reads a saved block's records back from its place in the save area or a checkpoint image (R404), poison with them (R514). Where the area
cannot be read the block stands as it was saved, and so does what the layouts have no place for (log 26). -/
def readBack (s : State) (blk size : Nat) : State :=
  match Tbl.get s.blocks blk with
  | none => s
  | some b =>
    match b.st, s.vale? b.vale with
    | .saved a _ _ _, some v =>
      match ipaRead s v a size with
      | .error _ => s
      | .ok bs =>
        let bad := ipaBad s v a size
        let s := (markRead s b.vale a size).modBlock blk (readBlock s.pkgId.toNat bs bad)
        let s := { s with clusters := Tbl.modify s.clusters b.cluster (readCluster bs) }
        readWaves b.waves (bs.drop (blockRecLength b)) (badAfter bad (blockRecLength b)) s
    | _, _ => s

end Sys2Proof.Machine
end

