-- ==== Sys2Proof/Machine/Save.lean ====
section
/-! DEFINITION. Saving blocks and bringing them back (R399 to R405, R71, R108, R269, R329, R350, R370, R412, R471), and the
events BLOCK_SAVE_DONE, BLOCK_RESUME and SAVE_DRAIN_TIMEOUT. -/
namespace Sys2Proof.Machine

/-! ## The space of a save -/

/-- Rounds up to 128 bytes (R405). -/
def up128 (n : Nat) : Nat := (n + 127) / 128 * 128

/-- The bytes reserved for a wave: HELD = 12, STACK = 64, NCMD = 16 (R405). -/
def waveSaveMax : Nat := up128 (64 + 128 + 12 * 512 + 64 * 16 + 32 + 16 * 64)

/-- The bytes reserved for a block of a card (R405). -/
def blockSaveMax (card : List Word) : Nat :=
  let stash := cardStash card * 1024
  up128 (0x400 + stash / 16 + stash + (if card64 card 0x60 = 0 then 0 else 4 * 65536)) + cardWaves card * waveSaveMax

/-- Where the records of saves may lie: after the 64 queue slots of R400 (R405). -/
def saveLow (d : Vd) : Nat := d.reg64 0x18 + 8192

/-- The end of the save area (R383). -/
def saveHigh (d : Vd) : Nat := d.reg64 0x18 + d.reg 0x20 * 65536

/-- The lowest free range of n bytes in the save area (R405). -/
def saveRange (d : Vd) (n : Nat) : Option Nat :=
  (saveLow d :: d.saves.map (fun r => r.1 + r.2)).foldl (fun (best : Option Nat) a =>
    let ok := decide (a + n ≤ saveHigh d) && d.saves.all (fun r => decide (a + n ≤ r.1) || decide (r.1 + r.2 ≤ a))
    match best with
    | some x => if ok && decide (a < x) then some a else some x
    | none => if ok then some a else none) none

/-- Bytes of the save area not reserved. -/
def saveFree (d : Vd) : Nat := saveHigh d - saveLow d - d.saves.foldl (fun n r => n + r.2) 0

/-- Reserves n bytes of a VD's save area (R405); a failure writes one VDC record with REASON 5 for its episode. -/
def reserveSave (s : State) (vale vd n card : Nat) : State × Option Nat :=
  match s.vd? vale vd with
  | none => (s, none)
  | some d =>
    match saveRange d n with
    | some a => (s.modVd vale vd (fun d => { d with saves := (a, n) :: d.saves, spaceEp := false }), some a)
    | none =>
      let s := if d.spaceEp then s else record s (schedRec cVdc 1 (some vale) (some vd) card 5 vd 0 n (saveFree d))
      (s.modVd vale vd (fun d => { d with spaceEp := true }), none)

/-- Frees a reservation (R405). -/
def freeSave (s : State) (vale vd : Nat) (a : Option Nat) : State :=
  s.modVd vale vd (fun d => { d with saves := d.saves.filter (fun r => some r.1 ≠ a), spaceEp := false })

/-! ## Choosing blocks -/

/-- Where a job's card lies. -/
def cardAddr (s : State) (job : Nat) : Nat := ((Tbl.get s.jobs job).map (fun (j : Job) => j.addr)).getD 0

/-- Whether saves of all of some blocks fit the save area now (R405). -/
def savesFit (s : State) (vale vd : Nat) (blocks : List (Nat × Block)) : Bool :=
  match s.vd? vale vd with
  | none => false
  | some d =>
    (blocks.foldl (fun (r : Option Vd) e => r.bind (fun d =>
      let n := blockSaveMax (s.cardOf e.2.job)
      (saveRange d n).map (fun a => { d with saves := (a, n) :: d.saves }))) (some d)).isSome

/-- Stops a block for a save whose space is reserved at an address (R399). -/
def stopForSave (s : State) (blk : Nat) (fork : Bool) (at_ : Nat) : State :=
  s.modBlock blk (fun b => { b with
    st := .saving (fork || (match b.st with
      | .saving f => f
      | _ => false)), saveAt := some at_, preempt := true, stopTod := s.tod.toNat, waited := 0 })

/-- Whether a block is being stopped for a save. -/
def isSaving (b : Block) : Bool :=
  match b.st with
  | .saving _ => true
  | _ => false

/-- Tasks of an ORDERED job stop with the cores of a save (R370): speculative ones placed there, and finished ones whose
lines lie there, are aborted; the frontier becomes irrevocable, at once or before its block is saved, and is never aborted (R373). A core
where nothing of the job runs any more stops with the first of the others (R455; DEDUCED, log 122). -/
def stopTasks (s : State) (job core : Nat) : State :=
  match orderedOf s job with
  | none => s
  | some o =>
    let left := (s.blocks.filter (fun e => decide (e.2.job = job) && holdsCore e.2)).map (fun e => e.2.core)
    let here (t : Task) : Bool :=
      !t.irrev && (match t.st with
        | .running _ => decide (t.core = core)
        | .finished => t.lines.any (fun l => decide (l.2.core = core) || !left.contains l.2.core)
        | _ => false)
    let qs := (o.tasks.filter (fun e => here e.2)).map (fun e => e.1)
    qs.foldl (fun s q =>
      if isFrontier s job q then (if lockReady s job q then makeIrrevocable s job q else s) else abortTask s job q) s

/-- The blocks saved with a block that is chosen: its cluster (R41), or itself. -/
def saveWith (s : State) (blk : Nat) (b : Block) : List (Nat × Block) :=
  let ms := (clusterBlocks s b).filter (fun e => decide (e.2.st = .resident))
  if ms = [] then [(blk, b)] else ms

/-- A reservation for some blocks that does not fit: the record of its episode (R405). -/
def refuseSave (s : State) (b : Block) (ms : List (Nat × Block)) : State :=
  (reserveSave s b.vale b.vd (blockSaveMax (s.cardOf b.job) * ms.length) (cardAddr s b.job)).1

/-- Chooses a block for pre-emption with its whole cluster (R41, R399); nothing but the record happens when the space does not suffice
(R405). -/
def chooseSave (s : State) (blk : Nat) : State :=
  match Tbl.get s.blocks blk with
  | none => s
  | some b =>
    if b.st ≠ .resident then s
    else if !savesFit s b.vale b.vd (saveWith s blk b) then refuseSave s b (saveWith s blk b)
    else
      let s := if b.task.isSome then stopTasks s b.job b.core else s
      match Tbl.get s.blocks blk with
      | none => s
      | some b => (saveWith s blk b).foldl (fun s e =>
          match reserveSave s b.vale b.vd (blockSaveMax (s.cardOf b.job)) (cardAddr s b.job) with
          | (s, some a) => stopForSave s e.1 false a
          | (s, none) => s) s

/-! ## Draining -/

/-- The live waves of a block. -/
def liveWaves (s : State) (b : Block) : List (Nat × Wave) :=
  b.waves.filterMap (fun w => match Tbl.get s.waves w with
    | some x => if x.ended then none else some (w, x)
    | none => none)

/-- Whether a save of a block waits for handlers (R471): one holds an unresolved lane of it, or a lane that faulted in the clock that chose it
is to be bound first (R478). -/
def handlerHolds (s : State) (b : Block) : Bool :=
  (liveWaves s b).any (fun e => match e.2.trap with
    | some t => t.lanes.any (fun f => (f.handler.isSome || e.2.bindFirst) && !f.resolved)
    | none => false)

/-- Whether steps 2 and 3 of R399 are over for a block. -/
def saveDrained (s : State) (blk : Nat) (b : Block) : Bool :=
  !handlerHolds s b &&
    (liveWaves s b).all (fun e => e.2.outst.all (fun o => match o.op with
      | .rtake _ _ => true
      | .cmds _ => true
      | _ => false)) &&
    !s.inflight.any (fun a => decide (a.2.blk = blk) || (match a.2.target with
      | .stash k _ => decide (k = blk)
      | _ => false)) &&
    !s.cores.any (fun c => c.2.cmds.any (fun m => decide (m.2.blk = blk) && (dstStash m.2 || m.2.bar.isSome)) ||
      c.2.engine.queue.any (fun k => decide (k.blk = blk))) &&
    !s.glens.any (fun g => g.2.covq.any (fun c => decide (c.2.blk = blk)))

/-- A wave whose faults must be settled before it is saved: a late fault whose instruction is complete, or a trap with
unbound or resolved lanes. What came of a join or of a return link is settled as the wave resumes. -/
def faultDue (w : Wave) : Bool :=
  (decide (w.late ≠ []) && allComplete w) ||
    (match w.trap with
      | some t => (match t.kind with
        | .join => false
        | .link _ _ => false
        | _ => true)
      | none => false)

/-- Settles the faults of a wave to be saved (R471): a lane not bound to a handler is as if its instruction had not
issued. -/
def settleFault (s : State) (w : Nat) (wv : Wave) : State :=
  match wv.trap with
  | some t =>
    let t := { t with lanes := t.lanes.map (fun f => if f.resolved then f else { f with resolved := true, choice := some .retry })
                      kind := if t.kind = .soft then .instr else t.kind }
    resumeTrap s w wv t
  | none => match wv.late with
    | f :: _ => deliverLate s w wv f
    | [] => s

/-! ## The records -/

/-- The 64-bit entry of a row in BINDINGS (R402). -/
def bindingOf (s : State) (b : Block) (row : Nat) : Nat :=
  match Tbl.get b.rows row with
  | none => 0
  | some r => lineAddr s r.line + 1

/-- A barrier's 128 bits (R402). -/
def barrierBits (x : Barrier) : Nat :=
  x.phase.toNat + bit1 x.count * 2 ^ 32 + x.expect % 128 * 2 ^ 33 + bit1 x.seq * 2 ^ 40 + x.arrived % 128 * 2 ^ 41 +
    x.expSect % 2 ^ 24 * 2 ^ 48 + x.sect % 2 ^ 24 * 2 ^ 72 + bit1 x.armed * 2 ^ 96

/-- The session record (R350). That of a block with no open session is all zeros (DESIGN CHOICE, log 131). -/
def covRecord : Option CovSession → List Byte
  | none => bytesLE 64 0
  | some c =>
    bytesLE 4 (1 + c.mode.toNat * 2 ^ 16 + 2 ^ 23) ++ (natsFrom 0 4).flatMap (fun j => bytesLE 4 (wordAt c.desc j).toNat) ++
      bytesLE 4 (c.head % 256 + c.count % 256 * 256) ++ bytesLE 8 c.prims.toNat ++ bytesLE 8 c.culled.toNat ++
      bytesLE 8 c.occlusion.toNat ++ bytesLE 8 c.covsum.toNat ++ bytesLE 8 0

/-- A bank's 32 bytes (R402). -/
def bankBytes (x : Bank) : List Byte := (natsFrom 0 16).flatMap (fun j => bytesLE 2 (x.entries.getD j 0).toNat)

/-- The team a block's context holds or is about to hold again (R329). -/
def teamSaved (c : SeqCtx) : Option Team := if c.restore = [] then c.team else c.claim

/-- SEQCTX (R403): `st` gives the members' status words. -/
def seqRecord (c : SeqCtx) (stat : List Word) : List Byte :=
  let t := teamSaved c
  let mode := (t.map (fun x => x.mode.toNat)).getD 3
  let tm1 := (t.map (fun x => x.engines.length - 1)).getD 0
  let first := (t.map (fun x => x.first)).getD 0
  let lease := match t with
    | some x => if x.mode = 2 then x.handle.toNat else 0
    | none => 0
  let ls := c.loops.reverse
  let loop (j : Nat) : List Byte := match ls[j]? with
    | some l => bytesLE 8 l.start.toNat ++ bytesLE 4 l.count.toNat ++ bytesLE 4 0
    | none => bytesLE 16 0
  bytesLE 8 c.spc.toNat ++ bytesLE 4 (c.st.toNat + 4 * c.loaded.toNat) ++ bytesLE 4 (mode + 4 * tm1 + 16 * first) ++ bytesLE 4 lease ++
    bytesLE 4 c.saAddr.toNat ++ bytesLE 4 c.sbAddr.toNat ++ bytesLE 4 c.loops.length ++ (natsFrom 0 8).flatMap (fun j => bytesLE 1 (Tbl.cell 0 c.ri j)) ++
    bytesLE 8 0 ++ (natsFrom 0 4).flatMap loop ++ (natsFrom 0 16).flatMap (fun r => bytesLE 4 (Tbl.cell (0 : Word) c.m r).toNat) ++
    (natsFrom 0 8).flatMap (fun d => if c.loaded.getLsbD d then bytesOfWords ((natsFrom 0 8).map (wordAt ((Tbl.get c.d d).getD []))) else bytesLE 32 0) ++
    (natsFrom 0 4).flatMap (fun j => bytesLE 4 (wordAt stat j).toNat) ++ bytesLE 64 0

/-- A VD's code-table state on a core (R95): its live banks and the current-bank choice; none where it owns no live bank and the choice is not
its own (DESIGN CHOICE, log 90). -/
def tablesOn (s : State) (core vale vd : Nat) : Option (Bank × Bank × Bool) :=
  let c := s.core? core
  let live (x : Bank) : Bool := decide (x.owner = some (vale, vd, (Tbl.get c.gen (vdKey vale vd)).getD 0))
  if live c.bank0 || live c.bank1 || decide (c.chooser = some (vale, vd)) then
    some (if live c.bank0 then c.bank0 else Bank.zero, if live c.bank1 then c.bank1 else Bank.zero, c.current)
  else none

/-- The code-table state a saved block carries (R95, R402). -/
def codeState (s : State) (b : Block) : Option (Bank × Bank × Bool) := tablesOn s b.core b.vale b.vd

/-- The engines of a saved team: accumulators and status as they stand (R329). -/
def enginesOf (s : State) (c : SeqCtx) : List Engine :=
  if c.restore = [] then
    match c.team with
    | some t => (natsFrom 0 t.engines.length).map (fun m => memberEngine s t m)
    | none => []
  else c.restore

/-- The status words of a saved team (R327). -/
def statsOf (s : State) (c : SeqCtx) : List Word :=
  if c.restore = [] then (natsFrom 0 4).map (mxStatus s c.team)
  else match c.claim with
    | some t => c.restore.map (engineStatus s t)
    | none => []

/-- The block record with BINDINGS, the stash rows and the accumulators (R402). -/
def blockRecord (s : State) (b : Block) (fork : Bool) : List Byte :=
  let code := codeState s b
  let cl := Tbl.get s.clusters b.cluster
  let teamT := (b.seqCtx.map (fun c => ((teamSaved c).map (fun t => t.engines.length)).getD 0)).getD 0
  let pool (t : Nat) : Nat := Tbl.cell 0 b.pools t
  let size := b.stashKib * 1024
  let es := (b.seqCtx.map (enginesOf s)).getD []
  let (fctr, ftarget) : DWord × DWord := match b.fork with
    | some (_, c, t) => (c, t)
    | none => (0, 0)
  bytesLE 4 (1 + b.waves.length * 2 ^ 16 + bit1 b.seqCtx.isSome * 2 ^ 23 + bit1 b.cov.isSome * 2 ^ 24 + bit1 code.isSome * 2 ^ 25 + bit1 fork * 2 ^ 26) ++
    bytesLE 4 b.record.toNat ++ bytesLE 8 (cardAddr s b.job) ++ bytesLE 8 fctr.toNat ++ bytesLE 8 ftarget.toNat ++
    (natsFrom 0 16).flatMap (fun j => bytesLE 1 (pool (2 * j) % 16 + pool (2 * j + 1) % 16 * 16)) ++
    bytesLE 8 (size + b.rank % 16 * 2 ^ 18 + teamT * 2 ^ 22) ++ bytesLE 8 0 ++
    (natsFrom 0 16).flatMap (fun n => bytesLE 16 (barrierBits ((Tbl.get b.bars n).getD Barrier.fresh))) ++
    (natsFrom 0 4).flatMap (fun n => bytesLE 8 ((cl.elim 0 (fun c => (Tbl.cell (0 : Word) c.phase n).toNat)) + (cl.elim 0 (fun c => (Tbl.get c.arrived n).getD 0)) % 1024 * 2 ^ 32)) ++
    covRecord b.cov ++ (code.elim (bytesLE 64 0) (fun t => bankBytes t.1 ++ bankBytes t.2.1)) ++
    bytesLE 8 (code.elim 0 (fun t => bit1 t.2.2 + 2 * bit1 t.1.owner.isSome + 4 * bit1 t.2.1.owner.isSome)) ++
    bytesLE 4 ((natsFrom 0 32).foldl (fun n t => n + pool t / 16 % 2 * 2 ^ t) 0) ++ bytesLE 20 0 ++
    (b.seqCtx.elim (bytesLE 512 0) (fun c => seqRecord c (statsOf s c))) ++
    (natsFrom 0 (size / 128)).flatMap (fun r => bytesLE 8 (bindingOf s b r)) ++ (natsFrom 0 size).map (fun k => Tbl.cell 0 b.stash k) ++
    es.flatMap (fun e => (natsFrom 0 16384).flatMap (fun n => bytesLE 4 (Tbl.cell (0 : Word) e.acc n).toNat))

/-- The 16 bytes of a stack entry (R67). -/
def entryBytes (e : StackEntry) : List Byte :=
  let k := match e.kind with
    | .reconv => 0
    | .path => 1
    | .call => 2
  bytesLE 8 e.pc.toNat ++ bytesLE 2 e.mask.toNat ++ bytesLE 1 k ++ bytesLE 1 e.depth.toNat ++ bytesLE 4 0

/-- A command with its operands as read (R401). -/
def readCmd (w : Wave) (c : WaitCmd) : WaitCmd :=
  if c.a = [] && decide (c.b = []) then
    let r := readOperands w c.op ((asyncFields c.op).getD ⟨0, 0, 0, 0, 0, none⟩) (c.lane % 16)
    { c with a := r.1, b := r.2 }
  else c

/-- A command record (R401). -/
def cmdRecord (c : WaitCmd) : List Byte :=
  let ws := encode c.op
  (bytesLE 4 (wordAt ws 0).toNat ++ bytesLE 4 (wordAt ws 1).toNat ++ bytesLE 8 (c.lane % 16) ++ bytesOfWords (c.a ++ c.b) ++ bytesLE 64 0).take 64

/-- FLAGS of a wave record (R400, R269). -/
def waveFlags (w : Wave) : Nat :=
  let mon := match w.wait with
    | some (.mwait _ _ _) => true
    | some (.sleep _) => true
    | _ => false
  let bar := match w.wait with
    | some (.bar _ _ _) => true
    | some (.cbar _ _ _) => true
    | _ => false
  let came := match w.wait with
    | some (.bar _ _ a) => a
    | some (.cbar _ _ a) => a
    | _ => false
  let take := w.outst.any (fun o => match o.op with
    | .rtake _ _ => true
    | _ => false)
  bit1 mon + 2 * bit1 take + 4 * bit1 bar + 8 * bit1 (!(waitingCmds w).isEmpty) + 16 * bit1 came

/-- The address of a wave's clause header and the index of its next word (R169, R400): a header that is next is its own
HEADER with WORD 0. -/
def headerWord (p : Pos) : DWord × Nat :=
  match p.clause with
  | some c => (c.hdr, (p.pc - c.hdr).toNat / 4 - 1)
  | none => (p.pc, 0)

/-- What a wave waits on, as its record names it: barrier number, whether a cluster barrier, monitor address, captured
value (R400). -/
def waveCapture : Option Wait → Nat × Bool × DWord × Word
  | some (.bar b t _) => (b, false, 0, t)
  | some (.cbar c t _) => (c, true, 0, t)
  | some (.mwait a e _) => (0, false, a, e)
  | some (.sleep t) => (0, false, 0, loWord t)
  | _ => (0, false, 0, 0)

/-- A wave whose faulted lanes are saved as if their instruction had not issued (R471): its place names that instruction, and what a pop had
done is undone, unless a handler has resolved lanes of it. -/
def Wave.unissued (w : Wave) : Wave :=
  match w.trap with
  | none => w
  | some t =>
    match t.kind, t.before with
    | .link _ _, none => w
    | .link _ _, some b =>
      if t.lanes.all (fun f => f.handler.isNone && !f.resolved) then
        { w with pos := t.at_, active := b.active, exited := b.exited, returned := b.returned, depth := b.depth, stack := b.stack, replay := b.replay
                 trap := none }
      else w
    | _, _ => { w with pos := t.at_ }

/-- A wave's record, header to tail and commands, with the TOD count of its stop (R400, R401). -/
def waveRecord (stop : Nat) (w : Wave) : List Byte :=
  let w := w.unissued
  let hw := headerWord w.pos
  let cap := waveCapture w.wait
  let cmds := waitingCmds w
  let body := bytesLE 4 (1 + w.role * 2 ^ 16 + waveFlags w * 2 ^ 24) ++
    bytesLE 4 (w.held + w.stack.length * 2 ^ 8 + cap.1 * 2 ^ 16 + bit1 cap.2.1 * 2 ^ 20 + w.depth.toNat * 2 ^ 21) ++ bytesLE 8 w.pos.pc.toNat ++
    bytesLE 8 hw.1.toNat ++ bytesLE 4 (hw.2 % 16 + w.active.toNat * 16) ++ bytesLE 4 (w.helper.toNat + w.exited.toNat * 2 ^ 16) ++
    (natsFrom 0 8).flatMap (fun p => bytesLE 2 (w.pred p).toNat) ++ bytesLE 8 cap.2.2.1.toNat ++ bytesLE 4 cap.2.2.2.toNat ++ bytesLE 4 stop ++
    (natsFrom 0 32).flatMap (fun n => bytesLE 4 (w.rdS n).toNat) ++
    (natsFrom 0 (8 * w.held)).flatMap (fun r => (natsFrom 0 16).flatMap (fun l => bytesLE 4 (w.rdV r l).toNat)) ++
    w.stack.reverse.flatMap entryBytes ++ bytesLE 2 w.returned.toNat ++ bytesLE 2 cmds.length ++ bytesLE 12 0 ++
    (natsFrom 0 16).flatMap (fun l => bytesLE 1 (Tbl.cell 0 w.lpair l).toNat) ++ cmds.flatMap (fun c => cmdRecord (readCmd w c))
  (body ++ bytesLE 127 0).take (up128 body.length)

/-- The records of a block that stopped at a TOD count, block record first (R400 to R402). -/
def blockRecords (s : State) (b : Block) (fork : Bool) (stop : Nat) : List (List Byte) :=
  let r := blockRecord s b fork
  ((r ++ bytesLE 127 0).take (up128 r.length)) :: b.waves.map (fun w => match Tbl.get s.waves w with
    | some x => waveRecord stop x
    | none => [])

/-- A part of a record: its bytes, which of its 32-byte sectors hold poison (R514), and whether it is a register block or a stash row, which
an image writes only where it has changed (R406). -/
structure Piece where
  bytes : List Byte
  bad : List Nat
  kept : Bool
deriving DecidableEq, Repr

/-- Cuts a record with some poisoned sectors into pieces of some lengths, the rest in one. -/
def cutPieces (bad : List Nat) : Nat → List (Nat × Bool) → List Byte → List Piece
  | k, [], bs => [⟨bs, (bad.filter (fun j => decide (k ≤ j))).map (fun j => j - k), false⟩]
  | k, (n, kept) :: t, bs =>
    ⟨bs.take n, (bad.filter (fun j => decide (k ≤ j) && decide (j < k + n / 32))).map (fun j => j - k), kept⟩ :: cutPieces bad (k + n / 32) t (bs.drop n)

/-- The sectors of a wave's record that hold its poisoned registers. -/
def waveBad (w : Wave) : List Nat :=
  w.poison.map (fun k => (if k < 1536 then 192 + 4 * k else 64 + 4 * (k - 1536)) / 32)

/-- A wave's record in pieces. -/
def wavePieces (w : Wave) (bs : List Byte) : List Piece := cutPieces (waveBad w) 0 ((192, false) :: List.replicate w.held (512, true)) bs

/-- The sectors of a block's record that hold its poisoned words of stash and accumulators. -/
def blockBad (s : State) (b : Block) : List Nat :=
  let base := 0x400 + b.stashKib * 64
  let es := (b.seqCtx.map (enginesOf s)).getD []
  b.stashPoison.map (fun k => (base + 4 * k) / 32) ++
    (natsFrom 0 es.length).flatMap (fun m => ((es[m]?.map (fun e => e.accPoison)).getD []).map (fun k => (base + b.stashKib * 1024 + 65536 * m + 4 * k) / 32))

/-- A block's record in pieces. -/
def blockPieces (s : State) (b : Block) (bs : List Byte) : List Piece :=
  cutPieces (blockBad s b) 0 ((0x400 + b.stashKib * 64, false) :: List.replicate (8 * b.stashKib) (128, true)) bs

/-- The records of a block in pieces, its own first. -/
def recordPieces (s : State) (b : Block) (fork : Bool) (stop : Nat) : List Piece :=
  match blockRecords s b fork stop with
  | [] => []
  | r :: ws => blockPieces s b r ++ (ws.zip b.waves).flatMap (fun e => match Tbl.get s.waves e.2 with
    | some w => wavePieces w e.1
    | none => [])

/-- Writes the poisoned sectors of a piece again at its IPA, with their poison. -/
def putBad (s : State) (vale vd a : Nat) (p : Piece) : State :=
  p.bad.foldl (fun s j => (ipaPut s vale vd (a + 32 * j) ((p.bytes.drop (32 * j)).take 32) true).getD s) s

/-- The first sector of n bytes at an IPA that cannot be written (R405): it does not translate, or is poisoned. -/
def failsAt (s : State) (v : Vale) (a n : Nat) : Nat :=
  ((natsFrom 0 (n / 32)).find? (fun j => ipaPoisoned s v (a + 32 * j) 32 || (match ipaPieces s v true 2 (a + 32 * j) 32 with
    | .ok _ => false
    | .error _ => true))).elim a (fun j => a + 32 * j)

/-- Writes pieces one after another at an IPA of a VD (R399 step 5); the address that failed, if one did (R405). -/
def putRecords (s : State) (vale vd : Nat) : Nat → List Piece → State × Option Nat
  | _, [] => (s, none)
  | a, p :: t =>
    match s.vale? vale with
    | none => (s, some a)
    | some v =>
      if ipaPoisoned s v a p.bytes.length then (s, some (failsAt s v a p.bytes.length))
      else match ipaWrite s vale vd a p.bytes with
        | none => (s, some (failsAt s v a p.bytes.length))
        | some s => putRecords (putBad s vale vd a p) vale vd (a + p.bytes.length) t

/-! ## The end of a save -/

/-- A wave as it is saved: on no core, its commands with their operands (R401), a waiting COVPOP to run again (R347). -/
def savedWave (w : Wave) : Wave :=
  let w := w.unissued
  let op (o : OutOp) : OutOp := match o with
    | .cmds cs => .cmds (cs.map (readCmd w))
    | x => x
  let pops := match w.wait with
    | some (.covpop _ _ _) => true
    | _ => false
  { w with core := 8192, wait := if pops then none else w.wait, replay := if pops then w.replay.map (fun r => { r with waits := none }) else w.replay
           outst := w.outst.map (fun o => { o with op := op o.op }) }

/-- A context as it is saved: an MTEAM, MBARW or MBARA that waits runs again (R329). -/
def savedSeq (c : SeqCtx) : SeqCtx := { c with team := teamSaved c, claim := none, restore := [], wantBar := none }

/-- Dirty rows are written back, and every binding stands as MAPPED_INVALID (R108, R399 step 4). -/
def flushRows (s : State) (blk : Nat) : State :=
  match Tbl.get s.blocks blk with
  | none => s
  | some b =>
    let s := b.rows.foldl (fun s e => writeRowBack s blk e.1) s
    s.modBlock blk (fun b => { b with rows := Tbl.mapVals (fun _ r => { r with st := .mappedInvalid }) b.rows })

/-- Writes a block's records and frees its core (R399 steps 4 to 6), or fails the save (R405). -/
def finishSave (s : State) (blk : Nat) : State :=
  match Tbl.get s.blocks blk with
  | none => s
  | some b =>
    match b.st, b.saveAt with
    | .saving fork, some a =>
      let s := b.waves.foldl (fun s w => engForget s b.core w) (flushRows s blk)
      match Tbl.get s.blocks blk with
      | none => s
      | some b =>
        match putRecords s b.vale b.vd a (recordPieces s b fork b.stopTod) with
        | (s, some bad) =>
          let card := cardAddr s b.job
          severity2 s b.vale b.vd (schedRec cVdc 2 (some b.vale) (some b.vd) card 7 b.vd 0 bad card)
        | (s, none) =>
          let es := (b.seqCtx.map (enginesOf s)).getD []
          let code := codeState s b
          let s := releaseTeam s blk
          let s := { s with waves := Tbl.mapVals (fun _ w => if w.kind = .ordinary && decide (w.blk = blk) then savedWave w else w) s.waves
                            takes := s.takes.filter (fun t => !b.waves.contains t.1) }
          let s := bumpGen s b.core b.vale b.vd
          let s := match b.task with
            | some q => s.modTask b.job q (fun t => { t with st := .saved blk })
            | none => s
          let (ctr, target) : DWord × DWord := match b.fork with
            | some (_, c, t) => (c, t)
            | none => (0, 0)
          s.modBlock blk (fun b => { b with
            st := .saved a fork ctr target, accSaved := es, codeSaved := code, seqCtx := b.seqCtx.map savedSeq, tracks := []
            copyHalted := false })
    | _, _ => s

/-- The blocks saved together with a block: its cluster (R41), or itself. -/
def saveGroup (s : State) (blk : Nat) (b : Block) : List (Nat × Block) :=
  let ms := (clusterBlocks s b).filter (fun e => isSaving e.2)
  if ms = [] && isSaving b then [(blk, b)] else ms

/-- A block whose last wave ended while it was stopped for a save retires instead (R261). -/
def retireInstead (s : State) (blk : Nat) (b : Block) : State :=
  let s := freeSave s b.vale b.vd b.saveAt
  finishBlock (s.modBlock blk (fun b => { b with st := .resident, saveAt := none, preempt := false })) blk

/-- A frontier task stopped for a save before its lines could be locked (R370): it must become irrevocable first. -/
def frontierOf (s : State) (b : Block) : Option Nat :=
  b.task.bind (fun q => match (orderedOf s b.job).bind (fun o => Tbl.get o.tasks q) with
    | some t => if t.irrev then none else some q
    | none => none)

/-- Whether the records of a block may not be written now: the lines of its place are held, or the undo ring has no room (R156, R408). -/
def saveHeld (s : State) (b : Block) : Bool :=
  match b.saveAt with
  | some a =>
    let n := blockSaveMax (s.cardOf b.job)
    ipaWaits s b.vale a n true || ringWaits s b.vale b.vd a n
  | none => false

/-- BLOCK_SAVE_DONE (R399, R412, R471): a block stopped for a save, with its cluster, has drained and is saved. A cut named
for its VD completes first, and a barrier is tested at the end of a clock before its state is recorded (R269). -/
def execBlockSaveDone (blk : Nat) (s : State) : Host.Outcome State Fault Refusal :=
  .next (match Tbl.get s.blocks blk with
    | none => s
    | some b =>
      let ms := saveGroup s blk b
      let cut := ((s.vd? b.vale b.vd).map (fun d => d.cut.isSome || d.stopped || d.rolling)).getD true
      if ms = [] || cut || s.halted || s.clock.isSome || !ms.all (fun e => saveDrained s e.1 e.2 && !rowsBackWait s e.2 && !saveHeld s e.2) then s
      else match frontierOf s b with
      | some q => if lockReady s b.job q then makeIrrevocable s b.job q else s
      | none => match (ms.flatMap (fun e => liveWaves s e.2)).find? (fun e => faultDue e.2) with
        | some e => settleFault s e.1 e.2
        | none =>
          match ms.find? (fun e => decide (liveWaves s e.2 = [])) with
          | some e => retireInstead s e.1 e.2
          | none => ms.foldl (fun s e => finishSave s e.1) s)

/-- SAVE_DRAIN_TIMEOUT (R534): steps 2 to 4 of a save have taken 600,000 ticks, those left out in which handler waves or a cut held them up. -/
def execSaveDrainTimeout (blk : Nat) (s : State) : Host.Outcome State Fault Refusal :=
  .next (match Tbl.get s.blocks blk with
    | none => s
    | some b =>
      match b.st with
      | .saving _ =>
        if s.tod.toNat < b.stopTod + b.waited + 600000 || !vdServed s b.vale b.vd then s
        else
          let card := cardAddr s b.job
          let r := schedRec cHang 2 (some b.vale) (some b.vd) card 1 0 b.core (s.tod.toNat - b.stopTod - b.waited) card
          severity2 s b.vale b.vd { r with core := b.core }
      | _ => s)

/-! ## Resuming -/

/-- Puts a VD's code tables and its current-bank choice on a core, unless they are there (R95, R393). -/
def putTables (s : State) (core vale vd : Nat) (t : Bank × Bank × Bool) : State :=
  if tablesEqual s core vale vd t then s
  else
    let own (x old : Bank) (g : BitVec 4) : Bank := if x.owner.isSome then { x with owner := some (vale, vd, g) } else old
    s.modCore core (fun c =>
      let g := (Tbl.get c.gen (vdKey vale vd)).getD 0
      { c with bank0 := own t.1 c.bank0 g, bank1 := own t.2.1 c.bank1 g, current := t.2.2, chooser := some (vale, vd) })

/-- Loads a saved block's code tables on its new core (R393). -/
def loadTables (s : State) (core : Nat) (b : Block) : State :=
  match b.codeSaved with
  | none => s
  | some t => putTables s core b.vale b.vd t

/-- The engines a resumed block's team has: PEERS by rank on the cores the cluster now holds, SELF the block's own, LEASE
the same (R329). -/
def teamAgain (s : State) (b : Block) (core : Nat) (t : Team) : Team :=
  if t.mode = 0 then { t with engines := [core] }
  else if t.mode = 1 then
    { t with engines := (natsFrom t.first t.engines.length).map (fun r => match peerBlock s b r with
      | some p => p.2.core
      | none => core) }
  else t

/-- Claims a resumed block's team again (R329); a lease that has ended leaves its members as R315 does. -/
def reclaim (s : State) (blk : Nat) : State :=
  match Tbl.get s.blocks blk with
  | none => s
  | some b =>
    match b.seqCtx.bind (fun c => c.team) with
    | none => s
    | some t =>
      if leaseEnded s t || decide (b.accSaved = []) then s
      else
        let t := teamAgain s b b.core t
        let s := modSeq s blk (fun c => { c with team := none, claim := some t, restore := b.accSaved })
        tryClaim ({ s with claims := s.claims ++ [blk] }.modBlock blk (fun b => { b with accSaved := [] })) blk

/-- A wave that resumes on a core (R404): its header is read again (R169), and its saved commands issue before its next instruction
(R401). -/
def resumedWave (core slot turns : Nat) (w : Wave) : Wave :=
  let first (o : Outst) : Outst := match o.op with
    | .cmds _ => { o with left := w.issued }
    | _ => o
  { w with core := core, slot := slot, lastIssue := turns, reread := w.pos.clause.isSome, bindFirst := false, outst := w.outst.map first }

/-- Whole periods of a VD between two counts (R394). -/
def wholePeriods (ap lo hi : Nat) : Nat := hi / max 1 ap - ceilDiv lo (max 1 ap)

/-- Starts a VD's boost when it wakes after two whole periods idle (R394). -/
def wakeVd (s : State) (vale vd : Nat) : State :=
  s.modVd vale vd (fun d =>
    let idle := match d.idleSince with
      | some t => decide (2 ≤ wholePeriods d.aperiodNow t s.tod.toNat)
      | none => false
    { d with idleSince := none
             boostEnd := if idle && decide (d.boostNow ≠ 0) then some (s.tod.toNat + 600 * d.boostNow) else d.boostEnd })

/-- The bytes of a saved wave's record (R405). -/
def waveRecSize (w : Wave) : Nat := up128 (192 + 512 * w.held + 16 * w.stack.length + 32 + 64 * (waitingCmds w).length)

/-- The bytes of a saved block's records (R405). -/
def savedSize (s : State) (blk : Nat) : Nat :=
  match Tbl.get s.blocks blk with
  | some b => b.waves.foldl (fun n w => n + ((Tbl.get s.waves w).map waveRecSize).getD 0) (blockRecLength b)
  | none => 0

/-- What came of a join or of a return link before a save happens again as the wave resumes (R471). -/
def settleResumed (s : State) (w : Nat) : State :=
  match Tbl.get s.waves w with
  | some x => if x.trap.isSome then settleFault s w x else s
  | none => s

/-- Places a saved block on a core (R404): its records are read back, it takes tracks, slots and stash there, and its waves go on. -/
def placeSaved (s : State) (blk core : Nat) : State :=
  let s := readBack s blk (savedSize s blk)
  match Tbl.get s.blocks blk with
  | none => s
  | some b =>
    let card := s.cardOf b.job
    let roles := cardRoles card
    let tracks := (freeTracks s core card).take (cardTracks card)
    let base := (stashRoom s core (cardStash card) (stashOffer s core)).getD 0
    let s := (natsFrom 0 tracks.length).foldl (fun s i =>
      let slots := freeSlots s core (tracks.getD i 0) roles
      (natsFrom 0 roles).foldl (fun s k => s.modWave (b.waves.getD (i * roles + k) 0) (resumedWave core (slots.getD k 0) s.turns)) s) s
    let s := wakeVd (loadTables s core b) b.vale b.vd
    let s := freeSave s b.vale b.vd b.saveAt
    let deficit := startDeficit s core b.vale b.vd
    let s := s.modBlock blk (fun b => { b with
      st := .resident, core := core, tracks := tracks, stashBase := base, saveAt := none, preempt := false, fork := none, codeSaved := none,
      placed := s.nextId })
    let s := match b.task with
      | some q => s.modTask b.job q (fun t => { t with st := .running blk, core := core })
      | none => s
    let takes := b.waves.flatMap (fun w => match Tbl.get s.waves w with
      | some x => (x.outst.filter (fun o => match o.op with
          | .rtake _ _ => true
          | _ => false)).map (fun o => (w, o.id))
      | none => [])
    let s := dropL1 { s with takes := s.takes ++ takes } core b.vale b.vd
    let s := s.modCore core (fun c => { c with deficit := deficit })
    let s := (natsFrom 0 tracks.length).foldl (fun s t => serveTakes blk t s.takes.length s) s
    b.waves.foldl settleResumed s

/-- Places saved blocks on the cores R393 gives them. -/
def resumeOn (s : State) (b : Block) (places : List (Nat × Nat)) : State :=
  let s := places.foldl (fun s p => placeSaved s p.1 p.2) s
  let s := places.foldl (fun s p => reclaim s p.1) s
  match Tbl.get s.jobs b.job with
  | some j => passKey (gateAcquire s j (places.map (fun p => p.2))) j
  | none => s

/-- A saved frontier no core can take makes room for itself (R356); another block asks for a carve-out that has room for it (R132). -/
def resumeRoom (s : State) (b : Block) (ms : List (Nat × Block)) : State :=
  if b.task.isSome && ((orderedOf s b.job).bind roomVictim).isSome then makeRoom s b.job else (savedNeed s b ms).start s

/-- BLOCK_RESUME (R391, R393, R404): a saved block, with its cluster, is placed again once its gates are open: its first member on the core
named, if R393 chooses it. One with no place asks for room. -/
def execBlockResume (blk core : Nat) (s : State) : Host.Outcome State Fault Refusal :=
  .next (match Tbl.get s.blocks blk with
    | none => s
    | some b =>
      match s.vale? b.vale with
      | none => s
      | some v =>
        let ms := savedMembers s b
        if !waitsSlot b || !vdIssues s b.vale b.vd || !(coresOf v).contains core then s
        else match gatesOpen b.job (savedGates s ms) s with
          | (s, false) => s
          | (s, true) =>
            let fits (g : Nat) : Bool := (membersFit s ms g).isSome
            if !(natsFrom v.first v.n).any fits then resumeRoom s b ms
            else match membersFit s ms (glenOfCore core) with
              | none => s
              | some places =>
                if (places.map (fun p => p.2)).headD core ≠ core || firstOffer s b.vale (glenOfCore core) ≠ some b.job ||
                    bestGlen s b.vale fits ≠ some (glenOfCore core) then s
                else resumeOn s b places)

end Sys2Proof.Machine
end

