-- ==== Sys2Proof/Machine/Queue.lean ====
section
/-! DEFINITION. Queues as the Col works them (R385, R386, R531, R549): post words, link tables, the reserve pool, cards and
their check (R44 to R47, R352, R529), and the retirement of cards (R386, R530). -/
namespace Sys2Proof.Machine

/-! ## Memory the queue's fields name -/

/-- A 64-bit field of a queue's read-only half (R387). -/
def qField (s : State) (vale vd q off : Nat) : Nat := qcbNat s vale vd q off 8

/-- n bytes at an IPA for a VD, or the fault of the read (R549): none when they are readable and not poisoned. The address of a failure is the
IPA, or the physical address where that was found at fault (R503). -/
def partBytes (s : State) (vale ipa n : Nat) : Except AddrFault (List Byte) :=
  match s.vale? vale with
  | none => .error ⟨cXlate, 3, BitVec.ofNat 64 ipa⟩
  | some v => match ipaRead s v ipa n with
    | .error r =>
      let at_ := match stage2 s v ipa with
        | .ok l => if r = 6 then l.addr ipa else ipa
        | .error _ => ipa
      .error ⟨cXlate, r, BitVec.ofNat 64 at_⟩
    | .ok bs => if ipaPoisoned s v ipa n then .error ⟨cPoison, 0, BitVec.ofNat 64 ipa⟩ else .ok bs

/-- The number n bytes at an IPA hold, if they can be read. -/
def partNat (s : State) (vale ipa n : Nat) : Option Nat :=
  match partBytes s vale ipa n with
  | .ok bs => some (natLE bs)
  | .error _ => none

/-- The producer post word an IPA names, if it lies in a post page (R415). -/
def postIndex (ipa : Nat) : Option Nat :=
  if postIpa ≤ ipa && decide (ipa < postIpa + 65536) then some ((ipa - postIpa) / 4096 * 64 + (ipa - postIpa) % 4096 / 8) else none

/-- The number n bytes at an IPA hold as the Col reads them now, with rows that own the line giving it up (R108). -/
def fetchNat (s : State) (vale ipa n : Nat) : State × Option Nat :=
  let s := markRead s vale ipa n
  (s, partNat s vale ipa n)

/-- A queue's post word (R386, R415), or the failure of its read (R549). -/
def postWord (s : State) (vale vd q : Nat) : Except AddrFault Nat :=
  let a := qField s vale vd q 0x20
  match postIndex a, s.vale? vale with
  | some i, some v => .ok (Tbl.cell (0 : DWord) v.posts i).toNat
  | _, _ => match partBytes s vale a 8 with
    | .ok bs => .ok (natLE bs)
    | .error f => .error f

/-- Writes a queue's post word (R385): the part does so for queue 63. -/
def writePost (s : State) (vale vd q x : Nat) : State :=
  let a := qField s vale vd q 0x20
  match postIndex a with
  | some i => s.modVale vale (fun v => { v with posts := Tbl.setCell 0 v.posts i (BitVec.ofNat 64 x) })
  | none => (ipaWrite s vale vd a (bytesLE 8 x)).getD s

/-- The IPA of the link entry of card n (R385). -/
def linkIpa (s : State) (vale vd q n : Nat) : Nat := qField s vale vd q 0x28 + 8 * (n / 32 % max 1 (qLinks s vale vd q))

/-- What a link entry or a pool entry comes to (R385, R531). -/
inductive Link64 where
  | segment (ipa : Nat)
  | empty
  | bad
deriving DecidableEq, Repr

/-- Reads a link entry or pool entry: reserved bits, or a segment that cannot be read, are bad (R531). -/
def readLink (s : State) (vale ipa : Nat) (pool : Bool) : Link64 :=
  match partNat s vale ipa 8 with
  | none => .bad
  | some e =>
    if e = 0 then .empty
    else if bitsOf e 63 60 ≠ 0 || decide (bitsOf e 11 1 ≠ 0) || (pool && bitOf e 0) || decide (bitsOf e 59 12 = 0) then .bad
    else
      let seg := bitsOf e 59 12 * 4096
      match s.vale? vale with
      | some v => match ipaRead s v seg 4096 with
        | .ok _ => .segment seg
        | .error _ => .bad
      | none => .bad

/-! ## The reserve pool -/

/-- What taking a segment from the pool comes to (R386). -/
inductive Taken where
  | segment (s : State) (ipa : Nat)
  | empty (s : State)
  | bad (s : State) (ipa : Nat)

/-- Takes pool entry COUNT - 1 (R386); one that cannot be taken names the entry at fault (R531). -/
def poolPop (s : State) (vale vd q : Nat) : Taken :=
  let a := qField s vale vd q 0x30
  match fetchNat s vale a 8 with
  | (s, none) => .bad s a
  | (s, some 0) => .empty s
  | (s, some n) =>
    let s := markRead s vale (a + 8 * n) 8
    match readLink s vale (a + 8 * n) true with
    | .segment g => match ipaWrite s vale vd a (bytesLE 8 (n - 1)) with
      | some s => .segment s g
      | none => .bad s a
    | _ => .bad s (a + 8 * n)

/-- Links a segment taken from the pool into a link entry (R386): POOL = 1, POOLSEGS up. -/
def linkSegment (s : State) (vale vd q ipa seg : Nat) : Option State :=
  (ipaWrite s vale vd ipa (bytesLE 8 (seg + 1))).map (fun s => qcbPut s vale vd q 0xAE 2 (qPoolSegs s vale vd q + 1))

/-- Returns a segment to the pool and zeroes its entry (R386). -/
def poolPush (s : State) (vale vd q ipa seg : Nat) : State :=
  let a := qField s vale vd q 0x30
  match fetchNat s vale a 8 with
  | (s, none) => s
  | (s, some n) =>
    let s := (ipaWrite s vale vd (a + 8 * (n + 1)) (bytesLE 8 seg)).getD s
    let s := (ipaWrite s vale vd a (bytesLE 8 (n + 1))).getD s
    let s := (ipaWrite s vale vd ipa (bytesLE 8 0)).getD s
    qcbPut s vale vd q 0xAE 2 (qPoolSegs s vale vd q - 1)

/-- What an entry holds, beyond every value where it cannot be read. -/
def entryValue (s : State) (vale ipa : Nat) : Nat := (partNat s vale ipa 8).getD (2 ^ 64)

/-- A link or pool entry is bad: the queue fetches nothing further until it is rewritten (R531, log 140). -/
def linkFails (s : State) (vale vd q ipa : Nat) : State :=
  let s := openEpisode s vale vd q 4 ((partNat s vale ipa 8).getD ipa) (qPostSeen s vale vd q)
  s.modQueue vale vd q (fun x => { x with linkBad := some (ipa, entryValue s vale ipa) })

/-- Whether a bad entry of a queue still stands as it was found (R531). -/
def linkStands (s : State) (vale vd q : Nat) : Bool :=
  match (s.queue? vale vd q).linkBad with
  | some (a, x) => decide (entryValue s vale a = x)
  | none => false

/-- A segment has been found: the queue's link episodes end (R531). -/
def linkGood (s : State) (vale vd q : Nat) : State :=
  let s := closeEpisode (closeEpisode s vale vd q 3) vale vd q 4
  if (s.queue? vale vd q).linkBad.isSome then s.modQueue vale vd q (fun x => { x with linkBad := none }) else s

/-- The segment of card n of a queue, linked from the pool if its entry is 0 (R386); an episode otherwise (R531). -/
def segmentOf (s : State) (vale vd q n : Nat) : State × Option Nat :=
  if linkStands s vale vd q then (s, none)
  else
    let a := linkIpa s vale vd q n
    let s := markRead s vale a 8
    match readLink s vale a false with
    | .segment g => (linkGood s vale vd q, some g)
    | .bad => (linkFails s vale vd q a, none)
    | .empty =>
      match poolPop s vale vd q with
      | .segment s g => match linkSegment s vale vd q a g with
        | some s => (linkGood s vale vd q, some g)
        | none => (linkFails s vale vd q a, none)
      | .empty s => (if q = 63 then s else openEpisode s vale vd q 3 0 (qPostSeen s vale vd q), none)
      | .bad s e => (linkFails s vale vd q e, none)

/-- Whether the Col must wait before it works card n of a queue (R155, R156, R408): for the queue's QCB, the card's link entry, or the pool. -/
def colWaits (s : State) (vale vd q n : Nat) : Bool :=
  let pool := qField s vale vd q 0x30
  qcbWaits s vale vd q || ipaWaits s vale (linkIpa s vale vd q n) 8 true || ipaWaits s vale pool 8 true ||
    ipaWaits s vale (pool + 8 * (partNat s vale pool 8).getD 0) 16 true

/-- Whether the Col must wait before it visits a queue (R141, R155): as for card CONSUME, and for the post word and the card it would
fetch. -/
def visitWaits (s : State) (vale vd q : Nat) : Bool :=
  let n := qConsume s vale vd q
  let post := qField s vale vd q 0x20
  colWaits s vale vd q n || ((postIndex post).isNone && ipaWaits s vale post 8 (decide (q = 63))) ||
    (if qRepeat s vale vd q then ((s.vd? vale vd).map (fun d => ipaWaits s vale (d.reg64 0x18 + 128 * q) 128 true)).getD false
    else match readLink s vale (linkIpa s vale vd q n) false with
      | .segment g => ipaWaits s vale (g + 128 * (n % 32)) 128 (decide (q = 63))
      | _ => false)

/-! ## The card check -/

/-- Sum of BASE over the roles, plus POOL (R47). -/
def cardTotal (card : List Word) : Nat := cardReserve card

/-- Rules of a card (R44 to R47, R352): whether each is kept, its reason of R529, and the 8-byte word it is about. -/
def cardRules (card : List Word) (q : Nat) (first : Bool) : List (Bool × Nat × Nat) :=
  let f := cardField card
  let cl := cardCluster card
  let roles := cardRoles card
  let flag := cardFlag card
  let tot := cardTotal card
  [ (decide (f 0x00 63 48 = 0), 2, 0), (decide (f 0x00 31 21 = 0), 2, 0), (decide (f 0x18 63 57 = 0), 2, 3), (decide (1 ≤ cl) && decide (cl ≤ 16), 2, 3),
    (decide (f 0x18 50 43 ≤ 224), 2, 3), (decide (f 0x20 63 56 = 0), 2, 4), (decide (f 0x20 55 48 ≠ 0), 2, 4), (decide (f 0x70 31 9 = 0), 2, 14),
    ((natsFrom 0 4).all (fun k => decide (k < roles) || decide (f 0x70 (39 + 8 * k) (32 + 8 * k) = 0)), 2, 14), (decide (f 0x78 31 0 = 0), 2, 15),
    (decide (f 0x00 47 32 % 8 = 0), 3, 0), (!(flag 2 && flag 3) && ((flag 2 || flag 3) == decide (q = 63)), 3, 0),
    (decide (card64 card 0x10 % 8 = 0), 3, 2), (decide (f 0x18 31 0 ≠ 0), 3, 3), (decide (cardWaves card % roles = 0), 3, 3), (decide (cardTracks card ≤ 32), 3, 3),
    (decide (1 ≤ cardMinChunk card) && decide (cardMinChunk card ≤ cardMaxChunk card), 3, 4),
    (decide (cl ≠ 0) && decide (cardMinChunk card % max 1 cl = 0) && decide (cardMaxChunk card % max 1 cl = 0), 3, 4),
    (decide (card64 card 0x30 % 8 = 0), 3, 6), (decide (card64 card 0x30 = 0) || decide (f 0x40 63 32 ≠ 0), 3, 8), (decide (card64 card 0x48 % 8 = 0), 3, 9),
    (decide (card64 card 0x58 ≠ 0) == flag 4, 3, 11), (decide (tot ≤ 16), 3, 14),
    ((natsFrom 0 roles).all (fun k => decide (1 ≤ cardBase card k) && decide (cardBase card k ≤ cardMax card k) && decide (cardMax card k ≤ 12)), 3, 14),
    ((natsFrom 0 roles).all (fun k => decide (cardMax card k + (roles - 1) ≤ tot)), 3, 14), (decide (f 0x70 2 0 = 0) || decide (cardStash card ≤ 32 * f 0x70 2 0), 3, 14),
    (!first || decide (f 0x78 63 32 = 0), 3, 15),
    (!flag 0 || (decide (f 0x18 37 32 = 0) && decide (roles = 1) && decide (cl = 1)), 4, 3), (!flag 0 || decide (card64 card 0x60 = 0), 4, 12),
    (!flag 0 || decide (8 ≤ f 0x00 47 32), 4, 0) ]

/-- What makes a card not well formed (R530): the reason, and the first offending word (log 6). -/
def cardFault (card : List Word) (q : Nat) (first : Bool) : Option (Nat × Nat) :=
  if cardField card 0 15 0 ≠ 1 then some (1, 0)
  else
    ((cardRules card q first).filter (fun r => !r.1)).foldl (fun (b : Option (Nat × Nat)) r => match b with
      | none => some (r.2.1, r.2.2)
      | some x => if r.2.2 < x.2 || (decide (r.2.2 = x.2) && decide (r.2.1 < x.1)) then some (r.2.1, r.2.2) else some x) none

/-! ## The end of a card -/

/-- Whether card n of a queue is left to run: it has not been consumed, is at the head of the queue, or has a job (R52, R53). -/
def cardLeft (s : State) (vale vd q n : Nat) : Bool :=
  let x := s.queue? vale vd q
  decide (qConsume s vale vd q ≤ n) || (decide (x.number = n) && (decide (x.stage ≠ .none) || qRepeat s vale vd q)) ||
    x.running.any (fun j => match Tbl.get s.jobs j with
      | some y => decide (y.number = n)
      | none => false)

/-- Counts a card of a queue retired (R386, R388): the fork reserve's slot is returned, and a pool segment all of whose cards have
retired. -/
def retireCard (s : State) (vale vd q n : Nat) : State :=
  let s := qcbPut s vale vd q 0x88 8 (qRetire s vale vd q + 1)
  let s := if q = 63 then
      (qcbPut s vale vd q 0xAC 2 (qForkUsed s vale vd q - 1)).modQueue vale vd q (fun x => { x with parents := x.parents.filter (fun p => decide (p.1 ≠ n)) })
    else s
  if (natsFrom (n / 32 * 32) 32).any (cardLeft s vale vd q) then s
  else
    let a := linkIpa s vale vd q n
    match fetchNat s vale a 8 with
    | (s, some e) => if bitOf e 0 then poolPush s vale vd q a (bitsOf e 59 12 * 4096) else s
    | (s, none) => s

/-- Retires card n once nothing of it is left: no job of it runs, it is not being made ready, and no REPEAT copy of it is
held (R52, R53). -/
def cardDone (s : State) (vale vd q n : Nat) : State :=
  let x := s.queue? vale vd q
  let runs := x.running.any (fun j => match Tbl.get s.jobs j with
    | some y => decide (y.number = n)
    | none => false)
  if runs || (decide (x.number = n) && (decide (x.stage ≠ .none) || qRepeat s vale vd q)) then s else retireCard s vale vd q n

/-- The REPEAT bit of a QCB (R388). -/
def setRepeat (s : State) (vale vd q : Nat) (on : Bool) : State :=
  let x := qcbNat s vale vd q 0xB8 4
  qcbPut s vale vd q 0xB8 4 (x % 65536 + bit1 on * 65536)

/-- The card at the head of a queue leaves it without a job. -/
def dropCard (s : State) (vale vd q : Nat) : State :=
  let n := (s.queue? vale vd q).number
  cardDone (s.modQueue vale vd q (fun x => { x with stage := .none })) vale vd q n

/-- Rejects the card at the head of a queue (R530, R529). -/
def rejectCard (s : State) (vale vd q reason word : Nat) : State :=
  let x := s.queue? vale vd q
  let s := record s (schedRec cCard 1 (some vale) (some vd) x.addr reason word q x.number (card64 x.card (8 * word)))
  dropCard (s.modQueue vale vd q (fun x => { x with prev := none })) vale vd q

/-- The completion add of a card and its job (R52, R549): a release at VALE scope at the counter's home; a failure writes one record
and drops the add. -/
def completionAdd (s : State) (job vale vd addr : Nat) (card : List Word) : State :=
  let a := card64 card 0x48
  if a = 0 then s
  else
    match translate s none vale vd a 8 .atomic with
    | (s, .error f) => record s (partRec vale vd addr f)
    | (s, .ok x) =>
      let core := 16 * ((s.vale? vale).map (fun v => v.first)).getD 0
      issueAccess s { wave := 0, blk := 0, job := job, vale := vale, vd := vd, core := core, pos := ⟨BitVec.ofNat 64 addr, none⟩, lane := 0
                      target := x.target, va := BitVec.ofNat 64 a, op := .add (BitVec.ofNat 64 (card64 card 0x50)), ord := 3, scope := 3
                      ipa := some x.ipa, lg := x.lg, nc := x.nc, dev := x.dev, hint := 0, isCnt := false, sent := false }

end Sys2Proof.Machine
end

