-- ==== Sys2Proof/Machine/Fork.lean ====
section
/-! DEFINITION. FORK (R57 to R60, R270): appending a child card to queue 63, FORK.SUSPEND's barrier of the block's waves,
and the event SUSPEND_WAKE. -/
namespace Sys2Proof.Machine

/-! ## Appending a card -/

/-- Whether FORK may take a slot of the fork reserve (R386). -/
def reserveLeft (s : State) (vale vd : Nat) : Bool :=
  decide (qForkUsed s vale vd 63 < qcbNat s vale vd 63 0x38 2 + 32 * qPoolSegs s vale vd 63)

/-- The first link entry that holds 0, searched in card order from the entry of card n (R386); an error where one before it cannot be read. -/
def emptyEntry (s : State) (vale vd n : Nat) : Except Unit (Option Nat) :=
  let links := qLinks s vale vd 63
  match ((natsFrom 0 links).map (fun i => linkIpa s vale vd 63 (n + 32 * i))).find? (fun a => decide ((partNat s vale a 8).getD 0 = 0)) with
  | some a => if (partNat s vale a 8).isSome then .ok (some a) else .error ()
  | none => .ok none

/-- Reserves the slot of the next card of queue 63 (R59, R386): the card's number and its segment. A read or write that
fails on the queue's side writes a QUEUE record with REASON 4 (R270). -/
def forkReserve (s : State) (vale vd : Nat) : State × Option (Nat × Nat) :=
  let n := qPostSeen s vale vd 63
  let bad (s : State) : State × Option (Nat × Nat) := (openEpisode s vale vd 63 4 n n, none)
  if !queueValid s vale vd 63 || decide (qRetire s vale vd 63 + 32 * qLinks s vale vd 63 ≤ n) then (s, none)
  else
    let slot (s : State) : State × Option (Nat × Nat) :=
      match segmentOf s vale vd 63 n with
      | (s, some g) => (s, some (n, g))
      | (s, none) => (s, none)
    if reserveLeft s vale vd then slot s
    else match emptyEntry s vale vd n with
      | .error _ => bad s
      | .ok none => (s, none)
      | .ok (some a) => match poolPop s vale vd 63 with
        | .empty s => (s, none)
        | .bad s _ => bad s
        | .segment s g => match linkSegment s vale vd 63 a g with
          | none => bad s
          | some s => slot s

/-- Writes a child card into its slot with the flag of its form, and posts it (R57, R58, R385). -/
def forkWrite (s : State) (vale vd job n seg : Nat) (card : List Word) (flag : Nat) : Option State :=
  let w0 := (wordAt card 0).toNat
  let w0 := if bitOf w0 (16 + flag) then w0 else w0 + 2 ^ (16 + flag)
  match ipaWrite s vale vd (seg + 128 * (n % 32)) (bytesOfWords (BitVec.ofNat 32 w0 :: card.drop 1)) with
  | none => none
  | some s =>
    let s := writePost s vale vd 63 (n + 1)
    let s := qcbPut (qcbPut s vale vd 63 0x90 8 (n + 1)) vale vd 63 0xAC 2 (qForkUsed s vale vd 63 + 1)
    let dl := (Tbl.get s.jobs job).bind (fun (j : Job) => j.deadline)
    some (s.modQueue vale vd 63 (fun x => { x with parents := x.parents ++ [(n, dl)] }))

/-- Reads a child card for a wave (R270): its 32 words, the fault of its address, or that it must wait. -/
def forkCard (s : State) (w : Nat) (wv : Wave) (a : DWord) : State × Got (List Word) :=
  if a.toNat % 128 ≠ 0 then (s, .fault ⟨cAlign, 0, a⟩)
  else match engRead s wv.core w wv.vale wv.vd a.toNat 128 with
    | (s, .fault f) => (engForget s wv.core w, .fault f)
    | (_, .wait ask) => (engAsk s wv.core w wv.vale wv.vd wv.pos.pc ask, .wait ask)
    | (s, .ok (bs, bad)) =>
      let s := engForget s wv.core w
      if bad then (s, .fault ⟨cPoison, 0, a⟩) else (s, .ok (wordsOfBytes bs))

/-- Checks FORK.SUSPEND's counter address (R270). -/
def forkCtr (s : State) (wv : Wave) (a : DWord) : State × Option AddrFault :=
  if a.toNat % 8 ≠ 0 then (s, some ⟨cAlign, 0, a⟩)
  else match translate s (some wv.core) wv.vale wv.vd a.toNat 8 .load with
    | (s, .error f) => (s, some f)
    | (s, .ok x) => match x.target with
      | .mem k => (s, if diePoisoned s (dieOfCore wv.core) k 8 then some ⟨cPoison, 0, a⟩ else none)
      | _ => (s, none)

/-! ## FORK.DETACH -/

/-- A fork in an ORDERED job faults TASK; FORK.SUSPEND in a job with CLUSTER other than 1 faults BARRIER (R270, R278). -/
def forkState (s : State) (wv : Wave) (suspend : Bool) : Option (BitVec 8) :=
  let card := s.cardOf wv.job
  if cardFlag card 0 then some cTask
  else if suspend && decide (cardCluster card ≠ 1) then some cBarrier
  else none

/-- Whether the Col must wait before it takes a card into queue 63 (R155, R156, R408). -/
def forkHeld (s : State) (vale vd : Nat) : Bool :=
  visitWaits s vale vd 63 || colWaits s vale vd 63 (qPostSeen s vale vd 63) ||
    (match readLink s vale (linkIpa s vale vd 63 (qPostSeen s vale vd 63)) false with
      | .segment g => ipaWaits s vale (g + 128 * (qPostSeen s vale vd 63 % 32)) 128 true
      | _ => false)

/-- Whether the accesses before a FORK have still to be performed (R270), or the Col must wait before it takes the card. -/
def forkWaits (s : State) (w : Nat) (wv : Wave) : Bool :=
  releaseWaits s w wv s.nextId 3 false || forkHeld s wv.vale wv.vd

/-- FORK.DETACH (R58, R59, R270). -/
def execForkDetach (o : VaFields) (s : State) : Host.Outcome State Fault Refusal :=
  runOnce (.forkDetach o) [o.a, o.a + 1] (fun s w wv =>
    match forkState s wv false with
    | some c => raiseInstr s w wv (.forkDetach o) c 0
    | none =>
      if forkWaits s w wv then s
      else match forkCard s w wv (wv.scal64 o.a) with
        | (s, .wait _) => s
        | (s, .fault f) => raiseOnce s w wv 4 f.cause (BitVec.ofNat 32 f.reason) f.addr
        | (s, .ok card) =>
          let (s, ok) := match forkReserve s wv.vale wv.vd with
            | (s, none) => (s, false)
            | (s, some (n, g)) => match forkWrite s wv.vale wv.vd wv.job n g card 3 with
              | some s => (s, true)
              | none => (openEpisode s wv.vale wv.vd 63 4 g n, false)
          s.setWave w ((wv.wrPred o.d.toNat (lanesOf wv.part) (fun _ => ok)).advance 4)) s

/-! ## FORK.SUSPEND -/

/-- FORK.SUSPEND as a wave reaches it (R57): it waits for the block's other waves. -/
def execForkSuspend (o : VaFields) (s : State) : Host.Outcome State Fault Refusal :=
  runOnce (.forkSuspend o) (fieldsFrom o.a 2 ++ fieldsFrom o.b 4) (fun s w wv =>
    match forkState s wv true with
    | some c => raiseOnce s w wv 4 c 0 0
    | none =>
      if forkWaits s w wv then s
      else s.setWave w { wv with
        wait := some (.fork (wv.scal64 o.a) (wv.scal64 o.b) (wv.scal64 (o.b + 2)) (o.d.setWidth 3) wv.part) }) s

/-- A participating wave goes on past its FORK.SUSPEND with a status (R57, R59). -/
def passFork (status : Bool) (w : Wave) : Wave :=
  match w.wait with
  | some (.fork _ _ _ pd lanes) => { (w.wrPred pd.toNat (lanesOf lanes) (fun _ => status)).advance 4 with wait := none }
  | _ => w

/-- Every participating wave of a block goes on (R59). -/
def passForks (s : State) (blk : Nat) (status : Bool) : State :=
  { s with waves := Tbl.mapVals (fun _ w => if w.kind = .ordinary && decide (w.blk = blk) then passFork status w else w) s.waves }

/-- Appends the card and stops the block for its save, once the operands have passed their checks (R57, R59, R412). -/
def forkSuspend (s : State) (blk : Nat) (b : Block) (card : List Word) (ptr ctr target : DWord) : State :=
  let here := match b.saveAt with
    | some a => some a
    | none => none
  match forkReserve s b.vale b.vd with
  | (s, none) => passForks s blk false
  | (s, some (n, g)) =>
    let (s, room) := match here with
      | some a => (s, some a)
      | none => reserveSave s b.vale b.vd (blockSaveMax (s.cardOf b.job)) (cardAddr s b.job)
    match room with
    | none => passForks s blk false
    | some a =>
      match forkWrite s b.vale b.vd b.job n g card 2 with
      | none =>
        let s := if here.isNone then freeSave s b.vale b.vd (some a) else s
        passForks (openEpisode s b.vale b.vd 63 4 g n) blk false
      | some s =>
        let s := passForks s blk true
        stopForSave (s.modBlock blk (fun b => { b with fork := some (ptr, ctr, target) })) blk true a

/-- A wave waiting in FORK.SUSPEND takes its turn (R57): once every live wave of the block waits there, the operands of
the lowest-numbered one are checked and used. -/
def forkTurn (s : State) (blk : Nat) : State :=
  match Tbl.get s.blocks blk with
  | none => s
  | some b =>
    let ws := liveWaves s b
    let ready := ws.all (fun e => e.2.trap.isNone && decide (e.2.late = []) && (match e.2.wait with
      | some (.fork _ _ _ _ _) => e.2.standing
      | _ => false))
    let open_ := match b.st with
      | .resident => true
      | .saving f => !f
      | _ => false
    if !ready || !open_ || !vdIssues s b.vale b.vd || forkHeld s b.vale b.vd then s
    else match ws with
      | [] => s
      | (w, wv) :: _ =>
        match wv.wait with
        | some (.fork ptr ctr target _ _) =>
          let off := { wv with wait := none }
          let fail (s : State) (f : AddrFault) : State := raiseOnce s w off 4 f.cause (BitVec.ofNat 32 f.reason) f.addr
          if decide (ptr.toNat % 128 = 0) && decide (ctr.toNat % 8 ≠ 0) then fail s ⟨cAlign, 0, ctr⟩
          else match forkCard s w wv ptr with
          | (s, .wait _) => s
          | (s, .fault f) => fail s f
          | (s, .ok card) => match forkCtr s wv ctr with
            | (s, some f) => fail s f
            | (s, none) => forkSuspend s blk b card ptr ctr target
        | _ => s

/-- SUSPEND_WAKE (R57, R549): the counter of a block saved by FORK.SUSPEND has reached its target, and the block waits for
a slot. -/
def execSuspendWake (blk : Nat) (s : State) : Host.Outcome State Fault Refusal :=
  .next (match Tbl.get s.blocks blk with
    | none => s
    | some b =>
      match b.st with
      | .saved a true ctr target =>
        let key := 1024 + blk
        if readHeld s b.vale b.vd (3 * blk + 2) then s
        else match partRead s blk b.vale b.vd (cardAddr s b.job) ctr with
        | (s, .ok none) => s
        | (s, .error f) =>
          let d := s.vd? b.vale b.vd
          let seen := (d.map (fun d => d.episodes.contains key)).getD true
          let s := if seen then s else record s (partRec b.vale b.vd (cardAddr s b.job) f)
          holdRead (s.modVd b.vale b.vd (fun d => { d with episodes := insertNat key d.episodes })) b.vale b.vd (3 * blk + 2)
        | (s, .ok (some v)) =>
          let s := (engForget s (scalarCore s b.vale) blk).modVd b.vale b.vd (fun d => { d with episodes := removeNat key d.episodes })
          if target.toNat ≤ v.toNat then s.modBlock blk (fun b => { b with st := .saved a false ctr target }) else s
      | _ => s)

end Sys2Proof.Machine
end

