-- ==== Sys2Proof/Machine/Cards.lean ====
section
/-! DEFINITION. From a post to a job (R386, R530, R381, R390, R53 to R55): the events FETCH_CARD, PLUGIN_INVOCATION,
CARD_READY, PROLOGUE_START and PARKUNTIL_EXPIRY, with pre-emption for a ready card (R392) and switch-out of parked VDs
(R395). -/
namespace Sys2Proof.Machine

/-! ## Fetching -/

/-- Whether a job's last record has been dealt or admitted (R55). -/
def dealtWhole (j : Job) : Bool :=
  match j.ord with
  | some o => decide (cardRecords j.card ≤ o.rootNext)
  | none => decide (cardRecords j.card ≤ j.next)

/-- Whether the next card of a queue may start (R55): the previous card's job has retired and its completion add is performed, or the
card has OVERLAP and that job has been dealt whole. -/
def mayStart (s : State) (x : Queue) (card : List Word) : Bool :=
  match x.prev with
  | none => true
  | some j => match Tbl.get s.jobs j with
    | none => cardFlag card 1 || !s.inflight.any (fun e => decide (e.2.job = j))
    | some y => cardFlag card 1 && dealtWhole y

/-- The card at the head of a queue: its address, its words, and the first 8-byte word of it that is poisoned (R529). -/
structure HeadCard where
  addr : Nat
  words : List Word
  bad : Option Nat
  rep : Bool

/-- Reads a card's 128 bytes at an IPA. -/
def headAt (s : State) (vale addr : Nat) (rep : Bool) : Option HeadCard :=
  match s.vale? vale with
  | none => none
  | some v => match ipaRead s v addr 128 with
    | .ok bs => some { addr := addr, words := wordsOfBytes bs, bad := (ipaBad s v addr 128).head?.map (fun j => 4 * j), rep := rep }
    | .error _ => if rep then some { addr := addr, words := [], bad := some 0, rep := rep } else none

/-- The words of the card a queue starts next, as far as its segment is linked: the one fetched, the REPEAT copy, or card CONSUME. -/
def peekCard (s : State) (vale vd q : Nat) : List Word :=
  let x := s.queue? vale vd q
  let at_ (a : Nat) : List Word := ((headAt s vale a false).map (fun h => h.words)).getD []
  if x.stage ≠ .none then x.card
  else if qRepeat s vale vd q then ((s.vd? vale vd).map (fun d => at_ (d.reg64 0x18 + 128 * q))).getD []
  else match readLink s vale (linkIpa s vale vd q (qConsume s vale vd q)) false with
    | .segment g => at_ (g + 128 * (qConsume s vale vd q % 32))
    | _ => []

/-- Whether the next card of a queue may start, for its STATE (R389): by its own flag. -/
def stateMayStart (s : State) (vale vd q : Nat) : Bool := mayStart s (s.queue? vale vd q) (peekCard s vale vd q)

/-- Rewrites a queue's STATE and INFLIGHT (R388, R389); where its QCB's lines are held, a later visit does (R156). -/
def refresh (s : State) (vale vd q : Nat) : State :=
  if qcbWaits s vale vd q then s else writeState s vale vd q (stateMayStart s vale vd q)

/-- The record of a post word that cannot be read (R549). -/
def postFail (s : State) (vale vd q : Nat) (f : AddrFault) : State :=
  if (s.queue? vale vd q).episodes.contains 16 then s
  else
    let pc := ((s.vd? vale vd).map (fun d => qcbIpa d q)).getD 0
    (record s (partRec vale vd pc f)).modQueue vale vd q (fun x => { x with episodes := insertNat 16 x.episodes })

/-- Reads and judges a queue's post word (R386, R531): how many cards are posted and may be fetched. -/
def lookPost (s : State) (vale vd q : Nat) : State × Option Nat :=
  let a := qField s vale vd q 0x20
  let s := if (postIndex a).isNone then markRead s vale a 8 else s
  if readHeld s vale vd (3 * q) then (s, none)
  else match postWord s vale vd q with
  | .error f => (holdRead (postFail s vale vd q f) vale vd (3 * q), none)
  | .ok p =>
    let s := closeEpisode s vale vd q 16
    let seen := qPostSeen s vale vd q
    let (s, p) :=
      if q = 63 then (setEpisode s vale vd q 8 (decide (p ≠ seen)) p seen, seen)
      else
        let s := setEpisode s vale vd q 1 (decide (p < seen)) p seen
        if p < seen then (s, seen) else (qcbPut s vale vd q 0x90 8 p, p)
    let limit := qRetire s vale vd q + 32 * qLinks s vale vd q
    (setEpisode s vale vd q 2 (decide (limit < p)) p (qRetire s vale vd q), some (min p limit))

/-- Reads a card as the Col fetches it: rows that own its line give it up (R108). -/
def fetchHead (s : State) (vale addr : Nat) (rep : Bool) : State × Option HeadCard :=
  let s := markRead s vale addr 128
  (s, headAt s vale addr rep)

/-- Finds the next card of a queue (R386, R53): the REPEAT working copy, or card CONSUME, with its segment linked. -/
def nextCard (s : State) (vale vd q avail : Nat) : State × Option HeadCard :=
  let n := qConsume s vale vd q
  if qRepeat s vale vd q then
    match s.vd? vale vd with
    | some d => fetchHead s vale (d.reg64 0x18 + 128 * q) true
    | none => (s, none)
  else if avail ≤ n || (decide (qQuota s vale vd q ≠ 0) && decide (qQuota s vale vd q ≤ n - qRetire s vale vd q)) then (s, none)
  else match segmentOf s vale vd q n with
    | (s, none) => (s, none)
    | (s, some g) => fetchHead s vale (g + 128 * (n % 32)) false

/-- Takes a card from its queue (R386, R530): an acquire, CONSUME up, and the check of R47. -/
def takeCard (s : State) (vale vd q : Nat) (h : HeadCard) : State :=
  let x := s.queue? vale vd q
  let n := if h.rep then x.number else qConsume s vale vd q
  let s := if h.rep then setRepeat s vale vd q false
    else
      let s := qcbPut s vale vd q 0x80 8 (n + 1)
      let y := qcbNat s vale vd q 0xB8 4
      qcbPut s vale vd q 0xB8 4 (y / 65536 * 65536 + (n + 1) / 32 % max 1 (qLinks s vale vd q))
  let s := dropL1 s (scalarCore s vale) vale vd
  let s := s.modQueue vale vd q (fun x => { x with card := h.words, number := n, addr := h.addr, fromRepeat := h.rep, stage := .fetched none })
  match h.bad with
  | some w => rejectCard s vale vd q 6 w
  | none => match cardFault h.words q true with
    | some (r, w) => rejectCard s vale vd q r w
    | none => s

/-- FETCH_CARD (R386, R531): the Col visits a queue: it judges the QCB and the post word, and fetches the next card when
it may start. -/
def execFetchCard (vale vd queue : Nat) (s : State) : Host.Outcome State Fault Refusal :=
  .next (
    let q := queue
    if 64 ≤ q || !vdIssues s vale vd || decide ((s.queue? vale vd q).stage ≠ .none) || visitWaits s vale vd q then s
    else
      let bs := roHalf s vale vd q
      if bs = [] || decide (natLE (bs.take 2) = 0) then s
      else if !queueValid s vale vd q then refresh (openEpisode s vale vd q 5 (natLE (bs.take 8)) (qPostSeen s vale vd q)) vale vd q
      else
        match lookPost (closeEpisode s vale vd q 5) vale vd q with
        | (s, none) => refresh s vale vd q
        | (s, some avail) =>
          match nextCard s vale vd q avail with
          | (s, none) => refresh s vale vd q
          | (s, some h) =>
            if mayStart s (s.queue? vale vd q) h.words then refresh (takeCard s vale vd q h) vale vd q else refresh s vale vd q)

/-- PLUGIN_INVOCATION (R381): the plug-in answers for the card at the head of a queue of its VD, once; PARK parks the
queue. -/
def execPluginInvocation (vale vd queue : Nat) (answer : PluginAnswer) (s : State) : Host.Outcome State Fault Refusal :=
  .next (match s.vd? vale vd, (s.queue? vale vd queue).stage with
    | some d, .fetched none =>
      if d.plugin.isNone || !vdIssues s vale vd || qcbWaits s vale vd queue then s
      else
        let s := s.modQueue vale vd queue (fun x => { x with stage := .fetched (some answer) })
        match answer with
        | .park t => refresh (qcbPut s vale vd queue 0xB0 8 t.toNat) vale vd queue
        | _ => s
    | _, _ => s)

/-- PARKUNTIL_EXPIRY (R389): the TOD has reached PARKUNTIL, and the queue leaves PARKED. -/
def execParkuntilExpiry (vale vd queue : Nat) (s : State) : Host.Outcome State Fault Refusal :=
  .next (if (s.vd? vale vd).isSome && decide (qParkUntil s vale vd queue ≤ s.tod.toNat) then refresh s vale vd queue else s)

/-! ## Deadlines -/

/-- The deadline of R390 before the plug-in's answer. -/
def ruleDeadline (s : State) (vale vd q : Nat) (x : Queue) : Option Nat :=
  let t := s.tod.toNat
  let dl := card64 x.card 0x28
  if dl ≠ 0 then some dl
  else if cardFlag x.card 2 then ((x.parents.find? (fun p => decide (p.1 = x.number))).bind (fun p => p.2)).map (fun d => d.toNat)
  else
    let w0 := qcbNat s vale vd q 0 4
    let period := qField s vale vd q 0x08
    let rel := qField s vale vd q 0x10
    let frame := qField s vale vd q 0x18
    if bitOf w0 26 then none
    else if period ≠ 0 then
      let k := if t < frame then 0 else (t - frame) / period
      some ((frame + k * period + (if rel ≠ 0 then rel else period)) % 2 ^ 64)
    else some ((t + rel) % 2 ^ 64)

/-- The plug-in's part of a deadline (R381, R390): a later deadline, a limit passed and a fault are ignored, with a
PLUGIN record. -/
def pluginDeadline (s : State) (vale vd q : Nat) (x : Queue) (dl : Option Nat) : State × Option Nat :=
  let bad (reason sub v2 : Nat) : State := record s (schedRec cPlugin 1 (some vale) (some vd) x.addr reason sub q (dl.getD 0) v2)
  match x.stage with
  | .fetched (some (.deadline t)) =>
    match dl with
    | some d => if t.toNat ≤ d then (s, some t.toNat) else (bad 3 0 t.toNat, dl)
    | none => (s, some t.toNat)
  | .fetched (some .limit) => (bad 1 0 0, dl)
  | .fetched (some (.fault m)) => (bad 2 m 0, dl)
  | _ => (s, dl)

/-- A deadline under the VD's boost (R394). -/
def boostDeadline (s : State) (vale vd : Nat) (dl : Option Nat) : Option Nat :=
  match (s.vd? vale vd).bind (fun d => d.boostEnd) with
  | some t => some (match dl with
      | some d => min d t
      | none => t)
  | none => dl

/-- Fixes the deadline of the card at the head of a queue (R390): never below LASTDL. Where Min(dl, t_wake + BOOST) of R394 stands in R390's
sequence the manual leaves open: after the plug-in's answer and before LASTDL (DESIGN CHOICE, log 123). -/
def fixDeadline (s : State) (vale vd q : Nat) : State :=
  let s := wakeVd s vale vd
  let x := s.queue? vale vd q
  let (s, dl) := pluginDeadline s vale vd q x (ruleDeadline s vale vd q x)
  let dl := boostDeadline s vale vd dl
  let last := qField s vale vd q 0x98
  let dl := dl.map (fun d => max d last)
  let s := match dl with
    | some d => qcbPut s vale vd q 0x98 8 d
    | none => s
  s.modQueue vale vd q (fun x => { x with stage := .ready (dl.map (fun d => BitVec.ofNat 64 d)) })

/-! ## Room for a ready card -/

/-- The state with some blocks gone from their cores, for asking what would fit. -/
def without (s : State) (blks : List Nat) : State :=
  { s with blocks := Tbl.keep (fun k _ => !blks.contains k) s.blocks
           waves := Tbl.keep (fun _ w => !(decide (w.kind = .ordinary) && blks.contains w.blk)) s.waves }

/-! ## Pre-emption -/

/-- Whether a candidate is taken before another (R392): BACKGROUND first, then the latest deadline, then the job, then the
most recently placed. -/
def takenBefore (a b : Nat × Block × Option DWord) : Bool :=
  let late : Bool := decide (b.2.1.job < a.2.1.job) || (decide (a.2.1.job = b.2.1.job) && decide (b.2.1.placed < a.2.1.placed))
  match a.2.2, b.2.2 with
  | none, some _ => true
  | some _, none => false
  | none, none => late
  | some x, some y => decide (y.toNat < x.toNat) || (decide (x = y) && late)

/-- Inserts a candidate in order. -/
def insertCandidate (e : Nat × Block × Option DWord) : List (Nat × Block × Option DWord) → List (Nat × Block × Option DWord)
  | [] => [e]
  | x :: t => if takenBefore e x then e :: x :: t else x :: insertCandidate e t

/-- The blocks that may be pre-empted for a deadline (R392), in the order in which they are taken. -/
def candidates (s : State) (j : Job) (d : Nat) : List (Nat × Block × Option DWord) :=
  let th := ((s.vale? j.vale).map (fun v => v.pthresh.toNat)).getD 0
  (s.blocks.filterMap (fun e =>
    match Tbl.get s.jobs e.2.job with
    | none => none
    | some x =>
      let late := match x.deadline with
        | none => true
        | some t => decide (d + th < t.toNat)
      if decide (e.2.vale = j.vale) && decide (e.2.st = .resident) && late then some (e.1, e.2, x.deadline) else none)).foldl (fun l e => insertCandidate e l) []

/-- Whether a job's first round would fit once the blocks being saved have left. -/
def fitsAfterSaves (s : State) (j : Job) : Bool := roundFits (without s ((s.blocks.filter (fun e => isSaving e.2)).map (fun e => e.1))) j

/-- Chooses candidates one after another, clusters whole, until the first round fits; none when they do not suffice (R392). One whose
save cannot be reserved beside the others is no candidate (R405). -/
def takeUntil (s : State) (j : Job) : List (Nat × Block × Option DWord) → Option State
  | [] => if fitsAfterSaves s j then some s else none
  | e :: t => if fitsAfterSaves s j then some s else takeUntil (chooseSave s e.1) j t

/-- Pre-empts blocks for a ready card with deadline d (R392); when the candidates do not suffice only the refused reservations leave a
record (R405). -/
def preemptFor (s : State) (j : Job) (d : Nat) : State :=
  if roundFits s j then s
  else match takeUntil s j (candidates s j d) with
    | some s => s
    | none => (candidates s j d).foldl (fun s e => if savesFit s e.2.1.vale e.2.1.vd (saveWith s e.1 e.2.1) then s else refuseSave s e.2.1 (saveWith s e.1 e.2.1)) s

/-- Switches a VD out (R395): by a cut 16 ticks ahead when it keeps checkpoints, otherwise by pre-emption. -/
def switchOut (s : State) (vale vd : Nat) : State :=
  match s.vd? vale vd with
  | none => s
  | some d =>
    if d.stopReq.isSome || d.vdStopped then s
    else if d.reg 0x24 ≠ 0 && d.arm then s.modVd vale vd (fun d => nameCut d (s.tod.toNat + 16) true)
    else
      ((s.blocks.filter (fun e => decide (e.2.vale = vale) && decide (e.2.vd = vd) && decide (e.2.st = .resident))).map (fun e => e.1)).foldl chooseSave s

/-- Switches out the parked VDs of a vale whose blocks keep a ready job from its slot (R395). -/
def relieve (s : State) (j : Job) : State :=
  match s.vale? j.vale with
  | none => s
  | some v =>
    v.vds.foldl (fun s e =>
      let mine := (s.blocks.filter (fun b => decide (b.2.vale = j.vale) && decide (b.2.vd = e.1))).map (fun b => b.1)
      if e.2.parked && decide (e.1 ≠ j.vd) && !roundFits s j && roundFits (without s mine) j then switchOut s j.vale e.1 else s) s

/-! ## Launch -/

/-- Whether an ORDERED job runs in a vale (R352). -/
def orderedRuns (s : State) (vale : Nat) : Bool := s.jobs.any (fun e => decide (e.2.vale = vale) && e.2.ord.isSome)

/-- Launches the card at the head of a queue as a job (R48, R49, R388): its start is an acquire (R55, R104, R170), and room is made for it
(R392, R395). -/
def launchCard (s : State) (vale vd q : Nat) (card : List Word) (dl : Option DWord) : State :=
  let x := s.queue? vale vd q
  let (id, s) := s.fresh
  let ord : Option Ordered := if cardFlag card 0 then some { seqNext := 0, rootNext := 0, rootTs := 0, tasks := [], stuck := false } else none
  let j : Job := { vale := vale, vd := vd, queue := q, number := x.number, addr := x.addr, card := card, deadline := dl, next := 0, size := 0,
                   chunks := [], ord := ord, gateBad := false }
  let j := { j with size := chunkSize s j }
  let s := { s with jobs := Tbl.set s.jobs id j }
  let s := match s.vale? vale with
    | some v => jobAcquire s v vale vd
    | none => s
  let s := s.modQueue vale vd q (fun x => { x with stage := .none, running := x.running ++ [id], prev := some id })
  let s := refresh s vale vd q
  let s := match dl with
    | some d => preemptFor s j d.toNat
    | none => s
  startConversion (relieve s j) j

/-- Whether another ready ORDERED card of the vale ranks before a deadline (R391). DEDUCED (log 62): of the ORDERED cards
that wait for one another (R352), the first in R391's order starts; one whose prologue has not ended is not among them. -/
def orderedBefore (s : State) (vale : Nat) (dl : Option DWord) : Bool :=
  (natsFrom 0 16).any (fun vd => vdIssues s vale vd && (activeQueues s vale vd).any (fun q =>
    let x := s.queue? vale vd q
    match x.stage, dl with
    | .ready (some e), some d => cardFlag x.card 0 && !cardFlag x.card 4 && decide (e.toNat < d.toNat)
    | .ready (some _), none => cardFlag x.card 0 && !cardFlag x.card 4
    | _, _ => false))

/-- Launches a ready card unless an ORDERED job, or an ORDERED card that ranks before it, holds it back (R352, R391). -/
def tryLaunch (s : State) (vale vd q : Nat) (card : List Word) (dl : Option DWord) : State :=
  if cardFlag card 0 && (orderedRuns s vale || orderedBefore s vale dl) then s else launchCard s vale vd q card dl

/-! ## Prologues -/

/-- The record of a prologue that is abandoned (R496): PC is the address of what faulted. -/
def prologueRec (w : Wave) (cause : BitVec 8) (detail : Word) (addr : DWord) : ErrRec :=
  { ErrRec.blank cause 1 (some w.vale) (some w.vd) with
    pc := ((w.trap.map (fun t => t.at_)).getD w.pos).pc.toNat, addr := addr.toNat, lanes := 1, detail := trapDetail 0 0 0 detail.toNat 0 }

/-- Abandons a prologue (R496, R530). -/
def abandonPrologue (s : State) (vale vd q wid : Nat) (w : Wave) (cause : BitVec 8) (detail : Word) (addr : DWord) (word : Nat) : State :=
  let s := record s (prologueRec w cause detail addr)
  let s := setRepeat { s with waves := Tbl.erase s.waves wid } vale vd q false
  rejectCard s vale vd q 5 word

/-- Places a REPEAT working copy behind the card (R53): s0 to s31 with word 31 set to 0, in the queue's slot of the save
area. -/
def holdRepeat (s : State) (vale vd q : Nat) (card : List Word) : State :=
  match s.vd? vale vd with
  | none => s
  | some d =>
    let a := d.reg64 0x18 + 128 * q
    match ipaWrite s vale vd a (bytesOfWords (setAt card 31 0)) with
    | some s => setRepeat s vale vd q true
    | none =>
      let x := s.queue? vale vd q
      severity2 s vale vd (schedRec cVdc 2 (some vale) (some vd) x.addr 7 vd 0 a x.addr)

/-- A prologue has ended (R53, R496): its card is launched, cancelled or refused. -/
def finishPrologue (s : State) (vale vd q : Nat) (dl : Option DWord) (wid : Nat) (w : Wave) : State :=
  let card := (natsFrom 0 32).map w.rdS
  match w.trap with
  | some t =>
    match t.lanes with
    | f :: _ => abandonPrologue s vale vd q wid w f.cause f.detail f.addr 0
    | [] => abandonPrologue s vale vd q wid w cIllegal 0 0 0
  | none =>
    let dec := (wordAt card 31).toNat
    if 3 ≤ dec then abandonPrologue (s.modQueue vale vd q (fun x => { x with card := card })) vale vd q wid w cField 0 0 15
    else
      let s := s.modQueue vale vd q (fun x => { x with card := card })
      let gone (s : State) : State := { s with waves := Tbl.erase s.waves wid }
      match cardFault card q false with
      | some (r, x) => rejectCard (gone s) vale vd q r x
      | none =>
        if dec = 1 then
          let (id, s) := s.fresh
          let s := completionAdd (gone s) id vale vd (s.queue? vale vd q).addr card
          refresh (dropCard (s.modQueue vale vd q (fun x => { x with prev := some id })) vale vd q) vale vd q
        else if cardFlag card 0 && orderedRuns s vale then s
        else
          let s := if dec = 2 then holdRepeat (gone s) vale vd q card else gone s
          if vdIssues s vale vd then launchCard s vale vd q card dl else s

/-- PROLOGUE_START (R53, R54): the launch scalar unit, which runs one prologue of the vale at a time, loads the card into
s0 to s31; a vale whose lowest glen is fenced places no wave there (R29). -/
def execPrologueStart (vale vd queue : Nat) (s : State) : Host.Outcome State Fault Refusal :=
  .next (
    let x := s.queue? vale vd queue
    match x.stage with
    | .ready dl =>
      let busy := s.waves.any (fun e => decide (e.2.kind = .prologue) && decide (e.2.vale = vale))
      let fenced := ((s.vale? vale).map (fun v => glenFenced s v.first)).getD true
      if !cardFlag x.card 4 || busy || fenced || !vdIssues s vale vd then s
      else
        let (id, s) := s.fresh
        let w := freshWave .prologue vale vd 0 0 0 (scalarCore s vale) 0xFF 0 0 (BitVec.ofNat 64 (card64 x.card 0x58))
        let w := (natsFrom 0 32).foldl (fun w j => w.wrS j (wordAt x.card j)) { w with active := 1, queueOf := queue, lastIssue := s.turns }
        { s with waves := Tbl.set s.waves id w }.modQueue vale vd queue (fun x => { x with stage := .prologue dl id })
    | _ => s)

/-- CARD_READY (R390, R55): a card that may start gets its deadline, and is launched, unless it has a prologue; a
prologue that has ended decides the card (R53). -/
def execCardReady (vale vd queue : Nat) (s : State) : Host.Outcome State Fault Refusal :=
  .next (
    let x := s.queue? vale vd queue
    let d := s.vd? vale vd
    if !vdIssues s vale vd || visitWaits s vale vd queue || colWaits s vale vd queue x.number then s
    else match x.stage with
      | .fetched plug =>
        let asked := plug.isSome || ((d.map (fun d => d.plugin.isNone)).getD true)
        if !asked || decide (s.tod.toNat < qParkUntil s vale vd queue) || !mayStart s x x.card then s
        else
          let s := fixDeadline s vale vd queue
          match (s.queue? vale vd queue).stage with
          | .ready dl => if cardFlag x.card 4 then s else tryLaunch s vale vd queue x.card dl
          | _ => s
      | .ready dl => if cardFlag x.card 4 then s else tryLaunch s vale vd queue x.card dl
      | .prologue dl w =>
        match Tbl.get s.waves w with
        | some wv => if wv.ended then finishPrologue s vale vd queue dl w wv else s
        | none => s
      | .none => s)

end Sys2Proof.Machine
end

