-- ==== Sys2Proof/Machine/Sched.lean ====
section
/-! DEFINITION. Dealing and allowance: the events DEAL_CHUNK, PLACE_ROUND (R49 to R51), JOB_RETIRE (R52, R55),
PERIOD_BOUNDARY and WAKE_BOOST_END (R394), ACCOUNTING_WINDOW (R398). -/
namespace Sys2Proof.Machine

/-! ## Dealing -/

/-- DEAL_CHUNK (R49, R391): the job's next chunk goes to a cluster slot of the glen, when its first gate is open, the order of R391
offers it the slot, and no saved block of the job takes it first (R57). A job with no place asks for room (R132, R395). -/
def execDealChunk (job glen : Nat) (s : State) : Host.Outcome State Fault Refusal :=
  .next (match Tbl.get s.jobs job with
    | none => s
    | some j =>
      if !vdIssues s j.vale j.vd then s
      else if j.ord.isSome then startConversion (relieve s j) j
      else if cardRecords j.card ≤ j.next then s
      else match gateOpen s job j.next with
        | (s, false) => s
        | (s, true) =>
          let fits (g : Nat) : Bool := (slotIn s j g).isSome
          if savedFits s job glen then s
          else if firstOffer s j.vale glen ≠ some job || decide (bestGlen s j.vale fits ≠ some glen) then startConversion (relieve s j) j
          else match slotIn s j glen with
            | none => s
            | some cores =>
              let (k, s) := s.fresh
              let n := min (max 1 j.size) (cardRecords j.card - j.next)
              let j := { j with next := j.next + n, chunks := Tbl.set j.chunks k { glen := glen, cores := cores, next := j.next, stop := j.next + n, round := none } }
              let s := s.modJob job (fun _ => { j with size := chunkSize s j })
              refresh (passKey s j) j.vale j.vd j.queue)

/-- PLACE_ROUND (R50): a chunk's next round is placed on its slot's cores, all its blocks at once, when the round before
it has retired and its gates are open, their test an acquire for the cores (R51); a chunk that has not started takes its slot in the order of R391. -/
def execPlaceRound (job slot : Nat) (s : State) : Host.Outcome State Fault Refusal :=
  .next (match Tbl.get s.jobs job with
    | none => s
    | some j =>
      match Tbl.get j.chunks slot with
      | none => s
      | some c =>
        let m := roundSize j c
        let cores := c.cores.take m
        if !roundReady s j c || (c.round.isNone && (savedFits s job c.glen || decide (firstOffer s j.vale c.glen ≠ some job))) then s
        else match gatesOpen job (natsFrom c.next m) s with
          | (s, false) => s
          | (s, true) =>
            let s := gateAcquire s j cores
            let (cl, s) := s.fresh
            let r := (natsFrom 0 m).foldl (fun (r : State × List Nat) i =>
              let (b, s) := placeBlock r.1 (cores.getD i 0) job cl i (BitVec.ofNat 32 (c.next + i)) (BitVec.ofNat 64 (card64 j.card 0x08)) none
              (s, r.2 ++ [b])) (s, [])
            let s := r.1
            let s := { s with clusters := Tbl.set s.clusters cl { job := job, glen := c.glen, members := r.2, phase := [], arrived := [] } }
            let s := s.modJob job (fun j => { j with chunks := Tbl.set j.chunks slot { c with next := c.next + m, round := some cl } })
            refresh s j.vale j.vd j.queue)

/-! ## The end of a job -/

/-- Whether nothing of a job is left to run (R52): its blocks have retired, with the coverage commands they had accepted (R343, R498), and its
copies are done; commands of the encoder are not waited for (file 16 of spec/). -/
def jobOver (s : State) (job : Nat) (j : Job) : Bool :=
  (match j.ord with
    | some o => decide (cardRecords j.card ≤ o.rootNext) && decide (o.tasks = [])
    | none => decide (cardRecords j.card ≤ j.next) && j.chunks.all (fun c => decide (c.2.stop ≤ c.2.next))) &&
    s.blocks.all (fun e => decide (e.2.job ≠ job) || decide (e.2.st = .retired)) &&
    s.waves.all (fun e => decide (e.2.job ≠ job) || decide (e.2.kind = .prologue) || e.2.ended) &&
    s.inflight.all (fun e => decide (e.2.job ≠ job)) && s.cores.all (fun c => c.2.cmds.all (fun m => decide (m.2.job ≠ job))) &&
    s.glens.all (fun g => g.2.covq.all (fun c => match Tbl.get s.blocks c.2.blk with
      | some b => decide (b.job ≠ job)
      | none => true))

/-- Removes what a retired job leaves. -/
def dropJob (s : State) (job : Nat) : State :=
  { s with
    jobs := Tbl.erase s.jobs job
    blocks := Tbl.keep (fun _ b => decide (b.job ≠ job)) s.blocks
    clusters := Tbl.keep (fun _ c => decide (c.job ≠ job)) s.clusters
    waves := Tbl.keep (fun _ w => decide (w.job ≠ job) || decide (w.kind = .prologue)) s.waves }

/-- JOB_RETIRE (R52, R55): the completion add is performed, and the card retires. -/
def execJobRetire (job : Nat) (s : State) : Host.Outcome State Fault Refusal :=
  .next (match Tbl.get s.jobs job with
    | none => s
    | some j =>
      let frozen := ((s.vd? j.vale j.vd).map (fun d => d.stopped || d.rolling || (match d.cut with
        | some c => c.halted
        | none => false))).getD true
      if s.halted || frozen || !jobOver s job j || colWaits s j.vale j.vd j.queue j.number then s
      else
        let s := completionAdd s job j.vale j.vd j.addr j.card
        let s := (dropJob s job).modQueue j.vale j.vd j.queue (fun x => { x with running := removeNat job x.running })
        refresh (cardDone s j.vale j.vd j.queue j.number) j.vale j.vd j.queue)

/-! ## Allowance -/

/-- APERIOD in ticks (R383). -/
def aperiodOf (x : Nat) : Nat := if x = 0 then 600000 else x

/-- A VD's capacity for its period (R394): the clocks elapsed in it and the rest at the present clock. -/
def capacityOf (s : State) (v : Vale) (d : Vd) : Nat :=
  512 * v.n * (d.elapsed + (d.nextBoundary - s.tod.toNat) * s.clkNow.toNat) / 600

/-- Takes the allowance fields of VDC_n into force (R384). -/
def takeFields (d : Vd) : Vd :=
  { d with weightNow := bitsOf (d.reg 0) 15 8, capNow := bitsOf (d.reg 0) 23 16, boostNow := bitsOf (d.reg 0) 31 24, aperiodNow := aperiodOf (d.reg 4) }

/-- Starts a period now (R394, R384): U is 0, and it runs to the next multiple of APERIOD. -/
def startPeriod (s : State) (vale vd : Nat) : State :=
  match s.vale? vale with
  | none => s
  | some v => s.modVd vale vd (fun d =>
    let d := takeFields d
    let d := { d with usedU := 0, elapsed := 0, nextBoundary := (s.tod.toNat / max 1 d.aperiodNow + 1) * d.aperiodNow }
    { d with capacity := capacityOf s v d })

/-- PERIOD_BOUNDARY (R394): U becomes 0, the fields written since take effect, and a parked VD is unparked. -/
def execPeriodBoundary (vale vd : Nat) (s : State) : Host.Outcome State Fault Refusal :=
  .next (match s.vd? vale vd with
    | none => s
    | some d =>
      if !d.en || decide (s.tod.toNat < d.nextBoundary) then s
      else
        let s := (startPeriod s vale vd).modVd vale vd (fun d => { d with parked := false })
        (activeQueues s vale vd).foldl (fun s q => refresh s vale vd q) s)

/-- WAKE_BOOST_END (R394). -/
def execWakeBoostEnd (vale vd : Nat) (s : State) : Host.Outcome State Fault Refusal :=
  .next (s.modVd vale vd (fun d => match d.boostEnd with
    | some t => if t ≤ s.tod.toNat then { d with boostEnd := none } else d
    | none => d))

/-- Whether a VD holds a resident wave or a ready card (R394): one whose job has not been dealt whole still waits for slots. -/
def vdBusy (s : State) (vale vd : Nat) : Bool :=
  s.waves.any (fun e => decide (e.2.vale = vale) && decide (e.2.vd = vd) && !e.2.ended &&
      (decide (e.2.kind ≠ .ordinary) || (match Tbl.get s.blocks e.2.blk with
        | some b => holdsCore b
        | none => false))) ||
    s.jobs.any (fun e => decide (e.2.vale = vale) && decide (e.2.vd = vd) && !dealtWhole e.2) ||
    ((s.vd? vale vd).map (fun d => d.queues.any (fun q => match q.2.stage with
      | .ready _ => true
      | .prologue _ _ => true
      | _ => false))).getD false

/-- What a TOD tick counts for a VD (R394): the clocks of its period, and since when it is idle. -/
def tickVd (s : State) (vale vd : Nat) (d : Vd) : Vd :=
  if !d.en then d
  else { d with elapsed := d.elapsed + s.clkNow.toNat
                idleSince := if vdBusy s vale vd then none else some (d.idleSince.getD s.tod.toNat) }

/-- What a TOD tick counts for every VD. -/
def tickVds (s : State) : State :=
  { s with vales := Tbl.mapVals (fun k v => { v with vds := Tbl.mapVals (fun n d => tickVd s k n d) v.vds }) s.vales }

/-! ## Memory occupancy -/

/-- ACCOUNTING_WINDOW (R398, R384): at a channel's window end FLOOR and OCAP of every VD of its vale come into force
there. -/
def execAccountingWindow (channel : Nat) (s : State) : Host.Outcome State Fault Refusal :=
  .next (
    let g := channel / 4
    s.vales.foldl (fun s e =>
      if decide (e.2.first ≤ g) && decide (g < e.2.first + e.2.n) then
        e.2.vds.foldl (fun s d => { s with window := Tbl.setCell 0 s.window (4096 * channel + vdKey e.1 d.1) (d.2.reg 8 % 65536) }) s
      else s) s)

end Sys2Proof.Machine
end

