-- ==== Sys2Proof/Machine/Ckpt.lean ====
section
/-! DEFINITION. Checkpoint cuts and rollback (R371, R372, R405 to R409, R412, R527, R534): the events CHECKPOINT_CUT,
CUT_COMPLETE, CUT_TIMEOUT, SWITCHOUT_CUT_TIMEOUT and ROLLBACK_DONE. -/
namespace Sys2Proof.Machine

/-! ## Naming cuts -/

/-- Names a periodic cut when its count is 64 ticks away (R406, log 40): every CKINT ticks from the VD's first cut. -/
def tickCut (s : State) (d : Vd) : Vd :=
  let n := d.reg 0x24
  if n = 0 || !d.en || d.stopped || d.rolling || d.stopReq.isSome || d.vdStopped then d
  else match d.firstCut with
    | none => { d with firstCut := some (s.tod.toNat + n) }
    | some a => if a ≤ s.tod.toNat + 64 && decide ((s.tod.toNat + 64 - a) % n = 0) then nameCut d (s.tod.toNat + 64) false else d

/-- Names the periodic cuts that are due. -/
def tickCuts (s : State) : State :=
  { s with vales := Tbl.mapVals (fun _ v => { v with vds := Tbl.mapVals (fun _ d => tickCut s d) v.vds }) s.vales }

/-! ## Halting -/

/-- The ORDERED jobs of a VD. -/
def orderedJobs (s : State) (vale vd : Nat) : List Nat :=
  (s.jobs.filter (fun e => decide (e.2.vale = vale) && decide (e.2.vd = vd) && e.2.ord.isSome)).map (fun e => e.1)

/-- Aborts every uncommitted task of a job other than the frontier (R371). -/
def abortOthers (s : State) (job : Nat) : State :=
  match orderedOf s job with
  | none => s
  | some o => (o.tasks.map (fun e => e.1)).foldl (fun s q =>
      match (orderedOf s job).bind (fun o => Tbl.get o.tasks q) with
      | none => s
      | some t => if isFrontier s job q || t.irrev || decide (t.st = .pending) then s else abortTask s job q) s

/-- The blocks of a VD that hold a core. -/
def coreBlocks (s : State) (vale vd : Nat) : List (Nat × Block) :=
  s.blocks.filter (fun e => decide (e.2.vale = vale) && decide (e.2.vd = vd) && holdsCore e.2)

/-- Writes back the dirty rows of a VD's blocks whose write-backs need not wait (R108, R408). -/
def writeRows (s : State) (vale vd : Nat) : State :=
  (coreBlocks s vale vd).foldl (fun s e => match Tbl.get s.blocks e.1 with
    | some b => b.rows.foldl (fun s r => if rowBackWaits s b r.2 then s else writeRowBack s e.1 r.1) s
    | none => s) s

/-- Whether a cut's count has come and it has not halted its VD. -/
def cutDue (s : State) (d : Vd) : Bool :=
  match d.cut with
  | some c => !c.halted && decide (c.count ≤ s.tod.toNat) && !d.stopped && !d.rolling
  | none => false

/-- Halts a VD for its cut (R406 step 1, R371, R408): what its dirty rows hold belongs to the interval that ends (log 41), the cut's own
interval begins, and tasks behind the frontier are aborted. -/
def haltCut (s : State) (vale vd : Nat) : State :=
  if !((s.vd? vale vd).map (cutDue s)).getD false then s
  else
    let s := (writeRows s vale vd).modVd vale vd (fun d => { d with
      cut := d.cut.map (fun c => { c with halted := true, start := d.undoHead, moved := d.migrated.length }), ckseq := d.ckseq + 1, logged := []
      firstCut := some (d.firstCut.getD ((d.cut.map (fun c => c.count)).getD 0)) })
    (orderedJobs s vale vd).foldl abortOthers s

/-- Halts every VD whose cut's count has come. -/
def haltCuts (s : State) : State :=
  s.vales.foldl (fun s v => v.2.vds.foldl (fun s d => if cutDue s d.2 then haltCut s v.1 d.1 else s) s) s

/-- CHECKPOINT_CUT (R406 step 1, R371): at its count a cut halts its VD's issue. -/
def execCheckpointCut (vale vd : Nat) (s : State) : Host.Outcome State Fault Refusal := .next (haltCut s vale vd)

/-- A frontier that must still become irrevocable for a cut, or commit when it has finished (R371). -/
def frontierDue (s : State) (vale vd : Nat) : Option (Nat × Nat) :=
  (orderedJobs s vale vd).findSome? (fun j => (orderedOf s j).bind (fun o =>
    ((o.tasks.find? (fun e => taskDone s e.2 || (!e.2.irrev && (match e.2.st with
      | .running _ => true
      | _ => false)))).map (fun e => (j, e.1)))))

/-- Settles the frontier for a cut or a stop, once its lines can be locked (R371): one that has finished commits, another becomes
irrevocable. -/
def settleFrontier (s : State) (job q : Nat) : State :=
  match (orderedOf s job).bind (fun o => Tbl.get o.tasks q) with
  | none => s
  | some t => if !lockReady s job q then s else if taskDone s t then commitTask s job q else makeIrrevocable s job q

/-! ## Draining -/

/-- Whether every unit serving a VD has drained (R406 step 1): blocks whose waves have ended hold no coverage command or K-step
either (R349, R550). -/
def cutDrained (s : State) (vale vd : Nat) : Bool :=
  let mine (c : Cmd) : Bool := decide (c.vale = vale) && decide (c.vd = vd)
  let gone := (s.blocks.filter (fun e => decide (e.2.vale = vale) && decide (e.2.vd = vd) && decide (e.2.st = .retired))).map (fun e => e.1)
  !gone.any (stepsQueued s) && !s.glens.any (fun g => g.2.covq.any (fun c => gone.contains c.2.blk)) &&
  (coreBlocks s vale vd).all (fun e => saveDrained s e.1 e.2) &&
    !s.inflight.any (fun a => decide (a.2.vale = vale) && decide (a.2.vd = vd)) &&
    !s.cores.any (fun c => c.2.cmds.any (fun m => mine m.2)) && !s.glens.any (fun g => g.2.encq.any (fun m => mine m.2))

/-! ## The image -/

/-- A resident block as an image or a switch-out holds it: saved (R402, R406). -/
def imageBlock (s : State) (b : Block) : Block :=
  let es := (b.seqCtx.map (enginesOf s)).getD []
  let (fork, ctr, target) : Bool × DWord × DWord := match b.st, b.fork with
    | .saving true, some (_, c, t) => (true, c, t)
    | _, _ => (false, 0, 0)
  { b with
    st := .saved 0 fork ctr target, accSaved := es, codeSaved := codeState s b, seqCtx := b.seqCtx.map savedSeq, tracks := []
    preempt := false, copyHalted := false, rows := Tbl.mapVals (fun _ r => { r with st := .mappedInvalid }) b.rows }

/-- Whether a wave belongs to a block of a list. -/
def waveOf (bs : Tbl Block) (w : Wave) : Bool := decide (w.kind = .ordinary) && (Tbl.get bs w.blk).isSome

/-- Whether a saved block stands in an image of its VD (R409). -/
def inImage (d : Vd) (b : Block) : Bool :=
  match b.st with
  | .saved a _ _ _ => decide (d.reg64 0x28 ≤ a) && decide (a < d.reg64 0x28 + d.reg 0x38 * 65536)
  | _ => false

/-- Where an image holds a block. -/
def partOf (parts : List ImagePart) (blk : Nat) : Option Nat := (parts.find? (fun p => decide (p.unit = .block blk))).map (fun p => p.addr)

/-- A saved block at another place. -/
def Block.savedAt (b : Block) (a : Nat) : Block :=
  match b.st with
  | .saved _ f c t => { b with st := .saved a f c t }
  | _ => b

/-- The blocks of a VD as an image holds them: those that hold a core, and those that stood in an image before, lie where its parts say. -/
def imageBlocks (s : State) (vale vd : Nat) (d : Vd) (parts : List ImagePart) : Tbl Block :=
  (Tbl.keep (fun _ b => decide (b.vale = vale) && decide (b.vd = vd) && decide (b.st ≠ .retired)) s.blocks).map (fun e =>
    let b := if holdsCore e.2 then imageBlock s e.2 else e.2
    (e.1, if holdsCore e.2 || inImage d e.2 then b.savedAt ((partOf parts e.1).getD 0) else b))

/-- A task entry as an image holds it (R371, R372): PENDING, or the frontier SAVED. -/
def imageTask (t : Task) : Task :=
  match t.st with
  | .running b => { t with st := .saved b }
  | _ => t

/-- The jobs of a VD as an image holds them. -/
def imageJobs (s : State) (vale vd : Nat) : Tbl Job :=
  Tbl.mapVals (fun _ j => { j with ord := j.ord.map (fun o => { o with tasks := Tbl.mapVals (fun _ t => imageTask t) o.tasks }) })
    (Tbl.keep (fun _ j => decide (j.vale = vale) && decide (j.vd = vd)) s.jobs)

/-- A queue as an image holds it: a prologue under way starts again (R54). -/
def imageQueue (x : Queue) : Queue :=
  match x.stage with
  | .prologue dl _ => { x with stage := .ready dl }
  | _ => x

/-- The half of the checkpoint area the next image takes (R407). -/
def nextHalf (d : Vd) : Nat := (d.image.map (fun i => (i.half + 1) % 2)).getD 0

/-- The code tables of a VD on the cores of its vale (R95, R406). -/
def imageTables (s : State) (vale vd : Nat) (v : Vale) : Tbl (Bank × Bank × Bool) :=
  (coresOf v).filterMap (fun c => (tablesOn s c vale vd).map (fun t => (c, t)))

/-- A VD's image at a cut, its parts where they are laid (R406): LASTCUT is the cut's own number (R419). -/
def imageOf (s : State) (vale vd : Nat) (d : Vd) (c : Cut) (parts : List ImagePart) : Image :=
  let bs := imageBlocks s vale vd d parts
  let js := imageJobs s vale vd
  { ckseq := d.ckseq, cut := c.count, half := nextHalf d, undoHead := c.start, blocks := bs
    clusters := Tbl.keep (fun _ x => (Tbl.get js x.job).isSome) s.clusters
    waves := Tbl.mapVals (fun _ w => if decide (w.core < 8192) then savedWave w else w) (Tbl.keep (fun _ w => waveOf bs w) s.waves)
    jobs := js, stats := Tbl.setCell 0 d.stats 6 (BitVec.ofNat 64 (d.ckseq % 2 ^ 32)), parts := parts, queues := Tbl.mapVals (fun _ x => imageQueue x) d.queues, saves := d.saves, rollbacks := 0
    tables := ((s.vale? vale).map (imageTables s vale vd)).getD [] }

/-! ## The image in memory -/

/-- A task record (R372). -/
def taskRecord (q : Nat) (t : Task) : List Byte :=
  let st := match t.st with
    | .running _ => 1
    | .saved _ => 1
    | _ => 0
  bytesLE 8 t.ts.toNat ++ bytesLE 4 q ++ bytesLE 4 (1 + st * 2 ^ 16 + bit1 t.root * 2 ^ 19 + bit1 t.irrev * 2 ^ 20) ++ bytesLE 8 t.entry.toNat ++
    bytesLE 4 (t.parent.getD 0xFFFFFFFF) ++ bytesLE 4 t.record.toNat ++ (natsFrom 0 16).flatMap (fun j => bytesLE 4 (wordAt t.args j).toNat)

/-- The header of an image (R407). -/
def imageHeader (state ckseq cut undo nblocks ntasks : Nat) : List Byte :=
  bytesLE 4 (1 + state * 2 ^ 16) ++ bytesLE 4 ckseq ++ bytesLE 8 cut ++ bytesLE 8 undo ++ bytesLE 4 nblocks ++ bytesLE 4 ntasks ++ bytesLE 32 0

/-- The task records of a VD's ORDERED jobs (R371). -/
def taskRecords (s : State) (vale vd : Nat) : List (List Byte) :=
  (orderedJobs s vale vd).flatMap (fun j => ((orderedOf s j).map (fun o => o.tasks.map (fun e => taskRecord e.1 e.2))).getD [])

/-- A resident block's records as an image holds them, stopped at the cut (R406). -/
def imageRecords (s : State) (stop : Nat) (b : Block) : List (List Byte) := blockRecords s b (isSaving b && b.fork.isSome) stop

/-- The records of a saved block as they lie in memory, if they can be read, with their poison. -/
def copiedPieces (s : State) (v : Vale) (blk : Nat) (b : Block) : Option (List Piece) :=
  match b.st with
  | .saved a _ _ _ => match ipaRead s v a (savedSize s blk) with
    | .ok bs => some [⟨bs, ipaBad s v a (savedSize s blk), false⟩]
    | .error _ => none
  | _ => none

/-- A block's records as an image holds them: those of a block that holds a core, or a copy of those it was saved in (R372, R406). -/
def blockUnit (s : State) (v : Vale) (stop blk : Nat) (b : Block) : List (ImageUnit × List Piece) :=
  let ps := if holdsCore b then some (recordPieces s b (isSaving b && b.fork.isSome) stop) else copiedPieces s v blk b
  match ps with
  | some ps => [(.block blk, ps)]
  | none => []

/-- A piece that holds no poison and has no dirty bit. -/
def plainPiece (bs : List Byte) : List Piece := [⟨bs, [], false⟩]

/-- A task record with, after a SAVED one, the records of its block and wave (R372). -/
def taskUnits (s : State) (v : Vale) (stop job q : Nat) (t : Task) : List (ImageUnit × List Piece) :=
  let block (b : Nat) : List (ImageUnit × List Piece) := ((Tbl.get s.blocks b).map (blockUnit s v stop b)).getD []
  (.task job q, plainPiece (taskRecord q t)) :: (match t.st with
    | .running b => block b
    | .saved b => block b
    | _ => [])

/-- What an image holds of an ORDERED job beside its tasks (R371): the seq counter, the next root record and CFRONT (place and form: DESIGN CHOICE,
log 41). -/
def orderedUnit (s : State) (job : Nat) (o : Ordered) : ImageUnit × List Piece :=
  let front := match Tbl.get s.jobs job with
    | some j => (frontierTs s j o).toNat
    | none => 0
  (.ordered job, plainPiece (bytesLE 8 o.seqNext ++ bytesLE 8 o.rootNext ++ bytesLE 8 front ++ bytesLE 8 0))

/-- The ORDERED jobs of a VD as an image holds them (R371, R372). -/
def jobUnits (s : State) (v : Vale) (vale vd stop : Nat) : List (ImageUnit × List Piece) :=
  (orderedJobs s vale vd).flatMap (fun j => match orderedOf s j with
    | some o => o.tasks.flatMap (fun e => taskUnits s v stop j e.1 e.2) ++ [orderedUnit s j o]
    | none => [])

/-- The code tables of a core as an image holds them (R95): two banks as in a block record, and CT (R402). -/
def tableBytes (t : Bank × Bank × Bool) : List Byte :=
  bankBytes t.1 ++ bankBytes t.2.1 ++ bytesLE 8 (bit1 t.2.2 + 2 * bit1 t.1.owner.isSome + 4 * bit1 t.2.1.owner.isSome) ++ bytesLE 56 0

/-- Bytes at an IPA as an image holds them. -/
def imageBytes (s : State) (v : Vale) (ipa n : Nat) : Option (List Piece) :=
  match ipaRead s v ipa n with
  | .ok bs => some [⟨bs, ipaBad s v ipa n, false⟩]
  | .error _ => none

/-- The IPA of a queue's mutable half (R388), and of its REPEAT copy (R400). -/
def halfIpa (d : Vd) (q : Nat) : Nat := qcbIpa d q + 0x80

/-- The IPA of a queue's REPEAT copy (R400). -/
def repeatIpa (d : Vd) (q : Nat) : Nat := d.reg64 0x18 + 128 * q

/-- What an image holds behind its header (R406): block and wave records, among them those of blocks that stand in an image, ORDERED jobs,
the code tables of each core, the mutable QCB halves and REPEAT copies, and the coverage counters of each glen (order: log 41. The blocks that stand in the former image are DESIGN CHOICE, log 120). -/
def imageUnits (s : State) (vale vd stop : Nat) (v : Vale) (d : Vd) : List (ImageUnit × List Piece) :=
  let mine (b : Block) : Bool := decide (b.vale = vale) && decide (b.vd = vd) && b.task.isNone && (holdsCore b || inImage d b)
  let at_ (u : ImageUnit) (ipa : Nat) : List (ImageUnit × List Piece) := (((imageBytes s v ipa 128).map (fun p => (u, p)))).toList
  (s.blocks.filter (fun e => mine e.2)).flatMap (fun e => blockUnit s v stop e.1 e.2) ++ jobUnits s v vale vd stop ++
    (imageTables s vale vd v).map (fun e => (.tables e.1, plainPiece (tableBytes e.2))) ++ (activeQueues s vale vd).flatMap (fun q => at_ (.half q) (halfIpa d q)) ++
    d.queues.flatMap (fun e => if qRepeat s vale vd e.1 then at_ (.repeatCopy e.1) (repeatIpa d e.1) else []) ++
    [(.counters, plainPiece ((natsFrom v.first v.n).flatMap (fun g => (natsFrom 0 4).flatMap (fun k => bytesLE 8 (Tbl.cell (0 : DWord) d.stats (covStatKey g k)).toNat))))]

/-- The bytes of pieces. -/
def piecesLength (ps : List Piece) : Nat := ps.foldl (fun n p => n + p.bytes.length) 0

/-- Where the parts of an image lie, from an IPA on. -/
def layParts : Nat → List (ImageUnit × List Piece) → List ImagePart
  | _, [] => []
  | a, u :: t => ⟨u.1, a⟩ :: layParts (a + piecesLength u.2) t

/-- The register blocks and stash rows of an image that hold no poison, with their IPAs. -/
def keptPieces : Nat → List Piece → List (Nat × List Byte)
  | _, [] => []
  | a, p :: t => if p.kept && decide (p.bad = []) then (a, p.bytes) :: keptPieces (a + p.bytes.length) t else keptPieces (a + p.bytes.length) t

/-- The IPA of a half of the checkpoint area (R407). -/
def halfBase (d : Vd) (half : Nat) : Nat := d.reg64 0x28 + half * (d.reg 0x38 * 32768)

/-- Writes pieces one after another at an IPA of a VD, unlogged (R408), with their poison (R514), but for register blocks and rows that are
as the image was last written (R406); the address that failed, if one did. -/
def putRaw (s : State) (vale vd : Nat) (last : List (Nat × List Byte)) : Nat → List Piece → State × Option Nat
  | _, [] => (s, none)
  | a, p :: t =>
    if p.kept && decide (p.bad = []) && last.contains (a, p.bytes) then putRaw s vale vd last (a + p.bytes.length) t
    else match ipaWriteRaw s vale vd a p.bytes with
      | none => (s, some (((s.vale? vale).map (fun v => failsAt s v a p.bytes.length)).getD a))
      | some s =>
        let s := p.bad.foldl (fun s j => (ipaPutBy s vale vd false (a + 32 * j) ((p.bytes.drop (32 * j)).take 32) true).getD s) s
        putRaw s vale vd last (a + p.bytes.length) t

/-! ## Completion -/

/-- Abandons a cut: the previous image stays the latest COMPLETE, both intervals' logs are kept, and issue resumes in place (R534). -/
def abandonCut (s : State) (vale vd : Nat) : State := s.modVd vale vd (fun d => { d with cut := none })

/-- An abandoned switch-out (R395): the VD is rolled back; without an image its blocks are chosen for saves (log 42). -/
def abandonSwitch (s : State) (vale vd : Nat) : State :=
  let s := abandonCut s vale vd
  match (s.vd? vale vd).bind (fun d => d.image) with
  | some _ => beginRollback s vale vd none
  | none => ((coreBlocks s vale vd).map (fun e => e.1)).foldl chooseSave s

/-- Takes a VD's blocks off their cores, as an image's saved blocks (R395). -/
def leaveCores (s : State) (vale vd : Nat) (im : Image) : State :=
  let bs := coreBlocks s vale vd
  let s := bs.foldl (fun s e => bumpGen (releaseTeam s e.1) e.2.core vale vd) s
  { s with
    blocks := Tbl.join s.blocks im.blocks
    waves := Tbl.join s.waves im.waves
    jobs := Tbl.join s.jobs im.jobs
    takes := s.takes.filter (fun t => (Tbl.get im.waves t.1).isNone) }

/-- Marks a VD's image COMPLETE (R406 step 4, R408): the log of the interval that ended with the cut is freed, and blocks that stood in the
former image stand in this one. -/
def completeCut (s : State) (vale vd : Nat) (im : Image) (c : Cut) : State :=
  let s := s.modVd vale vd (fun d => { d with
    image := some im, cut := none, undoList := d.undoList.filter (fun e => decide (im.undoHead ≤ e.2)), undoStart := im.undoHead
    migrated := d.migrated.drop c.moved, ckspaceEp := false, stats := Tbl.setCell 0 d.stats 6 (BitVec.ofNat 64 (im.ckseq % 2 ^ 32)) })
  let s := { s with blocks := s.blocks.map (fun e => match Tbl.get im.blocks e.1 with
    | some x => (e.1, if holdsCore e.2 then e.2 else { e.2 with st := x.st })
    | none => e) }
  if c.switchOut then leaveCores s vale vd im else s

/-- Whether the undo ring has no room for the records of dirty rows still to be written back (R408). -/
def rowsWait (s : State) (vale vd : Nat) : Bool :=
  let lines := (coreBlocks s vale vd).flatMap (fun e => e.2.rows.filterMap (fun r => match r.2.st with
    | .mappedDirty _ => if farLine r.2.line then none else some r.2.line
    | _ => none))
  match s.vd? vale vd with
  | some d => decide (d.undoBytes < d.undoHead - d.undoStart + 144 * (lines.eraseDups.filter (needsUndo d)).length) && !lines.isEmpty
  | none => false

/-- A cut that failed on a write to the checkpoint area (R405): what the half it wrote to holds is not known to be any image's. -/
def imageFailed (s : State) (vale vd bad : Nat) : State :=
  let s := s.modVd vale vd (fun d => { d with imaged := Tbl.erase d.imaged (nextHalf d) })
  severity2 (abandonCut s vale vd) vale vd (schedRec cVdc 2 (some vale) (some vd) 0 7 vd 0 bad 0)

/-- Steps 2 to 4 of R406, once everything has drained and the place of the image takes its writes (R155): dirty rows and L2 lines are written
back, and stay valid; an image that would pass its half is abandoned (R405). -/
def writeImage (old : State) (vale vd : Nat) (v : Vale) (c : Cut) : State :=
  let s := writeRows old vale vd
  let s := (natsFrom v.first v.n).foldl (fun s g => s.modGlen g (fun x => l2Clean x vale vd)) s
  match s.vd? vale vd with
  | none => old
  | some d =>
    let units := imageUnits s vale vd c.count v d
    let a := halfBase d (nextHalf d)
    let body := units.flatMap (fun u => u.2)
    let im := imageOf s vale vd d c (layParts (a + 64) units)
    let need := 64 + piecesLength body
    let room := d.reg 0x38 * 32768
    if decide (need ≤ room) && ipaWaits s vale a need true then old
    else if room < need then
      let s := if d.ckspaceEp then s else record s (schedRec cVdc 1 (some vale) (some vd) 0 6 vd 0 need room)
      let s := s.modVd vale vd (fun d => { d with ckspaceEp := true })
      if c.switchOut then abandonSwitch s vale vd else abandonCut s vale vd
    else
      let blocks := (units.filter (fun u => match u.1 with
        | .block _ => true
        | _ => false)).length
      let tasks := (units.filter (fun u => match u.1 with
        | .task _ _ => true
        | _ => false)).length
      let head (st : Nat) : List Piece := plainPiece (imageHeader st im.ckseq im.cut im.undoHead blocks tasks)
      match putRaw s vale vd ((Tbl.get d.imaged im.half).getD []) a (head 1 ++ body) with
      | (s, some bad) => imageFailed s vale vd bad
      | (s, none) => match putRaw s vale vd [] a (head 2) with
        | (s, some bad) => imageFailed s vale vd bad
        | (s, none) => completeCut (s.modVd vale vd (fun d => { d with imaged := Tbl.set d.imaged im.half (keptPieces (a + 64) body) })) vale vd im c

/-- CUT_COMPLETE (R406, R471): a halted VD has drained; lanes not bound to a handler are as if their instruction had not
issued, the frontier becomes irrevocable, and the image is written. -/
def execCutComplete (vale vd : Nat) (s : State) : Host.Outcome State Fault Refusal :=
  .next (match s.vale? vale, s.vd? vale vd with
    | some v, some d =>
      match d.cut with
      | none => s
      | some c =>
        if !c.halted || d.stopped || s.halted || !cutDrained s vale vd || rowsWait s vale vd ||
            (coreBlocks s vale vd).any (fun e => rowsBackWait s e.2) then s
        else match frontierDue s vale vd with
          | some (j, q) => settleFrontier s j q
          | none =>
            match ((coreBlocks s vale vd).flatMap (fun e => liveWaves s e.2)).find? (fun e => faultDue e.2) with
            | some e => settleFault s e.1 e.2
            | none => writeImage s vale vd v c
    | _, _ => s)

/-- CUT_TIMEOUT (R534): a periodic or requested cut is not COMPLETE 600,000 ticks after its count. -/
def execCutTimeout (vale vd : Nat) (s : State) : Host.Outcome State Fault Refusal :=
  .next (match s.vd? vale vd with
    | none => s
    | some d =>
      match d.cut with
      | none => s
      | some c =>
        if c.switchOut || d.stopped || decide (s.tod.toNat < c.count + 600000) then s
        else record (abandonCut s vale vd) (schedRec cHang 1 (some vale) (some vd) 0 2 8 0xFFFF (s.tod.toNat - c.count) 0))

/-- SWITCHOUT_CUT_TIMEOUT (R395): a switch-out's cut has not completed 30,000 ticks after its count. -/
def execSwitchoutCutTimeout (vale vd : Nat) (s : State) : Host.Outcome State Fault Refusal :=
  .next (match s.vd? vale vd with
    | none => s
    | some d =>
      match d.cut with
      | none => s
      | some c => if !c.switchOut || decide (s.tod.toNat < c.count + 30000) then s else abandonSwitch s vale vd)

/-! ## Rollback -/

/-- Where a line of an undo record lies now: mapped through the migrations completed since the cut (R409). -/
def movedLine (ms : List (Nat × Nat × Nat)) (line : Nat) : Nat :=
  ms.foldl (fun l m => if m.1 ≤ 128 * l && decide (128 * l < m.1 + m.2.2) then (m.2.1 + (128 * l - m.1)) / 128 else l) line

/-- Applies undo records, newest first (R409 step 3); none when one is poisoned (R527) or cannot be read (DESIGN CHOICE, log 135). Rows that own
the lines give them up (R108); a line in a glen that has left the vale is not reached (R32). -/
def applyUndo (v : Vale) (d : Vd) : List (Nat × Nat) → State → Option State
  | [], s => some s
  | (line, off) :: t, s =>
    let piece (i : Nat) : Nat := d.reg64 0x30 + (off + 16 * i) % max d.undoBytes 1
    let got (i : Nat) : List Byte := match ipaRead s v (piece i) 16 with
      | .ok bs => bs
      | .error _ => []
    if (natsFrom 0 9).any (fun i => decide (got i = []) || ipaPoisoned s v (piece i) 16) then none
    else
      let old := (natsFrom 1 8).flatMap got
      let k := 128 * movedLine d.migrated line
      applyUndo v d t (if valeHolds v k && !glenFenced s (k / 2 ^ 33) then partWrite s k old else s)

/-- A task entry with what its record holds (R372). -/
def readTask (bs : List Byte) (t : Task) : Task :=
  let w := recNat bs 0x0C 4
  { t with
    ts := recDWord bs 0, root := bitOf w 19, irrev := bitOf w 20, entry := recDWord bs 0x10
    parent := if recNat bs 0x18 4 = 0xFFFFFFFF then none else some (recNat bs 0x18 4), record := recWord bs 0x1C
    args := if bitOf w 19 then t.args else (natsFrom 0 t.args.length).map (fun j => recWord bs (0x20 + 4 * j))
    st := if bitsOf w 18 16 = 0 then .pending else t.st }

/-- The bytes that are read back of a part of an image, in a vale of n glens. -/
def ImageUnit.size (n : Nat) : ImageUnit → Nat
  | .block _ => 0
  | .task _ _ => 96
  | .ordered _ => 32
  | .tables _ | .half _ | .repeatCopy _ => 128
  | .counters => 32 * n

/-- A bank of a part of an image, live when its bit of CT says so. -/
def partBank (bs : List Byte) (off vale vd bit : Nat) : Bank := readBank bs off vale vd (bitOf (recNat bs 0x40 1) bit)

/-- Reads one part of an image back (R371, R409 step 4). Blocks are read back as they resume (R404); CFRONT follows from the entries; what
is poisoned or cannot be read stands as the cut left it (log 26). -/
def readPart (v : Vale) (vale vd : Nat) (d : Vd) (s : State) (p : ImagePart) : State :=
  let n := p.unit.size v.n
  match ipaRead s v p.addr n with
  | .error _ => s
  | .ok bs =>
    if ipaPoisoned s v p.addr n then s
    else
      let s := markRead s vale p.addr n
      match p.unit with
      | .block _ => s
      | .task j q => s.modTask j q (readTask bs)
      | .ordered j => s.modJob j (fun x => { x with ord := x.ord.map (fun o => { o with
          seqNext := recNat bs 0 8, rootNext := recNat bs 8 8, rootSeen := none }) })
      | .tables c => putTables s c vale vd (partBank bs 0 vale vd 1, partBank bs 32 vale vd 2, bitOf (recNat bs 0x40 1) 0)
      | .half q => (ipaWriteRaw s vale vd (halfIpa d q) bs).getD s
      | .repeatCopy q => (ipaWriteRaw s vale vd (repeatIpa d q) bs).getD s
      | .counters => s.modVd vale vd (fun d => { d with
          stats := (natsFrom 0 v.n).foldl (fun t g => (natsFrom 0 4).foldl (fun t k =>
            Tbl.setCell 0 t (covStatKey (v.first + g) k) (recDWord bs (32 * g + 8 * k))) t) d.stats })

/-- Reads an image back from the checkpoint area. -/
def readImage (s : State) (vale vd : Nat) (im : Image) : State :=
  match s.vale? vale, s.vd? vale vd with
  | some v, some d => im.parts.foldl (readPart v vale vd d) s
  | _, _ => s

/-- Restores a VD's state from its image (R409 step 4); a current-bank choice of its own that the image does not hold is undone (R95). -/
def restoreImage (s : State) (vale vd : Nat) (im : Image) : State :=
  let s := { s with
    jobs := Tbl.join (Tbl.keep (fun _ j => !(decide (j.vale = vale) && decide (j.vd = vd))) s.jobs) im.jobs
    blocks := Tbl.join s.blocks im.blocks
    clusters := Tbl.join s.clusters im.clusters
    waves := Tbl.join s.waves im.waves }
  let s := { s with cores := Tbl.mapVals (fun _ c =>
      if c.chooser = some (vale, vd) then { c with current := false, chooser := none } else c) s.cores }
  let s := im.tables.foldl (fun s e => putTables s e.1 vale vd e.2) s
  readImage (s.modVd vale vd (fun d => { d with
    ckseq := im.ckseq, queues := im.queues, stats := im.stats, saves := im.saves, undoHead := im.undoHead, undoStart := im.undoHead, undoList := [], logged := []
    rolling := false, rollRec := none, image := some { im with rollbacks := im.rollbacks + 1 } })) vale vd im

/-- Completes the owner's ROLLBACK command of a VD (R418). -/
def rollbackAnswered (s : State) (vale vd : Nat) (result : BitVec 8) : State :=
  match s.vale? vale with
  | some v => if v.cmd.busy && decide (v.cmd.op = 4) && decide (v.cmd.vd.toNat = vd) then endCommand s vale result else s
  | none => s

/-- ROLLBACK_DONE (R409 steps 3 to 5, R525, R527, R535): undo records are applied, the image's state returns, the error's record is
written, and a ROLLBACK command completes. -/
def execRollbackDone (vale vd : Nat) (s : State) : Host.Outcome State Fault Refusal :=
  .next (match s.vale? vale, s.vd? vale vd with
    | some v, some d =>
      let moving := s.migrations.any (fun m => decide (m.2.vale = vale) && decide (m.2.vd = vd))
      match d.image with
      | none => s
      | some im =>
        if !d.rolling || d.stopped || moving || s.halted || epochOwed s vale vd then s
        else match applyUndo v d d.undoList s with
          | none => rollbackAnswered (stopVd s vale vd) vale vd 0x0A
          | some s' =>
            let s := rollbackAnswered (restoreImage s' vale vd im) vale vd 0
            match d.rollRec with
            | some r => record s r
            | none => s
    | _, _ => s)

end Sys2Proof.Machine
end

