-- ==== Sys2Proof/Machine/CovGeom.lean ====
section
/-! DEFINITION. The coverage unit's arithmetic, exact in integers (R336 to R342, R344, R345): Bernstein polynomials, bisection,
splitting, portions, the resolve, and a triangle's depth and barycentric values. -/
namespace Sys2Proof.Machine

/-- Parameters run from 0 to 2^24 (R336). -/
def tauOne : Nat := 2 ^ 24

/-- A Bernstein polynomial with integer control values at the parameter t / n, times n to its degree (R336). -/
def bern (ps : List Int) (t n : Nat) : Int :=
  let a : Int := (t : Int)
  let b : Int := (n : Int) - (t : Int)
  match ps with
  | [p0, p1] => p0 * b + p1 * a
  | [p0, p1, p2] => p0 * b ^ 2 + 2 * p1 * a * b + p2 * a ^ 2
  | [p0, p1, p2, p3] => p0 * b ^ 3 + 3 * p1 * a * b ^ 2 + 3 * p2 * a ^ 2 * b + p3 * a ^ 3
  | p0 :: _ => p0
  | [] => 0

/-- The degree of a list of control values. -/
def bernDegree (ps : List Int) : Nat := ps.length - 1

/-- Sign of an integer. -/
def sgn (x : Int) : Int := if x < 0 then -1 else if 0 < x then 1 else 0

/-- The loop of Bisect: `f` is the coordinate less the crossing value (R337). -/
def bisectLoop (f : Nat → Int) (s : Int) : Nat → Nat → Nat → Nat
  | 0, _, hi => hi
  | k + 1, lo, hi =>
    if 1 < hi - lo then
      let mid := (lo + hi) / 2
      if s * f mid < 0 then bisectLoop f s k mid hi else bisectLoop f s k lo mid
    else bisectLoop f s k lo hi

/-- Bisect(u, ta, tb, c), where `f` is u less c (R337). -/
def bisect (f : Nat → Int) (ta tb : Nat) : Nat := bisectLoop f (sgn (f tb - f ta)) 24 ta tb

/-- Control values of the derivative, but for a positive factor. -/
def diffs : List Int → List Int
  | a :: b :: t => (b - a) :: diffs (b :: t)
  | _ => []

/-- Whether two values have strictly opposite signs. -/
def opposite (a b : Int) : Bool := decide (sgn a * sgn b < 0)

/-- Split points of one coordinate (R338). -/
def splitsOf (ps : List Int) : List Nat :=
  let d := diffs ps
  let f (t : Nat) : Int := bern d t tauOne
  if ps.length = 3 then (if opposite (f 0) (f tauOne) then [bisect f 0 tauOne] else [])
  else if ps.length = 4 then
    let g (t : Nat) : Int := bern (diffs d) t tauOne
    let ends := if opposite (g 0) (g tauOne) then
        let m := bisect g 0 tauOne
        [(0, m), (m, tauOne)]
      else [(0, tauOne)]
    ends.filterMap (fun e => if opposite (f e.1) (f e.2) then some (bisect f e.1 e.2) else none)
  else []

/-- Consecutive pairs of a list. -/
def pairs : List Nat → List (Nat × Nat)
  | a :: b :: t => (a, b) :: pairs (b :: t)
  | _ => []

/-- A segment's points (R336), tile-local, in units of 2^-8. -/
abbrev Points := List (Int × Int)

/-- Lowers the degree of a segment where R336 says so. -/
def lowerDegree (ps : Points) : Points :=
  match ps with
  | [p0, p1, p2] => if p1 = p0 || decide (p1 = p2) then [p0, p2] else ps
  | [p0, p1, p2, p3] =>
    if (decide (p1 = p0) && decide (p2 = p3)) || (decide (p0 = p1) && decide (p1 = p2)) || (decide (p1 = p2) && decide (p2 = p3)) then [p0, p3] else ps
  | _ => ps

/-- A segment whose points are all equal (R336). -/
def degenerate : Points → Bool
  | [] => true
  | p :: t => t.all (fun q => decide (q = p))

/-- The monotone pieces of a segment (R338). -/
def piecesOf (xs ys : List Int) : List (Nat × Nat) :=
  pairs ((splitsOf xs ++ splitsOf ys).foldl (fun l t => insertNat t l) [0, tauOne])

/-- Crossings of integers 0 to 32 by a coordinate strictly within a piece, with the integer crossed, ascending (R339). -/
def crossings (ps : List Int) (ta tb : Nat) : List (Nat × Nat) :=
  let scale : Int := 256 * (tauOne : Int) ^ bernDegree ps
  let a := bern ps ta tauOne
  let b := bern ps tb tauOne
  (natsFrom 0 33).filterMap (fun (c : Nat) =>
    let v := (c : Int) * scale
    if (a < v && decide (v < b)) || (b < v && decide (v < a)) then some (bisect (fun t => bern ps t tauOne - v) ta tb, c) else none)

/-- Rounds num / den to an integer, ties to even; den is positive. -/
def rneDiv (num : Int) (den : Nat) : Int :=
  let q := num / (den : Int)
  let r := num % (den : Int)
  if 2 * r < den then q else if (den : Int) < 2 * r then q + 1 else if q % 2 = 0 then q else q + 1

/-- Yh at a parameter, in units of 2^-20 (R339): `rows` are the row crossings of the segment in the order found. -/
def yhAt (ys : List Int) (rows : List (Nat × Nat)) (t : Nat) : Int :=
  let exact := rneDiv (bern ys t tauOne * 2 ^ 12) (tauOne ^ bernDegree ys)
  if t = 0 || decide (t = tauOne) then exact
  else match rows.find? (fun r => decide (r.1 = t)) with
    | some r => (r.2 : Int) * 2 ^ 20
    | none => exact

/-- Power-basis coefficients of a Bernstein polynomial. -/
def powerOf : List Int → List Int
  | [p0, p1] => [p0, p1 - p0]
  | [p0, p1, p2] => [p0, 2 * (p1 - p0), p0 - 2 * p1 + p2]
  | [p0, p1, p2, p3] => [p0, 3 * (p1 - p0), 3 * (p0 - 2 * p1 + p2), p3 - 3 * p2 + 3 * p1 - p0]
  | ps => ps

/-- Coefficients of the derivative in the power basis. -/
def derivOf (cs : List Int) : List Int := (natsFrom 1 (cs.length - 1)).map (fun (k : Nat) => (k : Int) * cs.getD k 0)

/-- Product of polynomials. -/
def polyMul (a b : List Int) : List Int :=
  (natsFrom 0 (a.length + b.length - 1)).map (fun (k : Nat) =>
    (natsFrom 0 (k + 1)).foldl (fun (n : Int) (i : Nat) => n + a.getD i 0 * b.getD (k - i) 0) 0)

/-- 60 times the integral of a polynomial from 0 to t / 2^24, times 2^(24 m), m at least the degree and one (R339). -/
def integral60 (cs : List Int) (t m : Nat) : Int :=
  (natsFrom 0 cs.length).foldl (fun (n : Int) (k : Nat) =>
    n + cs.getD k 0 * (60 / (k + 1) : Nat) * ((t : Int) ^ (k + 1)) * ((tauOne : Int) ^ (m - (k + 1)))) 0

/-- One portion's addition (R339): cell 32 j + i, area and cover in units of 2^-20; none outside the tile. -/
def portion (xs ys : List Int) (rows : List (Nat × Nat)) (ta tb : Nat) : Option (Nat × Int × Int) :=
  let n := bernDegree xs
  let half := 2 * tauOne
  let den : Int := 256 * (half : Int) ^ n
  let xm := bern xs (ta + tb) half
  let j := bern ys (ta + tb) half / den
  let left := decide (xm < 0)
  let i := if left then 0 else xm / den
  if 31 < i || decide (j < 0) || decide (31 < j) then none
  else
    let cover := yhAt ys rows ta - yhAt ys rows tb
    let m := 2 * n
    let full : Int := (i + 1) * (bern ys ta tauOne - bern ys tb tauOne) * (60 * 256) * (tauOne : Int) ^ (m - n)
    let prod := polyMul (powerOf xs) (derivOf (powerOf ys))
    let mom : Int := if left then 0 else integral60 prod tb m - integral60 prod ta m
    let area := rneDiv ((full + mom) * 2 ^ 20) (60 * 65536 * tauOne ^ m)
    some (32 * j.toNat + i.toNat, area, cover)

/-- What a segment adds to the accumulators (R336 to R339), in units of 2^-20. -/
def rasterSegment (ps : Points) : List (Nat × Int × Int) :=
  if degenerate ps then []
  else
    let q := lowerDegree ps
    let xs := q.map (fun p => p.1)
    let ys := q.map (fun p => p.2)
    let pieces := piecesOf xs ys
    let rows := pieces.flatMap (fun p => crossings ys p.1 p.2)
    pieces.flatMap (fun p =>
      let cs := ((crossings xs p.1 p.2).map (fun c => c.1) ++ (crossings ys p.1 p.2).map (fun c => c.1)).foldl (fun l t => insertNat t l) [p.1, p.2]
      (pairs cs).filterMap (fun e => portion xs ys rows e.1 e.2))

/-- The three edges of a triangle as a closed path (R344). -/
def triangleEdges (ps : Points) : List Points :=
  match ps with
  | [a, b, c] => [[a, b], [b, c], [c, a]]
  | _ => []

/-- Twice the signed area of a triangle. -/
def cross (p q r : Int × Int) : Int := (q.1 - p.1) * (r.2 - p.2) - (q.2 - p.2) * (r.1 - p.1)

/-! ## Resolve -/

/-- The accumulators: AREA and COVER words by cell (R335). -/
abbrev AccTile := Tbl (Word × Word)

/-- Adds one portion to the accumulators, modulo 2^32 (R339, R340). -/
def addPortion (t : AccTile) (e : Nat × Int × Int) : AccTile :=
  let old := Tbl.cell ((0 : Word), (0 : Word)) t e.1
  Tbl.set t e.1 (old.1 + wordOfInt e.2.1, old.2 + wordOfInt e.2.2)

/-- W of every cell of row j, from column i on, in units of 2^-20 (R342). -/
def rowW (t : AccTile) (j : Nat) : Nat → Nat → Int → List Int
  | 0, _, _ => []
  | k + 1, i, run =>
    let c := Tbl.cell ((0 : Word), (0 : Word)) t (32 * j + i)
    (run + c.1.toInt) :: rowW t j k (i + 1) (run + c.2.toInt)

/-- r of a W, in units of 2^-20 (R342): rule 0 NONZERO, 1 EVENODD, otherwise POSITIVE. -/
def ruleR (rule : Nat) (w : Int) : Nat :=
  let one : Int := 2 ^ 20
  (if rule = 0 then min (w.natAbs : Int) one
    else if rule = 1 then one - ((one - (w.natAbs : Int) % (2 * one)).natAbs : Int)
    else clampInt w 0 one).toNat

/-- RNE(r * 2^15) of an r in units of 2^-20 (R342). -/
def cov15 (r : Nat) : Nat := (rneDiv (r : Int) 32).toNat

/-- r of every pixel of the tile, by row and column (R342). -/
def resolveTile (rule : Nat) (t : AccTile) : List Nat :=
  (natsFrom 0 32).flatMap (fun j => (rowW t j 32 0 0).map (ruleR rule))

/-! ## Depth -/

/-- An exact quotient as a value. -/
def quotV (a b : Int) : Val :=
  if a = 0 then .fin false 0 1 else .fin (decide (sgn a * sgn b < 0)) a.natAbs b.natAbs

/-- z at a pixel centre, given in half pixels (R345). -/
def depthAt (z0 zdx zdy : Word) (cx2 cy2 : Int) : Word :=
  let v (x : Word) : Val := valOf fp32 x.toNat
  let half (x : Int) : Val := .fin (decide (x < 0)) x.natAbs 2
  BitVec.ofNat 32 (rne fp32 (addV (addV (v z0) (mulV (v zdx) (half cx2))) (mulV (v zdy) (half cy2))))

/-- A barycentric value (R345). -/
def baryAt (num den : Int) : Word := BitVec.ofNat 32 (rne fp32 (quotV num den))

/-- Whether a depth passes (R334, R345): ZFUNC 0 LESS, 1 LEQUAL, 2 GREATER, 3 ALWAYS. -/
def depthPasses (zfunc : Nat) (z stored : Word) : Bool :=
  let a := valOf fp32 z.toNat
  let b := valOf fp32 stored.toNat
  match zfunc with
  | 0 => ltV a b
  | 1 => ltV a b || eqV a b
  | 2 => ltV b a
  | _ => true

end Sys2Proof.Machine
end

