-- ==== Sys2Proof/Machine/Cov.lean ====
section
/-! DEFINITION. The coverage unit (R331 to R351, R497, R498, R511, R512, R516): sessions, the commands COVBEGIN to COVEND,
COVPOP, and the event COV_COMMAND_RETIRE. -/
namespace Sys2Proof.Machine

/-! ## Sessions -/

/-- TRI of a session (R334). -/
def CovSession.tri (c : CovSession) : Bool := c.mode.getLsbD 2
/-- RULE of a session (R334). -/
def CovSession.rule (c : CovSession) : Nat := bitsOf c.mode.toNat 1 0
/-- ZFUNC of a session (R334). -/
def CovSession.zfunc (c : CovSession) : Nat := bitsOf c.mode.toNat 5 4
/-- ZWRITE of a session (R334). -/
def CovSession.zwrite (c : CovSession) : Bool := c.mode.getLsbD 3
/-- OX, signed (R335). -/
def CovSession.ox (c : CovSession) : Int := sextNat (bitsOf (wordAt c.desc 0).toNat 15 0) 16
/-- OY, signed (R335). -/
def CovSession.oy (c : CovSession) : Int := sextNat (bitsOf (wordAt c.desc 0).toNat 31 16) 16
/-- ACC (R335). -/
def CovSession.acc (c : CovSession) : Nat := bitsOf (wordAt c.desc 1).toNat 17 0
/-- OUT (R335). -/
def CovSession.out (c : CovSession) : Nat := bitsOf (wordAt c.desc 2).toNat 17 0
/-- QBASE (R335). -/
def CovSession.qbase (c : CovSession) : Nat := bitsOf (wordAt c.desc 3).toNat 17 0
/-- QLEN (R335). -/
def CovSession.qlen (c : CovSession) : Nat := bitsOf (wordAt c.desc 3).toNat 25 18

/-- A session as COVBEGIN opens it (R334, R335). -/
def freshSession (mode : BitVec 7) (desc : List Word) : CovSession :=
  { mode := mode, desc := desc, count := 0, head := 0, prims := 0, culled := 0, occlusion := 0, covsum := 0 }

/-- Whether a descriptor breaks R335 or R351 in a block with `size` bytes of stash. -/
def sessionBad (c : CovSession) (size : Nat) : Bool :=
  let w (j : Nat) : Nat := (wordAt c.desc j).toNat
  let region (a n : Nat) : Bool := decide (a % 128 = 0) && decide (a + n ≤ size)
  decide (w 1 / 2 ^ 18 ≠ 0) || decide (w 2 / 2 ^ 18 ≠ 0) || decide (w 3 / 2 ^ 26 ≠ 0) || !region c.acc 8192 ||
    (if c.tri then !region c.out 4096 || decide (c.qlen = 0) || !region c.qbase (64 * c.qlen) else !region c.out 2048 || decide (w 3 ≠ 0))

/-- The coverage commands of a block in its glen's unit, in acceptance order. -/
def covQueue (s : State) (b : Block) (blk : Nat) : List (Nat × CovCmd) :=
  (s.glen? (glenOfCore b.core)).covq.filter (fun e => decide (e.2.blk = blk))

/-- Whether a command closes its session. -/
def isEnd : Instr → Bool
  | .covend _ => true
  | _ => false

/-- Whether a command submits triangles. -/
def isTri : Instr → Bool
  | .covtri _ => true
  | _ => false

/-- Whether a block's COVEND is accepted and not retired: for acceptance its session is closed (R498). -/
def ending (s : State) (b : Block) (blk : Nat) : Bool := (covQueue s b blk).any (fun e => isEnd e.2.op)

/-! ## Acceptance -/

/-- The stash ranges a command writes (R333 rule 5). -/
def covRanges (i : Instr) (c : CovSession) : List (Nat × Nat) :=
  match i with
  | .covline _ | .covquad _ | .covcube _ => [(c.acc, c.acc + 8192)]
  | .covres _ => [(c.acc, c.acc + 8192), (c.out, c.out + 2048)]
  | .covtri _ => [(c.acc, c.acc + 8192), (c.out, c.out + 4096), (c.qbase, c.qbase + 64 * c.qlen)]
  | _ => []

/-- Whether a coverage command must wait at issue: earlier accesses, commands not accepted, a full queue, or a scoreboard without room for the
ranges it writes (R333, R155). Its session is looked at once only the ranges are left to wait for (R498). -/
def covHolds (s : State) (w : Nat) (wv : Wave) (ranges : Nat) : Bool :=
  let g := s.glen? (glenOfCore wv.core)
  wv.outst.any (fun o => isCmdOp o.op) || !laneClear s w wv s.nextId 16 || decide (256 ≤ g.covq.length) ||
    (decide (ranges ≠ 0) && decide (32 < (s.core? wv.core).sb.length + ranges))

/-- Accepts a coverage command into its unit's queue (R333). -/
def acceptCov (s : State) (w : Nat) (wv : Wave) (i : Instr) (c : CovSession) (prims : List (List Word)) (count : Bool) : State :=
  let (id, s) := s.fresh
  let m : CovCmd := { blk := wv.blk, wave := w, core := wv.core, pc := wv.pos.pc, op := i, prims := prims, quads := [], count := count, accepted := s.tod.toNat }
  let s := s.modGlen (glenOfCore wv.core) (fun g => { g with covq := Tbl.set g.covq id m })
  s.modCore wv.core (fun x => { x with sb := x.sb ++ (covRanges i c).map (fun r => ⟨id, wv.blk, r.1, r.2⟩) })

/-- A coverage instruction: TASK in a speculative task (R333 rule 6), otherwise its operation on the wave's block. -/
def runCov (i : Instr) (op : State → Nat → Wave → Block → State) (s : State) : Host.Outcome State Fault Refusal :=
  runWave i (fun s w wv =>
    if s.speculative wv then raiseInstr s w wv i cTask 0
    else match Tbl.get s.blocks wv.blk with
      | none => s
      | some b => op s w wv b) s

/-- The open session a command meets at acceptance (R498). -/
def openSession (s : State) (wv : Wave) (b : Block) : Option CovSession := if ending s b wv.blk then none else b.cov

/-- COVBEGIN (R334, R335, R351). -/
def execCovbegin (o : VaFields) (s : State) : Host.Outcome State Fault Refusal :=
  runCov (.covbegin o) (fun s w wv b =>
    let desc := (natsFrom 0 4).map (fun j => wv.rdN o.a j 0)
    let c := freshSession o.b desc
    let low := lanesOf (lowestLane wv.part)
    if poisonedLanes wv (fieldsFrom o.a 4) low ≠ [] then
      consumePoison (s.setWave w (wv.advance 4)) w wv.pos (low.map (fun l => (l, 0)))
    else if covHolds s w wv 0 then s
    else if (openSession s wv b).isSome || sessionBad c (b.stashKib * 1024) then raiseInstr s w wv (.covbegin o) cCov 0
    else if ending s b wv.blk || decide (64 ≤ sessionsIn s (glenOfCore wv.core)) then s
    else
      let s := acceptCov s w wv (.covbegin o) c [] false
      (s.setWave w (wv.advance 4)).modBlock wv.blk (fun b => { b with cov := some c })) s

/-- The words of a lane's group of registers. -/
def groupWords (wv : Wave) (f : RegField) (n l : Nat) : List Word := (natsFrom 0 n).map (fun j => wv.rdN f j (l % 16))

/-- Whether a coordinate word is no SQ15.8 word (R511). -/
def badCoord (x : Word) : Bool := decide ((x.extractLsb' 0 24).signExtend 32 ≠ x)

/-- COVLINE, COVQUAD, COVCUBE and COVTRI (R333, R341, R344, R511): one primitive for each lane of Live; `nc` words of each
are coordinates. -/
def runSegments (i : Instr) (o : VaFields) (an bn nc : Nat) (tri : Bool) (s : State) : Host.Outcome State Fault Refusal :=
  runCov i (fun s w wv b =>
    if covHolds s w wv 0 then s
    else match openSession s wv b with
    | none => raiseInstr s w wv i cCov 0
    | some c =>
      if c.tri ≠ tri then raiseInstr s w wv i cCov 0
      else
        let ls := if isUniform i then (lanesOf (lowestLane wv.live)).map (fun l => 16 + l) else lanesOf wv.live
        let bad := poisonedLanes wv (fieldsFrom o.a an ++ fieldsFrom o.b bn) (ls.map (fun l => l % 16))
        let prims := (ls.filter (fun l => !bad.contains (l % 16))).map (fun l => groupWords wv o.a an l ++ groupWords wv o.b bn l)
        if covHolds s w wv (covRanges i c).length then s
        else
          let s := if prims = [] then s else acceptCov s w wv i c prims (o.m.getLsbD 0)
          let s := if prims.any (fun p => (p.take nc).any badCoord) then
              record s { ErrRec.blank cCov 1 (some wv.vale) (some wv.vd) with
                core := wv.core, pc := wv.pos.pc.toNat, slot := wv.slot, unit := 5, detail := trapDetail 0 0 0 1 0 }
            else s
          consumePoison (s.setWave w (wv.advance 4)) w wv.pos (bad.map (fun l => (l, 0)))) s

/-- COVLINE (R341). -/
def execCovline (o : VaFields) (s : State) : Host.Outcome State Fault Refusal := runSegments (.covline o) o 4 0 4 false s
/-- COVQUAD (R341). -/
def execCovquad (o : VaFields) (s : State) : Host.Outcome State Fault Refusal := runSegments (.covquad o) o 6 0 6 false s
/-- COVCUBE (R341). -/
def execCovcube (o : VaFields) (s : State) : Host.Outcome State Fault Refusal := runSegments (.covcube o) o 8 0 8 false s
/-- COVTRI (R344). -/
def execCovtri (o : VaFields) (s : State) : Host.Outcome State Fault Refusal := runSegments (.covtri o) o 6 4 6 true s

/-- COVRES (R342): valid only in a path-mode session. -/
def execCovres (o : VaFields) (s : State) : Host.Outcome State Fault Refusal :=
  runCov (.covres o) (fun s w wv b =>
    if covHolds s w wv 0 then s
    else match openSession s wv b with
    | none => raiseInstr s w wv (.covres o) cCov 0
    | some c =>
      if c.tri then raiseInstr s w wv (.covres o) cCov 0
      else if covHolds s w wv 2 then s
      else (acceptCov s w wv (.covres o) c [] false).setWave w (wv.advance 4)) s

/-- COVEND (R343). -/
def execCovend (o : VaFields) (s : State) : Host.Outcome State Fault Refusal :=
  runCov (.covend o) (fun s w wv b =>
    if covHolds s w wv 0 then s
    else match openSession s wv b with
    | none => raiseInstr s w wv (.covend o) cCov 0
    | some c => (acceptCov s w wv (.covend o) c [] false).setWave w (wv.advance 4)) s

/-! ## The unit's stash -/

/-- Reads a range of stash row by row, and whether it holds poison. -/
def readRegion (blk : Nat) : Nat → Nat → State → State × List Byte × Bool
  | 0, _, s => (s, [], false)
  | rows + 1, off, s =>
    let (s, bs, p) := readStash s blk off 128
    let r := readRegion blk rows (off + 128) s
    (r.1, bs ++ r.2.1, p || r.2.2)

/-- The unit writes a block's stash: a write of a mapped row is one of its line, seen by the block's core (R108, R112, R139). -/
def putCov (s : State) (blk off : Nat) (bs : List Byte) : State :=
  match Tbl.get s.blocks blk with
  | some b => putStashFor s blk b.core b.vale b.vd blk off bs
  | none => s

/-- Whether the unit must wait for rows of a command's regions that are to be filled (R131, R333). -/
def covWaits (s : State) (m : CovCmd) (c : CovSession) : Bool := (covRanges m.op c).any (fun r => fillWaits s m.blk r.1 (r.2 - r.1))

/-- Writes bytes to stash, a row at a time; `off` is a multiple of 128. -/
def writeRegion (blk : Nat) : Nat → Nat → List Byte → State → State
  | 0, _, _, s => s
  | rows + 1, off, bs, s => writeRegion blk rows (off + 128) (bs.drop 128) (putCov s blk off (bs.take 128))

/-- The accumulators as the region holds them (R335). -/
def tileOf (bs : List Byte) : AccTile :=
  let ws := wordsOfBytes bs
  (natsFrom 0 1024).foldl (fun t k =>
    let v := (ws.getD (2 * k) 0, ws.getD (2 * k + 1) 0)
    if v = (0, 0) then t else Tbl.set t k v) []

/-- The bytes of the accumulator region. -/
def tileBytes (t : AccTile) : List Byte :=
  (natsFrom 0 1024).flatMap (fun k =>
    let v := Tbl.cell ((0 : Word), (0 : Word)) t k
    bytesLE 4 v.1.toNat ++ bytesLE 4 v.2.toNat)

/-- A coordinate as the unit reads it, less the tile's origin (R336, R511). -/
def localCoord (o : Int) (x : Word) : Int := sextNat x.toNat 24 - 256 * o

/-- The points of a primitive's first 2n words, tile-local. -/
def pointsOf (c : CovSession) (ws : List Word) (n : Nat) : Points :=
  (natsFrom 0 n).map (fun k => (localCoord c.ox (wordAt ws (2 * k)), localCoord c.oy (wordAt ws (2 * k + 1))))

/-- Counts a primitive in its session (R349). -/
def countPrim (c : CovSession) (count culled : Bool) : CovSession :=
  if !count then c else if culled then { c with culled := c.culled + 1 } else { c with prims := c.prims + 1 }

/-! ## Processing -/

/-- Points of a segment command's primitives. -/
def segmentPoints : Instr → Nat
  | .covline _ => 2
  | .covquad _ => 3
  | _ => 4

/-- A cell with one halfword of its two words replaced (R335): `o` is the halfword's byte offset in the cell. -/
def putHalf (v : Word × Word) (o h : Nat) : Word × Word :=
  let put (w : Word) : Word := BitVec.ofNat 32 (if o % 4 < 2 then w.toNat / 2 ^ 16 * 2 ^ 16 + h else w.toNat % 2 ^ 16 + h * 2 ^ 16)
  if o < 4 then (put v.1, v.2) else (v.1, put v.2)

/-- One pixel of COVRES (R342): its sums are read, its halfword is written, into the accumulator region where OUT overlaps it, and its cell
is cleared; with the run of its row and the outputs so far, last first. -/
def resolvePixel (c : CovSession) (clear : Bool) (a : AccTile × Int × List Nat) (k : Nat) : AccTile × Int × List Nat :=
  let run := if k % 32 = 0 then 0 else a.2.1
  let v := Tbl.cell ((0 : Word), (0 : Word)) a.1 k
  let h := cov15 (ruleR c.rule (run + v.1.toInt))
  let at_ := c.out + 2 * k
  let t := if c.acc ≤ at_ && decide (at_ < c.acc + 8192) then
      let n := (at_ - c.acc) / 8
      Tbl.set a.1 n (putHalf (Tbl.cell ((0 : Word), (0 : Word)) a.1 n) ((at_ - c.acc) % 8) h)
    else a.1
  (if clear then Tbl.erase t k else t, run + v.2.toInt, h :: a.2.2)

/-- COVRES's outputs and the region after it (R342), pixel by pixel. -/
def resolveCov (c : CovSession) (clear : Bool) (t : AccTile) : CovSession × List Byte × AccTile :=
  let r := (natsFrom 0 1024).foldl (resolvePixel c clear) (t, 0, [])
  let outs := r.2.2.reverse
  let c := { c with
    covsum := c.covsum + BitVec.ofNat 64 (outs.foldl (fun n x => n + x) 0)
    occlusion := c.occlusion + BitVec.ofNat 64 (outs.filter (fun x => decide (x ≠ 0))).length }
  (c, outs.flatMap (bytesLE 2), r.1)

/-- A pixel of a triangle: coverage in units of 2^-20, and its depth (R345). -/
structure Pixel where
  r : Nat
  z : Word
  l1 : Word
  l2 : Word
  pass : Bool

/-- The pixel of cell k of a triangle (R345); `vs` are its absolute vertices and `depth` the stored depth. -/
def pixelOf (c : CovSession) (vs : Points) (ws : List Word) (rs : List Nat) (depth : List Word) (k : Nat) : Pixel :=
  let cx2 := 2 * (c.ox + (k % 32 : Nat)) + 1
  let cy2 := 2 * (c.oy + (k / 32 : Nat)) + 1
  let p : Int × Int := (128 * cx2, 128 * cy2)
  let v (j : Nat) : Int × Int := vs.getD j (0, 0)
  let area := cross (v 0) (v 1) (v 2)
  let z := depthAt (wordAt ws 6) (wordAt ws 7) (wordAt ws 8) cx2 cy2
  let r := rs.getD k 0
  { r := r, z := z, l1 := baryAt (cross (v 0) p (v 2)) area, l2 := baryAt (cross (v 0) (v 1) p) area
    pass := decide (0 < r) && depthPasses c.zfunc z (depth.getD k 0) }

/-- The cells of quad (qx, qy) in pixel order (R346). -/
def quadCells (qx qy : Nat) : List Nat := (natsFrom 0 4).map (fun k => 32 * (2 * qy + k / 2) + 2 * qx + k % 2)

/-- A quad record (R346); none when no pixel of the quad passed. -/
def quadRecord (px : List Pixel) (id : Word) (qx qy : Nat) : Option (List Word) :=
  let ps := (quadCells qx qy).map (fun k => px.getD k ⟨0, 0, 0, 0, false⟩)
  if ps.all (fun p => !p.pass) then none
  else
    let mask := (natsFrom 0 4).foldl (fun n k => n + bit1 ((ps.map (fun p => p.pass)).getD k false) * 2 ^ k) 0
    let cov (k : Nat) : Nat := match ps[k]? with
      | some p => if p.pass then cov15 p.r else 0
      | none => 0
    some ([BitVec.ofNat 32 (qx + qy * 32 + mask * 2 ^ 10), id, BitVec.ofNat 32 (cov 0 + cov 1 * 2 ^ 16), BitVec.ofNat 32 (cov 2 + cov 3 * 2 ^ 16)] ++
      ps.map (fun p => p.l1) ++ ps.map (fun p => p.l2) ++ ps.map (fun p => p.z))

/-- The absolute vertices of a triangle (R344). -/
def triPoints (ws : List Word) : Points :=
  (natsFrom 0 3).map (fun k => (sextNat (wordAt ws (2 * k)).toNat 24, sextNat (wordAt ws (2 * k + 1)).toNat 24))

/-- Whether a triangle's vertices are collinear (R344 step 1). -/
def triFlat (ws : List Word) : Bool :=
  let vs := triPoints ws
  decide (cross (vs.getD 0 (0, 0)) (vs.getD 1 (0, 0)) (vs.getD 2 (0, 0)) = 0)

/-- The coverage of a triangle's pixels: its edges are added to the region's sums, which are resolved (R344 steps 2 and 3). -/
def triCover (c : CovSession) (ws : List Word) (t : AccTile) : List Nat :=
  resolveTile 0 ((triangleEdges (pointsOf c ws 3)).foldl (fun t e => (rasterSegment e).foldl addPortion t) t)

/-- What a triangle comes to of its pixels' coverage and the stored depths (R344 steps 4 and 5, R345): session counts, the depths that its
passing pixels write, and its quad records. -/
def triangleOf (c : CovSession) (ws : List Word) (rs : List Nat) (depth : List Word) : CovSession × List (Nat × Word) × List (List Word) :=
  let px := (natsFrom 0 1024).map (pixelOf c (triPoints ws) ws rs depth)
  let passed := px.filter (fun p => p.pass)
  let c := { c with
    occlusion := c.occlusion + BitVec.ofNat 64 passed.length
    covsum := c.covsum + BitVec.ofNat 64 (passed.foldl (fun n p => n + cov15 p.r) 0) }
  let zs := if c.zwrite then (px.zip (natsFrom 0 1024)).filterMap (fun p => if p.1.pass then some (p.2, p.1.z) else none) else []
  (c, zs, (natsFrom 0 256).filterMap (fun q => quadRecord px (wordAt ws 9) (q % 16) (q / 16)))

/-- Sets a block's session. -/
def setSession (s : State) (blk : Nat) (c : CovSession) : State := s.modBlock blk (fun b => { b with cov := some c })

/-- Appends quad records to the fragment queue while it has room (R344, R346); the records left. -/
def pushQuads (blk : Nat) : List (List Word) → CovSession → State → State × CovSession × List (List Word)
  | [], c, s => (s, c, [])
  | q :: t, c, s =>
    if c.qlen ≤ c.count then (s, c, q :: t)
    else
      let a := c.qbase + 64 * ((c.head + c.count) % max 1 c.qlen)
      pushQuads blk t { c with count := c.count + 1 } (putCov s blk a (bytesOfWords q))

/-- Poison read by the coverage unit (R516): a rollback, or an error of severity 2. -/
def covPoison (s : State) (b : Block) (m : CovCmd) : State :=
  severity2 s b.vale b.vd { ErrRec.blank cPoison 2 (some b.vale) (some b.vd) with core := m.core, pc := m.pc.toNat, unit := 5 }

/-- Processes the triangles of a command until one has to wait for room (R344). -/
def processTris (blk : Nat) (m : CovCmd) : List (List Word) → CovSession → State → State × CovSession × List (List Word) × List (List Word) × Bool
  | [], c, s => (s, c, [], [], false)
  | p :: t, c, s =>
    let c := countPrim c m.count (triFlat p)
    if triFlat p then processTris blk m t c s
    else
      let (s, ab, p1) := readRegion blk 64 c.acc s
      if p1 then (s, c, p :: t, [], true)
      else
        let rs := triCover c p (tileOf ab)
        let s := writeRegion blk 64 c.acc (tileBytes []) s
        let (s, db, p2) := readRegion blk 32 c.out s
        if p2 then (s, c, p :: t, [], true)
        else
          let (c, zs, quads) := triangleOf c p rs (wordsOfBytes db)
          let s := zs.foldl (fun s z => putCov s blk (c.out + 4 * z.1) (bytesLE 4 z.2.toNat)) s
          match pushQuads blk quads c s with
          | (s, c, []) => processTris blk m t c s
          | (s, c, left) => (s, c, t, left, false)

/-- Retires a coverage command: its scoreboard entries go (R333). -/
def dropCov (s : State) (g id : Nat) : State :=
  { s.modGlen g (fun x => { x with covq := Tbl.erase x.covq id }) with
    cores := Tbl.mapVals (fun _ x => if x.sb.any (fun e => decide (e.cmd = id)) then { x with sb := x.sb.filter (fun e => decide (e.cmd ≠ id)) } else x)
      (s.modGlen g (fun x => x)).cores }

/-- Processes a segment command: every primitive is accumulated (R341). -/
def processSegments (s : State) (g id : Nat) (b : Block) (m : CovCmd) (c : CovSession) : State :=
  let (s, bs, bad) := readRegion m.blk 64 c.acc s
  if bad then covPoison s b m
  else
    let n := segmentPoints m.op
    let r := m.prims.foldl (fun (r : CovSession × AccTile) p =>
      let ps := pointsOf c p n
      (countPrim r.1 m.count (degenerate ps), (rasterSegment ps).foldl addPortion r.2)) (c, tileOf bs)
    dropCov (setSession (writeRegion m.blk 64 c.acc (tileBytes r.2) s) m.blk r.1) g id

/-- Processes a COVRES (R342). -/
def processRes (s : State) (g id : Nat) (b : Block) (m : CovCmd) (c : CovSession) (clear : Bool) : State :=
  let (s, bs, bad) := readRegion m.blk 64 c.acc s
  if bad then covPoison s b m
  else
    let r := resolveCov c clear (tileOf bs)
    let s := writeRegion m.blk 16 c.out r.2.1 s
    let s := if clear then writeRegion m.blk 64 c.acc (tileBytes r.2.2) s else s
    dropCov (setSession s m.blk r.1) g id

/-- Processes a COVTRI as far as the fragment queue has room (R344). -/
def processTri (s : State) (g id : Nat) (b : Block) (m : CovCmd) (c : CovSession) : State :=
  match pushQuads m.blk m.quads c s with
  | (s, c, q :: t) =>
    (setSession s m.blk c).modGlen g (fun x => { x with covq := Tbl.set x.covq id { m with quads := q :: t } })
  | (s, c, []) =>
    match processTris m.blk m m.prims c s with
    | (s, c, _, _, true) => covPoison (setSession s m.blk c) b m
    | (s, c, [], [], false) => dropCov (setSession s m.blk c) g id
    | (s, c, prims, quads, false) =>
      (setSession s m.blk c).modGlen g (fun x => { x with covq := Tbl.set x.covq id { m with prims := prims, quads := quads } })

/-! ## COVPOP -/

/-- The words of record j of the fragment queue, and whether one is poisoned (R346). -/
def quadAt (s : State) (blk : Nat) (c : CovSession) (j : Nat) : State × List Word × Bool :=
  let (s, bs, p) := readStash s blk (c.qbase + 64 * ((c.head + j) % max 1 c.qlen)) 64
  (s, wordsOfBytes bs, p)

/-- Pixel k of a record in its lane's registers (R347). -/
def popWords (c : CovSession) (ws : List Word) (k : Nat) : List Word :=
  let w0 := (wordAt ws 0).toNat
  let x := c.ox + (2 * bitsOf w0 4 0 + k % 2 : Nat)
  let y := c.oy + (2 * bitsOf w0 9 5 + k / 2 : Nat)
  let cov := bitsOf (wordAt ws (2 + k / 2)).toNat (16 * (k % 2) + 15) (16 * (k % 2))
  [BitVec.ofNat 32 (wrapInt y 16 * 2 ^ 16 + wrapInt x 16), BitVec.ofNat 32 cov, wordAt ws (4 + k), wordAt ws (8 + k), wordAt ws 1, wordAt ws (12 + k)]

/-- Takes up to four records into the wave's lanes (R347). -/
def popQuads (s : State) (w : Nat) (wv : Wave) (d : RegField) (p : Nat) (c : CovSession) : State :=
  let n := min 4 c.count
  let r := (natsFrom 0 4).foldl (fun (r : State × Wave × Mask × List Nat) q =>
    let (s, ws, bad) := if q < n then quadAt r.1 wv.blk c q else (r.1, [], false)
    let mask := bitsOf (wordAt ws 0).toNat 13 10
    (natsFrom 0 4).foldl (fun (r : State × Wave × Mask × List Nat) k =>
      let l := 4 * q + k
      let vals := if q < n && !bad then popWords c ws k else []
      let x := (natsFrom 0 6).foldl (fun x j => x.wrV (d.toNat + j) l (wordAt vals j)) r.2.1
      let x := x.wrPred p [l] (fun _ => decide (q < n))
      let h := if q < n && !bitOf mask k then r.2.2.1 ||| laneBit l else r.2.2.1
      (r.1, x, h, if bad then r.2.2.2 ++ [l] else r.2.2.2)) (s, r.2)) (s, wv, (0 : Mask), [])
  let s := setSession r.1 wv.blk { c with count := c.count - n, head := (c.head + n) % max 1 c.qlen }
  consumePoison (s.setWave w { r.2.1.advance 4 with helper := r.2.2.1, wait := none }) w wv.pos (r.2.2.2.map (fun l => (l, 0)))

/-- Whether another wave of a block waits in a COVPOP accepted before one: a waiting wave's last issue is its COVPOP's (R347). -/
def popBefore (s : State) (w blk at_ : Nat) : Bool :=
  s.waves.any (fun e => decide (e.1 ≠ w) && decide (e.2.blk = blk) && !e.2.ended && decide (e.2.lastIssue < at_) && (match e.2.wait with
    | some (.covpop _ _ _) => true
    | _ => false))

/-- Whether a pop of a block's queue must wait for rows of the queue that are to be filled (R131). -/
def popHeld (s : State) (blk : Nat) (c : CovSession) : Bool := fillWaits s blk c.qbase (64 * c.qlen)

/-- Whether a COVPOP that has issued may complete: its VD's issued instructions complete while the VD is parked or its boundary is due
(R394), but not once it has stopped or rolls back (R409, R474), nor while the block stops for a save, after which the wave executes it again
(R347). -/
def popRuns (s : State) (w : Wave) : Bool :=
  vdServed s w.vale w.vd && !w.ended &&
    (match Tbl.get s.blocks w.blk with
      | some b => decide (b.st = .resident) && !b.preempt
      | none => false)

/-- COVPOP (R347, R351): it waits for a record, or for every COVTRI accepted before it, behind the COVPOPs accepted before it. -/
def execCovpop (o : VaFields) (s : State) : Host.Outcome State Fault Refusal :=
  runCov (.covpop o) (fun s w wv b =>
    match openSession s wv b with
    | none => raiseInstr s w wv (.covpop o) cCov 0
    | some c =>
      if !c.tri || decide (wv.part ≠ 0xFFFF) then raiseInstr s w wv (.covpop o) cCov 0
      else
        let tris := ((covQueue s b wv.blk).filter (fun e => isTri e.2.op)).map (fun e => e.1)
        if (c.count ≠ 0 || decide (tris = [])) && !popBefore s w wv.blk (s.turns + 1) && !popHeld s wv.blk c then popQuads s w wv o.d (o.a.toNat % 8) c
        else s.setWave w { wv with wait := some (.covpop tris o.d (o.a.toNat % 8)) }) s

/-- A waiting COVPOP looks again (R347). -/
def popTurn (s : State) (w : Nat) (wv : Wave) (upTo : List Nat) (d : RegField) (p : Nat) : State :=
  match Tbl.get s.blocks wv.blk with
  | none => s
  | some b =>
    match b.cov with
    | none => s.setWave w { wv with wait := none }
    | some c =>
      let left := (covQueue s b wv.blk).any (fun e => upTo.contains e.1)
      if !popRuns s wv || popHeld s wv.blk c || popBefore s w wv.blk wv.lastIssue || (decide (c.count = 0) && left) then s else popQuads s w wv d p c

/-! ## Commands that retire -/

/-- Serves the COVPOPs of a block that may complete, one pass over its waves (R347). -/
def servePops (s : State) (blk : Nat) (waves : List Nat) : State :=
  waves.foldl (fun s w => match Tbl.get s.waves w with
    | some wv =>
      (match wv.wait with
        | some (.covpop t d p) => if wv.blk = blk then popTurn s w wv t d p else s
        | _ => s)
    | none => s) s

/-- A COVEND retires (R343): its session's statistics count, and it is closed. -/
def closeSession (s : State) (glen cmd blk : Nat) : State :=
  match Tbl.get s.blocks blk with
  | none => dropCov s glen cmd
  | some b => match b.cov with
    | none => dropCov s glen cmd
    | some c => dropCov ((addStats s glen b.vale b.vd c).modBlock blk (fun b => { b with cov := none })) glen cmd

/-- COV_COMMAND_RETIRE (R333, R341 to R344): the oldest command of its session is processed and retires; a COVTRI whose
fragment queue is full goes on later, and a COVEND closes the session once the COVPOPs that wait are served. -/
def execCovCommandRetire (glen cmd : Nat) (s : State) : Host.Outcome State Fault Refusal :=
  .next (match Tbl.get (s.glen? glen).covq cmd with
    | none => s
    | some m =>
      match Tbl.get s.blocks m.blk with
      | none => dropCov s glen cmd
      | some b =>
        let older := (s.glen? glen).covq.any (fun e => decide (e.1 < cmd) && decide (e.2.blk = m.blk))
        match b.cov with
        | none => dropCov s glen cmd
        | some c =>
          if older || s.halted || covWaits s m c then s
          else
            let s := match m.op with
              | .covline _ | .covquad _ | .covcube _ => processSegments s glen cmd b m c
              | .covres o => processRes s glen cmd b m c (decide (o.m = 1))
              | .covtri _ => processTri s glen cmd b m c
              | .covend _ => closeSession (b.waves.foldl (fun s _ => servePops s m.blk b.waves) s) glen cmd m.blk
              | _ => dropCov s glen cmd
            releaseRetired s m.blk)

/-! ## A wave's turn -/

/-- A wave's turn (R396): a wait the unit or the block decides is looked at again; otherwise the wave issues. -/
def turnWave (s : State) (w : Nat) (defer : Bool) : Issued :=
  match Tbl.get s.waves w with
  | none => .done s
  | some wv =>
    let clear := wv.trap.isNone && decide (wv.late = [])
    match wv.wait with
    | some (.fork _ _ _ _ _) => if clear then .done (forkTurn s wv.blk) else issueWave s w defer
    | some (.covpop t d p) => if clear then .done (popTurn s w wv t d p) else issueWave s w defer
    | _ => issueWave s w defer

end Sys2Proof.Machine
end

