-- ==== Sys2Proof/Machine/Lease.lean ====
section
/-! DEFINITION. Leases of matrix engines as they run (R315, R329, R330, R411, R539), with the events LEASE_START and
LEASE_END, and the completion of a request to PF firmware (R418, R421). -/
namespace Sys2Proof.Machine

/-- Completes a PF request: BUSY clears, RESULT and what ARG0 returns are set, and PF vector 1 is sent (R421, R443). -/
def pfDone (s : State) (result : BitVec 8) (arg0 : Option DWord) : State :=
  let args := match arg0 with
    | some a => setAt s.pf.args 0 a
    | none => s.pf.args
  sendMsix { s with pf := { s.pf with busy := false, result := result, args := args } } 0 1

/-- Changes a lease. -/
def State.modLease (s : State) (i : Nat) (f : Lease → Lease) : State := { s with leases := Tbl.modify s.leases i f }

/-- LEASE_START (R411): from START a leased core's stash is at least 64 KiB; a smaller one is converted under R133. -/
def execLeaseStart (idx : Nat) (s : State) : Host.Outcome State Fault Refusal :=
  .next (match Tbl.get s.leases idx with
    | none => s
    | some l =>
      if l.st ≠ 1 || l.revoked || decide (s.tod.toNat < l.start.toNat) then s
      else (leaseEngines l).foldl (fun s c =>
        if (s.core? c).convert.getD (s.core? c).stashKib < 64 then beginConversion s c 64 else s) (s.modLease idx (fun l => { l with st := 2 })))

/-- Whether a team, or a waiting claim, is of the lease with a handle. -/
def namesLease (h : Word) (t : Option Team) : Bool :=
  match t with
  | some t => decide (t.mode = 2) && decide (t.handle = h)
  | none => false

/-- A claim that waits when its lease ends (R330, R329): a new one halts its stream; that of a resumed block stands, its
members as R315 leaves them. -/
def endClaim (s : State) (blk : Nat) (c : SeqCtx) : State :=
  let s := { s with claims := removeNat blk s.claims }
  if c.restore = [] then seqHalt (modSeq s blk (fun c => { c with claim := none })) blk 0
  else modSeq s blk (fun c => { c with team := c.claim, claim := none, restore := [] })

/-- The VDs of a vale that are enabled. -/
def vdsOf (s : State) (vale : Nat) : List Nat :=
  match s.vale? vale with
  | some v => (v.vds.filter (fun e => e.2.en)).map (fun e => e.1)
  | none => []

/-- The lease window of a core ends (R120, R315, R411): the generations of the borrower's VDs there are bumped, an engine that a team
of the lease holds is free again and reads as +0 with VALID 0, and one that a block of the borrower released earlier keeps nothing for it. -/
def cleanEngine (s : State) (borrower : Nat) (h : Word) (core : Nat) : State :=
  let s := (vdsOf s borrower).foldl (fun s d => bumpGen s core borrower d) s
  match (s.core? core).engine.holder with
  | none =>
    if (s.core? core).engine.lastHolder.any (fun b => match Tbl.get s.blocks b with
        | some x => decide (x.vale = borrower)
        | none => true) then s.modCore core (fun x => { x with engine := Engine.fresh })
    else s
  | some blk =>
    match Tbl.get s.blocks blk with
    | none => s
    | some b =>
      if namesLease h (b.seqCtx.bind (fun c => c.team)) then
        s.modCore core (fun x => { x with engine := { Engine.fresh with valid := false } })
      else s

/-- The epochs of a lender's VDs in the glen of a lease are bumped as its windows go (R121), after their dirty lines there have been
written back (log 102). -/
def lenderEpochs (s : State) (l : Lease) : State :=
  (vdsOf s l.lender).foldl (fun s d => bumpEpoch (s.modGlen l.glen (fun g => l2Clean g l.lender d)) l.glen l.lender d) s

/-- Ends a lease (R315, R411, R539). -/
def endLease (s : State) (idx : Nat) (l : Lease) : State :=
  let s := (leaseEngines l).foldl (fun s c => cleanEngine s l.borrower l.handle c) (lenderEpochs s l)
  let s := s.blocks.foldl (fun s e => match e.2.seqCtx with
    | some c => if namesLease l.handle c.claim then endClaim s e.1 c else s
    | none => s) s
  s.modLease idx (fun l => { l with st := 3 })

/-- Whether a K-step of a lease is still queued on one of its engines. -/
def leaseBusy (s : State) (idx : Nat) (l : Lease) : Bool :=
  (leaseEngines l).any (fun c => (s.core? c).engine.queue.any (fun k => decide (k.lease = some idx)))

/-- LEASE_END (R411, R539): at END, or revoked, once its K-steps have finished. -/
def execLeaseEnd (idx : Nat) (s : State) : Host.Outcome State Fault Refusal :=
  .next (match Tbl.get s.leases idx with
    | none => s
    | some l =>
      if l.st = 3 || (!l.revoked && decide (s.tod.toNat < l.stop.toNat)) || leaseBusy s idx l then s else endLease s idx l)

/-- Revokes a lease (R539): its records; LEASE_END does the rest. -/
def revokeLease (s : State) (idx : Nat) (l : Lease) (reason : Nat) : State :=
  if l.st = 3 || l.revoked then s
  else leaseRecords (s.modLease idx (fun l => { l with revoked := true })) idx l reason

end Sys2Proof.Machine
end

