-- ==== Sys2Proof/Machine/Errors.lean ====
section
/-! DEFINITION. Errors the part detects by itself: soft errors and the patrol scrub (R513, R514, R517, R523), hangs (R534),
links (R518 to R520) and failed glens (R32, R35, R539, R541). -/
namespace Sys2Proof.Machine

/-! ## Soft errors -/

/-- A structure in which a soft error is found (R517): its code, the unit named (R459), the glen, the channel, the address
the sectors of the line, and the core and wave slot concerned. -/
structure Site where
  code : Nat
  unit : Nat
  glen : Nat
  chan : Nat
  addr : Nat
  sectors : Nat
  core : Nat
  slot : Nat
deriving DecidableEq, Repr

/-- The vale that holds a glen. -/
def glenVale (s : State) (g : Nat) : Option Nat := (s.glen? g).vale

/-- The record of a soft error (R514, R517): no single VD. -/
def memRec (s : State) (x : Site) (corrected scrub : Bool) (bits : Nat) : ErrRec :=
  { ErrRec.blank (if corrected then cMemCe else cMemUe) (if corrected then 0 else 1) (glenVale s x.glen) none with
    addr := x.addr, unit := x.unit, core := x.core, slot := x.slot
    detail := [x.code + bits * 256 + x.chan * 2 ^ 16, x.sectors + 32 * bit1 scrub, 0, 0, 0, 0] }

/-- The record of an uncorrectable error in state that the unit which reads it cannot poison (R513, R517): of a wider scope, and found at
consumption (DESIGN CHOICE, log 143). -/
def ErrRec.atUse (r : ErrRec) (sev : Nat) : ErrRec :=
  { r with sev := sev, detail := (r.detail.take 1) ++ ((r.detail.getD 1 0) + 16) :: r.detail.drop 2 }

/-- A correction is reported (R513); `bits` tells how many bits were corrected. -/
def memCe (s : State) (x : Site) (scrub : Bool) (bits : Nat) : State := recordCe s (memRec s x true scrub bits) x.glen

/-- An uncorrectable error confined to poisoned units is reported (R514). -/
def memUe (s : State) (x : Site) (scrub : Bool) : State := record s (memRec s x false scrub 0xFF)

/-- Bits corrected in an 8-bit symbol: between 1 and 8, and not stated (R11, R513). -/
def symbolBits (s : State) : State × Nat := ({ s with freeCount := s.freeCount + 1 }, (Config.freeByte s.freeCount).toNat % 8 + 1)

/-- A byte of local memory as a site. -/
def memSite (s : State) (code unit addr : Nat) : Site :=
  let o := addr % 2 ^ 33
  { code := code, unit := unit, glen := addr / 2 ^ 33, addr := s.pkgId.toNat * 2 ^ 47 + addr / 128 * 128, sectors := 2 ^ (addr / 32 % 4), core := 0xFFFF, slot := 0xFF
    chan := if code = 0 then 4 * (addr / 2 ^ 33) + ((bitsOf o 9 8) ^^^ (bitsOf o 17 16)) else 0xFFFF }

/-- A structure that is no memory. -/
def unitSite (code unit glen addr : Nat) : Site := { code := code, unit := unit, glen := glen, chan := 0xFFFF, addr := addr, sectors := 0, core := 0xFFFF, slot := 0xFF }

/-- A structure of a core. -/
def coreSite (code unit core addr : Nat) : Site := { unitSite code unit (glenOfCore core) addr with core := core }

/-- Poisons or corrects a sector of HBM4 or L2 (R513). -/
def memoryError (s : State) (code unit addr : Nat) (corrected : Bool) : State :=
  let x := memSite s code unit addr
  if corrected then
    let (s, n) := if code = 0 then symbolBits s else (s, 1)
    memCe s x false n
  else memUe (poisonSectors s [addr / 32]) x false

/-- An error in a VD's state in a unit of a glen (R513): severity 2 when it cannot be corrected. -/
def unitError (s : State) (code unit glen vd : Nat) (corrected : Bool) : State :=
  let x := unitSite code unit glen 0
  if corrected then memCe s x false 1
  else match glenVale s glen with
    | some v => severity2 s v vd { (memRec s x false false 0xFF).atUse 2 with vd := some vd }
    | none => memUe s x false

/-- An error that stops a vale (R513), or only its glen's record when no vale holds it. -/
def valeError (s : State) (x : Site) (corrected : Bool) : State :=
  if corrected then memCe s x false 1
  else
    let r := (memRec s x false false 0xFF).atUse 3
    match glenVale s x.glen with
    | some v => severity3 s v r
    | none => record s r

/-- The key of a register word in a wave's list of poisoned words (R514): vector registers 0 to 95, then scalars. -/
def regKey (reg lane : Nat) : Nat := if reg < 96 then 16 * reg + lane % 16 else 1536 + (reg - 96)

/-- Where a register word is (R517): the register in bits 7 to 0 and the lane above (DESIGN CHOICE, log 143). -/
def regPlace (reg lane : Nat) : Nat := reg + 256 * (if reg < 96 then lane % 16 else 0)

/-- MEM_ERROR (R513): a storage structure detects a soft error. -/
def execMemError (err : SoftError) (s : State) : Host.Outcome State Fault Refusal :=
  .next (match err with
    | .hbm a c => memoryError s 0 11 a c
    | .l2Data a c => memoryError s 1 12 a c
    | .l2Tag g c => valeError s (unitSite 2 12 g 0) c
    | .l1 core sector =>
      let s := s.modCore core (fun x => { x with l1 := x.l1.filter (fun e => decide (e.sector / 4 ≠ sector / 4)) })
      memCe s { memSite s 3 2 (32 * sector) with glen := glenOfCore core, core := core } false 1
    | .l1Spec core job task =>
      let s := memCe s (coreSite 3 2 core 0) false 1
      (match (orderedOf s job).bind (fun o => Tbl.get o.tasks task) with
        | some t => if t.irrev || decide (t.st = .pending) then s else abortTask s job task
        | none => s)
    | .fetchCache core => memCe (s.modCore core (fun x => { x with icache := [], ccache := [] })) (coreSite 4 0 core 0) false 1
    | .tlb core => memCe (s.modCore core (fun x => { x with tlb := [] })) (coreSite 5 2 core 0) false 1
    | .glenTlb g => memCe (s.modGlen g (fun x => { x with tlb := [] })) (unitSite 5 2 g 0) false 1
    | .dieTlb d => memCe { s with dieTlb := Tbl.set s.dieTlb d [] } (unitSite 5 2 (32 * d) 0) false 1
    | .stash blk word c =>
      (match Tbl.get s.blocks blk with
        | none => s
        | some b =>
          let x := coreSite 6 2 b.core (4 * word)
          if c then memCe s x false 1
          else memUe (s.modBlock blk (fun b => { b with stashPoison := insertNat word b.stashPoison })) x false)
    | .register wave reg lane c =>
      (match Tbl.get s.waves wave with
        | none => s
        | some w =>
          let x := { coreSite 7 0 w.core (regPlace reg lane) with slot := w.slot }
          if c then memCe s x false 1
          else memUe (s.modWave wave (fun w => { w with poison := insertNat (regKey reg lane) w.poison })) x false)
    | .accumulator core n c =>
      let x := coreSite 8 4 core n
      if c then memCe s x false 1
      else memUe (s.modCore core (fun k => { k with engine := { k.engine with accPoison := insertNat n k.engine.accPoison } })) x false
    | .taskUnit g vd c => unitError s 9 6 g vd c
    | .coverageUnit g vd c => unitError s 10 5 g vd c
    | .encoderLane g vd c => unitError s 11 7 g vd c
    | .colSram g c => valeError s (unitSite 12 8 g 0) c
    | .saddleSwitch die c =>
      let x := unitSite 13 9 (32 * die) 0
      if c then recordCe s { memRec s x true false 1 with vale := none } (32 * die)
      else severity4 s { (memRec s x false false 0xFF).atUse 4 with vale := none })

/-- PATROL_SCRUB (R513, R514): the patrol scrub reads a sector: it writes back what it corrects, and reports poison that no
agent has consumed. -/
def execPatrolScrub (sector : Nat) (corrected : Bool) (s : State) : Host.Outcome State Fault Refusal :=
  .next (
    let x := memSite s 0 11 (32 * sector)
    if s.poison.contains sector then memUe s x true
    else if corrected then
      let (s, n) := symbolBits s
      memCe s x true n
    else s)

/-! ## Hangs -/

/-- A HANG record (R529). -/
def hangRec (sev : Nat) (vale vd : Option Nat) (pc reason unit core ticks addr : Nat) : ErrRec :=
  { schedRec cHang sev vale vd pc reason unit core ticks addr with core := core }

/-- What an accepted command is for a hang (R534): its vale and VD, place, core, when it was accepted, and whether a fault
is pending. -/
structure Accepted where
  vale : Nat
  vd : Nat
  pc : Nat
  core : Nat
  at_ : Nat
  faulting : Bool
deriving DecidableEq, Repr

/-- An accepted command of an engine. -/
def acceptedCmd (s : State) (unit : EngineUnit) (cmd : Nat) : Option (Nat × Accepted) :=
  match unit with
  | .copy core => (Tbl.get (s.core? core).cmds cmd).map (fun c => (3, ⟨c.vale, c.vd, c.pc.toNat, c.core, c.accepted, (startFault s c).isSome⟩))
  | .encoder g => (Tbl.get (s.glen? g).encq cmd).map (fun c => (7, ⟨c.vale, c.vd, c.pc.toNat, c.core, c.accepted, c.pre.isSome⟩))
  | .coverage g => (Tbl.get (s.glen? g).covq cmd).bind (fun c =>
      (Tbl.get s.blocks c.blk).map (fun b => (5, ⟨b.vale, b.vd, c.pc.toNat, c.core, c.accepted, false⟩)))

/-- COMMAND_TIMEOUT (R534): an accepted command has not retired for 60,000,000 ticks. -/
def execCommandTimeout (unit : EngineUnit) (cmd : Nat) (s : State) : Host.Outcome State Fault Refusal :=
  .next (match acceptedCmd s unit cmd with
    | none => s
    | some (u, c) =>
      if s.tod.toNat < c.at_ + 60000000 || c.faulting then s
      else severity3 s c.vale (hangRec 3 (some c.vale) (some c.vd) c.pc 3 u c.core (s.tod.toNat - c.at_) c.pc))

/-- COL_WATCHDOG_TIMEOUT (R534): a Col scheduler has not serviced its monitor's watchdog: the vale stops, or for the
package Col the package. -/
def execColWatchdogTimeout (glen : Option Nat) (s : State) : Host.Outcome State Fault Refusal :=
  .next (match glen with
    | none => severity4 s (hangRec 4 none none 0 4 8 0xFFFF 600000 0)
    | some g =>
      match glenVale s g with
      | some v => severity3 s v (hangRec 3 (some v) none 0 4 8 0xFFFF 600000 0)
      | none => record s (hangRec 3 none none 0 4 8 0xFFFF 600000 0))

/-! ## Links -/

/-- The state of a link. -/
def linkOf (s : State) (l : LinkRef) : Link :=
  match l with
  | .saddle n => (Tbl.get s.saddles n).getD Link.fresh
  | .pass n => (Tbl.get s.passLinks n).getD Link.fresh

/-- Sets the state of a link. -/
def setLink (s : State) (l : LinkRef) (x : Link) : State :=
  match l with
  | .saddle n => { s with saddles := Tbl.set s.saddles n x }
  | .pass n => { s with passLinks := Tbl.set s.passLinks n x }

/-- The lowest glen of the die whose Col reports a link's errors (R461, R462): of a saddle the lower die it joins (DESIGN CHOICE, log
121). -/
def linkGlen : LinkRef → Nat
  | .saddle n => 32 * ([0, 1, 2, 3, 4, 5, 6, 0, 1, 2].getD n 0)
  | .pass n => 32 * ((natsFrom 0 8).find? (fun d => (dieLinks d).contains n)).getD 0

/-- The package a link leads to (R520): 0 for a saddle, and for a pass link the board's choice (log 148). -/
def linkPeer : LinkRef → Nat
  | .saddle _ => 0
  | .pass n => (Config.linkPeer n).toNat

/-- A record of a link (R520). -/
def linkRec (cause : BitVec 8) (sev : Nat) (l : LinkRef) (kind count peer : Nat) : ErrRec :=
  let (n, u) : Nat × Nat := match l with
    | .saddle n => (n, 9)
    | .pass n => (n, 10)
  { ErrRec.blank cause sev none none with unit := u, detail := [n + kind * 256 + min count 0xFFFF * 2 ^ 16, peer, 0, 0, 0, 0] }

/-- Whether a link exists (R22, R24). -/
def linkExists : LinkRef → Bool
  | .saddle n => decide (n < 10)
  | .pass n => decide (n < 36)

/-- LINK_CRC_FAIL (R518): a flit fails its CRC and is replayed; more than 16 replays within 600 ticks retrain the link. -/
def execLinkCrcFail (link : LinkRef) (s : State) : Host.Outcome State Fault Refusal :=
  .next (
    let x := linkOf s link
    if !linkExists link || !x.up || x.retraining then s
    else
      let past := s.tod.toNat :: x.replays.filter (fun t => decide (s.tod.toNat ≤ t + 600))
      let train := decide (16 < past.length)
      let x := { x with replays := past, retraining := train, since := if train then s.tod.toNat else x.since }
      recordCe (setLink s link x) (linkRec cLinkCe 0 link (bit1 train) past.length (linkPeer link)) (linkGlen link))

/-- RETRAIN_COMPLETE (R518): a link has retrained, and its traffic goes on. -/
def execRetrainComplete (link : LinkRef) (s : State) : Host.Outcome State Fault Refusal :=
  .next (
    let x := linkOf s link
    if x.up && x.retraining then setLink s link { x with retraining := false, replays := [], since := s.tod.toNat } else s)

/-- LINK_RETRAIN_TIMEOUT (R518): a saddle that has not retrained within 60,000 ticks is down, which stops the package. -/
def execLinkRetrainTimeout (link : LinkRef) (s : State) : Host.Outcome State Fault Refusal :=
  .next (
    let x := linkOf s link
    match link with
    | .pass _ => s
    | .saddle _ =>
      if !x.retraining || decide (s.tod.toNat < x.since + 60000) then s
      else severity4 (setLink s link { x with up := false }) (linkRec cLinkDown 4 link 2 x.replays.length 0))

/-- PASS_LINK_DOWN (R519, R422): the link leaves PASSUP, and its unacknowledged requests are sent again on the links that
are left. -/
def execPassLinkDown (link : Nat) (s : State) : Host.Outcome State Fault Refusal :=
  .next (
    if !decide (link < 36) || !s.passUp.getLsbD link then s
    else
      let x := linkOf s (.pass link)
      let count := if x.retraining then x.replays.length else 0
      let s := { s with passUp := s.passUp &&& ~~~(BitVec.ofNat 36 (2 ^ link)) }
      let s := setLink s (.pass link) { linkOf s (.pass link) with up := false, retraining := false }
      let s := { s with outReqs := Tbl.mapVals (fun _ r => if r.link = link then { r with link := linkFor s r.die r.pkg } else r) s.outReqs }
      recordCe s (linkRec cLinkDown 0 (.pass link) 2 count (linkPeer (.pass link))) (linkGlen (.pass link)))

/-! ## Glens -/

/-- Clears a glen's memory, poison and SRAM (R32): its cores, units and channels. The glen itself is Glen.fresh then. -/
def wipeGlen (s : State) (g : Nat) : State :=
  { s with
    mem := Tbl.keep (fun k _ => decide (k / 2 ^ 33 ≠ g)) s.mem
    poison := s.poison.filter (fun j => decide (32 * j / 2 ^ 33 ≠ g))
    cores := Tbl.keep (fun c _ => decide (glenOfCore c ≠ g)) s.cores }

/-- A SPLIT completes once no glen is left to scrub (R32, R541). -/
def splitCheck (s : State) : State :=
  let left := (natsFrom 0 256).any (fun g => decide ((s.glen? g).st = 2))
  if s.pf.busy && decide (s.pf.op = 0x12) && !left then pfDone s 0 none else s

/-- Whether an access or load that issued before a split still goes to a glen's memory: its effect comes before the scrub. -/
def glenTargeted (s : State) (g : Nat) : Bool :=
  let hits (t : Target) : Bool := match t with
    | .mem k => decide (k / 2 ^ 33 = g)
    | _ => false
  s.inflight.any (fun a => hits a.2.target) || s.waves.any (fun w => w.2.outst.any (fun o => match o.op with
    | .load op => op.lanes.any (fun r => hits r.target)
    | _ => false))

/-- GLEN_SCRUB_COMPLETE (R32, R541): a glen that left a vale is FREE, or FENCED when its scrub fails; the SPLIT that waits
for the last one completes. -/
def execGlenScrubComplete (glen : Nat) (ok : Bool) (s : State) : Host.Outcome State Fault Refusal :=
  .next (
    if (s.glen? glen).st ≠ 2 || decide (s.bootStat ≠ 1) || glenTargeted s glen then s
    else splitCheck ((wipeGlen s glen).modGlen glen (fun _ => { Glen.fresh with st := if ok then 0 else 3 })))

/-- GLEN_FAILURE (R35, R456, R457, R539, R542): the glen is fenced, its vale is treated as by an error of severity 3, which is reported,
and the leases of its engines are revoked. Which cause the report has the manual leaves open: MEM_UE of the glen's Col (DESIGN CHOICE, log
48). -/
def execGlenFailure (glen : Nat) (s : State) : Host.Outcome State Fault Refusal :=
  .next (
    if 256 ≤ glen || decide ((s.glen? glen).st = 3) then s
    else
      let v := glenVale s glen
      let r := { memRec s (unitSite 12 8 glen 0) false false 0xFF with sev := 3 }
      let s := s.modGlen glen (fun x => { x with st := 3, vale := none })
      let s := match v with
        | some v => severity3 s v r
        | none => record s r
      let s := { s with cores := Tbl.mapVals (fun c x => if glenOfCore c = glen then { x with engine := { x.engine with queue := [] } } else x) s.cores }
      splitCheck (s.leases.foldl (fun s e => if e.2.glen = glen then revokeLease s e.1 e.2 2 else s) s))

end Sys2Proof.Machine
end

