-- ==== Sys2Proof/Machine/Fabric.lean ====
section
/-! DEFINITION. The scale-up fabric (R422 to R425, R506, R519, R520): inbound requests of other packages against the import
table, and the responses to this package's own. -/
namespace Sys2Proof.Machine

/-! ## Inbound requests -/

/-- Whether an entry of the import table matches a request (R424, R425): its range, its source, and encryption. -/
def importMatches (e : DWord × DWord) (r : FabricReq) : Bool :=
  let a := e.1.toNat
  let b := e.2.toNat
  let unit := bitsOf r.addr 46 26
  let base := bitsOf a 20 0
  decide (base ≤ unit) && decide (unit < base + bitsOf a 41 21) && decide (bitsOf b 12 0 ≤ r.src) && decide (r.src ≤ bitsOf b 25 13) &&
    (!bitOf a 45 || r.enc)

/-- Whether the lowest-indexed entry that matches permits a request (R424): `bit` is that of its kind. -/
def importAllows (s : State) (r : FabricReq) (bit : Nat) : Bool :=
  match Tbl.first (fun _ e => importMatches e r) s.imports with
  | some (_, e) => bitOf e.1.toNat bit
  | none => false

/-- What arrives of an inbound request: it fails its tag, has been performed already with an answer, is refused, must
wait, or is performed at a key (R423, R425, R519). -/
inductive Inbound where
  | badTag
  | again (answer : List Byte)
  | refused
  | wait
  | at_ (key : Nat)

/-- Judges an inbound request (R423, R424, R425, R519). -/
def judge (s : State) (r : FabricReq) (bit : Nat) : Inbound :=
  if r.enc && !r.tagGood then .badTag
  else match s.inSeen.find? (fun e => decide (e.1 = r.src) && decide (e.2.1 = r.seq)) with
    | some e => .again e.2.2
    | none =>
      if !importAllows s r bit then .refused
      else match keyOf s r.addr with
        | none => .refused
        | some k =>
          if homeWaits s (.mem k) r.size (decide (bit ≠ 42)) then .wait else .at_ k

/-- A flit that fails its AES-GCM check is discarded, with a FABRIC record of no vale (R520). -/
def badFlit (s : State) (peer : Nat) : State :=
  record s { linkRec cFabric 1 (.pass (min 35 (linkFor s 0 peer))) 4 0 peer with vale := none }

/-- An encrypted request came under its sender's key, and is answered under this package's own (R425). -/
def answerFlit (s : State) (r : FabricReq) : State := if r.enc then countFlit (countFlitIn s r.src) r.src else s

/-- Notes a request performed, with its answer (R519). -/
def noteSeen (s : State) (r : FabricReq) (answer : List Byte) : State :=
  answerFlit { s with inSeen := (r.src, r.seq, answer) :: s.inSeen } r

/-- Frames an inbound request: `f` performs it at its key and gives the answer and whether it is poisoned. -/
def inbound (s : State) (r : FabricReq) (bit : Nat) (posted : Bool) (f : State → Nat → State × List Byte × Bool) : State :=
  let reply (bs : List Byte) (bad : Bool) : Reply := if posted then .ok else if bad then .poisoned bs else .bytes bs
  match judge s r bit with
  | .badTag => { badFlit s r.src with reply := .none }
  | .again bs => { answerFlit s r with reply := reply bs false }
  | .refused => { answerFlit s r with reply := .error 0 }
  | .wait => s
  | .at_ k =>
    let s := (unitsOf 128 k r.size).foldl (fun s j => recallLine s j noRow noRow) s
    let (s, bs, bad) := f s k
    { noteSeen s r bs with reply := reply bs bad }

/-- FABRIC_READ (R423). -/
def execFabricRead (req : FabricReq) (s : State) : Host.Outcome State Fault Refusal :=
  .next (inbound s req 42 false (fun s k => (s, memBytes s k req.size, memPoisoned s k req.size)))

/-- FABRIC_POSTED_WRITE (R423): an inbound write acts for no VD of the receiver. -/
def execFabricPostedWrite (req : FabricReq) (s : State) : Host.Outcome State Fault Refusal :=
  .next (inbound s req 43 true (fun s k => (writeMem s k (req.data.take req.size), [], false)))

/-- An inbound atomic at its home (R284, R423): a poisoned location is not written (R515). -/
def inboundAtomic (req : FabricReq) (s : State) (k : Nat) : State × List Byte × Bool :=
  let old := memBytes s k req.size
  let x := BitVec.ofNat 64 (natLE (req.data.take req.size))
  let w := BitVec.ofNat 64 (natLE ((req.data.drop req.size).take req.size))
  if memPoisoned s k req.size then (s, old, true) else (writeMem s k (accApply (.atom req.op x w) old), old, false)

/-- FABRIC_ATOMIC (R423). -/
def execFabricAtomic (req : FabricReq) (s : State) : Host.Outcome State Fault Refusal :=
  .next (inbound s req 44 false (inboundAtomic req))

/-- FABRIC_POSTED_ATOMIC (R423): applied once for each sequence number (R519). -/
def execFabricPostedAtomic (req : FabricReq) (s : State) : Host.Outcome State Fault Refusal :=
  .next (inbound s req 44 true (fun s k => ((inboundAtomic req s k).1, [], false)))

/-! ## Responses -/

/-- A posted request that is refused or lost (R506, R520): a FABRIC record of severity 2 to its vale. -/
def postLost (s : State) (r : OutReq) (kind : Nat) : State :=
  severity2 s r.vale r.vd
    { linkRec cFabric 2 (.pass (min 35 r.link)) kind 0 r.pkg with vale := some r.vale, vd := if r.vd < 16 then some r.vd else none, pc := r.pc.toNat, addr := r.pa }

/-- A lane's access whose response arrived or failed leaves the load (R172); the last one ends it, as an acquire where it
is one (R144). -/
def loadAnswered (s : State) (wid lid lane : Nat) (op : LoadOp) (write : Wave → Wave) : State :=
  let left := op.lanes.filter (fun q => decide (q.lane ≠ lane))
  let s := s.modWave wid (fun w => putLoad (write w) lid { op with lanes := left })
  match Tbl.get s.waves wid with
  | some w => if left = [] && isAcq op.ord && decide (2 ≤ op.scope.toNat) then dropL1 s w.core w.vale w.vd else s
  | none => s

/-- The answer to a wait's read (R266, R267): the wait ends, or goes on, or its read faults (R506, R515). A wave that cannot go on now reads again
when it can (R276, R474). -/
def waitAnswered (s : State) (wid : Nat) (w : Wave) (x : Wait) (pa : Nat) (bad : Option (BitVec 8 × Nat)) (bs : List Byte) : State :=
  if !canIssue s w || !w.standing then s
  else match bad with
  | some (c, reason) =>
    let lane := (lanesOf (lowestLane w.part)).headD 0
    let f : LateFault := ⟨w.pos, lane, c, BitVec.ofNat 32 reason, BitVec.ofNat 64 pa, some x, s.tod.toNat⟩
    s.modWave wid (fun w => { w with wait := none, late := w.late ++ [f] })
  | none =>
    let v := BitVec.ofNat 64 (natLE bs)
    if waitPasses x v then passWait s wid w x else s

/-- What a load of another package's memory returns: in a speculative task its own bytes over those of the response, which covers the
span the read needs, and the sector is recorded (R359, R360). -/
def farRead (s : State) (w : Wave) (op : LoadOp) (pa : Nat) (bs : List Byte) : State × List Byte :=
  match s.taskOf w with
  | some (q, t) => if t.irrev then (s, bs) else specRead s w q t (farKey pa) op.size (bs.take (specSpan t (farKey pa) op.size).2)
  | none => (s, bs)

/-- n bytes of zero. -/
def bs0 (n : Nat) : List Byte := List.replicate n 0

/-- Delivers the response to a read or atomic with return (R154, R506, R514): `bad` is the cause and reason of a failure. A helper
lane never faults and receives zero then (R482). -/
def deliverRead (s : State) (wid lid lane pa : Nat) (bad : Option (BitVec 8 × Nat)) (bs : List Byte) (poisoned : Bool) : State :=
  match Tbl.get s.waves wid with
  | none => s
  | some w =>
    match w.outst.find? (fun o => decide (o.id = lid)) with
    | none =>
      (match w.wait with
        | some (.waitge a t sc) => waitAnswered s wid w (.waitge a t sc) a.toNat (if poisoned then some (cPoison, 0) else bad) (bs.take 8)
        | some (.mwait a e sc) => waitAnswered s wid w (.mwait a e sc) a.toNat (if poisoned then some (cPoison, 0) else bad) (bs.take 4)
        | _ => s)
    | some o =>
      match o.op with
      | .load op =>
        let req := op.lanes.find? (fun r => decide (r.lane = lane))
        let va := (req.map (fun r => r.va)).getD (BitVec.ofNat 64 pa)
        let helper := (req.map (fun r => r.helper)).getD false
        (match bad with
          | some (c, reason) => if helper then loadAnswered s wid lid lane op (fun w => writeLoad w op lane (bs0 op.size)) else lateFaults (loadAnswered s wid lid lane op id) wid op.pos [(reqLane lane, c, BitVec.ofNat 32 reason, va)]
          | none =>
            let (s, bs) := farRead s w op pa bs
            let zs := if poisoned then bs.map (fun _ => (0 : Byte)) else bs
            let s := loadAnswered s wid lid lane op (fun w => writeLoad w op lane (zs.take op.size))
            if poisoned && !helper then consumePoison s wid op.pos [(reqLane lane, va)] else s)
      | _ => s

/-- Whether a request waits behind another (R422): an earlier write to the package from the same die is not yet
acknowledged on another link. -/
def reqBehind (s : State) (idx : Nat) (r : OutReq) : Bool :=
  s.outReqs.any (fun e => decide (e.1 < idx) && decide (e.2.pkg = r.pkg) && decide (e.2.die = r.die) && decide (e.2.link ≠ r.link) && e.2.load.isNone && e.2.eng.isNone)

/-- A posted access is acknowledged, or lost (R154): it is done; an irrevocable task's write is checked (R367), and an acquire has its
effect (R113). -/
def postDone (s : State) (r : OutReq) : State :=
  match r.access.bind (fun a => (Tbl.get s.inflight a).map (fun x => (a, x))) with
  | some (a, x) => acquireDone (accessWrite (dropAccess s a) x (farKey r.pa) x.op.size) x
  | none => s

/-- The answer to a read of an engine or of the part is kept for it (R154, R506). -/
def engAnswered (s : State) (r : OutReq) (core tag : Nat) (fault : Option (BitVec 8 × Nat)) (bs : List Byte) (bad : Bool) : State :=
  { s with engGot := ⟨core, tag, r.vale, r.vd, r.pa, bs, bad, fault⟩ :: s.engGot }

/-- The response to a request of a CONF vale comes under the other package's key (R425); one that fails its check counts no flit. -/
def responseFlit (s : State) (r : OutReq) (resp : FabricResp) : State :=
  if ((s.vale? r.vale).map (fun v => v.conf)).getD false && decide (resp ≠ .badTag) then countFlitIn s r.pkg else s

/-- FABRIC_RESPONSE (R506): a response, acknowledgement or refusal arrives for a request of this package, which
reached the other one no sooner than 64 ticks after it was sent (R536, log 108), while this package is locked to the domain (R439). -/
def execFabricResponse (idx : Nat) (resp : FabricResp) (s : State) : Host.Outcome State Fault Refusal :=
  .next (match Tbl.get s.outReqs idx with
    | none => s
    | some r =>
      if (linkOf s (.pass r.link)).retraining || decide (r.link = 36) || reqBehind s idx r || ((r.load.isSome || r.eng.isSome) && decide (resp = .ack)) ||
          (decide (s.tsync ≠ 2) && decide (s.tod.toNat < r.sentAt + 64)) then s
      else
        let s := postDone (responseFlit { s with outReqs := Tbl.erase s.outReqs idx } r resp) r
        match r.eng, resp with
        | some (c, k), .data bs p => engAnswered s r c k none bs p
        | some (c, k), .refusal => engAnswered s r c k (some (cProtect, 12)) [] false
        | some (c, k), .badTag => engAnswered (badFlit s r.pkg) r c k (some (cProtect, 13)) [] false
        | some _, .ack => s
        | none, _ =>
        match r.load, resp with
        | some (w, l, lane), .data bs p => deliverRead s w l lane r.pa none bs p
        | some (w, l, lane), .refusal => deliverRead s w l lane r.pa (some (cProtect, 12)) [] false
        | some (w, l, lane), .badTag => deliverRead (badFlit s r.pkg) w l lane r.pa (some (cProtect, 13)) [] false
        | some _, .ack => s
        | none, .refusal => postLost s r 3
        | none, .badTag => postLost (badFlit s r.pkg) r 4
        | none, _ => s)

/-- FABRIC_RESPONSE_TIMEOUT (R506, R519): no response within 600,000 ticks, or no route. -/
def execFabricResponseTimeout (idx : Nat) (s : State) : Host.Outcome State Fault Refusal :=
  .next (match Tbl.get s.outReqs idx with
    | none => s
    | some r =>
      if r.link ≠ 36 && decide (s.tod.toNat < r.sentAt + 600000) then s
      else
        let s := postDone { s with outReqs := Tbl.erase s.outReqs idx } r
        match r.load, r.eng with
        | some (w, l, lane), _ => deliverRead s w l lane r.pa (some (cProtect, 14)) [] false
        | none, some (c, k) => engAnswered s r c k (some (cProtect, 14)) [] false
        | none, none => postLost s r 5)

/-- FABRIC_REKEY (R425): the keys of both ordered pairs of this package and another are replaced. -/
def execFabricRekey (peer : Nat) (s : State) : Host.Outcome State Fault Refusal :=
  let new (t : Tbl (Nat × Nat)) : Tbl (Nat × Nat) := Tbl.modify t peer (fun k => (k.1 + 1, 0))
  .next { s with pairKeys := new s.pairKeys, pairKeysIn := new s.pairKeysIn }

end Sys2Proof.Machine
end

