-- ==== Sys2Proof/Machine/Boot.lean ====
section
/-! DEFINITION. Reset and bring-up (R123, R429, R430, R438, R544), the time of the domain (R439), the lifecycle (R440), and
power, current and temperature (R441 to R443). -/
namespace Sys2Proof.Machine

/-! ## Images -/

/-- The 256-byte header of an image (R430): a field of n bytes at an offset. -/
def headField (bs : List Byte) (off n : Nat) : Nat := natLE ((bs.drop off).take n)

/-- The conditions of R430 that every image must meet: its magic, version, type, length, reserved fields and signature. -/
def imageForm (bs : List Byte) (type : Nat) : Bool :=
  let body := bs.drop 256
  decide (256 ≤ bs.length) && decide (headField bs 0 4 = 0x314D4946) && decide (headField bs 4 2 = 1) && decide (headField bs 6 1 = type) &&
    decide (headField bs 7 1 = 0) && decide (headField bs 0x0C 4 = body.length) && decide (body.length % 4096 = 0) &&
    (bs.drop 0x98).take 0x68 == (natsFrom 0 0x68).map (fun _ => (0 : Byte)) &&
    Config.ecdsaVerifies ((bs.drop 0x18).take 64) (bs.take 0x58 ++ (bs.drop 0x98).take 0x68 ++ body) ((bs.drop 0x58).take 64)

/-- The hash of an image's public key (R430, R382). -/
def imageKey (bs : List Byte) : BitVec 256 := Config.sha256 ((bs.drop 0x18).take 64)

/-- Whether an image is accepted at boot (R430, R544): its key is one of the ROOTHASH slots not revoked, and its SVN is at
least the fused minimum. -/
def imageAccepted (s : State) (type : Nat) : Bool :=
  let bs := Config.bootImage type
  imageForm bs type && decide (Tbl.cell 0 s.svnMin type ≤ headField bs 8 4) &&
    (natsFrom 0 4).any (fun n => !s.rootGone && !s.revoked.getLsbD n && decide (Config.rootHash n = imageKey bs))

/-! ## Reset -/

/-- The lifecycle state after a reset: an accepted request takes effect (R440). -/
def nextLifecycle (s : State) : BitVec 3 := s.lcPending.getD s.lifecycle

/-- The state a reset leaves (R123, R438, R440): fuses stay, with them the accepted lifecycle change, and a FENCED glen stays
FENCED except where RMA retests it. The change from MANUFACTURE to PROVISIONED writes the identity certificate into slot 0 (R427). The
schedule and the model's own counters go on. -/
def resetMachine (s : State) : State :=
  let lc := nextLifecycle s
  let gone := decide (lc = 4)
  let certs := if s.lifecycle = 0 && decide (lc = 1) then s.certSlots ||| 1 else s.certSlots
  let fenced := Tbl.mapVals (fun _ _ => { Glen.fresh with st := 3 }) (Tbl.keep (fun _ g => decide (g.st = 3) && decide (lc ≠ 3)) s.glens)
  { State.reset with
    agenda := s.agenda, freeCount := s.freeCount, nextId := s.nextId, lifecycle := lc, stackGib := s.stackGib, glens := fenced
    rootGone := s.rootGone || gone, revoked := s.revoked, svnMin := s.svnMin, certSlots := if gone then 0 else certs }

/-- RESET (R438). -/
def execReset (s : State) : Host.Outcome State Fault Refusal := .next (resetMachine s)

/-! ## Bring-up -/

/-- Bring-up stops at its step (R438, R544). -/
def bootFails (s : State) : State := { s with bootStat := 2, failStep := BitVec.ofNat 3 s.bootStep }

/-- Bring-up goes on with the next step. -/
def bootGoes (s : State) : State := { s with bootStep := s.bootStep + 1 }

/-- Measures an image (R428): its header and body. -/
def measure (s : State) (index type : Nat) : State := { s with measured := Tbl.set s.measured index (Config.sha256 (Config.bootImage type)) }

/-- A step that verifies images and starts them in order (R429): none runs unless all before it were accepted. -/
def bootImages (s : State) (types : List (Nat × Nat)) : State :=
  if types.all (fun t => imageAccepted s t.1) then bootGoes (types.foldl (fun s t => measure s t.2 t.1) s) else bootFails s

/-- Every glen that is not FENCED is FREE, and the part is READY (R438 step 6). -/
def bootReady (s : State) : State :=
  let s := (natsFrom 0 256).foldl (fun s g => s.modGlen g (fun x => if x.st = 3 then x else { x with st := 0 })) s
  { s with bootStat := 1 }

/-- Whether the host link can have trained at a width and rate (R413, R443). -/
def trainedOk (width rate : BitVec 4) : Bool := [1, 2, 4].contains width.toNat && decide (1 ≤ rate.toNat) && decide (rate.toNat ≤ 6)

/-- Whether the host link answers configuration requests (R438): from step 4 onward. -/
def linkAnswers (s : State) : Bool := decide (4 ≤ s.bootStep)

/-- The pass links as training leaves them (R422, R438). -/
def trainLinks (s : State) (up : BitVec 36) : State :=
  { s with passUp := up
           passLinks := (natsFrom 0 36).foldl (fun t n => Tbl.set t n { (Tbl.get t n).getD Link.fresh with up := up.getLsbD n }) s.passLinks }

/-- Whether the host link takes memory requests (R438, R544): once it has trained, while bring-up has not failed. -/
def mmioOpen (s : State) : Bool := linkAnswers s && decide (s.bootStat ≠ 2)

/-- BRING_UP_STEP_DONE (R438): a step of bring-up has finished. One that has tripped waits for a reset (R442). -/
def execBringUpStepDone (out : BringUpResult) (s : State) : Host.Outcome State Fault Refusal :=
  .next (
    if s.bootStat ≠ 0 || s.halted then s
    else if out = .fail then bootFails s
    else match s.bootStep with
      | 1 => bootGoes { measure s 1 0 with identity := decide (s.lifecycle ≠ 4) }
      | 2 => if s.lifecycle = 4 then bootFails s else bootImages s [(1, 2)]
      | 3 => bootImages s [(2, 6)]
      | 4 => (match out with
        | .links up width rate fenced =>
          if trainedOk width rate then
            bootGoes (fenced.foldl (fun s g => s.modGlen g (fun x => { x with st := 3 })) { trainLinks s up with hlWidth := width, hlRate := rate })
          else s
        | _ => bootGoes s)
      | 5 => { bootImages s [(3, 3), (4, 4), (5, 5)] with timeMaster := s.tod.toNat }
      | 6 => (match out with
        | .tray id => if id.toNat < 4608 then { s with pkgId := id, trayRead := true } else bootFails s
        | _ => if s.tsync = 0 || !s.trayRead then s else bootReady s)
      | _ => s)

/-! ## Time -/

/-- Whether this package is the time master (R439): its id is the lowest that its links reach, which `own` says, and which is so where no
link is up or its id is 0. -/
def ownMaster (s : State) (own : Bool) : Bool := own || decide (s.passUp = 0) || decide (s.pkgId = 0)

/-- An exchange with the time master steers the counter's rate, within 50 ppm either way (R439). -/
def steered (s : State) : State := { s with steer := max (-50) (min 50 (Config.steer s.freeCount)), freeCount := s.freeCount + 1 }

/-- TIME_SYNC_MESSAGE (R439): an exchange with the time master at step 6, once the package id has been read, steps the counter once to its
count; later ones only steer its rate, and end a holdover but no time of its own (DESIGN CHOICE, log 146). `own` says that this package is the
lowest its links reach. -/
def execTimeSyncMessage (count : DWord) (own : Bool) (s : State) : Host.Outcome State Fault Refusal :=
  .next (
    if s.tsync = 0 then
      if s.bootStat ≠ 0 || decide (s.bootStep ≠ 6) || !s.trayRead then s
      else if ownMaster s own then { s with tsync := 2 }
      else { s with tsync := 1, tod := count, timeMaster := count.toNat, compared := 0 }
    else if s.tsync = 2 || ownMaster s own then s
    else steered { s with tsync := 1, timeMaster := s.tod.toNat })

/-- TIME_MASTER_TIMEOUT (R439): no answer for 1 s. -/
def execTimeMasterTimeout (s : State) : Host.Outcome State Fault Refusal :=
  .next (
    if s.tod.toNat < s.timeMaster + 600000000 then s
    else if s.tsync = 1 then { s with tsync := 3, timeMaster := s.tod.toNat }
    else if s.tsync = 0 && decide (s.bootStat = 0) && decide (s.bootStep = 6) then { s with tsync := 2 }
    else s)

/-- HOLDOVER_EXPIRY (R439): 10 s of holdover have passed. -/
def execHoldoverExpiry (s : State) : Host.Outcome State Fault Refusal :=
  .next (if s.tsync = 3 && decide (s.timeMaster + 6000000000 ≤ s.tod.toNat) then { s with tsync := 2 } else s)

/-! ## Lifecycle -/

/-- Whether a lifecycle state leaves to another on request (R440). -/
def lcAllowed (from_ to_ : BitVec 3) : Bool :=
  match from_.toNat with
  | 0 => decide (to_ = 1)
  | 1 => decide (to_ = 2) || decide (to_ = 4)
  | 2 => decide (to_ = 3) || decide (to_ = 4)
  | 3 => decide (to_ = 1) || decide (to_ = 4)
  | _ => false

/-- The device identity key (R427), which the boot ROM derives in the manner of DICE; it is never readable. -/
def deviceKey : BitVec 256 := Config.dice Config.deviceSecret (Config.sha256 (Config.bootImage 1))

/-- Whether the token that LCTOKEN names verifies for a lifecycle state (R440): under the device identity key for DECOMMISSIONED, and under
Psibriton's otherwise. Its length, and the answer where it does not lie in local memory, are free (DESIGN CHOICE, log 133). -/
def tokenGood (s : State) (target : BitVec 3) : Bool :=
  match keyOf s s.lcToken.toNat with
  | none => Config.rmaToken s.freeCount
  | some k => Config.tokenVerifies (if target = 4 then Config.publicKey deviceKey else Config.tokenKey) target (memBytes s k Config.tokenLength)

/-- A write of LCREQ (R440): a lifecycle change is accepted for the next reset, or refused with its reason in LCSTAT. -/
def lcRequest (s : State) (target : BitVec 3) : State :=
  let good := tokenGood s target
  let s := { s with lcReq := target, freeCount := s.freeCount + 1 }
  if !lcAllowed s.lifecycle target then { s with lcStat := 4 }
  else if s.vales ≠ [] then { s with lcStat := 3 }
  else if !good then { s with lcStat := 2 }
  else { s with lcStat := 1, lcPending := some target }

/-- LCREQ (R440): a target state, written together with the address of a token in LCTOKEN. -/
def execLcReq (target : BitVec 3) (token : DWord) (s : State) : Host.Outcome State Fault Refusal :=
  .next (if mmioOpen s then lcRequest { s with lcToken := token } target else s)

/-! ## Power, current and temperature -/

/-- Sets ALARM bits; each that becomes set sends PF vector 2 (R443). -/
def setAlarm (s : State) (bits : BitVec 4) : State :=
  let new := (natsFrom 0 4).filter (fun k => bits.getLsbD k && !s.alarm.getLsbD k)
  new.foldl (fun s _ => sendMsix s 0 2) { s with alarm := s.alarm ||| bits }

/-- CLKNOW changes, and with it what is left of every VD's capacity; one that has then used what its cap allows is parked (R394, R441). -/
def setClock (s : State) (mhz : Nat) : State :=
  let s := { s with clkNow := BitVec.ofNat 12 mhz }
  let s := { s with vales := Tbl.mapVals (fun _ v => { v with vds := Tbl.mapVals (fun _ d => { d with capacity := capacityOf s v d }) v.vds }) s.vales }
  s.vales.foldl (fun s v => v.2.vds.foldl (fun s d => if d.2.en && d.2.capped then parkVd s v.1 d.1 else s) s) s

/-- Trips a die (R442): an error of severity 4, and the part waits for a reset. -/
def tripDie (s : State) (die : Nat) (temp : BitVec 16) : State :=
  let s := setAlarm { s with temps := Tbl.setCell 0 s.temps die temp } 8
  severity4 s (schedRec cThermal 4 none none 0 1 die 0 temp.toNat s.clkNow.toNat)

/-- THERMAL_TRIP (R442): a die reaches 115 degrees. -/
def execThermalTrip (die : Nat) (temp : BitVec 16) (s : State) : Host.Outcome State Fault Refusal :=
  .next (if temp.toInt < 1840 || decide (8 ≤ die) then s else tripDie s die temp)

/-- The dies that telemetry shows at 115 degrees or more (R442). -/
def tripped (t : Telemetry) : List Nat := (natsFrom 0 8).filter (fun d => decide (1840 ≤ (t.temps.getD d 0).toInt))

/-- The clock falls one step (R441), with the ALARM bits of what made it fall. -/
def throttle (s : State) (bits : BitVec 4) : State :=
  if s.clkNow.toNat ≤ 1200 then s else setAlarm (setClock s (max 1200 (s.clkNow.toNat - 100))) bits

/-- CLOCK_CONTROL (R441): every 600 TOD ticks PF firmware, once it runs, compares the telemetry with its limits, once at a count. -/
def execClockControl (t : Telemetry) (s : State) : Host.Outcome State Fault Refusal :=
  .next (
    if s.halted || decide (s.tod.toNat % 600 ≠ 0) || decide (s.tod.toNat ≤ s.compared) || decide (s.bootStep ≠ 6) || decide (s.bootStat = 2) then s
    else
      let s := { s with power := BitVec.ofNat 32 t.power, compared := s.tod.toNat
                        temps := (natsFrom 0 8).foldl (fun m d => Tbl.setCell 0 m d (t.temps.getD d 0)) s.temps }
      let hot := t.temps.any (fun x => decide (1680 < x.toInt))
      let cool := t.temps.all (fun x => decide (x.toInt < 1600))
      let hotPower := decide (s.plimit.toNat < t.power)
      let amps := decide (s.ilimit.toNat < t.current)
      let clk := s.clkNow.toNat
      if hotPower || amps || hot then
        (tripped t).foldl (fun s d => tripDie s d (t.temps.getD d 0)) (throttle s (BitVec.ofNat 4 (bit1 hotPower + 2 * bit1 amps + 4 * bit1 hot)))
      else if decide (100 * t.power < 95 * s.plimit.toNat) && decide (100 * t.current < 95 * s.ilimit.toNat) && cool && decide (clk < 2400) then
        setClock s (min 2400 (clk + 100))
      else s)

/-- A write of PLIMIT or ILIMIT; one outside its range is ignored (R443). -/
def limitPut (s : State) (current : Bool) (value : BitVec 16) : State :=
  let x := value.toNat
  if current then (if 5000 ≤ x && decide (x ≤ 22000) then { s with ilimit := value } else s)
  else if 5000 ≤ x && decide (x ≤ 15000) then { s with plimit := value } else s

/-- A write of ALARM, which is W1C (R12, R443). -/
def alarmPut (s : State) (ones : BitVec 4) : State := { s with alarm := s.alarm &&& ~~~ones }

/-- LIMIT_WRITE (R443). -/
def execLimitWrite (current : Bool) (value : BitVec 16) (s : State) : Host.Outcome State Fault Refusal :=
  .next (if mmioOpen s then limitPut s current value else s)

/-- ALARM_CLEAR (R443). -/
def execAlarmClear (ones : BitVec 4) (s : State) : Host.Outcome State Fault Refusal :=
  .next (if mmioOpen s then alarmPut s ones else s)

end Sys2Proof.Machine
end

