-- ==== Sys2Proof/Machine/Ctrl.lean ====
section
/-! DEFINITION. Branches, reconvergence, calls, returns, exit and software traps (R253 to R261, R272, R491). -/
namespace Sys2Proof.Machine

/-- The address of a relative target: the word's own address plus 4 times a signed word offset (R182, R183, R258). -/
def relTarget (w : Wave) (off : Nat) (n : Nat) : DWord := w.pos.pc + dwordOfInt (4 * sextNat off n)

/-- The address of the header after the clause (R168). -/
def Wave.afterClause (w : Wave) : DWord :=
  match w.pos.clause with
  | some c => c.hdr + BitVec.ofNat 64 (4 * (c.n.toNat + 1))
  | none => w.pos.pc + 4

/-- A stack fault of every lane that takes part; nothing changes (R491). -/
def stackFault (i : Instr) (s : State) (w : Nat) (wv : Wave) (cause : BitVec 8) : State :=
  raiseLanes s w wv (instrBytes i) ((lanesOf wv.part).map (fun l => laneFault l cause 0 0))

/-- The lanes that take a BRA (R182). -/
def braLanes (o : BrFields) (w : Wave) : Mask :=
  if o.pe = 1 then w.part &&& (if o.pn = 1 then ~~~(w.pred o.pi.toNat) else w.pred o.pi.toNat) else w.part

/-- BRA (R256). -/
def execBra (o : BrFields) (s : State) : Host.Outcome State Fault Refusal :=
  runWave (.bra o) (fun s w wv =>
    let tk := braLanes o wv
    let nt := wv.active &&& ~~~tk
    let t := relTarget wv o.off.toNat 19
    if tk = 0 then s.setWave w (wv.advance 4)
    else if nt = 0 then s.setWave w { wv with pos := ⟨t, none⟩, replay := none }
    else if 64 ≤ wv.stack.length then stackFault (.bra o) s w wv cOver
    else s.setWave w { wv.advance 4 with stack := ⟨.path, t, tk, wv.depth⟩ :: wv.stack, active := nt }) s

/-- Sends lanes to their targets (R257, R259): the wave splits when every active lane goes; otherwise every target is
pushed and the other lanes stay. `push` goes below the targets. -/
def Wave.transfer (w : Wave) (len : Nat) (lanes : List Nat) (t : Nat → DWord) (d : BitVec 8) (push : List StackEntry) : Wave :=
  let m := maskOf lanes
  let nt := w.active &&& ~~~m
  let w := { w with stack := push ++ w.stack }
  if nt = 0 then { w.split lanes t d with replay := none }
  else { w.advance len with stack := (targetsOf lanes t).map (pathEntry lanes t d) ++ w.stack, active := nt }

/-- Entries a transfer pushes for its targets (R257, R259). -/
def transferPushes (w : Wave) (lanes : List Nat) (t : Nat → DWord) : Nat :=
  (targetsOf lanes t).length - (if w.active &&& ~~~(maskOf lanes) = 0 then 1 else 0)

/-- An indirect transfer (R257, R259): stack room is judged over all targets first (R479); lanes with a misaligned target fault MISALIGN and stay; lanes that read a poisoned
word consume it and stay. `call` names the link pair of a CALLX. -/
def runIndirect (i : Instr) (a : RegField) (call : Option RegField) (s : State) : Host.Outcome State Fault Refusal :=
  runWave i (fun s w wv =>
    let lanes := lanesOf wv.part
    let pois := poisonedLanes wv [a, a + 1] lanes
    let lanes := lanes.filter (fun l => !pois.contains l)
    let t (l : Nat) : DWord := wv.rd64 a l
    let bad := lanes.filter (fun l => decide ((t l).toNat % 4 ≠ 0))
    let good := lanes.filter (fun l => !bad.contains l)
    let push : List StackEntry := match call with
      | some _ => [⟨.call, wv.afterClause, maskOf good, wv.depth⟩]
      | none => []
    if lanes ≠ [] && (decide (64 < wv.stack.length + push.length + transferPushes wv lanes t) ||
        (call.isSome && decide (wv.depth = 255))) then stackFault i s w wv cOver
    else
      let wl := match call with
        | some d => wv.wr64 d good (fun _ => wv.afterClause)
        | none => wv
      let x := if good = [] then wl.advance 4
        else wl.transfer 4 good t (if call.isSome then wv.depth + 1 else wv.depth) push
      let s := if bad = [] then s.setWave w x
        else raise s w { x with pos := wv.pos } wv.pos (wv.nextPos 4) .instr none (bad.map (fun l => laneFault l cAlign 0 (t l)))
      consumePoison s w wv.pos (pois.map (fun l => (l, 0)))) s

/-- BRX (R257). -/
def execBrx (o : VaFields) (s : State) : Host.Outcome State Fault Refusal := runIndirect (.brx o) o.a none s

/-- CALLX (R259). -/
def execCallx (o : VaFields) (s : State) : Host.Outcome State Fault Refusal := runIndirect (.callx o) o.a (some o.d) s

/-- CALLX.TAIL (R259). -/
def execCallxTail (o : VaFields) (s : State) : Host.Outcome State Fault Refusal := runIndirect (.callxTail o) o.a none s

/-- CALL (R259). -/
def execCall (o : ClFields) (s : State) : Host.Outcome State Fault Refusal :=
  runWave (.call o) (fun s w wv =>
    let lanes := lanesOf wv.part
    let t (_ : Nat) : DWord := relTarget wv o.off.toNat 17
    if wv.depth = 255 || decide (64 < wv.stack.length + 1 + transferPushes wv lanes t) then
      stackFault (.call o) s w wv cOver
    else
      let x := wv.wr64 o.link lanes (fun _ => wv.afterClause)
      s.setWave w (x.transfer 4 lanes t (wv.depth + 1) [⟨.call, wv.afterClause, wv.part, wv.depth⟩])) s

/-- RCV (R258). -/
def execRcv (o : VaFields) (s : State) : Host.Outcome State Fault Refusal :=
  runWave (.rcv o) (fun s w wv =>
    let j := relTarget wv (o.d ++ o.a ++ o.b).toNat 21
    if 64 ≤ wv.stack.length then stackFault (.rcv o) s w wv cOver
    else s.setWave w { wv.advance 4 with stack := ⟨.reconv, j, wv.active, wv.depth⟩ :: wv.stack }) s

/-- Whether the pop of a JOIN at an address would meet an entry that is not its own (R258). -/
def joinForeign (pc : DWord) (gone : Mask) : List StackEntry → Bool
  | [] => false
  | e :: t =>
    match e.kind with
    | .call => true
    | .path => if e.mask &&& ~~~gone = 0 then joinForeign pc gone t else false
    | .reconv => if e.pc ≠ pc then true else if e.mask &&& ~~~gone = 0 then joinForeign pc gone t else false

/-- JOIN (R258). -/
def execJoin (o : VaFields) (s : State) : Host.Outcome State Fault Refusal :=
  runWave (.join o) (fun s w wv =>
    let left := wv.active &&& ~~~wv.part
    if left ≠ 0 then s.setWave w { wv.advance 4 with active := left }
    else if joinForeign wv.pos.pc (wv.exited ||| wv.returned) wv.stack then stackFault (.join o) s w wv cUnder
    else settle s w { wv with active := 0 } wv.pos true) s

/-- RET (R260). -/
def execRet (o : VaFields) (s : State) : Host.Outcome State Fault Refusal :=
  runWave (.ret o) (fun s w wv =>
    if !wv.stack.any (fun e => decide (e.kind = .call)) then stackFault (.ret o) s w wv cUnder
    else
      let left := wv.active &&& ~~~wv.part
      let x := { wv with
        lpair := (lanesOf wv.part).foldl (fun t l => Tbl.setCell 0 t l o.a) wv.lpair
        returned := wv.returned ||| wv.part
        active := left }
      if left ≠ 0 then s.setWave w (x.advance 4) else settle s w x wv.pos false) s

/-- EXIT (R261). -/
def execExit (o : VaFields) (s : State) : Host.Outcome State Fault Refusal :=
  runWave (.exit o) (fun s w wv =>
    let left := wv.active &&& ~~~wv.part
    let x := { wv with exited := wv.exited ||| wv.part, active := left }
    if left ≠ 0 then s.setWave w (x.advance 4) else settle s w x wv.pos false) s

/-- A software trap (R272): every lane that takes part, with CODE as its detail. -/
def softTrap (i : Instr) (o : VaFields) (cause : BitVec 8) (s : State) : Host.Outcome State Fault Refusal :=
  runWave i (fun s w wv =>
    raise s w wv wv.pos (wv.nextPos 4) .soft none
      ((lanesOf wv.part).map (fun l => laneFault l cause ((o.a ++ o.b).setWidth 32) 0))) s

/-- TRAP (R272). -/
def execTrap (o : VaFields) (s : State) : Host.Outcome State Fault Refusal := softTrap (.trap o) o cSwtrap s

/-- BKPT (R272). -/
def execBkpt (o : VaFields) (s : State) : Host.Outcome State Fault Refusal := softTrap (.bkpt o) o cBkpt s

end Sys2Proof.Machine
end

