-- ==== Sys2Proof/Machine/Window.lean ====
section
/-! DEFINITION. What a host does through the part's functions (R413 to R420): their identities and BARs; the checks of its TDI on every access (R433, R542,
R543), VD control blocks (R383, R384, R533), post pages (R415, R531), staging apertures (R416), and plain registers (R12,
R417, R443). -/
namespace Sys2Proof.Machine

/-! ## Functions and BARs -/

/-- The vendor ID of every function (R413). -/
def vendorId : Nat := 0x1F5C

/-- The device ID of a function (R413): function 0 is the PF, and functions 1 to 256 the VFs. -/
def deviceId (fn : Nat) : Nat := if fn = 0 then 0xD800 else 0xD801

/-- The class code of every function (R413): a processing accelerator. -/
def classCode : Nat := 0x120000

/-- TotalVFs, InitialVFs, First VF Offset and VF Stride of the PF's SR-IOV (R413). -/
def sriovFields : Nat × Nat × Nat × Nat := (256, 256, 1, 1)

/-- The function of a vale (R26, R413). -/
def valeFunction (vale : Nat) : Nat := vale + 1

/-- How many MSI-X vectors a function has (R413). -/
def msixVectors (fn : Nat) : Nat := if fn = 0 then 64 else 2

/-- The size of a 64-bit BAR of a function, if it has it, and whether it is prefetchable (R414). The SR-IOV VF BAR registers size those of
the VFs. -/
def barSize (fn bar : Nat) : Option (Nat × Bool) :=
  if fn = 0 then (if bar = 0 then some (2 ^ 20, false) else none)
  else if bar = 0 || bar = 2 then some (2 ^ 16, false)
  else if bar = 4 then some (2 ^ 24, true)
  else none

/-- A BAR as it takes a written address (R414): aligned to its size. -/
def barTake (fn bar : Nat) (x : DWord) : DWord :=
  match barSize fn bar with
  | some (n, _) => BitVec.ofNat 64 (x.toNat / n * n)
  | none => 0

/-- The address of a BAR of a vale's VF (R414). -/
def vfBar (s : State) (vale bar : Nat) : DWord := Tbl.cell 0 s.bars (8 * valeFunction vale + bar)

/-- What a BAR at an address reads as (R414): with the bits that say 64-bit and prefetchable, whose places are PCIe's (PRESUMED, log 119). -/
def barBits (a : DWord) (pre : Bool) : DWord := a ||| BitVec.ofNat 64 (4 + 8 * bit1 pre)

/-- What a VF BAR register of the PF's SR-IOV capability reads as (R414). -/
def vfBarRead (s : State) (bar : Nat) : DWord :=
  match barSize 1 bar with
  | none => 0
  | some (_, pre) => barBits (Tbl.cell 0 s.vfBars bar) pre

/-- What a BAR of a function reads as (R414); every unimplemented BAR reads as zero. -/
def barRead (s : State) (fn bar : Nat) : DWord :=
  match barSize fn bar with
  | none => 0
  | some (_, pre) => barBits (if fn = 0 then s.pfBar else vfBar s (fn - 1) bar) pre

/-! ## Accesses to the function's BARs -/

/-- Whether a host access to a BAR of a vale's function is performed (R433, R476, R542, R543): with the address it has on
the host link and the value written. -/
def hostAccess (s : State) (path : HostPath) (vale : Nat) (write : Bool) (bar off value : Nat) : State × Bool :=
  match s.vale? vale with
  | none => (s, false)
  | some v =>
    let addr := (vfBar s vale bar).toNat + off
    let viol (kind : Nat) : State := if write then tdiViolation s vale kind (if bar = 0 then off else 0) addr value else s
    if v.resetting || v.tdi.wiping || s.halted then (s, false)
    else match v.tdi.st with
      | .unlocked => (s, true)
      | .locked => if write then (viol 1, false) else (s, true)
      | .run => if path = .tee v.tdi.stream then (s, true) else (viol 2, false)
      | .error => (s, false)

/-! ## VD control blocks -/

/-- The writable bits of a word of VDC_n (R383). -/
def vdcMask (off : Nat) : Nat :=
  if off = 0 then 0xFFFFFF03 else if off = 8 then 0xFFFF else if off = 0x0C then 0xFFFFFF else if 0x68 ≤ off then 0 else 0xFFFFFFFF

/-- Whether a word of VDC_n is of an area field (R384, R533). -/
def vdcArea (off : Nat) : Bool := [0x18, 0x1C, 0x20, 0x28, 0x2C, 0x30, 0x34, 0x38, 0x3C, 0x40, 0x44].contains off

/-- The low bits of a base that must be zero, in its low word (R383, R533). -/
def vdcAlign (off : Nat) : Nat :=
  if off = 0x10 then 2 ^ 19 else if off = 0x18 || off = 0x28 || off = 0x30 then 2 ^ 16 else if off = 0x40 then 2 ^ 14 else 1

/-- Whether a write of VDC_n sets a reserved value (R533). -/
def vdcValueBad (off x : Nat) : Bool :=
  (decide (off = 0) && ((bitOf x 0 && decide (bitsOf x 15 8 = 0)) || decide (200 < bitsOf x 31 24))) ||
    (decide (off = 4) && decide (x ≠ 0) && (decide (x < 60000) || decide (60000000 < x))) ||
    (decide (off = 0x24) && decide (x ≠ 0) && (decide (x < 30000) || decide (6000000 < x))) ||
    (decide (off = 0x38) && decide (x % 2 = 1)) || decide (x % vdcAlign off ≠ 0)

/-- The sum of the FLOOR values of a vale's enabled VDs once VD n reads as given (R384). -/
def floorSum (v : Vale) (n : Nat) (d : Vd) : Nat :=
  (Tbl.set v.vds n d).foldl (fun a e => if e.2.en then a + e.2.reg 8 % 256 else a) 0

/-- A VDC record (R529, R533). -/
def vdcRec (vale vd off reason value : Nat) : ErrRec := schedRec cVdc 1 (some vale) (some vd) 0 reason vd (128 * vd + off) value 0

/-- Frees a VD's storage when EN is written to 0 (R384, R474, R382): its waves, blocks, jobs and commands, its generations
and cache epochs bumped, its plug-in wiped. -/
def freeVd (s : State) (vale vd : Nat) : State :=
  let s := stopVd s vale vd
  let cores := s.blocks.filterMap (fun e => if decide (e.2.vale = vale) && decide (e.2.vd = vd) then some e.2.core else none)
  let s := cores.eraseDups.foldl (fun s c => bumpGen s c vale vd) s
  let s := bumpEpochs (dropWork s vale vd) vale vd
  let s := { s with jobs := Tbl.keep (fun _ j => !(decide (j.vale = vale) && decide (j.vd = vd))) s.jobs }
  s.modVd vale vd (fun d => { Vd.fresh with vdc := d.vdc })

/-- Writes a word of VDC_n that no rule of R533 holds back (R383, R384). -/
def vdcStore (s : State) (vale vd : Nat) (d d' : Vd) : State :=
  let put (s : State) : State := s.modVd vale vd (fun d => { d with vdc := d'.vdc })
  if d.en && !d'.en then freeVd (put s) vale vd
  else if !d.en && d'.en then
    startPeriod (s.modVd vale vd (fun _ => { Vd.fresh with vdc := d'.vdc, plugin := d.plugin })) vale vd
  else if d.en then put s
  else (put s).modVd vale vd takeFields

/-- A write of a 32-bit word of VDC_n (R383, R384, R533). -/
def vdcPut (s : State) (vale vd off : Nat) (value : Word) : State :=
  match s.vale? vale, s.vd? vale vd with
  | some v, some d =>
    let x := value.toNat &&& vdcMask off
    let d' := { d with vdc := Tbl.setCell 0 d.vdc (off / 4) (BitVec.ofNat 32 x) }
    if 0x80 ≤ off || decide (off % 4 ≠ 0) || decide (0x68 ≤ off) then s
    else if decide (0x48 ≤ off) && d.plugin.isSome then s
    else if vdcValueBad off x then record s (vdcRec vale vd off 3 value.toNat)
    else if d.en && vdcArea off then (if d'.vdc = d.vdc then s else record s (vdcRec vale vd off 2 value.toNat))
    else if 256 < floorSum v vd d' then record s (vdcRec vale vd off 1 value.toNat)
    else vdcStore s vale vd d d'
  | _, _ => s

/-- A host write of a word of VDC_n. -/
def hostVdc (s : State) (path : HostPath) (vale vd off : Nat) (value : Word) : State :=
  match hostAccess s path vale true 0 (128 * vd + off) value.toNat with
  | (s, true) => vdcPut s vale vd off value
  | (s, false) => s

/-- VDC_WRITE (R384). -/
def execVdcWrite (path : HostPath) (vale vd off : Nat) (value : Word) (s : State) : Host.Outcome State Fault Refusal :=
  .next (hostVdc s path vale vd off value)

/-- VDC_EN_SET (R384): a write that sets EN from 0 to 1 creates the VD. -/
def execVdcEnSet (path : HostPath) (vale vd off : Nat) (value : Word) (s : State) : Host.Outcome State Fault Refusal :=
  .next (hostVdc s path vale vd off (if off = 0 then value ||| 1 else value))

/-- VDC_EN_CLEAR (R384): a write of EN = 0 stops a running VD and frees its storage. -/
def execVdcEnClear (path : HostPath) (vale vd off : Nat) (value : Word) (s : State) : Host.Outcome State Fault Refusal :=
  .next (hostVdc s path vale vd off (if off = 0 then value &&& ~~~1 else value))

/-! ## Posts -/

/-- A write to a post page of the wrong size or alignment, or to a reserved byte, is dropped and reported (R415, R531). -/
def postPageBad (s : State) (vale off addr : Nat) : State :=
  let q := min (off % 4096 / 8) 63
  queueFault s vale (off / 4096) q 6 addr (qPostSeen s vale (off / 4096) q)

/-- The lane of a host's accesses, by which they are known. -/
def hostLane : Nat := 32

/-- The host's writes to a function that are in flight (R415, R416). -/
def hostWrites (s : State) (vale : Nat) : List Nat :=
  (s.inflight.filter (fun e => decide (e.2.lane = hostLane) && decide (e.2.vale = vale))).map (fun e => e.1)

/-- A post by the host (R415): every host write that the link delivered to the function before it happens before it, so it waits for those
under way. -/
def hostPost (s : State) (vale idx : Nat) (x : DWord) : State :=
  tryPosts (s.modVale vale (fun v => { v with hostPosts := v.hostPosts ++ [(idx, x, hostWrites s vale)] }))

/-- HOST_POST_WRITE (R415, R531): a post at SYSTEM scope, or a write that is dropped. -/
def execHostPostWrite (path : HostPath) (vale off bytes : Nat) (value : DWord) (s : State) : Host.Outcome State Fault Refusal :=
  .next (match hostAccess s path vale true 2 off value.toNat with
    | (s, false) => s
    | (s, true) =>
      let n := off / 4096
      let o := off % 4096
      let addr := (vfBar s vale 2).toNat + off
      if 16 ≤ n then s
      else if bytes ≠ 8 || decide (o % 8 ≠ 0) || decide (0x200 ≤ o) then postPageBad s vale off addr
      else if o / 8 = 63 then queueFault s vale n 63 8 addr (qPostSeen s vale n 63)
      else hostPost s vale (64 * n + o / 8) value)

/-! ## Staging apertures -/

/-- The IPA an offset of a vale's BAR4 maps to, while its aperture is enabled (R416, R417). -/
def apertureIpa (v : Vale) (off : Nat) : Option Nat :=
  let r := (Tbl.cell (0 : DWord) v.stage (off / 2 ^ 20)).toNat
  if bitOf r 0 then some (bitsOf r 46 20 * 2 ^ 20 + off % 2 ^ 20) else none

/-- The places of an IPA through a leaf that permits the access, and how far they reach (R415, R416): lines of memory, post words, and 16 bytes
of the control window or of another package. -/
def ipaPlace (s : State) (v : Vale) (l : Leaf) (ipa : Nat) : Option (Target × Nat) :=
  match place s v (l.addr ipa) with
  | some (.mem k) => some (.mem k, 128 - ipa % 128)
  | some (.control o) =>
    if l.mt ≠ 2 then none
    else if postIpa ≤ ipa && decide (ipa < postIpa + 65536) then some (.post (ipa - postIpa), 8 - ipa % 8)
    else some (.control o, 16 - ipa % 16)
  | some t => some (t, 16 - ipa % 16)
  | none => none

/-- Where n bytes from an IPA of a vale lie (R416), cut where their places end; none where stage 2 does not permit the access. -/
def ipaPlaces (s : State) (v : Vale) (write : Bool) : Nat → Nat → Nat → Option (List (Target × Nat))
  | 0, _, n => if n = 0 then some [] else none
  | fuel + 1, ipa, n =>
    if n = 0 then some []
    else match stage2 s v ipa with
      | .error _ => none
      | .ok l =>
        if write && !l.w then none
        else match ipaPlace s v l ipa with
          | none => none
          | some (t, m) => (ipaPlaces s v write fuel (ipa + min n m) (n - min n m)).map (fun r => (t, min n m) :: r)

/-- The places an aperture access reaches, or none when it is dropped (R416). -/
def aperturePieces (s : State) (v : Vale) (off n : Nat) (write : Bool) : Option (List (Target × Nat)) :=
  match apertureIpa v off with
  | none => none
  | some ipa => match ipaPlaces s v write (n / 8 + 2) ipa n with
    | none => none
    | some ps =>
      let qcb (p : Target × Nat) : Bool := match p.1 with
        | .mem k => (unitsOf 128 k p.2).any (fun j => isQcbKey s v (128 * j))
        | _ => false
      if write && ps.any qcb then none else some ps

/-- The record of a dropped aperture access (R531). -/
def apertureDropped (s : State) (vale off : Nat) : State :=
  queueFault s vale (off / 2 ^ 20) (off / 2 ^ 20) 7 ((vfBar s vale 4).toNat + off) 0

/-- Whether an aperture's read must wait: at a home (R108, R130, R156), or for an earlier write of its bytes (R137). -/
def apertureWaits (s : State) (v : Vale) (ps : List (Target × Nat)) : Bool :=
  ps.any (fun p => readWaits s v.die p.1 p.2 || ownPending s 0 s.nextId p.1 p.2 false true)

/-- A write of an aperture to one place (R416): it enters the memory pipeline as a relaxed store at SYSTEM scope for the VD. Part of a post word
is no post: it is dropped as a host's is (R415; DEDUCED, log 116). -/
def aperturePut (s : State) (v : Vale) (vale vd ipa : Nat) (t : Target) (bs : List Byte) : State :=
  let page := ipaPage s v ipa
  let a : Access := { wave := 0, blk := 0, job := 0, vale := vale, vd := vd, core := v.scalarUnit, pos := ⟨0, none⟩, lane := hostLane, target := t
                      va := BitVec.ofNat 64 ipa, op := .store bs, ord := 0, scope := 5, ipa := some ipa, lg := 16, nc := page.1, dev := page.2
                      hint := 0, isCnt := false, sent := false }
  match t with
  | .post o => if bs.length = 8 && decide (o % 4096 < 512) then issueAccess s a else postPageBad s vale o ipa
  | _ => issueAccess s a

/-- APERTURE_WRITE (R416): a relaxed store at SYSTEM scope that acts for VD n. -/
def execApertureWrite (path : HostPath) (vale off : Nat) (data : List Byte) (s : State) : Host.Outcome State Fault Refusal :=
  .next (match hostAccess s path vale true 4 off (natLE (data.take 8)) with
    | (s, false) => s
    | (s, true) =>
      match s.vale? vale with
      | none => s
      | some v =>
        let n := off / 2 ^ 20
        if 16 ≤ n then s
        else match aperturePieces s v off data.length true, apertureIpa v off with
          | some ps, some ipa =>
            (ps.foldl (fun (x : State × List Byte × Nat) p =>
              (aperturePut x.1 v vale n x.2.2 p.1 (x.2.1.take p.2), x.2.1.drop p.2, x.2.2 + p.2)) (markIpas s v ipa data.length true, data, ipa)).1
          | _, _ => apertureDropped s vale off)

/-- The reader of an aperture, whose answers from another package are kept under this number. -/
def apertureTag (n : Nat) : Nat := 2 ^ 64 + n

/-- Reads one place of an aperture access (R416): the bytes and whether they are poisoned; a read of another package is sent, and its
answer awaited (R154). -/
def apertureGet (s : State) (v : Vale) (vale vd : Nat) (t : Target) (n : Nat) : State × Got (List Byte × Bool) :=
  match t with
  | .mem k =>
    let s := mergeKnown (recallBytes s k n) v.die (dieOfKey k)
    (s, .ok (seenBytes s v.die k n, diePoisoned s v.die k n))
  | .remote pa => match engAnswer s (scalarCore s vale) (apertureTag vd) pa with
    | none => (engAsk s (scalarCore s vale) (apertureTag vd) vale vd 0 (some (pa / 16 * 16)), .wait none)
    | some a => match a.fault with
      | some (c, r) => (s, .fault ⟨c, r, BitVec.ofNat 64 pa⟩)
      | none => (s, .ok ((a.bytes.drop (pa % 16)).take n, a.bad))
  | t =>
    let r := elseBytes s vale t n
    (r.1, .ok (r.2, false))

/-- Reads the places of an aperture access in order; every read of another package is sent before the first answer is awaited. -/
def apertureGather (v : Vale) (vale vd : Nat) : List (Target × Nat) → State → State × Got (List Byte × Bool)
  | [], s => (s, .ok ([], false))
  | p :: ps, s =>
    match apertureGet s v vale vd p.1 p.2 with
    | (s, .ok (bs, bad)) => (match apertureGather v vale vd ps s with
      | (s, .ok (cs, b)) => (s, .ok (bs ++ cs, bad || b))
      | x => x)
    | (s, .fault f) => (s, .fault f)
    | (s, .wait a) => ((apertureGather v vale vd ps s).1, .wait a)

/-- What a host read that is not performed is answered with (R433, R543): Unsupported Request in RUN, all ones otherwise. -/
def readRefused (s : State) (vale n : Nat) : Reply :=
  if ((s.vale? vale).map (fun v => decide (v.tdi.st = .run))).getD false then .unsupported else .bytes ((natsFrom 0 n).map (fun _ => 0xFF))

/-- APERTURE_READ (R416): a relaxed load; all ones when it is dropped. One whose read of another package fails is dropped (DESIGN CHOICE,
log 116). -/
def execApertureRead (path : HostPath) (vale off n : Nat) (s : State) : Host.Outcome State Fault Refusal :=
  .next (
    let ones : List Byte := (natsFrom 0 n).map (fun _ => 0xFF)
    match hostAccess s path vale false 4 off 0 with
    | (s, false) => { s with reply := readRefused s vale n }
    | (s, true) =>
      match s.vale? vale with
      | none => { s with reply := .bytes ones }
      | some v =>
        let vd := off / 2 ^ 20
        if 16 ≤ vd then { s with reply := .bytes ones }
        else match aperturePieces s v off n false with
          | some ps =>
            if apertureWaits s v ps then s
            else match apertureGather v vale vd ps (markIpas s v ((apertureIpa v off).getD 0) n false) with
              | (s, .wait _) => s
              | (s, .fault _) => { apertureDropped (engForget s (scalarCore s vale) (apertureTag vd)) vale off with reply := .bytes ones }
              | (s, .ok (bs, bad)) => { engForget s (scalarCore s vale) (apertureTag vd) with reply := if bad then .poisoned bs else .bytes bs }
          | none => { apertureDropped s vale off with reply := .bytes ones })

/-! ## Host reads of registers and post words -/

/-- A host read of n bytes of a vale's BAR0 or BAR2 (R415, R417, R433): registers, and post words; reserved bytes of a post page are free.
A read is no event of the opcode table: it changes nothing but what the link answers. -/
def hostRead (s : State) (path : HostPath) (vale bar off n : Nat) : State :=
  match hostAccess s path vale false bar off 0, s.vale? vale with
  | (s, true), some v =>
    if bar = 2 then let r := postBytes s vale off n; { r.1 with reply := .bytes r.2 }
    else { s with reply := .bytes ((natsFrom off n).map (fun o => (windowWord s vale v (o / 4 * 4)).extractLsb' (8 * (o % 4)) 8)) }
  | (s, _), _ => { s with reply := readRefused s vale n }

/-- A host read of n bytes of the PF's BAR0 (R414, R443): the management window. -/
def pfRead (s : State) (off n : Nat) : State :=
  { s with reply := .bytes ((natsFrom off n).map (fun o => (managementWord s (o / 4 * 4)).extractLsb' (8 * (o % 4)) 8)) }

end Sys2Proof.Machine
end

