-- ==== Sys2Proof/Machine/Inval.lean ====
section
/-! DEFINITION. Invalidations (R127, R128, R524) and page migrations (R129 to R131, R525), with the events
INVALIDATION_COMPLETE and MIGRATION_DONE. -/
namespace Sys2Proof.Machine

/-! ## Invalidations -/

/-- Requests an invalidation of addresses lo up to hi, of a VD's stage 1 or of the vale's stage 2 (R128). -/
def requestInval (s : State) (vale : Nat) (vd : Option Nat) (lo hi : Nat) (pf : Bool) (mig : Option Nat) : State :=
  let (id, s) := s.fresh
  { s with invals := Tbl.set s.invals id { vale := vale, vd := vd, lo := lo, hi := hi, pf := pf, purged := false, accesses := [], mig := mig } }

/-- Whether an invalidation concerns a VD. -/
def Inval.covers (i : Inval) (vale vd : Nat) : Bool := decide (i.vale = vale) && (match i.vd with
  | some d => decide (d = vd)
  | none => true)

/-- Whether an address of n bytes lies in an invalidation's range. -/
def Inval.range (i : Inval) (a n : Nat) : Bool := decide (a < i.hi) && decide (i.lo < a + n)

/-- Whether the page of an address lies in an invalidation's range (R128). -/
def Inval.pageRange (i : Inval) (a lg : Nat) : Bool := i.range (a / 2 ^ lg * 2 ^ lg) (2 ^ lg)

/-- Whether a task holds buffered stores on a page an invalidation covers (R524). -/
def Inval.spills (i : Inval) (t : Task) : Bool :=
  !t.irrev && t.lines.any (fun l => l.2.pages.any (fun p => i.pageRange (if i.pf then p.2.1 else p.1) p.2.2))

/-- The jobs whose tasks hold buffered stores on a page an invalidation covers (R524). -/
def spilling (s : State) (i : Inval) : List (Nat × Nat) :=
  s.jobs.flatMap (fun e =>
    if i.covers e.2.vale e.2.vd then
      match e.2.ord with
      | some o => (o.tasks.filter (fun t => i.spills t.2)).map (fun t => (e.1, t.1))
      | none => []
    else [])

/-- A task that holds buffered stores is aborted; the frontier becomes irrevocable (R524). -/
def settleTask (s : State) (p : Nat × Nat) : State :=
  match (orderedOf s p.1).bind (fun o => Tbl.get o.tasks p.2) with
  | none => s
  | some t =>
    if t.irrev || t.lines.isEmpty then s
    else if isFrontier s p.1 p.2 then (if lockReady s p.1 p.2 false then makeIrrevocable s p.1 p.2 else s)
    else abortTask s p.1 p.2

/-- Whether a lane's part of a load used a translation in the range. -/
def Inval.usedBy (i : Inval) (r : LaneReq) : Bool :=
  match r.target, i.pf with
  | .mem _, false => i.pageRange r.va.toNat r.lg
  | .mem _, true => (match r.ipa with
    | some a => i.pageRange a r.lg
    | none => true)
  | .remote _, false => i.pageRange r.va.toNat r.lg
  | .remote _, true => true
  | _, _ => false

/-- Whether a target is locked by the migration an invalidation belongs to (R130): the writes that wait there are translated again,
or go to the new copy already (R161). -/
def Inval.relocates (i : Inval) (s : State) (t : Target) : Bool :=
  match i.mig, t with
  | some m, .mem k => (match Tbl.get s.migrations m with
    | some x => x.runs.any (fun r => (decide (r.1 ≤ k) && decide (k < r.1 + r.2.2)) || (decide (r.2.1 ≤ k) && decide (k < r.2.1 + r.2.2)))
    | none => false)
  | _, _ => false

/-- The accesses that used a translation in the range and have not completed (R128). -/
def usersOf (s : State) (i : Inval) : List Nat :=
  let acc := s.inflight.filter (fun e => i.covers e.2.vale e.2.vd && !i.relocates s e.2.target &&
    (if i.pf then (match e.2.ipa with
        | some a => i.pageRange a e.2.lg
        | none => true) else i.pageRange e.2.va.toNat e.2.lg))
  let lds := s.waves.flatMap (fun e => if i.covers e.2.vale e.2.vd then
      e.2.outst.filterMap (fun o => match o.op with
        | .load op => if op.lanes.any (fun r => i.usedBy r && !(op.atom.isSome && i.relocates s r.target)) then some o.id else none
        | _ => none)
    else [])
  acc.map (fun e => e.1) ++ lds

/-- Whether an access or load has not completed. -/
def stillThere (s : State) (id : Nat) : Bool :=
  (Tbl.get s.inflight id).isSome || s.waves.any (fun e => e.2.outst.any (fun o => decide (o.id = id)))

/-- Drops the translations of an invalidation from every TLB, and the words cached under them (R127, R128). -/
def purge (s : State) (i : Inval) : State :=
  let hitTlb (e : TlbEntry) : Bool := i.covers e.vale e.vd && i.range ((if i.pf then e.ipa else e.page * 2 ^ e.lg)) (2 ^ e.lg)
  let hitWord (e : CachedWord) : Bool := i.covers e.vale e.vd && (i.pf || i.pageRange e.addr e.lg)
  let s := dropTlbs s hitTlb
  { s with cores := Tbl.mapVals (fun _ c =>
      { c with icache := c.icache.filter (fun e => !hitWord e), ccache := c.ccache.filter (fun e => !hitWord e) }) s.cores }

/-- The failed reads of a VD, or of every VD of the vale, are tried again (R549). -/
def readsAgain (s : State) (vale : Nat) (vd : Option Nat) : State :=
  match vd, s.vale? vale with
  | some d, _ => releaseReads s vale d (fun _ => true)
  | none, some v => v.vds.foldl (fun s e => releaseReads s vale e.1 (fun _ => true)) s
  | none, none => s

/-- Ends an invalidation: its request completes, or its migration goes on. -/
def endInval (s : State) (idx : Nat) (i : Inval) : State :=
  let s := { s with invals := Tbl.erase s.invals idx }
  match i.mig with
  | some m => { s with migrations := Tbl.modify s.migrations m (fun x => { x with step := 4 }) }
  | none =>
    let s := readsAgain s i.vale i.vd
    if i.pf then pfDone s 0 none else endCommand s i.vale 0

/-- INVALIDATION_COMPLETE (R128, R524): once no buffered store of a task stands in the way, the TLBs drop the translation;
the request completes when every access that used it has. -/
def execInvalidationComplete (idx : Nat) (s : State) : Host.Outcome State Fault Refusal :=
  .next (match Tbl.get s.invals idx with
    | none => s
    | some i =>
      let s := (spilling s i).foldl settleTask s
      if (spilling s i).isEmpty then
        let i := if i.purged then i else { i with purged := true, accesses := usersOf s i }
        let s := purge { s with invals := Tbl.set s.invals idx i } i
        if i.accesses.any (stillThere s) then s else endInval s idx i
      else s)

/-! ## Migrations -/

/-- Matches the pieces of the old and the new page. -/
def zipPieces : List (Nat × Nat) → List (Nat × Nat) → List (Nat × Nat × Nat)
  | (a, n) :: t, (b, _) :: u => (a, b, n) :: zipPieces t u
  | _, _ => []

/-- What a MIGRATE comes to before it begins (R525, R540): the migration, or the request's result. -/
def planMigration (s : State) (vale vd va newIpa : Nat) : Except (BitVec 8) Migration :=
  match s.vale? vale, s.vd? vale vd with
  | some v, some d =>
    if (s.migrations.filter (fun m => decide (m.2.vale = vale))).length ≥ 16 then .error 0x0D
    else match stage1 s v d va with
      | .error _ => .error 0x0C
      | .ok l =>
        let n := 2 ^ l.lg
        if va % n ≠ 0 || decide (newIpa % n ≠ 0) then .error 0x0C
        else match ipaPieces s v false (n / 4096 + 2) l.out n, ipaPieces s v false (n / 4096 + 2) newIpa n with
          | .error _, _ => .error 0x0C
          | _, .error _ => .error 0x0D
          | .ok a, .ok b => .ok { vale := vale, vd := vd, va := va, lg := l.lg, newIpa := newIpa, leaf := l.entry, runs := zipPieces a b, step := 0 }
  | _, _ => .error 0x02

/-- Copies one run of bytes with its poison (R129, R514); memory is listed sparsely, so the new run is cleared first, and cached lines of the
new run are encoded anew (R117) under what the page, if one names them, says of them, and no L1 keeps what the run held before (R161). -/
def copyRun (nc : Option Bool) (s : State) (r : Nat × Nat × Nat) : State :=
  let src := s.mem.filter (fun c => decide (r.1 ≤ c.1) && decide (c.1 < r.1 + r.2.2))
  let bad := s.poison.filter (fun j => decide (r.1 ≤ 32 * j) && decide (32 * j < r.1 + r.2.2))
  let s := { s with mem := Tbl.keep (fun k _ => !(decide (r.2.1 ≤ k) && decide (k < r.2.1 + r.2.2))) s.mem
                    poison := s.poison.filter (fun j => !(decide (r.2.1 ≤ 32 * j) && decide (32 * j < r.2.1 + r.2.2))) }
  let s := { s with mem := src.foldl (fun m c => setMemByte m (r.2.1 + (c.1 - r.1)) c.2) s.mem }
  let s := poisonSectors s (bad.map (fun j => (r.2.1 + (32 * j - r.1)) / 32))
  let anew (l : L2Line) : L2Line :=
    if r.2.1 < 128 * l.line + 128 && decide (128 * l.line < r.2.1 + r.2.2) then { l with old := [], dirty := 0, nc := nc.getD l.nc }.encode (memBytes s (128 * l.line) 128) else l
  { s with
    glens := Tbl.mapVals (fun _ g => { g with l2 := g.l2.map anew }) s.glens
    cores := Tbl.mapVals (fun _ c => { c with l1 := c.l1.filter (fun e => !(decide (r.2.1 ≤ 32 * e.sector) && decide (32 * e.sector < r.2.1 + r.2.2))) }) s.cores }

/-- Whether the vale still holds every line of a migration's old and new page (R32). -/
def runsThere (s : State) (vale : Nat) (runs : List (Nat × Nat × Nat)) : Bool :=
  runs.all (fun r => lineThere s vale (r.1 / 128) && lineThere s vale (r.2.1 / 128))

/-- Accesses that waited at a locked line are translated again and go to the new copy (R130). -/
def retarget (s : State) (runs : List (Nat × Nat × Nat)) : State :=
  let tgt (t : Target) : Target := match t with
    | .mem k => .mem (movedKey runs k)
    | t => t
  let lane (r : LaneReq) : LaneReq := { r with target := tgt r.target }
  let op (o : OutOp) : OutOp := match o with
    | .load x => .load { x with lanes := x.lanes.map lane }
    | o => o
  { s with
    inflight := Tbl.mapVals (fun _ a => { a with target := tgt a.target }) s.inflight
    updates := s.updates.map (fun u => if u.applied then u else { u with key := movedKey runs u.key, home := dieOfKey (movedKey runs u.key) })
    waves := Tbl.mapVals (fun _ w => { w with outst := w.outst.map (fun o => { o with op := op o.op }) }) s.waves
    cores := Tbl.mapVals (fun _ c => { c with cmds := Tbl.mapVals (fun _ m => { m with held := m.held.map (fun j => movedKey runs (128 * j) / 128) }) c.cmds }) s.cores
    blocks := Tbl.mapVals (fun _ b => { b with rows := Tbl.mapVals (fun _ r => { r with line := movedKey runs (128 * r.line) / 128 }) b.rows }) s.blocks }

/-- Whether an engine holds a line of a migration's page (R129 step 1). -/
def pageHeld (s : State) (runs : List (Nat × Nat × Nat)) : Bool :=
  s.cores.any (fun c => c.2.cmds.any (fun m => m.2.held.any (fun j =>
    runs.any (fun r => decide (r.1 ≤ 128 * j) && decide (128 * j < r.1 + r.2.2)))))

/-- The lines of a migration's page that mapped rows name. -/
def pageRows (s : State) (runs : List (Nat × Nat × Nat)) : List Nat :=
  (s.blocks.flatMap (fun e => e.2.rows.map (fun r => r.2.line))).eraseDups.filter (fun j =>
    runs.any (fun r => decide (r.1 ≤ 128 * j) && decide (128 * j < r.1 + r.2.2)))

/-- Recalls the mapped rows of a migration's page (R129 step 1). -/
def recallPage (s : State) (runs : List (Nat × Nat × Nat)) : State :=
  (pageRows s runs).foldl (fun s j => recallLine s j noRow noRow) s

/-- Whether a migration's page is NC at its new place: either stage says so (R126). -/
def pageNc (s : State) (v : Vale) (m : Migration) : Bool :=
  (ipaPage s v m.newIpa).1 || (match (s.vd? m.vale m.vd).map (fun d => stage1 s v d m.va) with
    | some (.ok l) => l.nc
    | _ => false)

/-- Whether the leaf of a migration may be rewritten now by an agent of the vale's die (R129 step 4, R151). -/
def leafReady (s : State) (v : Vale) (leaf : Nat) : Bool :=
  !homeWaits s (.mem leaf) 8 true && (decide (dieOfKey leaf = v.die) || crossReady s v.die (dieOfKey leaf) true leaf 8)

/-- MIGRATION_DONE (R129, R525): a migration takes its next step: rows and holds recalled, lines locked, lines copied, the
leaf rewritten and invalidated, the locks cleared. Where a split has taken a page or the leaf before the lines are copied, the command ends
as an address that does not translate (R32; DESIGN CHOICE, log 112). -/
def execMigrationDone (idx : Nat) (s : State) : Host.Outcome State Fault Refusal :=
  .next (match Tbl.get s.migrations idx with
    | none => s
    | some m =>
      let go (s : State) (n : Nat) : State := { s with migrations := Tbl.modify s.migrations idx (fun x => { x with step := n }) }
      if s.halted then s
      else match m.step with
        | 0 => if pageHeld s m.runs || (pageRows s m.runs).any (fun j => recallWaits s j noRow noRow) then s else go (recallPage s m.runs) 2
        | 2 => if !runsThere s m.vale m.runs || !lineThere s m.vale (m.leaf / 128) then
            endCommand { s with migrations := Tbl.erase s.migrations idx } m.vale 0x0C
          else match s.vale? m.vale with
          | none => s
          | some v =>
          if !leafReady s v m.leaf then s else
          let s := recallLine (m.runs.foldl (copyRun (some (pageNc s v m))) s) (m.leaf / 128) noRow noRow
          let e := memNat s m.leaf 8
          let s := l2Write s m.vale m.vd m.leaf (bytesLE 8 (e % 65536 + m.newIpa / 65536 * 65536 + e / 2 ^ 60 * 2 ^ 60)) 0 false false
          let s := crossNow s v.die m.leaf true
          go (requestInval s m.vale (some m.vd) m.va (m.va + 2 ^ m.lg) false (some idx)) 3
        | 4 =>
          let s := retarget { s with migrations := Tbl.erase s.migrations idx } m.runs
          let s := s.modVd m.vale m.vd (fun d => if d.ckseq = 0 then d else { d with migrated := d.migrated ++ m.runs })
          endCommand s m.vale 0
        | _ => s)

end Sys2Proof.Machine
end

