-- ==== Sys2Proof/Machine/ValeCmd.lean ====
section
/-! DEFINITION. The command block of a vale's control window (R418, R540): S1INV, MIGRATE, CUT, ROLLBACK, SWITCHOUT, STATCLR,
QCBWR, FWWAVE, PLUGIN. -/
namespace Sys2Proof.Machine

/-- Argument register n of a command (R418). -/
def argAt (args : List DWord) (n : Nat) : Nat := (args.getD n 0).toNat

/-- The argument registers of a command's start. -/
def argList (a : CmdArgs) : List DWord := [a.arg0, a.arg1, a.arg2, a.arg3, a.arg4, a.arg5]

/-! ## The commands -/

/-- S1INV (R128). -/
def runS1inv (s : State) (vale vd : Nat) (args : List DWord) : State :=
  let va := argAt args 0
  let n := argAt args 1
  if n = 0 then requestInval s vale (some vd) 0 (2 ^ 57) false none
  else requestInval s vale (some vd) va (va + n) false none

/-- MIGRATE (R129, R525): it completes at step 5. -/
def runMigrate (s : State) (vale vd : Nat) (args : List DWord) : State :=
  match planMigration s vale vd (argAt args 0) (argAt args 1) with
  | .error r => endCommand s vale r
  | .ok m =>
    let (id, s) := s.fresh
    { s with migrations := Tbl.set s.migrations id m }

/-- CUT (R406, R540). -/
def runCut (s : State) (vale vd : Nat) (args : List DWord) : State :=
  match s.vd? vale vd with
  | none => endCommand s vale 0x0A
  | some d =>
    if !d.en || d.stopReq.isSome || d.vdStopped || d.cut.isSome || decide (argAt args 0 < s.tod.toNat + 64) then endCommand s vale 0x0A
    else endCommand (s.modVd vale vd (fun d => nameCut d (argAt args 0) false)) vale 0

/-- ROLLBACK (R409, R540): it completes when the rollback is done. -/
def runRollback (s : State) (vale vd : Nat) : State :=
  match s.vd? vale vd with
  | none => endCommand s vale 0x0A
  | some d =>
    if !d.en || d.image.isNone then endCommand s vale 0x0A
    else if d.rolling then s
    else beginRollback s vale vd none

/-- SWITCHOUT (R395). -/
def runSwitchout (s : State) (vale vd : Nat) : State := endCommand (switchOut s vale vd) vale 0

/-- STATCLR (R418, R419): bit w of ARG0 clears STATS word w. -/
def runStatclr (s : State) (vale vd : Nat) (args : List DWord) : State :=
  let m := argAt args 0
  if 64 ≤ m then endCommand s vale 0x01
  else endCommand (s.modVd vale vd (fun d => { d with stats := Tbl.keep (fun k _ => if k < 8 then decide (6 ≤ k) || !bitOf m k else !bitOf m (k % 4)) d.stats })) vale 0

/-- Whether a queue is IDLE and holds no card consumed and not retired (R387). -/
def queueIdle (s : State) (vale vd q : Nat) : Bool :=
  let x := s.queue? vale vd q
  decide (x.stage = .none) && decide (x.running = []) && decide (qConsume s vale vd q = qRetire s vale vd q) &&
    decide (queueState s vale vd q (stateMayStart s vale vd q) = 0)

/-- Whether an address of a QCB image is 8-byte aligned and translates (R387): memory, or a post word. -/
def qcbAddrOk (s : State) (v : Vale) (ipa : Nat) : Bool :=
  decide (ipa % 8 = 0) && ((postIndex ipa).isSome || (match stage2 s v ipa with
    | .ok l => (place s v (l.addr ipa)).isSome
    | .error _ => false))

/-- The RESULT of a QCBWR for an image (R387, R540). -/
def qcbCheck (s : State) (v : Vale) (vale vd q : Nat) (bs : List Byte) : BitVec 8 :=
  let w (o n : Nat) : Nat := natLE ((bs.drop o).take n)
  if !queueIdle s vale vd q then 0x0A
  else if w 0 2 ≠ 1 then 0x0B
  else if !roHalfOk bs || decide (bitsOf (w 0 4) 19 16 ≠ vd) || decide (bitsOf (w 0 4) 25 20 ≠ q) then 0x01
  else if !qcbAddrOk s v (w 0x20 8) || !qcbAddrOk s v (w 0x28 8) || !qcbAddrOk s v (w 0x30 8) then 0x0C
  else 0

/-- QCBWR (R387): publishes a checked image as a queue's read-only half, and a failed read of its post word is tried again (R549); it has no
job or block whose reads could have failed. -/
def runQcbwr (s : State) (vale vd : Nat) (args : List DWord) : State :=
  let q := argAt args 0
  let ipa := argAt args 1
  match s.vale? vale, s.vd? vale vd with
  | some v, some d =>
    if 64 ≤ q then endCommand s vale 0x01
    else if ipa % 128 ≠ 0 then endCommand s vale 0x0C
    else if ipaWaits s vale ipa 128 false || qcbWaits s vale vd q then s
    else match ipaRead s v ipa 128 with
      | .error _ => endCommand s vale 0x0C
      | .ok bs =>
        let r := qcbCheck s v vale vd q bs
        let s := markRead s vale ipa 128
        if r ≠ 0 then endCommand s vale r
        else match ipaWrite s vale vd (qcbIpa d q) bs with
          | none => endCommand s vale 0x0C
          | some s => endCommand (releaseReads s vale vd (fun k => decide (k = 3 * q))) vale 0
  | _, _ => endCommand s vale 0x02

/-- A free handler slot of a vale's lowest glen (R273, R466): the lowest core. A FENCED glen places no work (R29). -/
def fwSlot (s : State) (v : Vale) : Option Nat :=
  if glenFenced s v.first then none else (natsFrom (16 * v.first) 16).find? (fun c => ((s.core? c).handler).isNone)

/-- Whether a firmware wave of a vale runs. -/
def fwRuns (s : State) (vale : Nat) : Bool := s.waves.any (fun e => decide (e.2.vale = vale) && decide (e.2.kind = .firmware))

/-- Launches the firmware wave of a FWWAVE command once a handler slot is free (R273, R418, R466). -/
def launchFw (s : State) (vale : Nat) : State :=
  match s.vale? vale with
  | none => s
  | some v =>
    if !v.cmd.busy || decide (v.cmd.op ≠ 8) || fwRuns s vale then s
    else if !vdIssues s vale v.cmd.vd.toNat then s
    else match fwSlot s v with
      | none => s
      | some c =>
        let (id, s) := s.fresh
        let w := freshWave .firmware vale v.cmd.vd.toNat 0 0 0 c 0xFF 0 4 (v.cmd.held.getD 0 0)
        let w := (natsFrom 0 4).foldl (fun (w : Wave) j =>
          let x := v.cmd.held.getD (j + 1) 0
          (w.wrS (2 * j) (loWord x)).wrS (2 * j + 1) (hiWord x)) { w with lastIssue := s.turns }
        (dropL1 { s with waves := Tbl.set s.waves id w } c vale v.cmd.vd.toNat).modCore c (fun x => { x with handler := some id })

/-- FWWAVE (R273, R418): it completes when its wave ends. -/
def runFwwave (s : State) (vale vd : Nat) (args : List DWord) : State :=
  match s.vd? vale vd with
  | none => endCommand s vale 0x0A
  | some d =>
    if !d.en then endCommand s vale 0x0A
    else if argAt args 0 % 4 ≠ 0 then endCommand s vale 0x0C
    else launchFw s vale

/-- Whether a plug-in image is accepted (R382). -/
def pluginAccepted (d : Vd) (bs : List Byte) : Bool :=
  let key := natLE ((natsFrom 18 8).flatMap (fun j => bytesLE 4 (Tbl.cell (0 : Word) d.vdc j).toNat))
  decide (key ≠ 0) && decide ((imageKey bs).toNat = key) && imageForm bs 6 && decide (bs.length ≤ 256 + 65536) && decide (headField bs 0x10 8 < 65536)

/-- PLUGIN (R382, R540). -/
def runPlugin (s : State) (vale vd : Nat) (args : List DWord) : State :=
  let a := argAt args 0
  let n := argAt args 1
  match s.vale? vale, s.vd? vale vd with
  | some v, some d =>
    if !d.en then endCommand s vale 0x0A
    else if a = 0 then endCommand (s.modVd vale vd (fun d => { d with plugin := none })) vale 0
    else if a % 4096 ≠ 0 then endCommand s vale 0x0C
    else if 256 + 65536 < n then endCommand s vale 0x11
    else if ipaWaits s vale a n false then s
    else match ipaRead s v a n with
      | .error _ => endCommand s vale 0x0C
      | .ok bs =>
        let s := markRead s vale a n
        if ipaPoisoned s v a n || !pluginAccepted d bs then endCommand s vale 0x11
        else endCommand (s.modVd vale vd (fun d => { d with plugin := some bs })) vale 0
  | _, _ => endCommand s vale 0x02

/-! ## Starting a command -/

/-- Runs the command a block holds (R418): a reserved OP completes with BADOP. -/
def runCommand (s : State) (vale op vd : Nat) (args : List DWord) : State :=
  match op with
  | 1 => runS1inv s vale vd args
  | 2 => runMigrate s vale vd args
  | 3 => runCut s vale vd args
  | 4 => runRollback s vale vd
  | 5 => runSwitchout s vale vd
  | 6 => runStatclr s vale vd args
  | 7 => runQcbwr s vale vd args
  | 8 => runFwwave s vale vd args
  | 9 => runPlugin s vale vd args
  | _ => endCommand s vale 0x01

/-- Starts a command with the arguments held (R418): a write while BUSY = 1 is ignored, and a vale that waits for its reset
does nothing (R475). -/
def startCommand (s : State) (vale op vd : Nat) (args : List DWord) : State :=
  match s.vale? vale with
  | none => s
  | some v =>
    if v.cmd.busy || v.stopped then s
    else
      let c : CmdBlock := { op := BitVec.ofNat 8 op, vd := BitVec.ofNat 4 vd, busy := true, result := 0, args := args, held := args }
      runCommand (s.modVale vale (fun v => { v with cmd := c })) vale (op % 256) (vd % 16) args

/-- A host's command: its arguments are written and OP starts it. -/
def hostCommand (s : State) (vale op vd : Nat) (a : CmdArgs) : State :=
  match hostAccess s a.path vale true 0 0x900 (op + 256 * (vd % 16)) with
  | (s, true) => startCommand s vale op vd (argList a)
  | (s, false) => s

/-- S1INV (R128, R418). -/
def execS1inv (vale vd : Nat) (a : CmdArgs) (s : State) : Host.Outcome State Fault Refusal := .next (hostCommand s vale 1 vd a)
/-- MIGRATE (R129, R418). -/
def execMigrate (vale vd : Nat) (a : CmdArgs) (s : State) : Host.Outcome State Fault Refusal := .next (hostCommand s vale 2 vd a)
/-- CUT (R406, R418). -/
def execCut (vale vd : Nat) (a : CmdArgs) (s : State) : Host.Outcome State Fault Refusal := .next (hostCommand s vale 3 vd a)
/-- ROLLBACK (R409, R418). -/
def execRollback (vale vd : Nat) (a : CmdArgs) (s : State) : Host.Outcome State Fault Refusal := .next (hostCommand s vale 4 vd a)
/-- SWITCHOUT (R395, R418). -/
def execSwitchout (vale vd : Nat) (a : CmdArgs) (s : State) : Host.Outcome State Fault Refusal := .next (hostCommand s vale 5 vd a)
/-- STATCLR (R418, R419). -/
def execStatclr (vale vd : Nat) (a : CmdArgs) (s : State) : Host.Outcome State Fault Refusal := .next (hostCommand s vale 6 vd a)
/-- QCBWR (R387, R418). -/
def execQcbwr (vale vd : Nat) (a : CmdArgs) (s : State) : Host.Outcome State Fault Refusal := .next (hostCommand s vale 7 vd a)
/-- FWWAVE (R273, R418). -/
def execFwwave (vale vd : Nat) (a : CmdArgs) (s : State) : Host.Outcome State Fault Refusal := .next (hostCommand s vale 8 vd a)
/-- PLUGIN (R382, R418). -/
def execPlugin (vale vd : Nat) (a : CmdArgs) (s : State) : Host.Outcome State Fault Refusal := .next (hostCommand s vale 9 vd a)

/-- A FWWAVE whose VD no longer runs completes: its wave was discarded, or cannot start (R474). -/
def dropFw (s : State) (vale : Nat) : State :=
  match s.vale? vale with
  | none => s
  | some v =>
    let dead := match Tbl.get v.vds v.cmd.vd.toNat with
      | some d => !d.en || d.stopped || v.stopped
      | none => true
    if v.cmd.busy && decide (v.cmd.op = 8) && dead && !fwRuns s vale then endCommand s vale 0x0A else s

/-- Goes on with a QCBWR or PLUGIN whose lines were held when it began (R156). -/
def retryCommand (s : State) (vale : Nat) : State :=
  match s.vale? vale with
  | none => s
  | some v =>
    if v.cmd.busy && (decide (v.cmd.op = 7) || decide (v.cmd.op = 9)) && !v.stopped then runCommand s vale v.cmd.op.toNat v.cmd.vd.toNat v.cmd.held else s

/-- What the Cols do about FWWAVE, and about commands that wait, at a tick. -/
def tickFw (s : State) : State := s.vales.foldl (fun s e => retryCommand (dropFw (launchFw s e.1) e.1) e.1) s

end Sys2Proof.Machine
end

