-- ==== Sys2Proof/Machine/PfReq.lean ====
section
/-! DEFINITION. Requests to PF firmware that change vales, leases, imports and dirty tracking (R30 to R33, R124, R128, R410,
R421, R424, R433, R436, R539 to R541). Those of a VD stand in VdMove.lean. -/
namespace Sys2Proof.Machine

/-! ## What every request checks -/

/-- The vale and VD that ARG0 names (R421), or the RESULT that refuses the request (R433, R540): a reserved bit, no such vale,
or a TDI that is not CONFIG_UNLOCKED. -/
def pfVale (s : State) (args : List DWord) : Except (BitVec 8) (Nat × Nat × Vale) :=
  let a := argAt args 0
  if 4096 ≤ a then .error 0x01
  else match s.vale? (a % 256) with
    | none => .error 0x02
    | some v => if v.tdi.st ≠ .unlocked then .error 0x06 else .ok (a % 256, a / 256, v)

/-- Runs a request of a vale, or refuses it. -/
def withVale (s : State) (args : List DWord) (f : Nat → Nat → Vale → State) : State :=
  match pfVale s args with
  | .error r => pfDone s r none
  | .ok (vale, vd, v) => f vale vd v

/-- Runs a request of a VD, or refuses it. -/
def withVd (s : State) (args : List DWord) (f : Nat → Nat → Vale → Vd → State) : State :=
  withVale s args (fun vale vd v => match Tbl.get v.vds vd with
    | some d => f vale vd v d
    | none => pfDone s 0x02 none)

/-! ## Vales -/

/-- Whether a lease that has not ended names a glen's engines (R30). -/
def glenLeased (s : State) (g : Nat) : Bool := s.leases.any (fun e => decide (e.2.glen = g) && decide (e.2.st ≠ 3))

/-- Whether a glen of a vale is idle (R30). -/
def glenIdle (s : State) (vale : Nat) (v : Vale) (g : Nat) : Bool :=
  let here (c : Nat) : Bool := decide (glenOfCore c = g)
  let saved (b : Block) : Bool := match b.st with
    | .saved _ _ _ _ => true
    | _ => false
  !s.waves.any (fun e => decide (e.2.core < 4096) && here e.2.core && !e.2.ended) &&
    !(decide (g = v.first) && s.waves.any (fun e => decide (e.2.kind = .prologue) && decide (e.2.vale = vale))) &&
    !s.blocks.any (fun e => here e.2.core && (holdsCore e.2 || (decide (e.2.st = .retired) && stepsQueued s e.1) || (saved e.2 && decide (e.2.vale = vale)))) &&
    !s.jobs.any (fun e => e.2.chunks.any (fun c => decide (c.2.glen = g) && decide (c.2.next < c.2.stop))) &&
    !(natsFrom (16 * g) 16).any (fun c => !(s.core? c).cmds.isEmpty) &&
    (s.glen? g).covq.isEmpty && (s.glen? g).encq.isEmpty && !glenLeased s g

/-- A vale as CREATE forms it (R31, R417, R418): its window at reset. -/
def newVale (first n : Nat) (conf : Bool) : Vale :=
  { first := first, n := n, conf := conf, root := 0, pthresh := 0x7530, errBase := 0, errCount := 0, errHead := 0, stage := []
    cmd := CmdBlock.fresh, posts := [], leases := (natsFrom 0 16).map (fun _ => none), vds := (natsFrom 0 16).map (fun k => (k, Vd.fresh))
    stopped := false, resetting := false, tdi := Tdi.fresh, memEnable := false, rrKey := 0, lastCe := [], hostPosts := [] }

/-- Glens join a vale (R33): they are ASSIGNED, and their memory reads as zero. -/
def joinGlens (s : State) (vale first n : Nat) : State :=
  (natsFrom first n).foldl (fun s g => s.modGlen g (fun _ => { Glen.fresh with st := 1, vale := some vale })) s

/-- What refuses a request for FREE glens (R540, R541). -/
def glensRefused (s : State) (gs : List Nat) : Option (BitVec 8) :=
  if gs.any (fun g => decide ((s.glen? g).st = 3)) then some 0x07
  else if gs.any (fun g => decide ((s.glen? g).st ≠ 0)) then some 0x03
  else none

/-- Whether the lifecycle lets a vale be created (R440): DEPLOYED, or RMA with a token. -/
def createLifecycle (s : State) : State × Bool :=
  if s.lifecycle = 2 then (s, true)
  else if s.lifecycle = 3 then ({ s with freeCount := s.freeCount + 1 }, Config.rmaToken s.freeCount)
  else (s, false)

/-- CREATE (R31, R33). -/
def runCreate (s : State) (args : List DWord) : State :=
  let a := argAt args 0
  let vale := a % 256
  let first := bitsOf a 15 8
  let n := bitsOf a 24 16
  if 2 ^ 26 ≤ a then pfDone s 0x01 none
  else if n = 0 || decide (256 < first + n) || (s.vale? vale).isSome then pfDone s 0x02 none
  else
    match createLifecycle s with
    | (s, false) => pfDone s 0x0F none
    | (s, true) => match glensRefused s (natsFrom first n) with
      | some r => pfDone s r none
      | none => pfDone (joinGlens { s with vales := Tbl.set s.vales vale (newVale first n (bitOf a 25)) } vale first n) 0 none

/-- FUSE (R31, R33): the next glens above the vale join it. -/
def runFuse (s : State) (args : List DWord) : State :=
  withVale s args (fun vale _ v =>
    let k := argAt args 1
    let gs := natsFrom (v.first + v.n) k
    if k = 0 || decide (256 < v.first + v.n + k) then pfDone s 0x02 none
    else match glensRefused s gs with
      | some r => pfDone s r none
      | none => pfDone (joinGlens (s.modVale vale (fun v => { v with n := v.n + k })) vale (v.first + v.n) k) 0 none)

/-- What a dissolved vale leaves behind: nothing of its jobs, invalidations and migrations. -/
def dissolve (s : State) (vale : Nat) : State :=
  { s with
    vales := Tbl.erase s.vales vale
    jobs := Tbl.keep (fun _ j => decide (j.vale ≠ vale)) s.jobs
    blocks := Tbl.keep (fun _ b => decide (b.vale ≠ vale)) s.blocks
    waves := Tbl.keep (fun _ w => decide (w.vale ≠ vale)) s.waves
    invals := Tbl.keep (fun _ i => decide (i.vale ≠ vale)) s.invals
    migrations := Tbl.keep (fun _ m => decide (m.vale ≠ vale)) s.migrations }

/-- SPLIT (R31, R32): the top glens leave the vale and are scrubbed; it completes with the last scrub. -/
def runSplit (s : State) (args : List DWord) : State :=
  withVale s args (fun vale _ v =>
    let k := argAt args 1
    let gs := natsFrom (v.first + v.n - k) k
    if k = 0 then pfDone s 0x02 none
    else if v.n < k then pfDone s 0x05 none
    else if gs.any (fun g => decide ((s.glen? g).st = 3)) then pfDone s 0x07 none
    else if !gs.all (glenIdle s vale v) then pfDone s 0x04 none
    else
      let s := gs.foldl (fun s g => s.modGlen g (fun _ => { Glen.fresh with st := 2 })) s
      if k = v.n then dissolve s vale else s.modVale vale (fun v => { v with n := v.n - k }))

/-- S2ROOT (R124): the root of stage 2. -/
def runS2root (s : State) (args : List DWord) : State :=
  withVale s args (fun vale _ _ =>
    let a := argAt args 1
    if a % 2 ^ 19 ≠ 0 || decide (2 ^ 60 ≤ a) then pfDone s 0x0C none
    else pfDone (s.modVale vale (fun v => { v with root := BitVec.ofNat 64 a })) 0 none)

/-- S2INV (R128): 0 bytes mean every address; it completes with the invalidation. -/
def runS2inv (s : State) (args : List DWord) : State :=
  withVale s args (fun vale _ _ =>
    let ipa := argAt args 1
    let n := argAt args 2
    if n = 0 then requestInval s vale none 0 (2 ^ 60) true none else requestInval s vale none ipa (ipa + n) true none)

/-! ## Leases -/

/-- Whether the terms of a LEASE are refused (R540): the same vale twice, a glen that is not the lender's, no cores, no time, no
rate, or a core already leased for an overlapping interval. -/
def leaseRefused (s : State) (lender borrower g cores rate start stop : Nat) : Bool :=
  decide (lender = borrower) || decide (glenVale s g ≠ some lender) || decide (cores = 0) || decide (rate = 0) || decide (stop ≤ start) ||
    decide (stop ≤ s.tod.toNat) ||
    s.leases.any (fun e => decide (e.2.st ≠ 3) && decide (e.2.glen = g) && decide (e.2.cores.toNat &&& cores ≠ 0) &&
      decide (e.2.start.toNat < stop) && decide (start < e.2.stop.toNat))

/-- The slot of a vale a new lease takes (R419): an EMPTY one, or else one whose lease has ENDED. -/
def leaseSlot (s : State) (v : Vale) : Option Nat :=
  let ended (i : Nat) : Bool := match Tbl.get s.leases i with
    | some l => decide (l.st = 3)
    | none => true
  match (natsFrom 0 16).find? (fun k => ((v.leases.getD k none).isNone)) with
  | some k => some k
  | none => (natsFrom 0 16).find? (fun k => match v.leases.getD k none with
    | some i => ended i
    | none => true)

/-- LEASE (R410): a lease is entered in the table and in a slot of each of its vales; ARG0 returns its handle. -/
def runLease (s : State) (args : List DWord) : State :=
  let a := argAt args 0
  let b := argAt args 1
  let lender := a % 256
  let borrower := bitsOf a 15 8
  let g := bitsOf a 23 16
  let cores := b % 65536
  let rate := bitsOf b 31 16
  if 2 ^ 24 ≤ a || decide (2 ^ 32 ≤ b) then pfDone s 0x01 none
  else match s.vale? lender, s.vale? borrower with
    | some x, some y =>
      if x.tdi.st ≠ .unlocked || decide (y.tdi.st ≠ .unlocked) then pfDone s 0x06 none
      else if (s.glen? g).st = 3 then pfDone s 0x07 none
      else if leaseRefused s lender borrower g cores rate (argAt args 2) (argAt args 3) then pfDone s 0x08 none
      else match (natsFrom 0 256).find? (fun i => (Tbl.get s.leases i).isNone), leaseSlot s x, leaseSlot s y with
        | some i, some p, some q =>
          let h : Word := BitVec.ofNat 32 i ||| (Config.leaseCheck s.freeCount).setWidth 32 <<< 8
          let l : Lease := { handle := h, lender := lender, borrower := borrower, glen := g, cores := BitVec.ofNat 16 cores
                             start := args.getD 2 0, stop := args.getD 3 0, rate := rate, meter := 0, st := 1, full := false, revoked := false }
          let s := { s with freeCount := s.freeCount + 1, leases := Tbl.set s.leases i l }
          let s := s.modVale lender (fun v => { v with leases := setAt v.leases p (some i) })
          let s := s.modVale borrower (fun v => { v with leases := setAt v.leases q (some i) })
          pfDone s 0 (some (h.setWidth 64))
        | _, _, _ => pfDone s 0x09 none
    | _, _ => pfDone s 0x02 none

/-- Frees an ENDED lease's entry and its slots (R539). -/
def freeLease (s : State) (i : Nat) : State :=
  let drop (v : Vale) : Vale := { v with leases := v.leases.map (fun x => if x = some i then none else x) }
  { s with leases := Tbl.erase s.leases i, vales := Tbl.mapVals (fun _ v => drop v) s.vales }

/-- REVOKE (R433, R539): of a running lease, or of an ENDED one, which frees its entry. A handle that names none ends with 0x08 (DESIGN CHOICE,
log 145). -/
def runRevoke (s : State) (args : List DWord) : State :=
  let h := argAt args 0
  if 2 ^ 32 ≤ h then pfDone s 0x01 none
  else match Tbl.first (fun _ (l : Lease) => decide (l.handle.toNat = h)) s.leases with
    | none => pfDone s 0x08 none
    | some (i, l) =>
      let held (v : Nat) : Bool := ((s.vale? v).map (fun v => decide (v.tdi.st ≠ .unlocked))).getD false
      if (held l.lender || held l.borrower) && decide (s.tod.toNat < l.stop.toNat) then pfDone s 0x06 none
      else if l.st = 3 then pfDone (freeLease s i) 0 none
      else pfDone (revokeLease s i l 1) 0 none

/-! ## Imports -/

/-- Whether an import entry reaches memory of a vale (R424, R433), in the direct or the spread window (R98, R99). -/
def importReaches (e : DWord) (v : Vale) : Bool :=
  let lo := bitsOf e.toNat 20 0 * 2 ^ 26
  let hi := lo + bitsOf e.toNat 41 21 * 2 ^ 26
  [0, 2 ^ 42].any (fun w => decide (lo < w + (v.first + v.n) * 2 ^ 33) && decide (w + v.first * 2 ^ 33 < hi))

/-- IMPORT (R424): writes an entry of the import table. -/
def runImport (s : State) (args : List DWord) : State :=
  let i := argAt args 0
  let e : DWord × DWord := (args.getD 1 0, args.getD 2 0)
  let old := (Tbl.get s.imports i).getD (0, 0)
  if 256 ≤ i then pfDone s 0x02 none
  else if 2 ^ 46 ≤ e.1.toNat || decide (2 ^ 26 ≤ e.2.toNat) then pfDone s 0x01 none
  else if s.vales.any (fun v => decide (v.2.tdi.st ≠ .unlocked) && (importReaches old.1 v.2 || importReaches e.1 v.2)) then pfDone s 0x06 none
  else pfDone { s with imports := if bitsOf e.1.toNat 41 21 = 0 then Tbl.erase s.imports i else Tbl.set s.imports i e } 0 none

/-! ## Dirty tracking -/

/-- Whether a bitmap for some pages lies in local memory at an 8-byte aligned address (R421, R436). -/
def bitmapOk (s : State) (pa pages : Nat) : Bool :=
  decide (pa % 8 = 0) && (keyOf s pa).isSome && (keyOf s (pa + (pages + 7) / 8 - 1)).isSome

/-- DIRTY_START (R436). -/
def runDirtyStart (s : State) (args : List DWord) : State :=
  withVd s args (fun vale vd _ _ =>
    let base := argAt args 1
    let pages := argAt args 2
    if pages = 0 || decide (2 ^ 24 < pages) then pfDone s 0x01 none
    else if base % 65536 ≠ 0 || !bitmapOk s (argAt args 3) pages || !bitmapOk s (argAt args 4) pages then pfDone s 0x0C none
    else pfDone (s.modVd vale vd (fun d => { d with dirty := some (base, pages, argAt args 3, argAt args 4, false) })) 0 none)

/-- DIRTY_SWAP (R436): the other bitmap becomes current, and ARG0 returns the one closed. -/
def runDirtySwap (s : State) (args : List DWord) : State :=
  withVd s args (fun vale vd _ d => match d.dirty with
    | none => pfDone s 0x0A none
    | some (base, pages, b0, b1, cur) =>
      pfDone (s.modVd vale vd (fun d => { d with dirty := some (base, pages, b0, b1, !cur) })) 0 (some (if cur then 1 else 0)))

/-- DIRTY_STOP (R436). -/
def runDirtyStop (s : State) (args : List DWord) : State :=
  withVd s args (fun vale vd _ d =>
    if d.dirty.isNone then pfDone s 0x0A none else pfDone (s.modVd vale vd (fun d => { d with dirty := none })) 0 none)

end Sys2Proof.Machine
end

