-- ==== Sys2Proof/Machine/Import.lean ====
section
/-! DEFINITION. What VD_IMPORT builds from another package's record and the pages that came with it (R437, R371, R372, R400 to R403): the jobs of
the cards its queues have taken and not retired, the ORDERED job with its tasks, and the blocks its save area holds. Where the saves lie,
and how far a job had been dealt, no record says (log 124). -/
namespace Sys2Proof.Machine

/-! ## Jobs -/

/-- The IPA of card n of a queue, if its segment is linked (R385). -/
def cardIpa (s : State) (vale vd q n : Nat) : Option Nat :=
  match readLink s vale (linkIpa s vale vd q n) false with
  | .segment g => some (g + 128 * (n % 32))
  | _ => none

/-- A task entry of an imported record (R372): SAVED only once its block is found. -/
def importTask (bs : List Byte) : Nat × Task :=
  let w := recNat bs 0x0C 4
  let parent := recNat bs 0x18 4
  (recNat bs 8 4,
    { ts := recDWord bs 0, parent := if parent = 0xFFFFFFFF then none else some parent, root := bitOf w 19, record := recWord bs 0x1C
      entry := recDWord bs 0x10, args := if bitOf w 19 then [] else (natsFrom 0 16).map (fun j => recWord bs (0x20 + 4 * j)), st := .pending
      irrev := bitOf w 20, core := 0, ways := 0, reads := [], sig := [], lines := [], fault := none })

/-- The ordered state of an imported record (R371, R437): its running maximum timestamp is that of the root tasks it holds. -/
def importOrdered (rec_ : List Byte) : Ordered :=
  let tasks := (natsFrom 0 (recNat rec_ 0x150 4)).map (fun j => importTask (rec_.drop (0x200 + 96 * j)))
  { seqNext := recNat rec_ 0x140 4, rootNext := recNat rec_ 0x144 4, tasks := tasks.foldl (fun t e => Tbl.set t e.1 e.2) [], stuck := false
    rootTs := tasks.foldl (fun m e => if e.2.root && decide (m.toNat < e.2.ts.toNat) then e.2.ts else m) 0 }

/-- Adds the job of a card that was running at the stop; a job that is not ORDERED goes on at a record no field names (R437). -/
def importJob (vale vd q : Nat) (rec_ : List Byte) (s : State) (n : Nat) : State :=
  match (cardIpa s vale vd q n).bind (fun a => (headAt s vale a false)) with
  | none => s
  | some h =>
    let (id, s) := s.fresh
    let (w, s) := s.freeW
    let cur := qcbNat s vale vd q 0xA0 8
    let ord := if cardFlag h.words 0 then some (importOrdered rec_) else none
    let j : Job := { vale := vale, vd := vd, queue := q, number := n, addr := h.addr, card := h.words
                     deadline := if cur = 0 then none else some (BitVec.ofNat 64 cur), next := w.toNat % (cardRecords h.words + 1), size := 1
                     chunks := [], ord := ord, gateBad := false }
    let s := { s with jobs := Tbl.set s.jobs id j }
    (s.modJob id (fun _ => { j with size := chunkSize s j })).modQueue vale vd q (fun x => { x with running := x.running ++ [id], prev := some id })

/-- Adds the jobs of a VD's queues: of cards taken and not retired (R386). -/
def importJobs (s : State) (vale vd : Nat) (rec_ : List Byte) : State :=
  (activeQueues s vale vd).foldl (fun s q =>
    (natsFrom (qRetire s vale vd q) (qConsume s vale vd q - qRetire s vale vd q)).foldl (importJob vale vd q rec_) s) s

/-! ## Blocks -/

/-- The commands of a wave's record (R401). -/
def importCmds (bs : List Byte) (w : Wave) : List WaitCmd :=
  let tail := 192 + 512 * recNat bs 0x04 1 + 16 * recNat bs 0x05 1
  (natsFrom 0 (recNat bs (tail + 2) 1)).map (fun k =>
    readCmd w { pos := w.pos, op := readCmdOp bs (tail + 32 + 64 * k) (.nop ⟨0, 0, 0, 0, none⟩), lane := 0, a := [], b := [] })

/-- A wave from its record (R400, R401). -/
def importWave (vale vd job blk index id : Nat) (entry : DWord) (bs : List Byte) (bad : List Nat) : Wave :=
  let w := { freshWave .ordinary vale vd job blk index 8192 0 0 (recNat bs 0x04 1) entry with pos := ⟨recDWord bs 0x08, none⟩ }
  let cs := importCmds bs w
  readWave bs bad (if cs = [] then w else { w with outst := [{ id := id, left := 0, op := .cmds cs }] })

/-- A sequencer context from a record (R403): its engines are found again as its team is claimed (R329). -/
def importSeq (bs : List Byte) (card : List Word) : Option SeqCtx :=
  (freshSeq card 0).map (fun c =>
    let n := recNat bs 0x20C 4 / 4 % 4 + 1
    let team : Team := { mode := 0, first := 0, handle := 0, engines := List.replicate n 0 }
    readSeq bs { c with team := if recNat bs 0x20C 4 % 4 = 3 then none else some team })

/-- The cluster of an imported block: that of the blocks of its job with the records about it (R41). -/
def importCluster (s : State) (job base : Nat) : Option Nat :=
  (s.blocks.find? (fun e => decide (e.2.job = job) && decide (e.2.record.toNat - e.2.rank = base))).map (fun e => e.2.cluster)

/-- The task an imported block runs: the irrevocable one of its record, if its job is ORDERED (R370). -/
def importFrontier (j : Job) (record : Word) : Option Nat :=
  (j.ord.bind (fun o => o.tasks.find? (fun e => e.2.irrev && decide (e.2.record = record)))).map (fun e => e.1)

/-- Adds the waves of an imported block from the records behind its own. -/
def importWaves (j : Job) (job blk : Nat) : List Nat → List Byte → List Nat → State → State
  | [], _, _, s => s
  | i :: t, bs, bad, s =>
    let (id, s) := s.fresh
    let w := importWave j.vale j.vd job blk i id (BitVec.ofNat 64 (card64 j.card 0x08)) bs bad
    let s := { s with waves := Tbl.set s.waves id w }
    let s := s.modBlock blk (fun b => { b with waves := b.waves ++ [id] })
    importWaves j job blk t (bs.drop (waveRecLength bs)) (badAfter bad (waveRecLength bs)) s

/-- Adds the block whose record lies at an IPA of the save area (R402), with its waves and its reservation (R405). -/
def importBlock (s : State) (v : Vale) (job : Nat) (j : Job) (a n : Nat) (bs : List Byte) : State :=
  let bad := ipaBad s v a n
  let (blk, s) := s.fresh
  let flags := recNat bs 0 4
  let rank := bitsOf (recNat bs 0x30 8) 21 18
  let record := recWord bs 0x04
  let (cl, s) : Nat × State := match importCluster s job (record.toNat - rank) with
    | some c => (c, s)
    | none =>
      let (c, s) := s.fresh
      (c, { s with clusters := Tbl.set s.clusters c { job := job, glen := v.first, members := [], phase := [], arrived := [] } })
  let task := importFrontier j record
  let b : Block :=
    { job := job, vale := j.vale, vd := j.vd, core := 16 * v.first, cluster := cl, rank := rank, record := record, tracks := [], pools := []
      stashKib := cardStash j.card, stashBase := 0, stash := [], stashPoison := [], rows := [], bars := [], waves := []
      seqCtx := if bitOf flags 23 then importSeq bs j.card else none, cov := if bitOf flags 24 then readSession bs else none
      st := .saved a (bitOf flags 26) (recDWord bs 0x10) (recDWord bs 0x18), copyHalted := false, task := task, fork := none, saveAt := some a
      preempt := false, stopTod := 0, placed := blk, accSaved := List.replicate (bitsOf (recNat bs 0x30 8) 24 22) Engine.fresh
      codeSaved := if bitOf flags 25 then some (Bank.zero, Bank.zero, false) else none }
  let s := { s with blocks := Tbl.set s.blocks blk (readBlock s.pkgId.toNat bs bad b) }
  let s := { s with clusters := Tbl.modify s.clusters cl (fun c => readCluster bs { c with members := c.members ++ [blk] }) }
  let s := s.modVd j.vale j.vd (fun d => { d with saves := (a, n) :: d.saves })
  let s := match task with
    | some q => s.modTask job q (fun t => { t with st := .saved blk })
    | none => s
  let size := blockRecLength b
  importWaves j job blk (natsFrom 0 (flags / 2 ^ 16 % 128)) (bs.drop size) (badAfter bad size) s

/-- Looks at one 128-byte place of a save area: a block record of a running card is a block saved there; what follows belongs to it. -/
def importAt (v : Vale) (vale vd : Nat) (r : State × Nat) (a : Nat) : State × Nat :=
  if a < r.2 then r
  else match ipaRead r.1 v a 128 with
    | .error _ => r
    | .ok h =>
      let waves := recNat h 0 4 / 2 ^ 16 % 128
      match r.1.jobs.find? (fun e => decide (e.2.vale = vale) && decide (e.2.vd = vd) && decide (e.2.addr = recNat h 8 8)) with
      | none => r
      | some e =>
        let n := blockSaveMax e.2.card
        if recNat h 0 2 ≠ 1 || decide (waves ≠ cardWaves e.2.card) then r
        else match ipaRead r.1 v a n with
          | .ok bs => (importBlock r.1 v e.1 e.2 a n bs, a + n)
          | .error _ => r

/-- Adds the blocks a VD's save area holds (R405, R437). -/
def importBlocks (s : State) (v : Vale) (vale vd : Nat) : State :=
  match s.vd? vale vd with
  | none => s
  | some d => ((natsFrom 0 ((saveHigh d - saveLow d) / 128)).foldl (fun r k => importAt v vale vd r (saveLow d + 128 * k)) (s, 0)).1

/-- Gives a VD what another package's record and pages say of its jobs and blocks (R437). Its waves read the VALE and VD they were placed in (R251),
which no record tells: free values (DESIGN CHOICE, log 127). -/
def restoreForeign (s : State) (v : Vale) (vale vd : Nat) (rec_ : List Byte) : State :=
  let (x, s) := s.freeW
  let s := importBlocks (importJobs s vale vd rec_) v vale vd
  let born := some (x.toNat % 256, x.toNat / 256 % 16)
  { s with waves := Tbl.mapVals (fun _ w => if w.vale = vale && decide (w.vd = vd) then { w with born := born } else w) s.waves }

end Sys2Proof.Machine
end

