-- ==== Sys2Proof/Machine/VdMove.lean ====
section
/-! DEFINITION. Requests to PF firmware that stop, move and resume a VD (R421, R437, R534, R540), PAGE_COPY, how a request
starts (R421, R438, R544), and what requests under way do at a TOD tick. -/
namespace Sys2Proof.Machine

/-! ## VD_STOP -/

/-- Ends a VD_STOP with a result. -/
def endStop (s : State) (vale vd : Nat) (r : BitVec 8) : State := pfDone (s.modVd vale vd (fun d => { d with stopReq := none })) r none

/-- The resident blocks of a VD. -/
def residentBlocks (s : State) (vale vd : Nat) : List (Nat × Block) := (coreBlocks s vale vd).filter (fun e => decide (e.2.st = .resident))

/-- Whether the saves of a VD's resident blocks fit its save area (R405). -/
def stopFits (s : State) (vale vd : Nat) : Bool := savesFit s vale vd (residentBlocks s vale vd)

/-- VD_STOP completes with SPACE and stops nothing (R405), with the VDC record of its episode. -/
def stopNoSpace (s : State) (vale vd : Nat) : State :=
  let n := (residentBlocks s vale vd).foldl (fun n e => n + blockSaveMax (s.cardOf e.2.job)) 0
  endStop (reserveSave s vale vd n 0).1 vale vd 0x10

/-- VD_STOP (R437): it is accepted for an enabled VD whose saves fit; advanceStop does the rest. -/
def runVdStop (s : State) (args : List DWord) : State :=
  withVd s args (fun vale vd _ d =>
    if !d.en || d.stopped then pfDone s 0x0A none
    else if d.vdStopped then pfDone s 0 none
    else if !stopFits s vale vd then stopNoSpace s vale vd
    else s)

/-- Chooses every resident block for a save, its ORDERED job handled as at a cut (R371, R399, R437). -/
def stopBlocks (s : State) (vale vd : Nat) : State :=
  if residentBlocks s vale vd = [] then s
  else if !stopFits s vale vd then stopNoSpace s vale vd
  else
    let s := (orderedJobs s vale vd).foldl abortOthers s
    match frontierDue s vale vd with
    | some (j, q) => settleFrontier s j q
    | none => (residentBlocks s vale vd).foldl (fun s e => chooseSave s e.1) s

/-- A prologue under way leaves the launch scalar unit; it starts again with dispatch (R54). -/
def dropPrologues (s : State) (vale vd : Nat) : State :=
  let s := { s with waves := Tbl.keep (fun _ (w : Wave) => !(decide (w.kind = WaveKind.prologue) && decide (w.vale = vale) && decide (w.vd = vd))) s.waves }
  s.modVd vale vd (fun d => { d with queues := Tbl.mapVals (fun _ x => imageQueue x) d.queues })

/-- The open frames of a VD close: the bands posted in order are still encoded (R303, R437). -/
def closeFrames (s : State) (vale vd : Nat) : State :=
  { s with glens := Tbl.mapVals (fun _ g => { g with frames := Tbl.mapVals (fun _ f =>
      if f.own.vale = vale && decide (f.own.vd = vd) && f.closed.isNone then { f with closed := some (closeLimit f) } else f) g.frames }) s.glens }

/-- Whether a frame that VD_STOP closed, and no CLOSE command ends, has its bands encoded. -/
def frameOver (g : Glen) (vale vd k : Nat) (f : Frame) : Bool :=
  decide (f.own.vale = vale) && decide (f.own.vd = vd) && (f.failed || decide (f.closed.getD (f.encoded + 1) ≤ f.encoded)) &&
    !g.encq.any (fun c => decide (c.2.kind = .encclose) && decide (c.2.bank = some k))

/-- Writes BYTES and STATUS 2 of a frame that VD_STOP closed (R303, R437). -/
def endFrame (s : State) (glen k : Nat) (f : Frame) : State :=
  let core := encCore glen
  match writeOut s core k f.own 3 (f.desc + 0x30) (bytesLE 4 f.bytes ++ [2]) with
  | (_, .wait _) => s
  | (s, .fault e) => record (s.modGlen glen (fun x => { x with frames := Tbl.erase x.frames k })) (cmdRec f.own 7 e)
  | (s, .ok _) => s.modGlen glen (fun x => { x with frames := Tbl.erase x.frames k })

/-- Ends the frames of a VD that are over. -/
def endFrames (s : State) (vale vd : Nat) : State :=
  s.glens.foldl (fun s g => g.2.frames.foldl (fun s f => if frameOver g.2 vale vd f.1 f.2 then endFrame s g.1 f.1 f.2 else s) s) s

/-- Whether no agent of a VD is left that could write for it (R437). -/
def vdQuiet (s : State) (vale vd : Nat) : Bool :=
  let mine (c : Cmd) : Bool := decide (c.vale = vale) && decide (c.vd = vd)
  (coreBlocks s vale vd).isEmpty && !s.inflight.any (fun a => decide (a.2.vale = vale) && decide (a.2.vd = vd)) &&
    !s.outReqs.any (fun r => decide (r.2.vale = vale) && decide (r.2.vd = vd)) &&
    !s.cores.any (fun c => c.2.cmds.any (fun m => mine m.2)) &&
    !s.glens.any (fun g => g.2.encq.any (fun m => mine m.2) || g.2.frames.any (fun f => mine f.2.own) ||
      g.2.covq.any (fun c => match Tbl.get s.blocks c.2.blk with
        | some b => decide (b.vale = vale) && decide (b.vd = vd)
        | none => false)) &&
    !s.waves.any (fun w => decide (w.2.vale = vale) && decide (w.2.vd = vd) && (decide (w.2.kind = .handler) || decide (w.2.kind = .firmware))) &&
    ((s.vd? vale vd).map (fun d => d.cut.isNone)).getD true

/-- VD_STOP goes on (R437): blocks are chosen for saves, frames close, and once no agent writes for the VD it completes. -/
def stopStep (s : State) (vale vd : Nat) : State :=
  let s := stopBlocks s vale vd
  if !vdStopping s vale vd then s
  else
    let s := endFrames (closeFrames (dropPrologues s vale vd) vale vd) vale vd
    if vdQuiet s vale vd then pfDone (s.modVd vale vd (fun d => { d with stopReq := none, vdStopped := true })) 0 none else s

/-- What a VD_STOP under way does at a tick (R437): a pending cut completes first. -/
def advanceStop (s : State) : State :=
  if !s.pf.busy || decide (s.pf.op ≠ 0x2B) || s.halted then s
  else
    let vale := argAt s.pf.held 0 % 256
    let vd := argAt s.pf.held 0 / 256
    match s.vale? vale, s.vd? vale vd with
    | some v, some d =>
      if !d.en || d.stopped || v.stopped then endStop s vale vd 0x0A
      else if d.stopReq.isSome then stopStep s vale vd
      else if d.cut.isSome || d.rolling then s
      else s.modVd vale vd (fun d => { d with stopReq := some s.tod.toNat })
    | _, _ => pfDone s 0x0A none

/-- VD_STOP_TIMEOUT (R534): VD_STOP has drained for 60,000,000 ticks; it completes with TIMEOUT, and the VD is stopped. -/
def execVdStopTimeout (vale vd : Nat) (s : State) : Host.Outcome State Fault Refusal :=
  .next (match (s.vd? vale vd).bind (fun d => d.stopReq) with
    | none => s
    | some t =>
      if s.tod.toNat < t + 60000000 then s
      else
        let s := record s (hangRec 2 (some vale) (some vd) 0 5 8 0xFFFF (s.tod.toNat - t) 0)
        stopVd (endStop s vale vd 0x0E) vale vd)

/-! ## VD state records -/

/-- The keys of n bytes of local memory from a physical address, piece by piece of 4,096 bytes. -/
def paPieces (s : State) : Nat → Nat → Nat → Option (List (Nat × Nat))
  | 0, _, n => if n = 0 then some [] else none
  | fuel + 1, pa, n =>
    if n = 0 then some []
    else
      let m := min n (4096 - pa % 4096)
      match keyOf s pa, paPieces s fuel (pa + m) (n - m) with
      | some k, some t => some ((k, m) :: t)
      | _, _ => none

/-- Bytes of local memory at a physical address, unless some do not exist or are poisoned. -/
def paRead (s : State) (pa n : Nat) : Option (List Byte) :=
  match paPieces s (n / 4096 + 2) pa n with
  | none => none
  | some ps => if ps.any (fun p => memPoisoned s p.1 p.2) then none else some (ps.flatMap (fun p => memBytes s p.1 p.2))

/-- A VD state record (R437): its header, VDC_n, STATS_n, the task header and the task records. -/
def vdRecord (s : State) (vale vd : Nat) (v : Vale) (d : Vd) : List Byte :=
  let ts := taskRecords s vale vd
  let head : List Byte := match (orderedJobs s vale vd).head? with
    | none => bytesLE 4 0 ++ bytesLE 4 0 ++ bytesLE 8 (2 ^ 64 - 1)
    | some j => match Tbl.get s.jobs j, orderedOf s j with
      | some x, some o => bytesLE 4 o.seqNext ++ bytesLE 4 o.rootNext ++ bytesLE 8 (frontierTs s x o).toNat
      | _, _ => bytesLE 16 0
  bytesLE 128 1 ++ (natsFrom 0 32).flatMap (fun j => bytesLE 4 (Tbl.cell (0 : Word) d.vdc j).toNat) ++
    (natsFrom 0 8).flatMap (fun k => bytesLE 8 (statWord v d k).toNat) ++ head ++ bytesLE 176 ts.length ++ ts.flatMap id

/-- VD_EXPORT (R437): writes the record of a stopped VD; one that is not stopped ends with 0x0A (DESIGN CHOICE, log 145). What its save area and QCBs hold travels with its pages; the model
keeps it beside the record. -/
def runVdExport (s : State) (args : List DWord) : State :=
  withVd s args (fun vale vd v d =>
    let pa := argAt args 1
    if !d.vdStopped then pfDone s 0x0A none
    else
      let bs := vdRecord s vale vd v d
      if pa % 8 ≠ 0 then pfDone s 0x0C none
      else match paPieces s (bs.length / 4096 + 2) pa bs.length with
        | none => pfDone s 0x0C none
        | some ps =>
          let im := imageOf s vale vd d { count := s.tod.toNat, switchOut := false, halted := true, start := d.undoHead, moved := 0 } []
          let s := ps.foldl (fun s p => (unitsOf 128 p.1 p.2).foldl (fun s j => recallLine s j noRow noRow) s) s
          pfDone { writePieces s ps bs with exports := (vdKey vale vd, bs, im) :: s.exports } 0 none)

/-- Where a core of one vale lies in another: the same place from its lowest glen, its glens counted round. -/
def movedCore (a b : Vale) (core : Nat) : Nat :=
  if 4096 ≤ core then b.scalarUnit else 16 * (b.first + (core / 16 - a.first) % max 1 b.n) + core % 16

/-- A block of an image, numbered from o, for a VD of another vale. -/
def movedBlock (a b : Vale) (vale vd o : Nat) (x : Block) : Block :=
  { x with job := x.job + o, vale := vale, vd := vd, core := movedCore a b x.core, cluster := x.cluster + o, waves := x.waves.map (fun w => w + o) }

/-- A wave of an image, numbered from o, that reads the VALE and VD it was placed in as before (R251). -/
def movedWave (a b : Vale) (vale vd o : Nat) (x : Wave) : Wave :=
  { x with born := some (x.born.getD (x.vale, x.vd)), vale := vale, vd := vd, job := x.job + o, blk := x.blk + o, core := movedCore a b x.core
           outst := x.outst.map (fun q => { q with id := q.id + o }) }

/-- A task of an image. -/
def movedTask (a b : Vale) (o : Nat) (t : Task) : Task :=
  { t with core := movedCore a b t.core, st := match t.st with
    | .saved x => .saved (x + o)
    | x => x }

/-- A job of an image. -/
def movedJob (a b : Vale) (vale vd o : Nat) (x : Job) : Job :=
  { x with
    vale := vale, vd := vd
    chunks := Tbl.mapVals (fun _ c => { c with glen := movedCore a b (16 * c.glen) / 16, cores := c.cores.map (movedCore a b), round := c.round.map (fun r => r + o) }) x.chunks
    ord := x.ord.map (fun r => { r with tasks := Tbl.mapVals (fun _ t => movedTask a b o t) r.tasks }) }

/-- Renumbers a table. -/
def renumber {α : Type} (o : Nat) (f : α → α) (t : Tbl α) : Tbl α := t.map (fun e => (e.1 + o, f e.2))

/-- Gives a VD the state that came with its pages: blocks, waves, clusters, jobs, queues and reservations of its save area. -/
def restoreExport (s : State) (a b : Vale) (vale vd : Nat) (im : Image) : State :=
  let o := s.nextId
  let s := { s with
    nextId := 2 * o
    blocks := Tbl.join s.blocks (renumber o (movedBlock a b vale vd o) im.blocks)
    waves := Tbl.join s.waves (renumber o (movedWave a b vale vd o) im.waves)
    clusters := Tbl.join s.clusters (renumber o (fun c => { c with
      job := c.job + o, glen := movedCore a b (16 * c.glen) / 16, members := c.members.map (fun m => m + o) }) im.clusters)
    jobs := Tbl.join s.jobs (renumber o (movedJob a b vale vd o) im.jobs) }
  s.modVd vale vd (fun d => { d with
    saves := im.saves
    queues := Tbl.mapVals (fun _ x => { x with running := x.running.map (fun j => j + o), prev := x.prev.map (fun j => j + o) }) im.queues })

/-- The bits of a word of VDC_n that are no reserved field (R383): they alone are loaded from a record (R10). -/
def vdcKept (off : Nat) : Nat := if off = 0 then 0xFFFFFF03 else if off = 8 then 0xFFFF else if off = 0x0C then 0xFFFFFF else 0xFFFFFFFF

/-- Where word k of an imported STATS_n stands (R349): a coverage sum goes to the vale's lowest glen. -/
def statPlace (v : Vale) (k : Nat) : Nat := if k < 4 then covStatKey v.first k else k

/-- VD_IMPORT (R437): loads a stopped VD from a record and sets EN; the jobs and blocks of a record of another package are built from it and
from the pages that came with it. -/
def runVdImport (s : State) (args : List DWord) : State :=
  withVd s args (fun vale vd v d =>
    let pa := argAt args 1
    if d.en then pfDone s 0x0A none
    else if pa % 8 ≠ 0 then pfDone s 0x0C none
    else match paRead s pa 512 with
      | none => pfDone s 0x0C none
      | some h =>
        if natLE (h.take 2) ≠ 1 then pfDone s 0x0B none
        else match paRead s pa (512 + 96 * natLE ((h.drop 0x150).take 4)) with
          | none => pfDone s 0x0C none
          | some bs =>
            let vdc := (natsFrom 0 26).foldl (fun t j => Tbl.setCell (0 : Word) t j (BitVec.ofNat 32 (natLE ((h.drop (0x80 + 4 * j)).take 4) &&& vdcKept (4 * j)))) []
            let stats := (natsFrom 0 7).foldl (fun t k => Tbl.setCell (0 : DWord) t (statPlace v k) (BitVec.ofNat 64 (natLE ((h.drop (0x100 + 8 * k)).take (if k = 6 then 4 else 8))))) []
            let d' : Vd := { Vd.fresh with vdc := Tbl.setCell 0 vdc 0 (Tbl.cell 0 vdc 0 ||| 1), stats := stats, vdStopped := true }
            let s := startPeriod (s.modVd vale vd (fun _ => d')) vale vd
            let s := match s.exports.find? (fun e => decide (e.2.1 = bs)) with
              | none => restoreForeign s v vale vd bs
              | some e => restoreExport s ((s.vale? (e.1 / 16)).getD v) v vale vd e.2.2
            pfDone s 0 none)

/-- VD_RESUME (R437): dispatch of a VD stopped by VD_STOP goes on. -/
def runVdResume (s : State) (args : List DWord) : State :=
  withVd s args (fun vale vd _ d =>
    if !d.vdStopped then pfDone s 0x0A none else pfDone (s.modVd vale vd (fun d => { d with vdStopped := false })) 0 none)

/-! ## PAGE_COPY -/

/-- Whether the pages a PAGE_COPY reads and writes are all there, piece by piece of 4,096 bytes: one that is refused changes nothing (R540). -/
def pagesThere (s : State) (v : Vale) : Nat → Nat → Nat → Bool
  | 0, _, _ => true
  | n + 1, ipa, pa =>
    (match (stage2 s v ipa).toOption.bind (fun l => place s v (l.addr ipa)) with
      | some (.mem _) | some (.remote _) => true
      | _ => false) && (decide (pa / 2 ^ 47 ≠ s.pkgId.toNat) || (keyOf s pa).isSome) && pagesThere s v n (ipa + 4096) (pa + 4096)

/-- PAGE_COPY (R421): pages of a vale are copied to a physical address, in this package or another, by stepPageCopy. -/
def runPageCopy (s : State) (args : List DWord) : State :=
  withVale s args (fun vale _ v =>
    let ipa := argAt args 1
    let pa := argAt args 2
    let n := argAt args 3
    if ipa % 65536 ≠ 0 || decide (pa % 65536 ≠ 0) || decide (n % 65536 ≠ 0) || decide (2 ^ 47 * 4608 ≤ pa) || !pagesThere s v (n / 4096) ipa pa then pfDone s 0x0C none
    else { s with pageCopy := some { vale := vale, ipa := ipa, pa := pa, left := n, posted := [] } })

/-- Sends 4,096 bytes to another package as 32 posted writes, for no VD. -/
def postPage (s : State) (die vale pa : Nat) : State × List Nat :=
  (natsFrom 0 32).foldl (fun (r : State × List Nat) i =>
    let s := recallLine r.1 (farKey (pa + 128 * i) / 128) noRow noRow
    (sendRequest s die vale 16 0 (pa + 128 * i) none none, r.2 ++ [s.nextId])) (s, [])

/-- The reader of PAGE_COPY, whose answers from another package are kept under this number. -/
def pageTag : Nat := 2 ^ 65

/-- 4,096 bytes of another package for a PAGE_COPY, in units of 16 with whether each is poisoned (R154): reads not yet sent are sent, and their
answers awaited. -/
def pageGot (s : State) (vale pa : Nat) : State × Got (List (List Byte × Bool)) :=
  let core := scalarCore s vale
  let us := (natsFrom 0 256).map (fun i => pa + 16 * i)
  match us.filter (fun u => (engAnswer s core pageTag u).isNone) with
  | [] =>
    let got := us.filterMap (engAnswer s core pageTag)
    let s := engForget s core pageTag
    (match got.findSome? (fun a => a.fault) with
      | some (c, r) => (s, .fault ⟨c, r, BitVec.ofNat 64 pa⟩)
      | none => (s, .ok (got.map (fun a => (a.bytes.take 16, a.bad)))))
  | ms => (ms.foldl (fun s u => engAsk s core pageTag vale 16 0 (some u)) s, .wait none)

/-- Writes 4,096 bytes read from another package at a key, with their poison (R514). -/
def pagePut (s : State) (x : Nat) (us : List (List Byte × Bool)) : State :=
  let s := partWrite s x (us.flatMap (fun u => u.1))
  poisonSectors s ((natsFrom 0 256).filterMap (fun i => if ((us[i]?).map (fun u => u.2)).getD false then some ((x + 16 * i) / 32) else none))

/-- Copies the next 4,096 bytes of a PAGE_COPY, or ends it once its posted writes are acknowledged (R421, R154). A source page in another
package is read over the fabric; a read that fails there ends the request as an address that does not translate (DESIGN CHOICE, log 116). -/
def stepPageCopy (s : State) : State :=
  match s.pageCopy with
  | none => s
  | some c =>
    let stop (s : State) (r : BitVec 8) : State := pfDone { s with pageCopy := none } r none
    let posted := c.posted.filter (fun i => (Tbl.get s.outReqs i).isSome)
    let on (s : State) (more : List Nat) : State :=
      { s with pageCopy := some { c with ipa := c.ipa + 4096, pa := c.pa + 4096, left := c.left - 4096, posted := posted ++ more } }
    let remote := decide (c.pa / 2 ^ 47 ≠ s.pkgId.toNat)
    let held (x : Nat) (write : Bool) : Bool := homeWaits s (.mem x) 4096 write
    if s.halted then s
    else if c.left = 0 then (if posted = [] then stop s 0 else { s with pageCopy := some { c with posted := posted } })
    else match s.vale? c.vale with
      | none => stop s 0x0A
      | some v =>
        let send (s : State) : State := let (s, ids) := postPage s (dieOfGlen v.first) c.vale c.pa; on s ids
        match (stage2 s v c.ipa).toOption.bind (fun l => place s v (l.addr c.ipa)) with
        | some (.mem k) =>
          if held k false then s
          else if remote then send (recallBytes s k 4096)
          else match keyOf s c.pa with
            | none => stop s 0x0C
            | some x => if held x true then s else on (copyRun none (recallBytes (recallBytes s k 4096) x 4096) (k, x, 4096)) []
        | some (.remote pa) =>
          if !remote && (match keyOf s c.pa with
              | some x => held x true
              | none => false) then s
          else match pageGot s c.vale pa with
            | (s, .wait _) => s
            | (s, .fault _) => stop s 0x0C
            | (s, .ok us) =>
              if remote then send s
              else match keyOf s c.pa with
                | none => stop s 0x0C
                | some x => on (pagePut s x us) []
        | _ => stop s 0x0C

/-! ## Starting a request -/

/-- Runs the request a block holds (R421): a reserved OP completes with BADOP. -/
def runPf (s : State) (op : Nat) (args : List DWord) : State :=
  match op with
  | 0x10 => runCreate s args
  | 0x11 => runFuse s args
  | 0x12 => runSplit s args
  | 0x13 => runS2root s args
  | 0x14 => runS2inv s args
  | 0x18 => runLease s args
  | 0x19 => runRevoke s args
  | 0x20 => runImport s args
  | 0x28 => runDirtyStart s args
  | 0x29 => runDirtySwap s args
  | 0x2A => runDirtyStop s args
  | 0x2B => runVdStop s args
  | 0x2C => runVdExport s args
  | 0x2D => runVdImport s args
  | 0x2E => runVdResume s args
  | 0x2F => runPageCopy s args
  | _ => pfDone s 0x01 none

/-- Starts a PF request with the arguments held (R421, R418): a write while BUSY = 1 is ignored, and until BOOTSTAT reads READY
a request is refused (R438, R544) with 0x0A (DESIGN CHOICE, log 145). -/
def startPf (s : State) (op vd : Nat) (args : List DWord) : State :=
  if s.pf.busy || s.halted then s
  else
    let s := { s with pf := { op := BitVec.ofNat 8 op, vd := BitVec.ofNat 4 vd, busy := true, result := 0, args := args, held := args } }
    if s.bootStat ≠ 1 then pfDone s 0x0A none else runPf s (op % 256) args

/-- A hypervisor's request: its arguments are written and OP starts it. -/
def hostPf (s : State) (op : Nat) (a : CmdArgs) : State := startPf s op 0 (argList a)

/-- CREATE (R31, R421). -/
def execCreate (a : CmdArgs) (s : State) : Host.Outcome State Fault Refusal := .next (hostPf s 0x10 a)
/-- FUSE (R31, R421). -/
def execFuse (a : CmdArgs) (s : State) : Host.Outcome State Fault Refusal := .next (hostPf s 0x11 a)
/-- SPLIT (R31, R32, R421). -/
def execSplit (a : CmdArgs) (s : State) : Host.Outcome State Fault Refusal := .next (hostPf s 0x12 a)
/-- S2ROOT (R124, R421). -/
def execS2root (a : CmdArgs) (s : State) : Host.Outcome State Fault Refusal := .next (hostPf s 0x13 a)
/-- S2INV (R128, R421). -/
def execS2inv (a : CmdArgs) (s : State) : Host.Outcome State Fault Refusal := .next (hostPf s 0x14 a)
/-- LEASE (R410, R421). -/
def execLease (a : CmdArgs) (s : State) : Host.Outcome State Fault Refusal := .next (hostPf s 0x18 a)
/-- REVOKE (R421, R539). -/
def execRevoke (a : CmdArgs) (s : State) : Host.Outcome State Fault Refusal := .next (hostPf s 0x19 a)
/-- IMPORT (R421, R424). -/
def execImportEntry (a : CmdArgs) (s : State) : Host.Outcome State Fault Refusal := .next (hostPf s 0x20 a)
/-- DIRTY_START (R421, R436). -/
def execDirtyStart (a : CmdArgs) (s : State) : Host.Outcome State Fault Refusal := .next (hostPf s 0x28 a)
/-- DIRTY_SWAP (R421, R436). -/
def execDirtySwap (a : CmdArgs) (s : State) : Host.Outcome State Fault Refusal := .next (hostPf s 0x29 a)
/-- DIRTY_STOP (R421, R436). -/
def execDirtyStop (a : CmdArgs) (s : State) : Host.Outcome State Fault Refusal := .next (hostPf s 0x2A a)
/-- VD_STOP (R421, R437). -/
def execVdStop (a : CmdArgs) (s : State) : Host.Outcome State Fault Refusal := .next (hostPf s 0x2B a)
/-- VD_EXPORT (R421, R437). -/
def execVdExport (a : CmdArgs) (s : State) : Host.Outcome State Fault Refusal := .next (hostPf s 0x2C a)
/-- VD_IMPORT (R421, R437). -/
def execVdImport (a : CmdArgs) (s : State) : Host.Outcome State Fault Refusal := .next (hostPf s 0x2D a)
/-- VD_RESUME (R421, R437). -/
def execVdResume (a : CmdArgs) (s : State) : Host.Outcome State Fault Refusal := .next (hostPf s 0x2E a)
/-- PAGE_COPY (R421). -/
def execPageCopy (a : CmdArgs) (s : State) : Host.Outcome State Fault Refusal := .next (hostPf s 0x2F a)

/-- What PF requests under way do at a TOD tick. -/
def tickPf (s : State) : State := stepPageCopy (advanceStop s)

end Sys2Proof.Machine
end

