-- ==== Sys2Proof/Machine/Tdi.lean ====
section
/-! DEFINITION. Per-vale reset (R475 to R477), the wipe of a vale (R435), TDISP (R432 to R434, R542, R543), IDE streams (R431),
and the configuration writes of a VF (R433, R542). -/
namespace Sys2Proof.Machine

/-! ## Wiping a vale -/

/-- Whether an engine is lent and a borrower holds it or may claim it (R435, R477). -/
def engineLent (s : State) (core : Nat) : Bool := s.leases.any (fun e => decide (e.2.st = 2) && (leaseEngines e.2).contains core)

/-- A core after a wipe (R435): a lent engine, the generations and the carve-out a lease asks for stay; with every register and
stash row zero, no entry keeps an old tag (R119). -/
def wipedCore (s : State) (core : Nat) (c : Core) : Core :=
  let lent := engineLent s core
  { Core.fresh with
    engine := if lent then c.engine else Engine.fresh, gen := c.gen
    stashKib := if lent then max 64 c.stashKib else 64, convert := if lent then c.convert else none }

/-- The teams a vale holds under leases are dropped, each window cleaned by a generation bump (R477). -/
def dropBorrowed (s : State) (vale : Nat) : State :=
  s.leases.foldl (fun s e =>
    if e.2.borrower = vale && decide (e.2.st = 2) then (leaseEngines e.2).foldl (fun s c => cleanEngine s vale e.2.handle c) s else s) s

/-- Wipes a vale (R435): its VDs are stopped and return to reset, and every register, cache line, table and memory location of its
glens is zero. -/
def wipeVale (s : State) (vale : Nat) : State :=
  match s.vale? vale with
  | none => s
  | some v =>
    let mine (g : Nat) : Bool := decide (v.first ≤ g) && decide (g < v.first + v.n)
    let s := dropBorrowed s vale
    let s := v.vds.foldl (fun s e => dropWork (stopVd s vale e.1) vale e.1) s
    let s := dropTlbs s (fun e => decide (e.vale = vale))
    let s := { s with
      mem := Tbl.keep (fun k _ => !mine (k / 2 ^ 33)) s.mem
      poison := s.poison.filter (fun j => !mine (32 * j / 2 ^ 33))
      cores := Tbl.mapVals (fun c x => if c = v.scalarUnit then Core.fresh else if mine (glenOfCore c) then wipedCore s c x else x) s.cores
      glens := Tbl.mapVals (fun g x => if mine g then { x with covq := [], encq := [], frames := [], l2 := [], tlb := [], owed := [] } else x) s.glens
      outReqs := Tbl.keep (fun _ q => decide (q.vale ≠ vale)) s.outReqs
      jobs := Tbl.keep (fun _ j => decide (j.vale ≠ vale)) s.jobs
      invals := Tbl.keep (fun _ i => decide (i.vale ≠ vale)) s.invals
      migrations := Tbl.keep (fun _ m => decide (m.vale ≠ vale)) s.migrations
      window := Tbl.keep (fun k _ => decide (k % 4096 / 16 ≠ vale)) s.window }
    s.modVale vale (fun v => { v with
      vds := (natsFrom 0 16).map (fun k => (k, Vd.fresh)), posts := [], hostPosts := [], lastCe := [], rrKey := 0
      cmd := { v.cmd with busy := false } })

/-- Every register of a vale's control window at its reset value (R417, R476). -/
def resetWindow (s : State) (vale : Nat) : State :=
  s.modVale vale (fun v => { v with
    pthresh := 0x7530, errBase := 0, errCount := 0, errHead := 0, stage := [], cmd := CmdBlock.fresh, stopped := false })

/-! ## Per-vale reset -/

/-- Steps 2 to 4 of a per-vale reset (R476). -/
def resetVale (s : State) (vale : Nat) : State := resetWindow (wipeVale s vale) vale

/-- PER_VALE_RESET (R476, R542): a Function Level Reset of the vale's VF; a PF request that names the vale completes first. -/
def execPerValeReset (vale : Nat) (s : State) : Host.Outcome State Fault Refusal :=
  .next (
    let s := (tdiViolation s vale 3 0 0 0).modVale vale (fun v => { v with resetting := true })
    if pfNames s vale then s else resetVale s vale)

/-- VALE_RESET_COMPLETE (R476): the VF answers again. -/
def execValeResetComplete (vale : Nat) (s : State) : Host.Outcome State Fault Refusal :=
  .next (match s.vale? vale with
    | none => s
    | some v =>
      if !v.resetting || pfNames s vale then s
      else (resetVale s vale).modVale vale (fun v => { v with resetting := false }))

/-! ## Sessions and streams -/

/-- Answers a message on the DOE mailbox. -/
def answer (s : State) (r : Reply) : State := { s with reply := r }

/-- Whether a secured session is established. -/
def sessionLive (s : State) (session : Nat) : Bool := ((Tbl.get s.spdm.sessions session).map (fun x => x.established)).getD false

/-- The vales whose locked or running TDI meets a test. -/
def lockedVales (s : State) (p : Tdi → Bool) : List Nat :=
  (s.vales.filter (fun e => (decide (e.2.tdi.st = .locked) || decide (e.2.tdi.st = .run)) && p e.2.tdi)).map (fun e => e.1)

/-- An IDE stream leaves its secure state: its key is gone, and a TDI bound to it is in ERROR (R542). -/
def streamLost (s : State) (stream : Nat) : State :=
  let s := { s with ide := Tbl.modify s.ide stream (fun x => { x with secure := false, key := 0 }) }
  (lockedVales s (fun t => decide (t.stream = stream))).foldl (fun s v => tdiViolation s v 4 0 0 0) s

/-- Ends a secured session (R545): the TDIs it locked are in ERROR, and the keys programmed through it are invalid. -/
def sessionEnds (s : State) (session : Nat) : State :=
  let s := { s with spdm := { s.spdm with sessions := Tbl.erase s.spdm.sessions session } }
  let s := (lockedVales s (fun t => decide (t.session = session))).foldl (fun s v => tdiViolation s v 5 0 0 0) s
  (s.ide.filter (fun e => decide (e.2.session = session))).foldl (fun s e => streamLost s e.1) s

/-- IDE_STREAM_FAULT (R542): a stream leaves its secure state by key expiry or an integrity failure. -/
def execIdeStreamFault (stream : Nat) (s : State) : Host.Outcome State Fault Refusal :=
  .next (match Tbl.get s.ide stream with
    | none => s
    | some x => if x.secure then streamLost s stream else s)

/-- Whether another selective stream is bound to a VF (R431). -/
def vfTaken (s : State) (stream : Nat) (vf : Option Nat) : Bool :=
  match vf with
  | none => false
  | some f => s.ide.any (fun e => decide (e.1 ≠ stream) && decide (e.2.vf = some f))

/-- Programs a stream's key (R431): re-keying from another session takes the stream out of its secure state (R542). -/
def keyProg (s : State) (session stream : Nat) (vf : Option Nat) (key : BitVec 256) : State :=
  if 256 < stream || vfTaken s stream vf then answer s (.error 0x01)
  else
    let old := Tbl.get s.ide stream
    let same := (old.map (fun x => decide (x.session = session))).getD true
    let s := if same then s else streamLost s stream
    let secure := same && (old.map (fun x => x.secure)).getD false
    answer { s with ide := Tbl.set s.ide stream { key := key, secure := secure, vf := vf, session := session } } .ok

/-- IDE_KM (R431) in a secured session: stream 256 is the link stream. -/
def execIdeKm (session : Nat) (op : IdeOp) (s : State) : Host.Outcome State Fault Refusal :=
  .next (
    if !linkAnswers s then s
    else if !sessionLive s session then answer s (.error 0x04)
    else match op with
      | .keyProg stream vf key => keyProg s session stream vf key
      | .keySetGo stream => (match Tbl.get s.ide stream with
        | none => answer s (.error 0x01)
        | some x => if x.session = session then answer { s with ide := Tbl.set s.ide stream { x with secure := true } } .ok else answer s (.error 0x01))
      | .keySetStop stream => (match Tbl.get s.ide stream with
        | none => answer s (.error 0x01)
        | some x => if x.session = session then answer (streamLost s stream) .ok else answer s (.error 0x01)))

/-! ## TDISP -/

/-- Frames a TDISP message: it needs an established session and a vale, and is answered with an error otherwise (R432). -/
def tdisp (s : State) (session vale : Nat) (f : Vale → State) : State :=
  if !linkAnswers s then s
  else if !sessionLive s session then answer s (.error 0x04)
  else match s.vale? vale with
    | none => answer s (.error 0x01)
    | some v => f v

/-- The leases a vale is party to, in slot order (R433). -/
def partyLeases (v : Vale) : List Nat := v.leases.filterMap id

/-- LOCK_INTERFACE_REQUEST (R433): the TDI locks, and its nonce is returned. -/
def execLockInterfaceRequest (session vale stream : Nat) (s : State) : Host.Outcome State Fault Refusal :=
  .next (tdisp s session vale (fun v =>
    let bound := match Tbl.get s.ide stream with
      | some x => x.secure && decide (x.vf = some (vale + 1)) && decide (stream < 256)
      | none => false
    if v.tdi.st ≠ .unlocked || v.tdi.wiping || v.resetting || !v.memEnable || !bound || pfNames s vale then answer s (.error 0x04)
    else
      let n := Config.nonce s.freeCount
      let t : Tdi := { st := .locked, session := session, stream := stream, nonce := n, leases := partyLeases v, wiping := false }
      answer ({ s with freeCount := s.freeCount + 1 }.modVale vale (fun v => { v with tdi := t })) (.nonce n)))

/-- START_INTERFACE_REQUEST (R432): a locked TDI runs when the lock's nonce is presented. -/
def execStartInterfaceRequest (session vale : Nat) (nonce : BitVec 256) (s : State) : Host.Outcome State Fault Refusal :=
  .next (tdisp s session vale (fun v =>
    if v.tdi.st ≠ .locked || v.tdi.wiping || decide (v.tdi.nonce ≠ nonce) then answer s (.error 0x04)
    else answer (s.modVale vale (fun v => { v with tdi := { v.tdi with st := .run } })) .ok))

/-- STOP_INTERFACE_REQUEST (R432, R435): the vale's VDs stop without a save, and its wipe begins. -/
def execStopInterfaceRequest (session vale : Nat) (s : State) : Host.Outcome State Fault Refusal :=
  .next (tdisp s session vale (fun v =>
    if v.tdi.st = .unlocked then answer s (.error 0x04)
    else
      let s := v.vds.foldl (fun s e => stopVd s vale e.1) s
      answer (s.modVale vale (fun v => { v with tdi := { v.tdi with wiping := true } })) .ok))

/-- TDI_WIPE_COMPLETE (R435): the wipe is done, and the TDI is CONFIG_UNLOCKED. -/
def execTdiWipeComplete (vale : Nat) (s : State) : Host.Outcome State Fault Refusal :=
  .next (match s.vale? vale with
    | none => s
    | some v => if v.tdi.wiping then (wipeVale s vale).modVale vale (fun v => { v with tdi := Tdi.fresh, stopped := false }) else s)

/-- The state of the TDI of a VF (R432): one of a VF that serves no vale is CONFIG_UNLOCKED. -/
def tdiOf (s : State) (vale : Nat) : TdiState := ((s.vale? vale).map (fun v => v.tdi.st)).getD .unlocked

/-- GET_DEVICE_INTERFACE_STATE (R432): in every state of each of the 256 VFs. -/
def execGetDeviceInterfaceState (session vale : Nat) (s : State) : Host.Outcome State Fault Refusal :=
  .next (
    if !linkAnswers s then s
    else if !sessionLive s session then answer s (.error 0x04)
    else if 256 ≤ vale then answer s (.error 0x01)
    else answer s (.tdiState (tdiOf s vale)))

/-- One lease of a report (R434), as two 64-bit words. -/
def reportLease (s : State) (vale i : Nat) : List DWord :=
  match Tbl.get s.leases i with
  | none => [0, 0]
  | some l =>
    let borrows := decide (l.borrower = vale)
    let other := if borrows then l.lender else l.borrower
    let conf := ((s.vale? other).map (fun v => v.conf)).getD false
    [BitVec.ofNat 64 (l.handle.toNat + bit1 borrows * 2 ^ 32 + bit1 conf * 2 ^ 33), l.stop]

/-- The measurement indices that apply, as a mask (R428, R434). -/
def measuredMask (s : State) : Nat := (natsFrom 1 7).foldl (fun m i => if i = 7 || (Tbl.get s.measured i).isSome then m + 2 ^ i else m) 0

/-- One MMIO range of the report (R414, R434): its first page, its pages, TEE memory with no other attribute, and its BAR as its id. The
layout is TDISP's (PRESUMED, log 117). -/
def reportRange (s : State) (vale bar : Nat) : List Byte :=
  bytesLE 8 ((vfBar s vale bar).toNat / 4096) ++ bytesLE 4 (((barSize 1 bar).map (fun x => x.1 / 4096)).getD 0) ++ bytesLE 2 0 ++ bytesLE 2 bar

/-- The device-specific field of the report (R434). -/
def reportInfo (s : State) (vale : Nat) (v : Vale) : List DWord :=
  [BitVec.ofNat 64 (1 + vale * 2 ^ 16 + v.first % 256 * 2 ^ 32 + v.n * 2 ^ 40), BitVec.ofNat 64 (v.n * s.glenBytes),
   BitVec.ofNat 64 (measuredMask s + v.tdi.leases.length * 2 ^ 32)] ++ v.tdi.leases.flatMap (reportLease s vale)

/-- The report (R434): the standard's fields, of a function that masters nothing but its two MSI-X vectors, the three MMIO ranges, and the
device-specific field with its length. -/
def tdiReport (s : State) (vale : Nat) (v : Vale) : List Byte :=
  let info := (reportInfo s vale v).flatMap (fun x => bytesLE 8 x.toNat)
  bytesLE 2 0 ++ bytesLE 2 0 ++ bytesLE 2 1 ++ bytesLE 2 0 ++ bytesLE 4 0 ++ bytesLE 4 3 ++ [0, 2, 4].flatMap (reportRange s vale) ++
    bytesLE 4 info.length ++ info

/-- GET_DEVICE_INTERFACE_REPORT (R434): of a locked or running TDI. -/
def execGetDeviceInterfaceReport (session vale : Nat) (s : State) : Host.Outcome State Fault Refusal :=
  .next (tdisp s session vale (fun v =>
    if v.tdi.st = .locked || decide (v.tdi.st = .run) then answer s (.bytes (tdiReport s vale v)) else answer s (.error 0x04)))

/-! ## Configuration writes -/

/-- A BAR of a VF moves (R414): while its TDI is not unlocked it is frozen, and the write drives ERROR (R433, R542). -/
def barPut (s : State) (vale i : Nat) (a : DWord) : State :=
  let x := barTake 1 i a
  if (barSize 1 i).isNone || decide (x = vfBar s vale i) then s
  else if tdiOf s vale ≠ .unlocked then tdiViolation s vale 7 0 0 0
  else { s with bars := Tbl.setCell 0 s.bars (8 * valeFunction vale + i) x }

/-- A VF's memory space enable bit is written (R433, R542): frozen as its BARs are. -/
def memEnablePut (s : State) (vale : Nat) (v : Vale) (on : Bool) : State :=
  if v.tdi.st = .unlocked then s.modVale vale (fun v => { v with memEnable := on })
  else if v.memEnable && !on then tdiViolation s vale 7 0 0 0 else s

/-- A VF BAR register of the PF's SR-IOV capability is written (R414): VF n + 1 has its BAR n sizes above. -/
def vfBarsPut (s : State) (i : Nat) (a : DWord) : State :=
  match barSize 1 i with
  | none => s
  | some (n, _) =>
    let x := barTake 1 i a
    (natsFrom 0 256).foldl (fun s vale => barPut s vale i (x + BitVec.ofNat 64 (n * vale))) { s with vfBars := Tbl.setCell 0 s.vfBars i x }

/-- CONFIG_WRITE (R414, R433, R476, R542): the BARs of the PF, or a VF's memory space enable or a BAR; a VF that resets answers none, and the
bit of one that serves no vale is not kept. -/
def execConfigWrite (vale : Nat) (w : ConfigWrite) (s : State) : Host.Outcome State Fault Refusal :=
  .next (
    let resets := ((s.vale? vale).map (fun v => v.resetting)).getD false
    if !linkAnswers s then s
    else match w with
      | .pfBar a => { s with pfBar := barTake 0 0 a }
      | .vfBar i a => vfBarsPut s i a
      | .bar i a => if resets || decide (256 ≤ vale) then s else barPut s vale i a
      | .memEnable on => (match s.vale? vale with
        | none => s
        | some v => if resets then s else memEnablePut s vale v on))

end Sys2Proof.Machine
end

