-- ==== Sys2Proof/Machine/Spdm.lean ====
section
/-! DEFINITION. SPDM on the PF's DOE mailbox (R426 to R428, R545): messages in sequence, signatures, measurements and secured
sessions. -/
namespace Sys2Proof.Machine

/-- Bytes of a bit vector, least significant first. -/
def bitBytes {n : Nat} (x : BitVec n) : List Byte := bytesLE (n / 8) x.toNat

/-- Frames a message that needs the algorithms to be negotiated (R426, R545). -/
def afterAlgs (s : State) (f : State) : State := if !linkAnswers s then s else if s.spdm.algs then f else answer s (.error 0x04)

/-- The signature of a message under the device identity key (R426, R427). -/
def deviceSign (bs : List Byte) : BitVec 512 := Config.ecdsaSign deviceKey bs

/-- Whether a certificate slot holds a chain (R427): slot 0 once the certificate is written, slot 1 where the owner has provisioned one for
the same key; slots 2 to 7 are empty. -/
def slotFull (s : State) (slot : Nat) : Bool := s.certSlots.getLsbD 0 && (decide (slot = 0) || (decide (slot = 1) && Config.ownerChain))

/-- GET_VERSION (R426): a new sequence begins. -/
def execGetVersion (s : State) : Host.Outcome State Fault Refusal :=
  .next (if !linkAnswers s then s else answer { s with spdm := { s.spdm with version := true, caps := false, algs := false } } (.words [0x12, 0x13]))

/-- GET_CAPABILITIES (R426). -/
def execGetCapabilities (s : State) : Host.Outcome State Fault Refusal :=
  .next (if !linkAnswers s then s else if s.spdm.version then answer { s with spdm := { s.spdm with caps := true, algs := false } } .ok else answer s (.error 0x04))

/-- NEGOTIATE_ALGORITHMS (R426, R545): one algorithm for each purpose. -/
def execNegotiateAlgorithms (offer : AlgorithmOffer) (s : State) : Host.Outcome State Fault Refusal :=
  .next (
    if !linkAnswers s then s
    else if !s.spdm.caps then answer s (.error 0x04)
    else if offer.ecdsaP256 && offer.sha256 && offer.ecdheP256 && offer.aes256gcm && offer.dmtf then answer { s with spdm := { s.spdm with algs := true } } .ok
    else answer s (.error 0x07))

/-- GET_DIGESTS (R426, R427): the digest of each chain. -/
def execGetDigests (s : State) : Host.Outcome State Fault Refusal :=
  .next (afterAlgs s (answer s (.bytes (((natsFrom 0 8).filter (slotFull s)).flatMap (fun k => bitBytes (Config.sha256 (Config.certChain k)))))))

/-- GET_CERTIFICATE (R427, R545). -/
def execGetCertificate (slot : Nat) (s : State) : Host.Outcome State Fault Refusal :=
  .next (afterAlgs s (if slotFull s slot then answer s (.bytes (Config.certChain slot)) else answer s (.error 0x01)))

/-- CHALLENGE (R426, R427, R545): a signature under the device identity key. -/
def execChallenge (slot : Nat) (nonce : BitVec 256) (s : State) : Host.Outcome State Fault Refusal :=
  .next (afterAlgs s (
    if slotFull s slot then answer s (.signature (deviceSign (bitBytes (Config.sha256 (Config.certChain slot)) ++ bitBytes nonce)))
    else answer s (.error 0x01)))

/-- Measurement 7 (R428): lifecycle state, SVN minima, debug disabled. -/
def configMeasure (s : State) : BitVec 256 :=
  Config.sha256 (bytesLE 1 s.lifecycle.toNat ++ (natsFrom 1 6).flatMap (fun t => bytesLE 4 (Tbl.cell 0 s.svnMin t)) ++
    bytesLE 1 (bit1 (decide (s.lifecycle ≠ 0))))

/-- A measurement by its index (R428). -/
def measurement (s : State) (i : Nat) : Option (BitVec 256) := if i = 7 then some (configMeasure s) else Tbl.get s.measured i

/-- GET_MEASUREMENTS (R428): one index, or all of them for 255. -/
def execGetMeasurements (index : Nat) (s : State) : Host.Outcome State Fault Refusal :=
  .next (afterAlgs s (
    if index = 255 then answer s (.bytes ((natsFrom 1 7).flatMap (fun i => match measurement s i with
      | some m => bitBytes m
      | none => [])))
    else match measurement s index with
      | some m => answer s (.bytes (bitBytes m))
      | none => answer s (.error 0x01)))

/-- The lowest session number not in use. -/
def newSession (s : State) : Nat := ((natsFrom 0 (s.spdm.sessions.length + 1)).find? (fun k => (Tbl.get s.spdm.sessions k).isNone)).getD 0

/-- KEY_EXCHANGE (R426): a session's handshake begins; the answer holds its number, the part's share and a signature. -/
def execKeyExchange (slot : Nat) (share : BitVec 512) (s : State) : Host.Outcome State Fault Refusal :=
  .next (afterAlgs s (
    if !slotFull s slot then answer s (.error 0x01)
    else if s.spdm.sessions.any (fun e => !e.2.established) then answer s (.error 0x04)
    else
      let k := newSession s
      let y := Config.ecdheShare s.freeCount
      let x : Session := { established := false, keyGen := 0, lastBeat := s.tod.toNat }
      answer { s with freeCount := s.freeCount + 1, spdm := { s.spdm with sessions := Tbl.set s.spdm.sessions k x } }
        (.bytes (bytesLE 4 k ++ bitBytes y ++ bitBytes (deviceSign (bitBytes share ++ bitBytes y))))))

/-- FINISH (R426, R545): the handshake ends; when verification fails the session is not established. -/
def execFinish (verifies : Bool) (s : State) : Host.Outcome State Fault Refusal :=
  .next (
    if !linkAnswers s then s
    else match Tbl.first (fun _ (x : Session) => !x.established) s.spdm.sessions with
    | none => answer s (.error 0x04)
    | some (k, x) =>
      if verifies then answer { s with spdm := { s.spdm with sessions := Tbl.set s.spdm.sessions k { x with established := true, lastBeat := s.tod.toNat } } } .ok
      else answer { s with spdm := { s.spdm with sessions := Tbl.erase s.spdm.sessions k } } (.error 0x06))

/-- HEARTBEAT (R426). -/
def execHeartbeat (session : Nat) (s : State) : Host.Outcome State Fault Refusal :=
  .next (
    if !linkAnswers s then s
    else if sessionLive s session then
      answer { s with spdm := { s.spdm with sessions := Tbl.modify s.spdm.sessions session (fun x => { x with lastBeat := s.tod.toNat }) } } .ok
    else answer s (.error 0x04))

/-- HEARTBEAT_TIMEOUT (R545): a session has missed its heartbeat, whose period the requester set, and ends. -/
def execHeartbeatTimeout (session : Nat) (s : State) : Host.Outcome State Fault Refusal :=
  .next (match Tbl.get s.spdm.sessions session with
    | none => s
    | some x => if x.established && decide (x.lastBeat < s.tod.toNat) then sessionEnds s session else s)

/-- KEY_UPDATE (R426). -/
def execKeyUpdate (session : Nat) (s : State) : Host.Outcome State Fault Refusal :=
  .next (
    if !linkAnswers s then s
    else if sessionLive s session then
      answer { s with spdm := { s.spdm with sessions := Tbl.modify s.spdm.sessions session (fun x => { x with keyGen := x.keyGen + 1 }) } } .ok
    else answer s (.error 0x04))

/-- END_SESSION (R426, R545). -/
def execEndSession (session : Nat) (s : State) : Host.Outcome State Fault Refusal :=
  .next (if !linkAnswers s then s else if sessionLive s session then answer (sessionEnds s session) .ok else answer s (.error 0x04))

end Sys2Proof.Machine
end

