-- ==== Sys2Proof/Machine/HostRegs.lean ====
section
/-! DEFINITION. Writes of the registers of a vale's control window (R417, R418) and of the management window (R443, R421): a host's,
REGISTER_WRITE (R12), and those of the package's agents, ACCESS_PERFORMED (R97). -/
namespace Sys2Proof.Machine

/-- The writable bits of STAGE_n (R417): EN, and BASE [46:20]. -/
def stageMask : DWord := 0x00007FFFFFF00001

/-- A write at an offset of a vale's control window (R417, R418); RO and reserved offsets ignore it (R12). -/
def windowPut (s : State) (vale off : Nat) (value : DWord) : State :=
  let put (f : Vale → Vale) : State := s.modVale vale f
  if off < 0x800 then vdcPut s vale (off / 128) (off % 128) (loWord value)
  else if off = 0x808 then put (fun v => { v with pthresh := loWord value })
  else if off = 0x810 then put (fun v => { v with errBase := value })
  else if off = 0x818 then put (fun v => { v with errCount := loWord value })
  else if 0x880 ≤ off && decide (off < 0x900) && decide (off % 8 = 0) then
    put (fun v => { v with stage := Tbl.setCell 0 v.stage ((off - 0x880) / 8) (value &&& stageMask) })
  else if off = 0x900 then
    startCommand s vale (value.toNat % 256) (value.toNat / 256 % 16) (((s.vale? vale).map (fun v => v.cmd.args)).getD [])
  else if 0x908 ≤ off && decide (off < 0x938) && decide (off % 8 = 0) then
    put (fun v => { v with cmd := { v.cmd with args := setAt v.cmd.args ((off - 0x908) / 8) value } })
  else s

/-- A write at an offset of the management window (R443, R421); RO and reserved offsets ignore it (R12). -/
def managementPut (s : State) (off : Nat) (value : DWord) : State :=
  if off = 0x20 then lcRequest s (value.setWidth 3)
  else if off = 0x28 then { s with lcToken := value }
  else if off = 0x30 || off = 0x34 then limitPut s (decide (off = 0x34)) (value.setWidth 16)
  else if off = 0x80 then alarmPut s (value.setWidth 4)
  else if off = 0x810 then { s with errBase := value }
  else if off = 0x818 then { s with errCount := loWord value }
  else if off = 0x900 then startPf s (value.toNat % 256) (value.toNat / 256 % 16) s.pf.args
  else if 0x908 ≤ off && decide (off < 0x938) && decide (off % 8 = 0) then
    { s with pf := { s.pf with args := setAt s.pf.args ((off - 0x908) / 8) value } }
  else s

/-- A word of a window. -/
def regWord (s : State) (win off : Nat) : Word :=
  if win = 256 then managementWord s off
  else match s.vale? win with
    | some v => windowWord s win v off
    | none => 0

/-- Whether an 8-aligned offset of a window holds one 64-bit register, which is written whole. -/
def wideReg (win off : Nat) : Bool :=
  decide (off = 0x810) || (0x908 ≤ off && decide (off < 0x938)) || (if win = 256 then decide (off = 0x28) else 0x880 ≤ off && decide (off < 0x900))

/-- A write of one register of a window (R417, R443). -/
def controlPut (s : State) (win off : Nat) (bs : List Byte) : State :=
  let x : DWord := BitVec.ofNat 64 (natLE bs)
  if win = 256 then managementPut s off x else windowPut s win off x

/-- The bytes that a write of some bytes leaves in n bytes of a window: those it does not write stay, and are 0 in ALARM, which a 1 would
clear (R443). -/
def mergeReg (s : State) (win off : Nat) (bs : List Byte) (at_ n : Nat) : List Byte :=
  (natsFrom at_ n).map (fun i =>
    if off ≤ i && decide (i < off + bs.length) then bs.getD (i - off) 0
    else if win = 256 && decide (at_ = 0x80) then 0 else (regWord s win (i / 4 * 4)).extractLsb' (8 * (i % 4)) 8)

/-- Cuts a store to the control window where the words it covers do not follow each other in one window: the window, the offset there and the
bytes of each run. -/
def controlRuns : Nat → Nat → List Byte → List (Nat × Nat × List Byte)
  | 0, _, _ => []
  | fuel + 1, off, bs =>
    if bs = [] then []
    else
      let c := Config.controlWindow (off / 4 * 4)
      let n := 4 - off % 4
      match controlRuns fuel (off + n) (bs.drop n) with
      | (win, o, cs) :: rest => if win = c.1 && decide (o = c.2 + 4) then (c.1, c.2 + off % 4, bs.take n ++ cs) :: rest
          else (c.1, c.2 + off % 4, bs.take n) :: (win, o, cs) :: rest
      | [] => [(c.1, c.2 + off % 4, bs.take n)]

/-- A write of bytes at an offset of a window (R12), register by register in ascending order: one of a part of a register leaves the rest of it
(log 110). -/
def regStore (s : State) (win off : Nat) (bs : List Byte) : State :=
  ((unitsOf 4 off bs.length).map (fun u => 4 * u)).foldl (fun s u =>
    if u % 8 = 4 && wideReg win (u - 4) then
      (if off < u then s else controlPut s win (u - 4) (mergeReg s win off bs (u - 4) 8))
    else controlPut s win u (mergeReg s win off bs u (if wideReg win u then 8 else 4))) s

/-- A store of an agent of the package to the control window (R97), run by run of words that lie in one window (log 110). -/
def controlStore (s : State) (off : Nat) (bs : List Byte) : State :=
  (controlRuns (bs.length + 1) off bs).foldl (fun s r => regStore s r.1 r.2.1 r.2.2) s

/-- ACCESS_PERFORMED (R149): an access reaches its home, or the saddle or pass link it crosses; a store to the control window writes its
registers. -/
def execAccessPerformed (acc : Nat) (s : State) : Host.Outcome State Fault Refusal :=
  .next (match Tbl.get s.inflight acc with
    | none => s
    | some a =>
      match a.target, a.op with
      | .control off, .store bs =>
        if accReady s acc a then irrevWrite (controlStore (dropAccess s acc) off bs) a.blk (2 ^ 63 + off) bs.length else s
      | .control _, _ => dropAccess s acc
      | _, _ => performAccess s acc)

/-- REGISTER_WRITE (R12): a host write of 4 or 8 bytes of a window. -/
def execRegisterWrite (path : HostPath) (reg : HostReg) (value : DWord) (s : State) : Host.Outcome State Fault Refusal :=
  .next (match reg with
    | .management off wide => if mmioOpen s then regStore s 256 off (bytesLE (if wide then 8 else 4) value.toNat) else s
    | .valeWindow vale off wide =>
      match hostAccess s path vale true 0 off value.toNat with
      | (s, true) => regStore s vale off (bytesLE (if wide then 8 else 4) value.toNat)
      | (s, false) => s)

end Sys2Proof.Machine
end

