-- ==== Sys2Proof/Machine/Sys.lean ====
section
/-! DEFINITION. The privileged instructions of handler and firmware waves (R273 to R277), the launch of handler waves (R465
to R467) and the progress watchdog (R473). -/
namespace Sys2Proof.Machine

/-! ## Origin lanes -/

/-- A faulted lane with its wave. -/
abbrev OriginLane := Nat × LaneFault

/-- Order of arrival, then of lanes (R465). -/
def arrivesBefore (a b : OriginLane) : Bool :=
  decide (a.2.seq < b.2.seq) || (decide (a.2.seq = b.2.seq) && decide (a.2.lane < b.2.lane))

/-- Inserts in order of arrival. -/
def insertOrigin (x : OriginLane) : List OriginLane → List OriginLane
  | [] => [x]
  | y :: t => if arrivesBefore x y then x :: y :: t else y :: insertOrigin x t

/-- The faulted lanes of waves that pass a test, in order of arrival (R465). -/
def faultedLanes (s : State) (p : Wave → LaneFault → Bool) : List OriginLane :=
  s.waves.foldl (fun acc e => match e.2.trap with
    | none => acc
    | some t => (t.lanes.filter (p e.2)).foldl (fun acc f => insertOrigin (e.1, f) acc) acc) []

/-- The origin lanes of a handler wave: entry L is O(L) (R273). -/
def originsOf (s : State) (h : Nat) : List OriginLane := faultedLanes s (fun _ f => decide (f.handler = some h))

/-- O(L) of a handler wave. -/
def originLane (s : State) (h l : Nat) : Option OriginLane := (originsOf s h)[l]?

/-- Changes the fault of one origin lane. -/
def modOrigin (s : State) (w lane : Nat) (f : LaneFault → LaneFault) : State :=
  s.modWave w (fun x => { x with trap := x.trap.map (fun t => { t with lanes := t.lanes.map (fun y => if y.lane = lane then f y else y) }) })

/-- Records a resolution for the origin lanes of the lanes that take part (R276, R468). -/
def runResolve (i : Instr) (r : Resolution) (s : State) : Host.Outcome State Fault Refusal :=
  runWave i (fun s w wv =>
    let s := (lanesOf wv.part).foldl (fun s l => match originLane s w l with
      | some (ow, f) => modOrigin s ow f.lane (fun y => if y.choice.isSome then y else { y with choice := some r })
      | none => s) s
    s.setWave w (wv.advance 4)) s

/-- RESUMEL.RETRY (R276). -/
def execResumelRetry (o : VaFields) (s : State) : Host.Outcome State Fault Refusal := runResolve (.resumelRetry o) .retry s

/-- RESUMEL.SKIP (R276). -/
def execResumelSkip (o : VaFields) (s : State) : Host.Outcome State Fault Refusal := runResolve (.resumelSkip o) .skip s

/-- KILLL (R276). -/
def execKilll (o : VaFields) (s : State) : Host.Outcome State Fault Refusal := runResolve (.killl o) .kill s

/-- A word of ORIGIN.TAG (R275). -/
def tagWord (s : State) (p : OriginLane) (j : Nat) : Word :=
  let w := Tbl.get s.waves p.1
  let pc := ((w.bind (fun (x : Wave) => x.trap)).map (fun t => t.at_.pc)).getD 0
  match j with
  | 0 =>
    let core := (w.map (fun (x : Wave) => x.core)).getD 0
    let slot := (w.map (fun (x : Wave) => x.slot)).getD 0
    BitVec.ofNat 32 (core % 4096 + slot % 128 * 2 ^ 12 + p.2.lane * 2 ^ 19 + p.2.cause.toNat * 2 ^ 24)
  | 1 => loWord pc
  | 2 => hiWord pc
  | _ => p.2.detail

/-- ORIGIN.TAG (R275). A scalar destination shows the highest lane that takes part (DESIGN CHOICE, log 94; so for every ORIGIN). -/
def execOriginTag (o : VaFields) (s : State) : Host.Outcome State Fault Refusal :=
  runWave (.originTag o) (fun s w wv =>
    let x := (lanesOf wv.part).foldl (fun x l => match originLane s w l with
      | some p => (natsFrom 0 4).foldl (fun x j => x.wr (o.d + BitVec.ofNat 7 j) [l] (fun _ => tagWord s p j)) x
      | none => x) wv
    s.setWave w (x.advance 4)) s

/-- ORIGIN.ADDR (R275). -/
def execOriginAddr (o : VaFields) (s : State) : Host.Outcome State Fault Refusal :=
  runWave (.originAddr o) (fun s w wv =>
    let addr (f : LaneFault) : DWord :=
      if f.cause = cXlate || f.cause = cProtect || f.cause = cAlign || f.cause = cPoison then f.addr else 0
    let x := (lanesOf wv.part).foldl (fun x l => match originLane s w l with
      | some p => x.wr64 o.d [l] (fun _ => addr p.2)
      | none => x) wv
    s.setWave w (x.advance 4)) s

/-- Whether a register code names a register of the origin wave (R275). -/
def codeOk (s : State) (p : OriginLane) (k : Nat) : Bool :=
  match Tbl.get s.waves p.1 with
  | some x => (decide (k < 96) && decide (k < 8 * x.held)) || (decide (96 ≤ k) && decide (k ≤ 135))
  | none => false

/-- Reads a coded register of an origin lane (R275). -/
def originRead (s : State) (p : OriginLane) (k : Nat) : Word :=
  match Tbl.get s.waves p.1 with
  | none => 0
  | some x =>
    if k < 96 then x.rdV k p.2.lane
    else if k < 128 then x.rdS (k - 96)
    else if x.predBit (k - 128) p.2.lane then 1 else 0

/-- Writes a coded register of an origin lane (R275). -/
def originWrite (s : State) (p : OriginLane) (k : Nat) (v : Word) : State :=
  s.modWave p.1 (fun x =>
    if k < 96 then x.wrV k p.2.lane v
    else if k < 128 then x.wrS (k - 96) v
    else x.wrPred (k - 128) [p.2.lane] (fun _ => v.getLsbD 0))

/-- Lanes whose code names no register of their origin wave (R275). -/
def badCodes (s : State) (w : Nat) (wv : Wave) (a : RegField) : List Nat :=
  (lanesOf wv.part).filter (fun l => match originLane s w l with
    | some p => !codeOk s p ((wv.rd a l).toNat % 256)
    | none => true)

/-- Whether lane L of a handler wave reads a poisoned word by a code (R515): the coded register of O(L). -/
def originPoisoned (s : State) (w : Nat) (k l : Nat) : Bool :=
  match originLane s w l with
  | some p => decide (k < 128) && (Tbl.get s.waves p.1).any (fun x => x.poison.contains (if k < 96 then vCell k p.2.lane else sCell (k - 96)))
  | none => false

/-- ORIGIN.REG (R275): a lane that reads a poisoned word, its code's or the coded one, reads zero and consumes it (R515). -/
def execOriginReg (o : VaFields) (s : State) : Host.Outcome State Fault Refusal :=
  runWave (.originReg o) (fun s w wv =>
    let bad := badCodes s w wv o.a
    let code (l : Nat) : Nat := (wv.rd o.a l).toNat % 256
    let ok := (lanesOf wv.part).filter (fun l => !bad.contains l)
    let pois := ok.filter (fun l => wv.rdPoison o.a l || originPoisoned s w (code l) l)
    let x := ok.foldl (fun x l => match originLane s w l with
      | some p => x.wr o.d [l] (fun _ => if pois.contains l then 0 else originRead s p (code l))
      | none => x) wv
    let s := if bad = [] then s.setWave w (x.advance 4)
      else raiseLanes (s.setWave w x) w x 4 (bad.map (fun l => laneFault l cField 0 0))
    consumePoison s w wv.pos (pois.map (fun l => (l, 0)))) s

/-- SSET (R275): in ascending handler-lane order; a lane that reads a poisoned word writes nothing and consumes it (R515). -/
def execSset (o : VaFields) (s : State) : Host.Outcome State Fault Refusal :=
  runWave (.sset o) (fun s w wv =>
    let bad := badCodes s w wv o.a
    let ok := (lanesOf wv.part).filter (fun l => !bad.contains l)
    let pois := poisonedLanes wv [o.a, o.b] ok
    let s := (ok.filter (fun l => !pois.contains l)).foldl (fun s l => match originLane s w l with
      | some p => originWrite s p ((wv.rd o.a l).toNat % 256) (wv.rd o.b l)
      | none => s) s
    let s := if bad = [] then s.setWave w (wv.advance 4)
      else raiseLanes s w wv 4 (bad.map (fun l => laneFault l cField 0 0))
    consumePoison s w wv.pos (pois.map (fun l => (l, 0)))) s

/-- RTH (R276, R467): a release at VALE scope, and the end of the wave. -/
def execRth (o : VaFields) (s : State) : Host.Outcome State Fault Refusal :=
  runOnce (.rth o) [] (fun s w wv => if releaseWaits s w wv s.nextId 3 false then s else endSlotWave s w wv) s

/-- CKPT (R277): names a cut at least 64 ticks ahead, unless one is pending. -/
def execCkpt (o : VaFields) (s : State) : Host.Outcome State Fault Refusal :=
  runOnce (.ckpt o) [o.a, o.a + 1] (fun s w wv =>
    let c := (wv.scal64 o.a).toNat
    let ok := decide (s.tod.toNat + 64 ≤ c) &&
      (match s.vd? wv.vale wv.vd with
        | some d => d.cut.isNone
        | none => false)
    let s := if ok then s.modVd wv.vale wv.vd (fun d => nameCut d c false) else s
    s.setWave w ((wv.wrPred o.d.toNat (lanesOf wv.part) (fun _ => ok)).advance 4)) s

/-- GENERATION_SCRUB (R122): the scrub of a VD on a core, or of its lines in the core's glen, finishes; waiting takes are served. -/
def execGenerationScrub (core vd : Nat) (s : State) : Host.Outcome State Fault Refusal :=
  let s := scrubDone s core (vd / 16) (vd % 16)
  .next ((blocksOnCore s core).foldl (fun s e => (natsFrom 0 32).foldl (fun s t => serveTakes e.1 t s.takes.length s) s) s)
where
  /-- The blocks of a core. -/
  blocksOnCore (s : State) (core : Nat) : List (Nat × Block) := s.blocks.filter (fun e => decide (e.2.core = core))

/-! ## Launching handler waves -/

/-- Whether an origin wave's faulted lanes may be delivered: its earlier instructions have completed and its accesses are
performed (R467, R490), and it is not a speculative task (R369). -/
def deliverable (s : State) (wid : Nat) (wv : Wave) : Bool :=
  allComplete wv && !releaseWaits s wid { wv with outst := [] } s.nextId 3 false && !s.speculative wv

/-- HANDLER_LAUNCH (R465 to R467): the first lanes of a job that are unbound in a glen start a handler wave on a free
handler slot of a core of the glen. -/
def execHandlerLaunch (glen job core : Nat) (s : State) : Host.Outcome State Fault Refusal :=
  .next (match Tbl.get s.jobs job with
    | none => s
    | some j =>
      let ready := (s.waves.filter (fun e => decide (e.2.job = job) && decide (e.2.kind = .ordinary) && decide (glenOfCore e.2.core = glen) &&
        deliverable s e.1 e.2)).map (fun e => e.1)
      let ls := (faultedLanes s (fun x f => decide (x.job = job) && decide (x.kind = .ordinary) && decide (glenOfCore x.core = glen) &&
        f.handler.isNone && !f.resolved)).filter (fun p => ready.contains p.1)
      let ls := ls.take 16
      let runs := vdIssues s j.vale j.vd || (vdServed s j.vale j.vd && !cutHalted s j.vale j.vd && jobSaving s job)
      if ls = [] || decide (trapPc j.card = 0) || decide (glenOfCore core ≠ glen) || decide (256 ≤ glen) || (s.core? core).handler.isSome || !runs then s
      else
        let (h, s) := s.fresh
        let s := ls.foldl (fun s p => modOrigin s p.1 p.2.lane (fun y => { y with handler := some h })) s
        let w := freshHandler j.vale j.vd job core (trapPc j.card) (maskOf (natsFrom 0 ls.length)) s.turns
        let s := dropL1 { s with waves := Tbl.set s.waves h w } core j.vale j.vd
        s.modCore core (fun c => { c with handler := some h }))
where
  /-- A handler wave as it starts (R466). -/
  freshHandler (vale vd job core pc : Nat) (lanes : Mask) (turn : Nat) : Wave :=
    { kind := .handler, vale := vale, vd := vd, job := job, blk := 0, index := 0, core := core, slot := 0xFF, role := 0, held := 4,
      pos := ⟨BitVec.ofNat 64 pc, none⟩, replay := none, active := lanes, helper := 0, exited := 0, returned := 0, lpair := [],
      depth := 0, stack := [], v := [], s := [], p := [], poison := [], outst := [], wait := none, trap := none, late := [],
      wdog := [], lastIssue := turn, yielded := false, ended := false, issued := 0, queueOf := 0, reread := false, bindFirst := false }

/-! ## The watchdog -/

/-- The watchdog's limit in ticks (R473). -/
def watchdogLimit : Nat := 60000000

/-- What the lowest stalled lane waits on: the KIND codes of R472. A lane that is not active is a pending path. -/
def stallKind (w : Wave) (lane : Nat) : Nat :=
  let take := w.outst.any (fun o => match o.op with
    | .rtake _ _ => true
    | _ => false)
  if !hasLane w.active lane then 0
  else match w.wait.filter (fun _ => w.standing) with
  | some (.bar _ _ _) => 1
  | some (.cbar _ _ _) => 1
  | some (.fork _ _ _ _ _) => 1
  | some (.waitge _ _ _) => 3
  | some (.mwait _ _ _) => 3
  | some .irrevocable => 3
  | some _ => 4
  | none => if take then 2 else 4

/-- Lanes whose count has reached the limit (R473). -/
def stalledLanes (w : Wave) : List Nat := allLanes.filter (fun l => decide (watchdogLimit ≤ (Tbl.get w.wdog l).getD 0))

/-- The PC at which a lane waits: the wave's own for an active lane, else that of the uppermost entry it waits under, for a lane that has
returned its CALL entry (R255, R473). -/
def lanePc (w : Wave) (l : Nat) : DWord :=
  if hasLane w.active l then w.pos.pc
  else match w.stack.find? (fun e => hasLane e.mask l && (decide (e.kind = .call) || !hasLane w.returned l)) with
    | some e => e.pc
    | none => w.pos.pc

/-- The instruction a wave stands at and the place after it (R468): past the header, where one is due; none where it cannot be fetched. -/
def standsAt (s : State) (w : Wave) : Option (Pos × Pos) :=
  let word (a : DWord) : Option Word := match (fetchWord s w.cacheCore w.vale w.vd a).2 with
    | .ok x => some x
    | .error _ => none
  let at_ : Option Pos := match w.pos.clause with
    | some _ => some w.pos
    | none => (word w.pos.pc).map (fun h => ⟨w.pos.pc + 4, some (clauseOf w.pos.pc h)⟩)
  at_.bind (fun p => (word p.pc).map (fun x => (p, p.after (if hasLiteral x then 8 else 4))))

/-- The record of R473. -/
def progressRec (wv : Wave) (st : List Nat) : ErrRec :=
  let pc := lanePc wv (st.headD 0)
  { ErrRec.blank cProgress 1 (some wv.vale) (some wv.vd) with
    core := wv.core, slot := wv.slot, pc := wv.pos.pc.toNat, lanes := wv.active.toNat, unit := 0
    detail := trapDetail 3 (stallKind wv (st.headD 0)) (maskOf st).toNat 0 pc.toNat }

/-- WATCHDOG_EXPIRY (R473): a lane's count has reached 100 ms; PROGRESS is raised at the wave's next issue slot, which a wave in
SLEEP has when the sleep ends, unless a fault of the wave is already detected (R478). -/
def execWatchdogExpiry (wave : Nat) (s : State) : Host.Outcome State Fault Refusal :=
  .next (match Tbl.get s.waves wave with
    | none => s
    | some wv =>
      let st := stalledLanes wv
      let asleep := match wv.wait with
        | some (.sleep _) => wv.standing
        | _ => false
      if st = [] || asleep || wv.ended || wv.trap.isSome || decide (wv.late ≠ []) || !allComplete wv || !canIssue s wv then s
      else
        let s := record s (progressRec wv st)
        let x := { wv with wdog := [], wait := if wv.standing then none else wv.wait }
        let fs (m : Mask) : List LaneFault := (lanesOf m).map (fun l => laneFault l cProgress 0 0)
        match wv.wait.filter (fun _ => wv.standing), standsAt s wv with
        | some y, _ => raiseAt s.tod.toNat s wave x wv.pos wv.pos wv.replay (.wait y) none (fs wv.active)
        | none, some p => raise s wave x p.1 ((wv.replay.map (fun r => r.cont)).getD p.2) .instr none (fs wv.arriving)
        | none, none => raiseFetch s wave x cProgress 0 0)

end Sys2Proof.Machine
end

