-- ==== Sys2Proof/Machine/Operands.lean ====
section
/-! DEFINITION. Operand forms: sources that are registers, pairs or literals (R174 to R178, R212), and the frames of the
one-, two- and three-source lane operations over them. -/
namespace Sys2Proof.Machine

/-- The second source: the literal, or register B (R176). -/
def srcB (o : VaFields) (w : Wave) (l : Nat) : Word :=
  match o.lit with
  | some x => x
  | none => w.rd o.b l

/-- The second source as a pair: the literal sign-extended, or the pair B (R176). -/
def srcB64 (o : VaFields) (w : Wave) (l : Nat) : DWord :=
  match o.lit with
  | some x => x.signExtend 64
  | none => w.rd64 o.b l

/-- The register fields the second source reads. -/
def usesB (o : VaFields) : List RegField := if o.lit.isSome then [] else [o.b]

/-- The register fields the second source reads as a pair. -/
def usesB64 (o : VaFields) : List RegField := if o.lit.isSome then [] else [o.b, o.b + 1]

/-- The second source of a compare (R179). -/
def srcBc (o : VcFields) (w : Wave) (l : Nat) : Word :=
  match o.lit with
  | some x => x
  | none => w.rd o.b l

/-- The register fields a compare reads. -/
def usesC (o : VcFields) : List RegField := if o.lit.isSome then [o.a] else [o.a, o.b]

/-- A one-source operation on 32 bits (R212). -/
def alu1 (i : Instr) (o : VaFields) (f : Word → Word) (s : State) : Host.Outcome State Fault Refusal :=
  runAlu i [o.a] (some (o.d, 1)) (fun _ w ls => w.wr o.d ls (fun l => f (w.rd o.a l))) s

/-- A two-source operation on 32 bits (R212). -/
def alu2 (i : Instr) (o : VaFields) (f : Word → Word → Word) (s : State) : Host.Outcome State Fault Refusal :=
  runAlu i (o.a :: usesB o) (some (o.d, 1)) (fun _ w ls => w.wr o.d ls (fun l => f (w.rd o.a l) (srcB o w l))) s

/-- A two-source operation that accumulates into its destination (R177). -/
def alu2acc (i : Instr) (o : VaFields) (f : Word → Word → Word → Word) (s : State) : Host.Outcome State Fault Refusal :=
  runAlu i (o.a :: o.d :: usesB o) (some (o.d, 1))
    (fun _ w ls => w.wr o.d ls (fun l => f (w.rd o.a l) (srcB o w l) (w.rd o.d l))) s

/-- A two-source operation on pairs (R217). -/
def alu64 (i : Instr) (o : VaFields) (f : DWord → DWord → DWord) (s : State) : Host.Outcome State Fault Refusal :=
  runAlu i (o.a :: (o.a + 1) :: usesB64 o) (some (o.d, 2))
    (fun _ w ls => w.wr64 o.d ls (fun l => f (w.rd64 o.a l) (srcB64 o w l))) s

/-- A three-source X-form (R178). -/
def alu3 (i : Instr) (o : VaFields) (f : Word → Word → Word → Word) (s : State) : Host.Outcome State Fault Refusal :=
  runAlu i [o.a, o.b, o.xc] (some (o.d, 1))
    (fun _ w ls => w.wr o.d ls (fun l => f (w.rd o.a l) (w.rd o.b l) (w.rd o.xc l))) s

end Sys2Proof.Machine
end

