-- ==== Sys2Proof/Machine/Flags.lean ====
section
/-! DEFINITION. Predicates, the part's only condition bits: compare conditions (R239), how a compare combines with its
predicate, predicate logic (R240), votes (R243) and the status predicate of FORK and CKPT (R57, R277). -/
namespace Sys2Proof.Machine

/-- An ICMP condition (R239). -/
def icmpHolds (cond : Nat) (a b : Word) : Bool :=
  match cond with
  | 0 => decide (a = b)
  | 1 => decide (a ≠ b)
  | 2 => decide (a.toInt < b.toInt)
  | 3 => decide (a.toInt ≤ b.toInt)
  | 4 => decide (b.toInt < a.toInt)
  | 5 => decide (b.toInt ≤ a.toInt)
  | 8 => decide (a = b)
  | 9 => decide (a ≠ b)
  | 10 => decide (a.toNat < b.toNat)
  | 11 => decide (a.toNat ≤ b.toNat)
  | 12 => decide (b.toNat < a.toNat)
  | 13 => decide (b.toNat ≤ a.toNat)
  | _ => false

/-- An FCMP condition on FP32 values (R239). -/
def fcmpHolds (cond : Nat) (a b : Word) : Bool :=
  let x := valOf fp32 a.toNat
  let y := valOf fp32 b.toNat
  match cond with
  | 0 => eqV x y
  | 1 => !eqV x y
  | 2 => ltV x y
  | 3 => ltV x y || eqV x y
  | 4 => ltV y x
  | 5 => ltV y x || eqV x y
  | 6 => !x.isNan && !y.isNan
  | 7 => x.isNan || y.isNan
  | _ => false

/-- How a result combines with the destination predicate (R239): set, AND, OR. -/
def combine (m : BitVec 2) (old c : Bool) : Bool :=
  match m.toNat with
  | 0 => c
  | 1 => old && c
  | _ => old || c

/-- PLOP's logic (R240): AND, OR, XOR. -/
def plopOf (m : BitVec 2) (a b : Bool) : Bool :=
  match m.toNat with
  | 0 => a && b
  | 1 => a || b
  | _ => a ^^ b

/-- A source predicate with its inversion in bit 3 (R240, R243). -/
def predSrc (w : Wave) (f : RegField) (l : Nat) : Bool := w.predBit (f.toNat % 8) l ^^ f.getLsbD 3

/-- Writes a status predicate in every lane that takes part (R57, R270, R277). -/
def Wave.setStatus (w : Wave) (f : RegField) (lanes : List Nat) (ok : Bool) : Wave := w.wrPred (f.toNat % 8) lanes (fun _ => ok)

end Sys2Proof.Machine
end

