-- ==== Sys2Proof/Machine/Trans.lean ====
section
/-! DEFINITION. FEXP2, FLOG2, FSINPI and FCOSPI (R83, R233): the exact result rounded once. Exact cases are taken apart;
every other result is irrational, so an interval around it, narrowed until both ends round alike, gives its rounding. -/
namespace Sys2Proof.Machine

/-- Sum of z^(2k+1) / (2k+1), signs alternating when `alt`, at p fraction bits: the term z^(2k+1) is `t`, z squared `zz`. -/
def oddSeries (alt : Bool) (zz p : Nat) : Nat → Nat → Nat → Bool → Int → Int
  | 0, _, _, _, acc => acc
  | fuel + 1, t, k, minus, acc =>
    let term : Int := (t / (2 * k + 1) : Nat)
    let acc := if minus then acc - term else acc + term
    oddSeries alt zz p fuel (t * zz / 2 ^ p) (k + 1) (alt && !minus) acc

/-- ln 2 at p fraction bits: 2 atanh(1/3). -/
def ln2At (p : Nat) : Int := 2 * oddSeries false (2 ^ p / 9) p p (2 ^ p / 3) 0 false 0

/-- Pi at p fraction bits: 16 atan(1/5) - 4 atan(1/239). -/
def piAt (p : Nat) : Int :=
  16 * oddSeries true (2 ^ p / 25) p p (2 ^ p / 5) 0 false 0 -
    4 * oddSeries true (2 ^ p / 57121) p p (2 ^ p / 239) 0 false 0

/-- Sum of y^k / k! at p fraction bits. -/
def expSeries (y p : Nat) : Nat → Nat → Nat → Nat → Nat
  | 0, _, _, acc => acc
  | fuel + 1, t, k, acc => expSeries y p fuel (t * y / 2 ^ p / k) (k + 1) (acc + t)

/-- Sum of (-1)^k y^(2k+1) / (2k+1)! at p fraction bits. -/
def sinSeries (yy p : Nat) : Nat → Nat → Nat → Bool → Int → Int
  | 0, _, _, _, acc => acc
  | fuel + 1, t, k, minus, acc =>
    let acc := if minus then acc - (t : Int) else acc + (t : Int)
    sinSeries yy p fuel (t * yy / 2 ^ p / ((2 * k + 2) * (2 * k + 3))) (k + 1) (!minus) acc

/-- The FP32 pattern both ends of an interval round to, if they agree: centre and radius over 2^p, times 2^e. -/
def agree (neg : Bool) (c : Int) (r : Nat) (p : Nat) (e : Int) : Option Nat :=
  let lo := c - r
  if lo ≤ 0 then none
  else
    let x := rne fp32 (Val.scaled neg lo.toNat (e - p))
    let y := rne fp32 (Val.scaled neg (c + r).toNat (e - p))
    if x = y then some x else none

/-- The first answer of a function over rising precisions. -/
def firstAgree (f : Nat → Option Nat) : Nat :=
  match f 384 with
  | some x => x
  | none => match f 768 with
    | some x => x
    | none => (f 1536).getD 0

/-- 2^x for a finite x (R233). -/
def exp2Pat (s : Bool) (n d : Nat) : Nat :=
  if n = 0 then 0x3F800000
  else if (if s then 160 else 130) * d ≤ n then (if s then 0 else 0x7F800000)
  else
    let q : Int := (sNum s n).fdiv d
    let r : Nat := (sNum s n - q * d).toNat
    if r = 0 then rne fp32 (Val.scaled false 1 q)
    else firstAgree (fun p =>
      let y := (r * (ln2At p).toNat / d)
      agree false (expSeries y p p (2 ^ p) 1 0) (8 * p) p q)

/-- FEXP2 (R233). -/
def fexp2Pat (a : Nat) : Nat :=
  match valOf fp32 a with
  | .nan => 0x7FC00000
  | .inf s => if s then 0 else 0x7F800000
  | .fin s n d => exp2Pat s n d

/-- FLOG2 (R233). -/
def flog2Pat (a : Nat) : Nat :=
  match valOf fp32 a with
  | .nan => 0x7FC00000
  | .inf s => if s then 0x7FC00000 else 0x7F800000
  | .fin s n d =>
    if n = 0 then 0xFF800000
    else if s then 0x7FC00000
    else
      let e := log2Frac n d
      let num := if 0 ≤ e then n else n * 2 ^ (-e).toNat
      let den := if 0 ≤ e then d * 2 ^ e.toNat else d
      if num = den then rne fp32 (Val.ofInt e)
      else firstAgree (fun p =>
        let z := (num - den) * 2 ^ p / (num + den)
        let l := 2 * oddSeries false (z * z / 2 ^ p) p p z 0 false 0
        let v := l * 2 ^ p / ln2At p + e * 2 ^ p
        agree (decide (v < 0)) v.natAbs (64 * p) p 0)

/-- sin(pi r) for r = n / d between 0 and 1/2, as a pattern with the sign given. -/
def sinHalf (neg : Bool) (n d : Nat) : Nat :=
  if n = 0 then (if neg then 0x80000000 else 0)
  else if 2 * n = d then (if neg then 0xBF800000 else 0x3F800000)
  else firstAgree (fun p =>
    let y := (n * (piAt p).toNat / d)
    agree neg (sinSeries (y * y / 2 ^ p) p (p / 2) y 0 false 0) (64 * p) p 0)

/-- sin(pi x) for a positive fraction n / d; the zero of an integer has the sign `zneg`. -/
def sinFrac (neg zneg : Bool) (n d : Nat) : Nat :=
  let m := n % (2 * d)
  if m % d = 0 then (if zneg then 0x80000000 else 0)
  else
    let flip := decide (d < m)
    let r := m % d
    let r := if d < 2 * r then d - r else r
    sinHalf (neg ^^ flip) r d

/-- FSINPI (R233). -/
def fsinpiPat (a : Nat) : Nat :=
  match valOf fp32 a with
  | .nan => 0x7FC00000
  | .inf _ => 0x7FC00000
  | .fin s n d => if n = 0 then a else sinFrac s s n d

/-- FCOSPI (R233): cos(pi x) = sin(pi (|x| + 1/2)), whose zeros are +0. -/
def fcospiPat (a : Nat) : Nat :=
  match valOf fp32 a with
  | .nan => 0x7FC00000
  | .inf _ => 0x7FC00000
  | .fin _ n d => sinFrac false false (2 * n + d) (2 * d)

end Sys2Proof.Machine
end

