-- ==== Sys2Proof/Machine/VecFp.lean ====
section
/-! DEFINITION. Meanings of the floating-point, conversion, packing and dot-product instructions (R230 to R238). -/
namespace Sys2Proof.Machine

/-- FADD (R230). -/
def execFadd (o : VaFields) (s : State) : Host.Outcome State Fault Refusal := alu2 (.fadd o) o (fp2 o.m addV) s

/-- FSUB (R230). -/
def execFsub (o : VaFields) (s : State) : Host.Outcome State Fault Refusal :=
  alu2 (.fsub o) o (fp2 o.m (fun a b => addV a b.negate)) s

/-- FMUL (R230). -/
def execFmul (o : VaFields) (s : State) : Host.Outcome State Fault Refusal := alu2 (.fmul o) o (fp2 o.m mulV) s

/-- FMA (R230): one rounding. -/
def execFma (o : VaFields) (s : State) : Host.Outcome State Fault Refusal :=
  alu2acc (.fma o) o (fp3 o.m (fun a b d => addV (mulV a b) d)) s

/-- FMIN (R231, R82). -/
def execFmin (o : VaFields) (s : State) : Host.Outcome State Fault Refusal := alu2 (.fmin o) o (fp2 o.m minV) s

/-- FMAX (R231, R82). -/
def execFmax (o : VaFields) (s : State) : Host.Outcome State Fault Refusal := alu2 (.fmax o) o (fp2 o.m maxV) s

/-- FNEG on one element (R231). -/
def fnegPat (f : Fmt) (x : Nat) : Nat :=
  if (valOf f x).isNan then f.nanPat else if x < f.signBit then x + f.signBit else x - f.signBit

/-- FABS on one element (R231). -/
def fabsPat (f : Fmt) (x : Nat) : Nat := if (valOf f x).isNan then f.nanPat else x % f.signBit

/-- FNEG (R231). -/
def execFneg (o : VaFields) (s : State) : Host.Outcome State Fault Refusal := alu1 (.fneg o) o (fp1 o.m fnegPat) s

/-- FABS (R231). -/
def execFabs (o : VaFields) (s : State) : Host.Outcome State Fault Refusal := alu1 (.fabs o) o (fp1 o.m fabsPat) s

/-- FRND (R232). -/
def execFrnd (o : VaFields) (s : State) : Host.Outcome State Fault Refusal :=
  alu1 (.frnd o) o (fun a => BitVec.ofNat 32 (rne fp32 (frndV (valOf fp32 a.toNat) (rmodeOf o.m)))) s

/-- A correctly rounded FP32 function of one source (R233). -/
def fpFun (f : Val → Val) (a : Word) : Word := BitVec.ofNat 32 (rne fp32 (f (valOf fp32 a.toNat)))

/-- FRCP (R233). -/
def execFrcp (o : VaFields) (s : State) : Host.Outcome State Fault Refusal := alu1 (.frcp o) o (fpFun rcpV) s

/-- FSQRT (R233). -/
def execFsqrt (o : VaFields) (s : State) : Host.Outcome State Fault Refusal := alu1 (.fsqrt o) o (fpFun sqrtV) s

/-- FRSQ (R233). -/
def execFrsq (o : VaFields) (s : State) : Host.Outcome State Fault Refusal := alu1 (.frsq o) o (fpFun rsqrtV) s

/-- FDIV (R233). -/
def execFdiv (o : VaFields) (s : State) : Host.Outcome State Fault Refusal := alu2 (.fdiv o) o (fp2 0 divV) s

/-- FEXP2 (R233). -/
def execFexp2 (o : VaFields) (s : State) : Host.Outcome State Fault Refusal :=
  alu1 (.fexp2 o) o (fun a => BitVec.ofNat 32 (fexp2Pat a.toNat)) s

/-- FLOG2 (R233). -/
def execFlog2 (o : VaFields) (s : State) : Host.Outcome State Fault Refusal :=
  alu1 (.flog2 o) o (fun a => BitVec.ofNat 32 (flog2Pat a.toNat)) s

/-- FSINPI (R233). -/
def execFsinpi (o : VaFields) (s : State) : Host.Outcome State Fault Refusal :=
  alu1 (.fsinpi o) o (fun a => BitVec.ofNat 32 (fsinpiPat a.toNat)) s

/-- FCOSPI (R233). -/
def execFcospi (o : VaFields) (s : State) : Host.Outcome State Fault Refusal :=
  alu1 (.fcospi o) o (fun a => BitVec.ofNat 32 (fcospiPat a.toNat)) s

/-- FCLASS (R234). -/
def execFclass (o : VaFields) (s : State) : Host.Outcome State Fault Refusal := alu1 (.fclass o) o (fp1 o.m classOf) s

/-- CVT on a source (R236): a pair source in `a64`, the mode, and the result, whose high word a pair destination takes. -/
def cvtOf (code : Nat) (m : RMode) (a : Word) (a64 : DWord) : DWord :=
  let v32 := valOf fp32 a.toNat
  let toF (f : Fmt) (sat : Bool) : DWord := BitVec.ofNat 64 (convertF v32 f m sat)
  let fromF (f : Fmt) (bits : Nat) : DWord := BitVec.ofNat 64 (rne fp32 (valOf f (a.toNat % 2 ^ bits)))
  let ofI (x : Int) : DWord := BitVec.ofNat 64 (convertF (Val.ofInt x) fp32 m false)
  let toI (lo hi : Int) : DWord := dwordOfInt (convertI v32 lo hi m)
  let w (x : Int) : DWord := BitVec.ofNat 64 (wrapInt x 32)
  match code with
  | 0x00 => fromF fp16 16
  | 0x01 => fromF bf16 16
  | 0x02 => fromF e4m3 8
  | 0x03 => fromF e5m2 8
  | 0x04 => fromF e2m1 4
  | 0x08 => toF fp16 false
  | 0x09 => toF fp16 true
  | 0x0A => toF bf16 false
  | 0x0B => toF bf16 true
  | 0x0C => toF e4m3 false
  | 0x0D => toF e4m3 true
  | 0x0E => toF e5m2 false
  | 0x0F => toF e5m2 true
  | 0x10 => toF e2m1 true
  | 0x18 => ofI a.toInt
  | 0x19 => ofI a.toNat
  | 0x1A => ofI a64.toInt
  | 0x1B => ofI a64.toNat
  | 0x1C => toI (-(2 ^ 31 : Nat)) ((2 ^ 31 : Nat) - 1)
  | 0x1D => toI 0 ((2 ^ 32 : Nat) - 1)
  | 0x1E => toI (-(2 ^ 63 : Nat)) ((2 ^ 63 : Nat) - 1)
  | 0x1F => toI 0 ((2 ^ 64 : Nat) - 1)
  | 0x20 => w (sextNat a.toNat 8)
  | 0x21 => w (clampInt a.toInt (-128) 127)
  | 0x22 => w (a.toNat % 2 ^ 8 : Nat)
  | 0x23 => w (clampInt a.toInt 0 255)
  | 0x24 => w (sextNat a.toNat 16)
  | 0x25 => w (clampInt a.toInt (-32768) 32767)
  | 0x26 => w (a.toNat % 2 ^ 16 : Nat)
  | 0x27 => w (clampInt a.toInt 0 65535)
  | 0x28 => w a64.toInt
  | 0x29 => w (clampInt a64.toInt (-(2 ^ 31 : Nat)) ((2 ^ 31 : Nat) - 1))
  | 0x2A => a.signExtend 64
  | 0x2B => a.setWidth 64
  | _ => w (clampInt a.toInt 0 ((2 ^ 31 : Nat) - 1))

/-- CVT (R235, R236). -/
def execCvt (o : VaFields) (s : State) : Host.Outcome State Fault Refusal :=
  let (sn, dn) := (cvtWidths o.b.toNat).getD (1, 1)
  let r (w : Wave) (l : Nat) : DWord := cvtOf o.b.toNat (rmodeOf o.m) (w.rd o.a l) (w.rd64 o.a l)
  runAlu (.cvt o) (if sn = 2 then [o.a, o.a + 1] else [o.a]) (some (o.d, dn))
    (fun _ w ls => if dn = 2 then w.wr64 o.d ls (r w) else w.wr o.d ls (fun l => loWord (r w l))) s

/-- PACK (R237). -/
def packW (m : BitVec 2) (a b : Word) : Word :=
  let f := if m = 0 then fp16 else bf16
  if m = 2 then BitVec.ofNat 32 (b.toNat % 2 ^ 16 * 2 ^ 16 + a.toNat % 2 ^ 16)
  else BitVec.ofNat 32 (rne f (valOf fp32 b.toNat) * 2 ^ 16 + rne f (valOf fp32 a.toNat))

/-- PACK (R237). -/
def execPack (o : VaFields) (s : State) : Host.Outcome State Fault Refusal := alu2 (.pack o) o (packW o.m) s

/-- DOT4 (R238). -/
def dot4W (m : BitVec 2) (a b d : Word) : Word :=
  let x (k : Nat) : Int := if m = 1 then (a.toNat / 2 ^ (8 * k) % 256 : Nat) else sextNat (a.toNat / 2 ^ (8 * k)) 8
  let y (k : Nat) : Int := if m = 0 then sextNat (b.toNat / 2 ^ (8 * k)) 8 else (b.toNat / 2 ^ (8 * k) % 256 : Nat)
  wordOfInt (d.toInt + x 0 * y 0 + x 1 * y 1 + x 2 * y 2 + x 3 * y 3)

/-- DOT4 (R238). -/
def execDot4 (o : VaFields) (s : State) : Host.Outcome State Fault Refusal := alu2acc (.dot4 o) o (dot4W o.m) s

/-- DOT2F (R238): exact sum, one rounding. -/
def dot2fW (m : BitVec 2) (a b d : Word) : Word :=
  let f := if m = 0 then fp16 else bf16
  let p (k : Nat) : Val := mulV (valOf f (a.toNat / 2 ^ (16 * k) % 2 ^ 16)) (valOf f (b.toNat / 2 ^ (16 * k) % 2 ^ 16))
  BitVec.ofNat 32 (rne fp32 (addV (addV (valOf fp32 d.toNat) (p 0)) (p 1)))

/-- DOT2F (R238). -/
def execDot2f (o : VaFields) (s : State) : Host.Outcome State Fault Refusal := alu2acc (.dot2f o) o (dot2fW o.m) s

end Sys2Proof.Machine
end

