-- ==== Sys2Proof/Machine/VecInt.lean ====
section
/-! DEFINITION. Meanings of the integer, logic, shift and bit-field instructions of the VEC class (R215 to R229). -/
namespace Sys2Proof.Machine

/-- Adds or subtracts integers of n bits in the form M selects (R216, R217): wrap, signed or unsigned saturation. -/
def addSub (sub : Bool) (m : BitVec 2) (n : Nat) (a b : Nat) : Nat :=
  let op (x y : Int) : Int := if sub then x - y else x + y
  match m.toNat with
  | 0 => wrapInt (op a b) n
  | 1 => wrapInt (clampInt (op (sextNat a n) (sextNat b n)) (-(2 ^ (n - 1) : Nat)) ((2 ^ (n - 1) : Nat) - 1)) n
  | _ => wrapInt (clampInt (op a b) 0 ((2 ^ n : Nat) - 1)) n

/-- A source under the signedness M selects (R218, R219): 0 signed, 1 unsigned. -/
def signed (m : BitVec 2) (x : Word) : Int := if m = 0 then x.toInt else (x.toNat : Int)

/-- Signed or unsigned quotient with the results of R73. -/
def divW (m : BitVec 2) (a b : Word) : Word :=
  if m = 0 then (if b = 0 then BitVec.allOnes 32 else wordOfInt (a.toInt.tdiv b.toInt))
  else if b = 0 then BitVec.allOnes 32 else BitVec.ofNat 32 (a.toNat / b.toNat)

/-- Signed or unsigned remainder with the results of R73. -/
def remW (m : BitVec 2) (a b : Word) : Word :=
  if b = 0 then a
  else if m = 0 then wordOfInt (a.toInt.tmod b.toInt) else BitVec.ofNat 32 (a.toNat % b.toNat)

/-- The bits of a word from bit 0 up. -/
def wordBits : List Nat := natsFrom 0 32

/-- The word whose bit k is `f k`. -/
def wordOfBits (f : Nat → Bool) : Word := wordBits.foldl (fun x k => if f k then x ||| BitVec.ofNat 32 (2 ^ k) else x) 0

/-- LOP3 (R224). -/
def lop3W (tbl : BitVec 8) (a b c : Word) : Word :=
  wordOfBits (fun k => tbl.getLsbD (4 * bit1 (a.getLsbD k) + 2 * bit1 (b.getLsbD k) + bit1 (c.getLsbD k)))

/-- Number of 1 bits (R228). -/
def popcW (a : Word) : Word := BitVec.ofNat 32 (wordBits.filter (fun k => a.getLsbD k)).length

/-- Leading zeros (R228). -/
def clzW (a : Word) : Word := if a = 0 then 32 else BitVec.ofNat 32 (31 - Nat.log2 a.toNat)

/-- Bit k moved to bit 31 - k (R228). -/
def brevW (a : Word) : Word := wordOfBits (fun k => a.getLsbD (31 - k))

/-- Index of the lowest 1 bit, 32 for zero (R228). -/
def ffsW (a : Word) : Word :=
  match wordBits.find? (fun k => a.getLsbD k) with
  | some k => BitVec.ofNat 32 k
  | none => 32

/-- The position and length of a field specification (R227). -/
def fieldSpec (x : Word) : Nat × Nat := (bitsOf x.toNat 7 0, min (bitsOf x.toNat 15 8) 32)

/-- BFX (R227). -/
def bfxW (m : BitVec 2) (a spec : Word) : Word :=
  let (p, n) := fieldSpec spec
  if n = 0 then 0
  else
    let x : Int := if m = 1 then a.toInt else a.toNat
    let t := wrapInt (x / ((2 ^ p : Nat) : Int)) n
    if m = 1 then wordOfInt (sextNat t n) else BitVec.ofNat 32 t

/-- BFI (R227). -/
def bfiW (a b spec : Word) : Word :=
  let (p, n) := fieldSpec spec
  let mask : Word := BitVec.ofNat 32 ((2 ^ n - 1) * 2 ^ p)
  (a &&& ~~~mask) ||| (BitVec.ofNat 32 (b.toNat * 2 ^ p) &&& mask)

/-- FUNNEL (R226). -/
def funnelW (m : BitVec 2) (a b c : Word) : Word :=
  let x := a.toNat * 2 ^ 32 + b.toNat
  let s := c.toNat % 32
  if m = 0 then BitVec.ofNat 32 (x / 2 ^ s) else BitVec.ofNat 32 (x * 2 ^ s / 2 ^ 32)

/-- PERMB (R229). -/
def permbW (a b c : Word) : Word :=
  let x := a.toNat + b.toNat * 2 ^ 32
  let byte (k : Nat) : Nat :=
    let sel := bitsOf c.toNat (4 * k + 3) (4 * k)
    let y := x / 2 ^ (8 * (sel % 8)) % 256
    if 8 ≤ sel then (if 128 ≤ y then 255 else 0) else y
  BitVec.ofNat 32 (byte 0 + byte 1 * 2 ^ 8 + byte 2 * 2 ^ 16 + byte 3 * 2 ^ 24)

/-- NOP (R215): only occupies its issue slot. -/
def execNop (o : VaFields) (s : State) : Host.Outcome State Fault Refusal :=
  runAlu (.nop o) [] none (fun _ w _ => w) s

/-- MOV (R215). -/
def execMov (o : VaFields) (s : State) : Host.Outcome State Fault Refusal :=
  if o.m = 1 then
    runAlu (.mov o) (if o.lit.isSome then [] else [o.a, o.a + 1]) (some (o.d, 2))
      (fun _ w ls => w.wr64 o.d ls (fun l => match o.lit with
        | some x => x.signExtend 64
        | none => w.rd64 o.a l)) s
  else
    runAlu (.mov o) (if o.lit.isSome then [] else [o.a]) (some (o.d, 1))
      (fun _ w ls => w.wr o.d ls (fun l => o.lit.getD (w.rd o.a l))) s

/-- IADD (R216). -/
def execIadd (o : VaFields) (s : State) : Host.Outcome State Fault Refusal :=
  alu2 (.iadd o) o (fun a b => BitVec.ofNat 32 (addSub false o.m 32 a.toNat b.toNat)) s

/-- ISUB (R216). -/
def execIsub (o : VaFields) (s : State) : Host.Outcome State Fault Refusal :=
  alu2 (.isub o) o (fun a b => BitVec.ofNat 32 (addSub true o.m 32 a.toNat b.toNat)) s

/-- IMUL (R218). -/
def execImul (o : VaFields) (s : State) : Host.Outcome State Fault Refusal := alu2 (.imul o) o (fun a b => a * b) s

/-- IMULH (R218). -/
def execImulh (o : VaFields) (s : State) : Host.Outcome State Fault Refusal :=
  alu2 (.imulh o) o (fun a b => wordOfInt (signed o.m a * signed o.m b / ((2 ^ 32 : Nat) : Int))) s

/-- IMAD (R218). -/
def execImad (o : VaFields) (s : State) : Host.Outcome State Fault Refusal :=
  alu2acc (.imad o) o (fun a b d => a * b + d) s

/-- IMULW (R219). -/
def execImulw (o : VaFields) (s : State) : Host.Outcome State Fault Refusal :=
  runAlu (.imulw o) (o.a :: usesB o) (some (o.d, 2))
    (fun _ w ls => w.wr64 o.d ls (fun l => dwordOfInt (signed o.m (w.rd o.a l) * signed o.m (srcB o w l)))) s

/-- IMADW (R219). -/
def execImadw (o : VaFields) (s : State) : Host.Outcome State Fault Refusal :=
  runAlu (.imadw o) (o.a :: o.d :: (o.d + 1) :: usesB o) (some (o.d, 2))
    (fun _ w ls => w.wr64 o.d ls (fun l =>
      dwordOfInt (signed o.m (w.rd o.a l) * signed o.m (srcB o w l)) + w.rd64 o.d l)) s

/-- IADD64 (R217). -/
def execIadd64 (o : VaFields) (s : State) : Host.Outcome State Fault Refusal :=
  alu64 (.iadd64 o) o (fun a b => BitVec.ofNat 64 (addSub false o.m 64 a.toNat b.toNat)) s

/-- ISUB64 (R217). -/
def execIsub64 (o : VaFields) (s : State) : Host.Outcome State Fault Refusal :=
  alu64 (.isub64 o) o (fun a b => BitVec.ofNat 64 (addSub true o.m 64 a.toNat b.toNat)) s

/-- The shift of LEA's modifier (R220). -/
def leaShift (m : BitVec 2) : Nat := if m = 0 then 0 else m.toNat + 1

/-- LEA (R220). -/
def execLea (o : VaFields) (s : State) : Host.Outcome State Fault Refusal :=
  runAlu (.lea o) (o.a :: (o.a + 1) :: usesB o) (some (o.d, 2))
    (fun _ w ls => w.wr64 o.d ls (fun l => w.rd64 o.a l + ((srcB o w l).signExtend 64 <<< leaShift o.m))) s

/-- IMIN (R221). -/
def execImin (o : VaFields) (s : State) : Host.Outcome State Fault Refusal :=
  alu2 (.imin o) o (fun a b => if signed o.m b < signed o.m a then b else a) s

/-- IMAX (R221). -/
def execImax (o : VaFields) (s : State) : Host.Outcome State Fault Refusal :=
  alu2 (.imax o) o (fun a b => if signed o.m a < signed o.m b then b else a) s

/-- IABS (R221). -/
def execIabs (o : VaFields) (s : State) : Host.Outcome State Fault Refusal :=
  alu1 (.iabs o) o (fun a => if o.m = 1 && a = 0x80000000 then 0x7FFFFFFF else wordOfInt a.toInt.natAbs) s

/-- IDIV (R222, R73). -/
def execIdiv (o : VaFields) (s : State) : Host.Outcome State Fault Refusal := alu2 (.idiv o) o (divW o.m) s

/-- IREM (R222, R73). -/
def execIrem (o : VaFields) (s : State) : Host.Outcome State Fault Refusal := alu2 (.irem o) o (remW o.m) s

/-- AND (R223). -/
def execAnd (o : VaFields) (s : State) : Host.Outcome State Fault Refusal := alu2 (.and o) o (fun a b => a &&& b) s

/-- OR (R223). -/
def execOr (o : VaFields) (s : State) : Host.Outcome State Fault Refusal := alu2 (.or o) o (fun a b => a ||| b) s

/-- XOR (R223). -/
def execXor (o : VaFields) (s : State) : Host.Outcome State Fault Refusal := alu2 (.xor o) o (fun a b => a ^^^ b) s

/-- ANDN (R223). -/
def execAndn (o : VaFields) (s : State) : Host.Outcome State Fault Refusal := alu2 (.andn o) o (fun a b => a &&& ~~~b) s

/-- LOP3 (R224). -/
def execLop3 (o : VaFields) (s : State) : Host.Outcome State Fault Refusal := alu3 (.lop3 o) o (lop3W o.ximm) s

/-- SHL (R225): 32 or more gives zero. -/
def execShl (o : VaFields) (s : State) : Host.Outcome State Fault Refusal :=
  alu2 (.shl o) o (fun a b => if b.toNat < 32 then a <<< b.toNat else 0) s

/-- SHRL (R225). -/
def execShrl (o : VaFields) (s : State) : Host.Outcome State Fault Refusal :=
  alu2 (.shrl o) o (fun a b => if b.toNat < 32 then a >>> b.toNat else 0) s

/-- SHRA (R225): saturates at 31. -/
def execShra (o : VaFields) (s : State) : Host.Outcome State Fault Refusal :=
  alu2 (.shra o) o (fun a b => a.sshiftRight (min b.toNat 31)) s

/-- ROTL (R225). -/
def execRotl (o : VaFields) (s : State) : Host.Outcome State Fault Refusal :=
  alu2 (.rotl o) o (fun a b => a.rotateLeft (b.toNat % 32)) s

/-- FUNNEL (R226). -/
def execFunnel (o : VaFields) (s : State) : Host.Outcome State Fault Refusal := alu3 (.funnel o) o (funnelW o.m) s

/-- BFX (R227). -/
def execBfx (o : VaFields) (s : State) : Host.Outcome State Fault Refusal := alu2 (.bfx o) o (bfxW o.m) s

/-- BFI (R227). -/
def execBfi (o : VaFields) (s : State) : Host.Outcome State Fault Refusal := alu3 (.bfi o) o bfiW s

/-- POPC (R228). -/
def execPopc (o : VaFields) (s : State) : Host.Outcome State Fault Refusal := alu1 (.popc o) o popcW s

/-- CLZ (R228). -/
def execClz (o : VaFields) (s : State) : Host.Outcome State Fault Refusal := alu1 (.clz o) o clzW s

/-- BREV (R228). -/
def execBrev (o : VaFields) (s : State) : Host.Outcome State Fault Refusal := alu1 (.brev o) o brevW s

/-- FFS (R228). -/
def execFfs (o : VaFields) (s : State) : Host.Outcome State Fault Refusal := alu1 (.ffs o) o ffsW s

/-- PERMB (R229). -/
def execPermb (o : VaFields) (s : State) : Host.Outcome State Fault Refusal := alu3 (.permb o) o permbW s

end Sys2Proof.Machine
end

