-- ==== Sys2Proof/Machine/VecLane.lean ====
section
/-! DEFINITION. Meanings of the compares, predicate, selection, cross-lane and register-indexing instructions (R239 to
R251) and of DDX and DDY (R348). -/
namespace Sys2Proof.Machine

/-- ICMP (R239). -/
def execIcmp (o : VcFields) (s : State) : Host.Outcome State Fault Refusal :=
  runAlu (.icmp o) (usesC o) none (fun _ w ls =>
    w.wrPred o.pd.toNat ls (fun l => combine o.m (w.predBit o.pd.toNat l) (icmpHolds o.cond.toNat (w.rd o.a l) (srcBc o w l)))) s

/-- FCMP (R239). -/
def execFcmp (o : VcFields) (s : State) : Host.Outcome State Fault Refusal :=
  runAlu (.fcmp o) (usesC o) none (fun _ w ls =>
    w.wrPred o.pd.toNat ls (fun l => combine o.m (w.predBit o.pd.toNat l) (fcmpHolds o.cond.toNat (w.rd o.a l) (srcBc o w l)))) s

/-- PLOP (R240). -/
def execPlop (o : VaFields) (s : State) : Host.Outcome State Fault Refusal :=
  runAlu (.plop o) [] none (fun _ w ls =>
    w.wrPred (o.d.toNat % 8) ls (fun l => plopOf o.m (predSrc w o.a l) (predSrc w o.b l))) s

/-- SEL (R241): a uniform SEL reads its selector from the lowest lane that takes part (R214), as `wr` does. -/
def execSel (o : VaFields) (s : State) : Host.Outcome State Fault Refusal :=
  runAlu (.sel o) [o.a, o.b] (some (o.d, 1)) (fun _ w ls =>
    w.wr o.d ls (fun l => if w.predBit o.xp.toNat l ^^ o.xpn then w.rd o.a l else w.rd o.b l)) s

/-- PMOV.TOREG (R242). -/
def execPmovToreg (o : VaFields) (s : State) : Host.Outcome State Fault Refusal :=
  runAlu (.pmovToreg o) [] (some (o.d, 1)) (fun _ w ls =>
    w.wr o.d ls (fun l => BitVec.ofNat 32 ((natsFrom 0 8).foldl (fun x k => x + bit1 (w.predBit k l) * 2 ^ k) 0))) s

/-- PMOV.FROMREG (R242). -/
def execPmovFromreg (o : VaFields) (s : State) : Host.Outcome State Fault Refusal :=
  runAlu (.pmovFromreg o) [o.a] none (fun _ w ls =>
    (natsFrom 0 8).foldl (fun x k => x.wrPred k ls (fun l => (w.rd o.a l).getLsbD k)) w) s

/-- VOTE.ANY (R243). -/
def execVoteAny (o : VaFields) (s : State) : Host.Outcome State Fault Refusal :=
  runAlu (.voteAny o) [] none (fun _ w ls => w.wrPred (o.d.toNat % 8) ls (fun _ => ls.any (predSrc w o.a))) s

/-- VOTE.ALL (R243). -/
def execVoteAll (o : VaFields) (s : State) : Host.Outcome State Fault Refusal :=
  runAlu (.voteAll o) [] none (fun _ w ls => w.wrPred (o.d.toNat % 8) ls (fun _ => ls.all (predSrc w o.a))) s

/-- VOTE.BALLOT (R243). -/
def execVoteBallot (o : VaFields) (s : State) : Host.Outcome State Fault Refusal :=
  runAlu (.voteBallot o) [] (some (o.d, 1)) (fun _ w ls =>
    w.wr o.d ls (fun _ => (maskOf (ls.filter (predSrc w o.a))).setWidth 32)) s

/-- MATCH (R244): a lane's result is of every lane's word, so that one poisoned word is read in every lane (DESIGN CHOICE, log 115). -/
def execMatchLanes (o : VaFields) (s : State) : Host.Outcome State Fault Refusal :=
  runAluBy (.matchLanes o) (fun w ls => if poisonedLanes w (if o.m = 1 then [o.a, o.a + 1] else [o.a]) ls = [] then [] else ls) (some (o.d, 1)) (fun _ w ls =>
    let same (x y : Nat) : Bool := decide (w.rd o.a x = w.rd o.a y) && (o.m = 0 || decide (w.rdN o.a 1 x = w.rdN o.a 1 y))
    w.wr o.d ls (fun l => (maskOf (ls.filter (same l))).setWidth 32)) s

/-- The lane SHFL reads (R245). -/
def shflLane (m : BitVec 2) (l : Nat) (b : Word) : Nat :=
  let n := b.toNat
  match m.toNat with
  | 0 => n % 16
  | 1 => if n ≤ l then l - n else l
  | 2 => if l + n ≤ 15 then l + n else l
  | _ => l ^^^ (n % 16)

/-- SHFL (R245). -/
def execShfl (o : VaFields) (s : State) : Host.Outcome State Fault Refusal :=
  runAluBy (.shfl o)
    (fun w ls => ls.filter (fun l => (usesB o).any (fun f => w.rdPoison f l) || w.rdPoison o.a (shflLane o.m l (srcB o w l)))) (some (o.d, 1)) (fun _ w ls =>
    w.wr o.d ls (fun l => w.rd o.a (shflLane o.m l (srcB o w l)))) s

/-- SCAN and REDUCE's operation (R246). -/
def scanOp (m : BitVec 2) (x y : Word) : Word :=
  match m.toNat with
  | 0 => x + y
  | 1 => if x.toInt < y.toInt then y else x
  | 2 => if y.toInt < x.toInt then y else x
  | _ => faddW x y

/-- The exclusive identity (R246). -/
def scanId (m : BitVec 2) : Word :=
  match m.toNat with
  | 1 => 0x80000000
  | 2 => 0x7FFFFFFF
  | _ => 0

/-- First(x) of R246. -/
def scanFirst (m : BitVec 2) (x : Word) : Word := if m = 3 && (valOf fp32 x.toNat).isNan then 0x7FC00000 else x

/-- The inclusive and exclusive results of a scan, lane by lane, and the total (R246). -/
def scanLanes (m : BitVec 2) (x : Nat → Word) : List Nat → Option Word → List (Nat × Word × Word)
  | [], _ => []
  | l :: t, acc =>
    let y := match acc with
      | none => scanFirst m (x l)
      | some a => scanOp m a (x l)
    (l, y, acc.getD (scanId m)) :: scanLanes m x t (some y)

/-- A lane's result in a scan: inclusive, or exclusive. -/
def scanAt (r : List (Nat × Word × Word)) (excl : Bool) (l : Nat) : Word :=
  match r.find? (fun e => decide (e.1 = l)) with
  | some e => if excl then e.2.2 else e.2.1
  | none => 0

/-- SCAN (R246): a lane's result is of the words of the lanes up to it (DESIGN CHOICE for poison among them, log 115). -/
def execScan (o : VaFields) (s : State) : Host.Outcome State Fault Refusal :=
  runAluBy (.scan o) (fun w ls => ls.filter (fun l => ls.any (fun k => decide (k ≤ l) && w.rdPoison o.a k))) (some (o.d, 1)) (fun _ w ls =>
    w.wr o.d ls (scanAt (scanLanes o.m (fun l => w.rd o.a l) ls none) (decide (o.b = 1)))) s

/-- REDUCE (R246): every lane's result is of every lane's word, so that one poisoned word is read in every lane, as a SCAN reads it in its
last lane (DESIGN CHOICE, log 115). -/
def execReduce (o : VaFields) (s : State) : Host.Outcome State Fault Refusal :=
  runAluBy (.reduce o) (fun w ls => if ls.any (w.rdPoison o.a) then ls else []) (some (o.d, 1)) (fun _ w ls =>
    let r := scanLanes o.m (fun l => w.rd o.a l) ls none
    let total := match r.getLast? with
      | some e => e.2.1
      | none => 0
    w.wr o.d ls (fun _ => total)) s

/-- ELECT (R247): the lowest lane that is no helper. -/
def execElect (o : VaFields) (s : State) : Host.Outcome State Fault Refusal :=
  runAlu (.elect o) [] none (fun _ w ls =>
    let best := ls.find? (fun l => !hasLane w.helper l)
    w.wrPred (o.d.toNat % 8) ls (fun l => decide (best = some l))) s

/-- V2S.FIRST (R248). -/
def execV2sFirst (o : VaFields) (s : State) : Host.Outcome State Fault Refusal :=
  runAluBy (.v2sFirst o) (fun w ls => poisonedLanes w [o.a] (ls.take 1)) (some (o.d, 1)) (fun _ w ls => w.wr o.d ls (fun l => w.rd o.a l)) s

/-- V2S.LANE (R248). -/
def execV2sLane (o : VaFields) (s : State) : Host.Outcome State Fault Refusal :=
  runAluBy (.v2sLane o)
    (fun w ls => (ls.take 1).filter (fun l => (usesB o).any (fun f => w.rdPoison f l) || w.rdPoison o.a ((srcB o w l).toNat % 16))) (some (o.d, 1)) (fun _ w ls =>
    w.wr o.d ls (fun l => w.rd o.a ((srcB o w l).toNat % 16))) s

/-- The lanes of MOVX whose index reaches beyond the allocation fault REG_INDEX (R249, R487). -/
def movxFaults (o : VaFields) (w : Wave) : List LaneFault :=
  ((lanesOf w.part).filter (fun l => decide (8 * w.held ≤ o.a.toNat + (srcB o w l).toNat))).map
    (fun l => laneFault l cIndex (srcB o w l) 0)

/-- MOVX runs its lanes in range, and the others fault (R249, R463); a lane that reads poison moves zero and consumes it
(R515). -/
def runMovx (i : Instr) (o : VaFields) (poisoned : Wave → Nat → Bool) (f : Wave → List Nat → (Nat → Bool) → Wave) (s : State) :
    Host.Outcome State Fault Refusal :=
  runWave i (fun s w wv =>
    let fs := movxFaults o wv
    let ok := (lanesOf wv.part).filter (fun l => !fs.any (fun e => decide (e.lane = l)))
    let bad := if wv.poison = [] then [] else ok.filter (poisoned wv)
    let x := f wv ok bad.contains
    let s := if fs = [] then s.setWave w (x.advance (instrBytes i)) else raiseLanes s w x (instrBytes i) fs
    consumePoison s w wv.pos (bad.map (fun l => (l, 0)))) s

/-- Whether a lane of MOVX reads a poisoned index (R515). -/
def movxIndexBad (o : VaFields) (w : Wave) (l : Nat) : Bool := (usesB o).any (fun f => w.rdPoison f l)

/-- MOVX.RD (R249). -/
def execMovxRd (o : VaFields) (s : State) : Host.Outcome State Fault Refusal :=
  runMovx (.movxRd o) o (fun w l => movxIndexBad o w l || w.poison.contains (vCell (o.a.toNat + (srcB o w l).toNat) l))
    (fun w ls bad => w.wr o.d ls (fun l => if bad l then 0 else w.rdV (o.a.toNat + (srcB o w l).toNat) l)) s

/-- MOVX.WR (R249): every lane reads before any lane writes (R37). -/
def execMovxWr (o : VaFields) (s : State) : Host.Outcome State Fault Refusal :=
  runMovx (.movxWr o) o (fun w l => movxIndexBad o w l || w.rdPoison o.d l)
    (fun w ls bad => ls.foldl (fun x l => x.wrV (o.a.toNat + (srcB o w l).toNat) l (if bad l then 0 else w.rd o.d l)) w) s

/-- CFRONT of a wave's job (R366), zero outside an ORDERED job (R251). -/
def cfront (s : State) (w : Wave) : DWord :=
  match Tbl.get s.jobs w.job with
  | none => 0
  | some j => match j.ord with
    | none => 0
    | some o => frontierTs s j o

/-- A special register of a prologue (R53, R250): its one lane is active, and what no core or block gives it is free, within the
range R250 states (log 92). -/
def launchSreg (s : State) (code : Nat) : Word :=
  let x := Config.launchSreg code s.turns
  match code with
  | 4 => BitVec.ofNat 32 (x.toNat % 4096)
  | 5 => BitVec.ofNat 32 (x.toNat % 256)
  | 15 => BitVec.ofNat 32 (1 + x.toNat % 12)
  | 17 => 0
  | 18 => 1
  | _ => x

/-- Whether a code's value comes from a core or a block (R250). -/
def placedSreg (code : Nat) : Bool := [1, 2, 3, 4, 5, 14, 15, 16, 17, 18].contains code

/-- A special register by its code, in a lane (R250, R251, R466). -/
def sregOf (s : State) (w : Wave) (code l : Nat) : Word :=
  let blk := Tbl.get s.blocks w.blk
  let cl := cardField (s.cardOf w.job) 0x18 42 38
  let own (x : Nat) : Word := if w.kind = .ordinary then BitVec.ofNat 32 x else 0
  let ts := ((s.taskOf w).map (fun t => t.2.ts)).getD 0
  if w.kind = .prologue && placedSreg code then launchSreg s code
  else match code with
  | 0 => BitVec.ofNat 32 l
  | 1 => own w.index
  | 2 => own ((blk.map (fun b => b.rank)).getD 0)
  | 3 => own ((blk.map (fun b => b.record.toNat)).getD 0 / max cl 1)
  | 4 => BitVec.ofNat 32 w.core
  | 5 => BitVec.ofNat 32 (glenOfCore w.core)
  | 6 => BitVec.ofNat 32 (w.born.getD (w.vale, w.vd)).1
  | 7 => BitVec.ofNat 32 (w.born.getD (w.vale, w.vd)).2
  | 8 => loWord s.tod
  | 9 => hiWord s.tod
  | 10 => if w.kind = .ordinary then loWord (cfront s w) else 0
  | 11 => if w.kind = .ordinary then hiWord (cfront s w) else 0
  | 12 => loWord ts
  | 13 => hiWord ts
  | 14 => own ((blk.map (fun b => b.record.toNat)).getD 0)
  | 15 => BitVec.ofNat 32 w.held
  | 16 => own w.role
  | 17 => if w.kind = .ordinary then w.helper.setWidth 32 else 0
  | _ => if w.kind = .ordinary then w.active.setWidth 32 else 0

/-- SREG (R250). -/
def execSreg (o : VaFields) (s : State) : Host.Outcome State Fault Refusal :=
  runAlu (.sreg o) [] (some (o.d, 1)) (fun s w ls => w.wr o.d ls (sregOf s w o.b.toNat)) s

/-- The two lanes of a quad DDX and DDY take the difference of (R348): low, high. -/
def quadLanes (vertical : Bool) (l : Nat) : Nat × Nat :=
  let q := l / 4 * 4
  if vertical then (q + l % 2, q + l % 2 + 2) else (q + l % 4 / 2 * 2, q + l % 4 / 2 * 2 + 1)

/-- The difference across a quad, with FSUB's formats (R348). -/
def quadDiff (o : VaFields) (vertical : Bool) (w : Wave) (ls : List Nat) : Wave :=
  w.wr o.d ls (fun l =>
    let (lo, hi) := quadLanes vertical l
    fp2 o.m (fun a b => addV a b.negate) (w.rd o.a hi) (w.rd o.a lo))

/-- DDX and DDY, which are of the COV class: TASK in a speculative task (R358), otherwise the difference (R348). -/
def runQuad (i : Instr) (o : VaFields) (vertical : Bool) (s : State) : Host.Outcome State Fault Refusal :=
  runWave i (fun s w wv =>
    if s.speculative wv then raiseInstr s w wv i cTask 0
    else aluWaveBy i (fun w ls => ls.filter (fun l => w.rdPoison o.a (quadLanes vertical l).1 || w.rdPoison o.a (quadLanes vertical l).2))
      (some (o.d, 1)) (fun _ w ls => quadDiff o vertical w ls) s w wv) s

/-- DDX (R348). -/
def execDdx (o : VaFields) (s : State) : Host.Outcome State Fault Refusal := runQuad (.ddx o) o false s

/-- DDY (R348). -/
def execDdy (o : VaFields) (s : State) : Host.Outcome State Fault Refusal := runQuad (.ddy o) o true s

end Sys2Proof.Machine
end

