-- ==== Sys2Proof/Machine/Dispatch.lean ====
section
/-! DEFINITION. The dispatcher: one arm per constructor of Instr, each one direct call of its meaning. -/
namespace Sys2Proof.Machine

/-- Executes one instruction, event or request. -/
def exec (i : Instr) (s : State) : Host.Outcome State Fault Refusal :=
  match i with
  | .nop o => Sys2Proof.Machine.execNop o s
  | .mov o => Sys2Proof.Machine.execMov o s
  | .iadd o => Sys2Proof.Machine.execIadd o s
  | .isub o => Sys2Proof.Machine.execIsub o s
  | .imul o => Sys2Proof.Machine.execImul o s
  | .imulh o => Sys2Proof.Machine.execImulh o s
  | .imad o => Sys2Proof.Machine.execImad o s
  | .imulw o => Sys2Proof.Machine.execImulw o s
  | .imadw o => Sys2Proof.Machine.execImadw o s
  | .iadd64 o => Sys2Proof.Machine.execIadd64 o s
  | .isub64 o => Sys2Proof.Machine.execIsub64 o s
  | .lea o => Sys2Proof.Machine.execLea o s
  | .imin o => Sys2Proof.Machine.execImin o s
  | .imax o => Sys2Proof.Machine.execImax o s
  | .iabs o => Sys2Proof.Machine.execIabs o s
  | .idiv o => Sys2Proof.Machine.execIdiv o s
  | .irem o => Sys2Proof.Machine.execIrem o s
  | .and o => Sys2Proof.Machine.execAnd o s
  | .or o => Sys2Proof.Machine.execOr o s
  | .xor o => Sys2Proof.Machine.execXor o s
  | .andn o => Sys2Proof.Machine.execAndn o s
  | .lop3 o => Sys2Proof.Machine.execLop3 o s
  | .shl o => Sys2Proof.Machine.execShl o s
  | .shrl o => Sys2Proof.Machine.execShrl o s
  | .shra o => Sys2Proof.Machine.execShra o s
  | .rotl o => Sys2Proof.Machine.execRotl o s
  | .funnel o => Sys2Proof.Machine.execFunnel o s
  | .bfx o => Sys2Proof.Machine.execBfx o s
  | .bfi o => Sys2Proof.Machine.execBfi o s
  | .popc o => Sys2Proof.Machine.execPopc o s
  | .clz o => Sys2Proof.Machine.execClz o s
  | .brev o => Sys2Proof.Machine.execBrev o s
  | .ffs o => Sys2Proof.Machine.execFfs o s
  | .permb o => Sys2Proof.Machine.execPermb o s
  | .fadd o => Sys2Proof.Machine.execFadd o s
  | .fsub o => Sys2Proof.Machine.execFsub o s
  | .fmul o => Sys2Proof.Machine.execFmul o s
  | .fma o => Sys2Proof.Machine.execFma o s
  | .fmin o => Sys2Proof.Machine.execFmin o s
  | .fmax o => Sys2Proof.Machine.execFmax o s
  | .fneg o => Sys2Proof.Machine.execFneg o s
  | .fabs o => Sys2Proof.Machine.execFabs o s
  | .frnd o => Sys2Proof.Machine.execFrnd o s
  | .frcp o => Sys2Proof.Machine.execFrcp o s
  | .fsqrt o => Sys2Proof.Machine.execFsqrt o s
  | .frsq o => Sys2Proof.Machine.execFrsq o s
  | .fdiv o => Sys2Proof.Machine.execFdiv o s
  | .fexp2 o => Sys2Proof.Machine.execFexp2 o s
  | .flog2 o => Sys2Proof.Machine.execFlog2 o s
  | .fsinpi o => Sys2Proof.Machine.execFsinpi o s
  | .fcospi o => Sys2Proof.Machine.execFcospi o s
  | .fclass o => Sys2Proof.Machine.execFclass o s
  | .cvt o => Sys2Proof.Machine.execCvt o s
  | .pack o => Sys2Proof.Machine.execPack o s
  | .dot4 o => Sys2Proof.Machine.execDot4 o s
  | .dot2f o => Sys2Proof.Machine.execDot2f o s
  | .icmp o => Sys2Proof.Machine.execIcmp o s
  | .fcmp o => Sys2Proof.Machine.execFcmp o s
  | .plop o => Sys2Proof.Machine.execPlop o s
  | .sel o => Sys2Proof.Machine.execSel o s
  | .pmovToreg o => Sys2Proof.Machine.execPmovToreg o s
  | .pmovFromreg o => Sys2Proof.Machine.execPmovFromreg o s
  | .voteAny o => Sys2Proof.Machine.execVoteAny o s
  | .voteAll o => Sys2Proof.Machine.execVoteAll o s
  | .voteBallot o => Sys2Proof.Machine.execVoteBallot o s
  | .matchLanes o => Sys2Proof.Machine.execMatchLanes o s
  | .shfl o => Sys2Proof.Machine.execShfl o s
  | .scan o => Sys2Proof.Machine.execScan o s
  | .reduce o => Sys2Proof.Machine.execReduce o s
  | .elect o => Sys2Proof.Machine.execElect o s
  | .movxRd o => Sys2Proof.Machine.execMovxRd o s
  | .movxWr o => Sys2Proof.Machine.execMovxWr o s
  | .sreg o => Sys2Proof.Machine.execSreg o s
  | .v2sFirst o => Sys2Proof.Machine.execV2sFirst o s
  | .v2sLane o => Sys2Proof.Machine.execV2sLane o s
  | .ldS8 o => Sys2Proof.Machine.execLdS8 o s
  | .ldB8 o => Sys2Proof.Machine.execLdB8 o s
  | .ldS16 o => Sys2Proof.Machine.execLdS16 o s
  | .ldB16 o => Sys2Proof.Machine.execLdB16 o s
  | .ld32 o => Sys2Proof.Machine.execLd32 o s
  | .ld64 o => Sys2Proof.Machine.execLd64 o s
  | .ld128 o => Sys2Proof.Machine.execLd128 o s
  | .st8 o => Sys2Proof.Machine.execSt8 o s
  | .st16 o => Sys2Proof.Machine.execSt16 o s
  | .st32 o => Sys2Proof.Machine.execSt32 o s
  | .st64 o => Sys2Proof.Machine.execSt64 o s
  | .st128 o => Sys2Proof.Machine.execSt128 o s
  | .ldc o => Sys2Proof.Machine.execLdc o s
  | .atomAdd o => Sys2Proof.Machine.execAtomAdd o s
  | .atomSmin o => Sys2Proof.Machine.execAtomSmin o s
  | .atomSmax o => Sys2Proof.Machine.execAtomSmax o s
  | .atomBmin o => Sys2Proof.Machine.execAtomBmin o s
  | .atomBmax o => Sys2Proof.Machine.execAtomBmax o s
  | .atomAnd o => Sys2Proof.Machine.execAtomAnd o s
  | .atomOr o => Sys2Proof.Machine.execAtomOr o s
  | .atomXor o => Sys2Proof.Machine.execAtomXor o s
  | .atomXchg o => Sys2Proof.Machine.execAtomXchg o s
  | .atomCas o => Sys2Proof.Machine.execAtomCas o s
  | .atomFadd o => Sys2Proof.Machine.execAtomFadd o s
  | .atomAdd64 o => Sys2Proof.Machine.execAtomAdd64 o s
  | .atomCas64 o => Sys2Proof.Machine.execAtomCas64 o s
  | .stmap o => Sys2Proof.Machine.execStmap o s
  | .stunmap o => Sys2Proof.Machine.execStunmap o s
  | .stwb o => Sys2Proof.Machine.execStwb o s
  | .stdrop o => Sys2Proof.Machine.execStdrop o s
  | .prefetch o => Sys2Proof.Machine.execPrefetch o s
  | .fence o => Sys2Proof.Machine.execFence o s
  | .cntadd o => Sys2Proof.Machine.execCntadd o s
  | .bra o => Sys2Proof.Machine.execBra o s
  | .brx o => Sys2Proof.Machine.execBrx o s
  | .rcv o => Sys2Proof.Machine.execRcv o s
  | .join o => Sys2Proof.Machine.execJoin o s
  | .call o => Sys2Proof.Machine.execCall o s
  | .callx o => Sys2Proof.Machine.execCallx o s
  | .callxTail o => Sys2Proof.Machine.execCallxTail o s
  | .ret o => Sys2Proof.Machine.execRet o s
  | .exit o => Sys2Proof.Machine.execExit o s
  | .barArrive o => Sys2Proof.Machine.execBarArrive o s
  | .barWait o => Sys2Proof.Machine.execBarWait o s
  | .barSync o => Sys2Proof.Machine.execBarSync o s
  | .barInit o => Sys2Proof.Machine.execBarInit o s
  | .barexp o => Sys2Proof.Machine.execBarexp o s
  | .cbarArrive o => Sys2Proof.Machine.execCbarArrive o s
  | .cbarWait o => Sys2Proof.Machine.execCbarWait o s
  | .cbarSync o => Sys2Proof.Machine.execCbarSync o s
  | .waitge o => Sys2Proof.Machine.execWaitge o s
  | .mwait o => Sys2Proof.Machine.execMwait o s
  | .yield o => Sys2Proof.Machine.execYield o s
  | .sleep o => Sys2Proof.Machine.execSleep o s
  | .forkSuspend o => Sys2Proof.Machine.execForkSuspend o s
  | .forkDetach o => Sys2Proof.Machine.execForkDetach o s
  | .tspawn o => Sys2Proof.Machine.execTspawn o s
  | .tend o => Sys2Proof.Machine.execTend o s
  | .tabort o => Sys2Proof.Machine.execTabort o s
  | .tirrev o => Sys2Proof.Machine.execTirrev o s
  | .trap o => Sys2Proof.Machine.execTrap o s
  | .bkpt o => Sys2Proof.Machine.execBkpt o s
  | .cpy o => Sys2Proof.Machine.execCpy o s
  | .tcopy o => Sys2Proof.Machine.execTcopy o s
  | .tstore o => Sys2Proof.Machine.execTstore o s
  | .tgather o => Sys2Proof.Machine.execTgather o s
  | .ccopy o => Sys2Proof.Machine.execCcopy o s
  | .codewr o => Sys2Proof.Machine.execCodewr o s
  | .codeswap o => Sys2Proof.Machine.execCodeswap o s
  | .rgive o => Sys2Proof.Machine.execRgive o s
  | .rtake o => Sys2Proof.Machine.execRtake o s
  | .encpost o => Sys2Proof.Machine.execEncpost o s
  | .encframeOpen o => Sys2Proof.Machine.execEncframeOpen o s
  | .encframeClose o => Sys2Proof.Machine.execEncframeClose o s
  | .covbegin o => Sys2Proof.Machine.execCovbegin o s
  | .covline o => Sys2Proof.Machine.execCovline o s
  | .covquad o => Sys2Proof.Machine.execCovquad o s
  | .covcube o => Sys2Proof.Machine.execCovcube o s
  | .covtri o => Sys2Proof.Machine.execCovtri o s
  | .covres o => Sys2Proof.Machine.execCovres o s
  | .covend o => Sys2Proof.Machine.execCovend o s
  | .covpop o => Sys2Proof.Machine.execCovpop o s
  | .ddx o => Sys2Proof.Machine.execDdx o s
  | .ddy o => Sys2Proof.Machine.execDdy o s
  | .mxrd o => Sys2Proof.Machine.execMxrd o s
  | .mxwr o => Sys2Proof.Machine.execMxwr o s
  | .mxstat o => Sys2Proof.Machine.execMxstat o s
  | .resumelRetry o => Sys2Proof.Machine.execResumelRetry o s
  | .resumelSkip o => Sys2Proof.Machine.execResumelSkip o s
  | .killl o => Sys2Proof.Machine.execKilll o s
  | .originTag o => Sys2Proof.Machine.execOriginTag o s
  | .originAddr o => Sys2Proof.Machine.execOriginAddr o s
  | .originReg o => Sys2Proof.Machine.execOriginReg o s
  | .rth o => Sys2Proof.Machine.execRth o s
  | .sset o => Sys2Proof.Machine.execSset o s
  | .ckpt o => Sys2Proof.Machine.execCkpt o s
  | .mnop rest => Sys2Proof.Machine.execMnop rest s
  | .mteam mode tm1 first hreg z => Sys2Proof.Machine.execMteam mode tm1 first hreg z s
  | .mdesc slot mreg z off => Sys2Proof.Machine.execMdesc slot mreg z off s
  | .mzero kind z => Sys2Proof.Machine.execMzero kind z s
  | .mma da db ovw z => Sys2Proof.Machine.execMma da db ovw z s
  | .mmas da db ovw z => Sys2Proof.Machine.execMmas da db ovw z s
  | .mloop span count => Sys2Proof.Machine.execMloop span count s
  | .mloopMreg span z mreg => Sys2Proof.Machine.execMloopMreg span z mreg s
  | .mendl rest => Sys2Proof.Machine.execMendl rest s
  | .mbarw bar mreg inc z => Sys2Proof.Machine.execMbarw bar mreg inc z s
  | .mbara bar lag z => Sys2Proof.Machine.execMbara bar lag z s
  | .mset mreg imm => Sys2Proof.Machine.execMset mreg imm s
  | .madd mreg imm => Sys2Proof.Machine.execMadd mreg imm s
  | .mbuf slots z => Sys2Proof.Machine.execMbuf slots z s
  | .mfence rest => Sys2Proof.Machine.execMfence rest s
  | .mend rest => Sys2Proof.Machine.execMend rest s
  | .kstepRetire core => Sys2Proof.Machine.execKstepRetire core s
  | .teamClaim blk => Sys2Proof.Machine.execTeamClaim blk s
  | .generationScrub core vd => Sys2Proof.Machine.execGenerationScrub core vd s
  | .handlerLaunch glen job core => Sys2Proof.Machine.execHandlerLaunch glen job core s
  | .watchdogExpiry wave => Sys2Proof.Machine.execWatchdogExpiry wave s
  | .sleepWake wave => Sys2Proof.Machine.execSleepWake wave s
  | .monitorWake wave => Sys2Proof.Machine.execMonitorWake wave s
  | .commandAccept wave => Sys2Proof.Machine.execCommandAccept wave s
  | .copySectorWritten core cmd => Sys2Proof.Machine.execCopySectorWritten core cmd s
  | .commandRetire unit cmd => Sys2Proof.Machine.execCommandRetire unit cmd s
  | .covCommandRetire glen cmd => Sys2Proof.Machine.execCovCommandRetire glen cmd s
  | .bandEncoded glen frame => Sys2Proof.Machine.execBandEncoded glen frame s
  | .fetchCard vale vd queue => Sys2Proof.Machine.execFetchCard vale vd queue s
  | .pluginInvocation vale vd queue answer => Sys2Proof.Machine.execPluginInvocation vale vd queue answer s
  | .cardReady vale vd queue => Sys2Proof.Machine.execCardReady vale vd queue s
  | .prologueStart vale vd queue => Sys2Proof.Machine.execPrologueStart vale vd queue s
  | .dealChunk job glen => Sys2Proof.Machine.execDealChunk job glen s
  | .placeRound job slot => Sys2Proof.Machine.execPlaceRound job slot s
  | .jobRetire job => Sys2Proof.Machine.execJobRetire job s
  | .suspendWake blk => Sys2Proof.Machine.execSuspendWake blk s
  | .blockSaveDone blk => Sys2Proof.Machine.execBlockSaveDone blk s
  | .blockResume blk core => Sys2Proof.Machine.execBlockResume blk core s
  | .carveConversion core => Sys2Proof.Machine.execCarveConversion core s
  | .periodBoundary vale vd => Sys2Proof.Machine.execPeriodBoundary vale vd s
  | .switchoutCutTimeout vale vd => Sys2Proof.Machine.execSwitchoutCutTimeout vale vd s
  | .accountingWindow channel => Sys2Proof.Machine.execAccountingWindow channel s
  | .checkpointCut vale vd => Sys2Proof.Machine.execCheckpointCut vale vd s
  | .cutComplete vale vd => Sys2Proof.Machine.execCutComplete vale vd s
  | .rollbackDone vale vd => Sys2Proof.Machine.execRollbackDone vale vd s
  | .taskAdmit job glen => Sys2Proof.Machine.execTaskAdmit job glen s
  | .taskPlace job core => Sys2Proof.Machine.execTaskPlace job core s
  | .taskCommit job => Sys2Proof.Machine.execTaskCommit job s
  | .saddleUpdateApply die seq => Sys2Proof.Machine.execSaddleUpdateApply die seq s
  | .invalidationComplete idx => Sys2Proof.Machine.execInvalidationComplete idx s
  | .migrationDone idx => Sys2Proof.Machine.execMigrationDone idx s
  | .leaseStart idx => Sys2Proof.Machine.execLeaseStart idx s
  | .leaseEnd idx => Sys2Proof.Machine.execLeaseEnd idx s
  | .saveDrainTimeout blk => Sys2Proof.Machine.execSaveDrainTimeout blk s
  | .cutTimeout vale vd => Sys2Proof.Machine.execCutTimeout vale vd s
  | .commandTimeout unit cmd => Sys2Proof.Machine.execCommandTimeout unit cmd s
  | .colWatchdogTimeout glen => Sys2Proof.Machine.execColWatchdogTimeout glen s
  | .vdStopTimeout vale vd => Sys2Proof.Machine.execVdStopTimeout vale vd s
  | .glenScrubComplete glen ok => Sys2Proof.Machine.execGlenScrubComplete glen ok s
  | .glenFailure glen => Sys2Proof.Machine.execGlenFailure glen s
  | .memError err => Sys2Proof.Machine.execMemError err s
  | .patrolScrub sector corrected => Sys2Proof.Machine.execPatrolScrub sector corrected s
  | .linkCrcFail link => Sys2Proof.Machine.execLinkCrcFail link s
  | .linkRetrainTimeout link => Sys2Proof.Machine.execLinkRetrainTimeout link s
  | .passLinkDown link => Sys2Proof.Machine.execPassLinkDown link s
  | .fabricRead req => Sys2Proof.Machine.execFabricRead req s
  | .fabricPostedWrite req => Sys2Proof.Machine.execFabricPostedWrite req s
  | .fabricAtomic req => Sys2Proof.Machine.execFabricAtomic req s
  | .fabricPostedAtomic req => Sys2Proof.Machine.execFabricPostedAtomic req s
  | .fabricResponse idx resp => Sys2Proof.Machine.execFabricResponse idx resp s
  | .fabricResponseTimeout idx => Sys2Proof.Machine.execFabricResponseTimeout idx s
  | .fabricRekey peer => Sys2Proof.Machine.execFabricRekey peer s
  | .timeSyncMessage count own => Sys2Proof.Machine.execTimeSyncMessage count own s
  | .timeMasterTimeout => Sys2Proof.Machine.execTimeMasterTimeout s
  | .holdoverExpiry => Sys2Proof.Machine.execHoldoverExpiry s
  | .reset => Sys2Proof.Machine.execReset s
  | .bringUpStepDone out => Sys2Proof.Machine.execBringUpStepDone out s
  | .clockControl t => Sys2Proof.Machine.execClockControl t s
  | .thermalTrip die temp => Sys2Proof.Machine.execThermalTrip die temp s
  | .lcReq target token => Sys2Proof.Machine.execLcReq target token s
  | .limitWrite current value => Sys2Proof.Machine.execLimitWrite current value s
  | .alarmClear ones => Sys2Proof.Machine.execAlarmClear ones s
  | .registerWrite path reg value => Sys2Proof.Machine.execRegisterWrite path reg value s
  | .vdcWrite path vale vd off value => Sys2Proof.Machine.execVdcWrite path vale vd off value s
  | .vdcEnSet path vale vd off value => Sys2Proof.Machine.execVdcEnSet path vale vd off value s
  | .vdcEnClear path vale vd off value => Sys2Proof.Machine.execVdcEnClear path vale vd off value s
  | .hostPostWrite path vale off bytes value => Sys2Proof.Machine.execHostPostWrite path vale off bytes value s
  | .apertureWrite path vale off data => Sys2Proof.Machine.execApertureWrite path vale off data s
  | .apertureRead path vale off n => Sys2Proof.Machine.execApertureRead path vale off n s
  | .s1inv vale vd a => Sys2Proof.Machine.execS1inv vale vd a s
  | .migrate vale vd a => Sys2Proof.Machine.execMigrate vale vd a s
  | .cut vale vd a => Sys2Proof.Machine.execCut vale vd a s
  | .rollback vale vd a => Sys2Proof.Machine.execRollback vale vd a s
  | .switchout vale vd a => Sys2Proof.Machine.execSwitchout vale vd a s
  | .statclr vale vd a => Sys2Proof.Machine.execStatclr vale vd a s
  | .qcbwr vale vd a => Sys2Proof.Machine.execQcbwr vale vd a s
  | .fwwave vale vd a => Sys2Proof.Machine.execFwwave vale vd a s
  | .plugin vale vd a => Sys2Proof.Machine.execPlugin vale vd a s
  | .create a => Sys2Proof.Machine.execCreate a s
  | .fuse a => Sys2Proof.Machine.execFuse a s
  | .split a => Sys2Proof.Machine.execSplit a s
  | .s2root a => Sys2Proof.Machine.execS2root a s
  | .s2inv a => Sys2Proof.Machine.execS2inv a s
  | .lease a => Sys2Proof.Machine.execLease a s
  | .revoke a => Sys2Proof.Machine.execRevoke a s
  | .importEntry a => Sys2Proof.Machine.execImportEntry a s
  | .dirtyStart a => Sys2Proof.Machine.execDirtyStart a s
  | .dirtySwap a => Sys2Proof.Machine.execDirtySwap a s
  | .dirtyStop a => Sys2Proof.Machine.execDirtyStop a s
  | .vdStop a => Sys2Proof.Machine.execVdStop a s
  | .vdExport a => Sys2Proof.Machine.execVdExport a s
  | .vdImport a => Sys2Proof.Machine.execVdImport a s
  | .vdResume a => Sys2Proof.Machine.execVdResume a s
  | .pageCopy a => Sys2Proof.Machine.execPageCopy a s
  | .perValeReset vale => Sys2Proof.Machine.execPerValeReset vale s
  | .valeResetComplete vale => Sys2Proof.Machine.execValeResetComplete vale s
  | .getVersion => Sys2Proof.Machine.execGetVersion s
  | .getCapabilities => Sys2Proof.Machine.execGetCapabilities s
  | .negotiateAlgorithms offer => Sys2Proof.Machine.execNegotiateAlgorithms offer s
  | .getDigests => Sys2Proof.Machine.execGetDigests s
  | .getCertificate slot => Sys2Proof.Machine.execGetCertificate slot s
  | .challenge slot nonce => Sys2Proof.Machine.execChallenge slot nonce s
  | .getMeasurements index => Sys2Proof.Machine.execGetMeasurements index s
  | .keyExchange slot share => Sys2Proof.Machine.execKeyExchange slot share s
  | .finish verifies => Sys2Proof.Machine.execFinish verifies s
  | .heartbeat session => Sys2Proof.Machine.execHeartbeat session s
  | .heartbeatTimeout session => Sys2Proof.Machine.execHeartbeatTimeout session s
  | .keyUpdate session => Sys2Proof.Machine.execKeyUpdate session s
  | .endSession session => Sys2Proof.Machine.execEndSession session s
  | .ideKm session op => Sys2Proof.Machine.execIdeKm session op s
  | .ideStreamFault stream => Sys2Proof.Machine.execIdeStreamFault stream s
  | .lockInterfaceRequest session vale stream => Sys2Proof.Machine.execLockInterfaceRequest session vale stream s
  | .startInterfaceRequest session vale nonce => Sys2Proof.Machine.execStartInterfaceRequest session vale nonce s
  | .stopInterfaceRequest session vale => Sys2Proof.Machine.execStopInterfaceRequest session vale s
  | .tdiWipeComplete vale => Sys2Proof.Machine.execTdiWipeComplete vale s
  | .getDeviceInterfaceState session vale => Sys2Proof.Machine.execGetDeviceInterfaceState session vale s
  | .getDeviceInterfaceReport session vale => Sys2Proof.Machine.execGetDeviceInterfaceReport session vale s
  | .configWrite vale w => Sys2Proof.Machine.execConfigWrite vale w s
  | .accessPerformed acc => Sys2Proof.Machine.execAccessPerformed acc s
  | .loadComplete wave load lanes => Sys2Proof.Machine.execLoadComplete wave load lanes s
  | .appliedNotice die seq => Sys2Proof.Machine.execAppliedNotice die seq s
  | .retrainComplete link => Sys2Proof.Machine.execRetrainComplete link s
  | .wakeBoostEnd vale vd => Sys2Proof.Machine.execWakeBoostEnd vale vd s
  | .parkuntilExpiry vale vd queue => Sys2Proof.Machine.execParkuntilExpiry vale vd queue s

end Sys2Proof.Machine
end

