-- ==== Sys2Proof/Machine/Turn.lean ====
section
/-! DEFINITION. What one entry of the schedule does: an event happens, a wave or a sequencer takes its turn, a cached copy
leaves or is shared, or a TOD tick passes (R439, R473). Where the schedule is empty, the choice Policy.lean makes. -/
namespace Sys2Proof.Machine

/-! ## A TOD tick -/

/-- Whether a wave is resident on a core (R473). -/
def waveResident (s : State) (w : Wave) : Bool :=
  !w.ended && decide (w.core < 4096) && (match w.kind with
    | .ordinary => (match Tbl.get s.blocks w.blk with
      | some b => holdsCore b
      | none => false)
    | .prologue => false
    | _ => true)

/-- The lanes whose watchdog counts hold their value: those bound to a handler wave (R473). -/
def boundLanes (w : Wave) : List Nat :=
  match w.trap with
  | some t => (t.lanes.filter (fun f => f.handler.isSome && !f.resolved)).map (fun f => f.lane)
  | none => []

/-- The lanes that sleep in SLEEP (R268, R473). -/
def sleepingLanes (w : Wave) : Mask :=
  match w.wait with
  | some (.sleep _) => if w.standing then w.part else 0
  | _ => 0

/-- The lanes a wave has: those that run, wait on its stack or are set aside in a trap. -/
def Wave.lanes (w : Wave) : Mask :=
  (w.stack.foldl (fun m e => m ||| e.mask) w.active ||| maskOf (((w.trap.map (fun t => t.lanes)).getD []).map (fun f => f.lane))) &&& ~~~w.exited

/-- One tick on the watchdog counts of a resident wave whose VD is not parked (R473). -/
def tickLanes (w : Wave) : Wave :=
  let bound := boundLanes w
  let asleep := sleepingLanes w
  { w with wdog := (natsFrom 0 16).foldl (fun t l =>
      if !hasLane w.lanes l || bound.contains l then t
      else if hasLane asleep l then Tbl.erase t l
      else Tbl.set t l ((Tbl.get t l).getD 0 + 1)) w.wdog }

/-- One tick on every wave's watchdog counts. -/
def tickWaves (s : State) : State :=
  let parked (w : Wave) : Bool := ((s.vd? w.vale w.vd).map (fun d => d.parked)).getD true
  { s with waves := Tbl.mapVals (fun _ w => if waveResident s w && !parked w then tickLanes w else w) s.waves }

/-- One tick on the saves whose drain waits for handler waves or a cut (R471, R534). -/
def tickSaves (s : State) : State :=
  { s with blocks := Tbl.mapVals (fun _ b =>
      if isSaving b && (handlerHolds s b || ((s.vd? b.vale b.vd).map (fun d => d.cut.isSome)).getD false) then { b with waited := b.waited + 1 } else b) s.blocks }

/-- A TOD tick (R439): the counter goes up, periods, cuts and watchdogs count, and requests under way go on. One counter stands for
those of all dies, which R3 lets differ by a tick: they are equal here (DESIGN CHOICE, log 86). -/
def tickTod (s : State) : State :=
  tryPosts (retireWaiting (tickPf (tickFw (haltCuts (tickCuts (tickVds (tickSaves (tickWaves { s with tod := s.tod + 1, sinceTick := 0 }))))))))

/-! ## Cached copies -/

/-- A copy of a sector leaves a core's L1. -/
def evictSector (s : State) (core sector : Nat) : State :=
  s.modCore core (fun c => { c with l1 := c.l1.filter (fun e => decide (e.sector ≠ sector)) })

/-- The code words of a core's instruction cache leave it. -/
def evictFetched (s : State) (core : Nat) : State := s.modCore core (fun c => { c with icache := [] })

/-- The words of a core's constant cache leave it. -/
def evictConstants (s : State) (core : Nat) : State := s.modCore core (fun c => { c with ccache := [] })

/-- A translation leaves a core's TLB (R127). -/
def evictEntry (s : State) (core index : Nat) : State :=
  s.modCore core (fun c => { c with tlb := c.tlb.take index ++ c.tlb.drop (index + 1) })

/-- A line leaves a glen's L2 slice, its dirty sectors written to HBM4 (R115). -/
def evictLine (s : State) (glen index : Nat) : State :=
  s.modGlen glen (fun g => { g with l2 := g.l2.take index ++ g.l2.drop (index + 1) })

/-- A translation leaves a glen's TLB (R127). -/
def evictGlenEntry (s : State) (glen index : Nat) : State :=
  s.modGlen glen (fun g => { g with tlb := g.tlb.take index ++ g.tlb.drop (index + 1) })

/-- A translation leaves a die's last-level TLB (R127). -/
def evictDieEntry (s : State) (die index : Nat) : State :=
  { s with dieTlb := Tbl.set s.dieTlb die ((s.dieTlb? die).take index ++ (s.dieTlb? die).drop (index + 1)) }

/-! ## A clock with several events -/

/-- A clock begins in which several events happen (log 106). -/
def beginClock (s : State) : State :=
  if s.clock.isSome then s
  else
    let faulted := (s.waves.filter (fun e => e.2.faulted)).map (fun e => e.1)
    { s with clock := some ⟨[], [], [], [], [], [], savingBlocks s, faulted⟩ }

/-- Whether a wave issues no more in the clock that is under way: it has issued, or its core's fetch has served four (R36). -/
def waveSpent (s : State) (w : Nat) : Bool :=
  match s.clock, Tbl.get s.waves w with
  | some c, some wv => c.waves.contains w || decide (4 ≤ c.cores.count wv.core)
  | some c, none => c.waves.contains w
  | none, _ => false

/-- The track a wave issues on (R36); a wave outside a block has an issue slot of its own (DESIGN CHOICE, log 114). -/
def trackUnit (s : State) (w : Nat) (wv : Wave) : Nat :=
  match Tbl.get s.blocks wv.blk with
  | some b => if wv.kind = .ordinary then b.tracks.getD (wv.track (s.cardOf wv.job)) 0 else 33 + w
  | none => 33 + w

/-- Whether an instruction reads scalars alone and yet has its track: of the CTRL class, only one with a scalar destination (R38), and
WAITGE (R266), are uniform. -/
def onTrack : Instr → Bool
  | .barWait _ | .barInit _ | .barexp _ | .cbarWait _ | .mwait _ | .sleep _ | .forkSuspend _ | .tspawn _ => true
  | _ => false

/-- What an instruction of a wave takes of its core: the uniform unit, 32, or the wave's track (R36, R38). -/
def issueUnit (s : State) (w : Nat) (wv : Wave) (i : Instr) : Nat := if isUniform i && !onTrack i then 32 else trackUnit s w wv

/-- Whether a wave's track has issued in the clock that is under way (R36). -/
def trackSpent (s : State) (w : Nat) : Bool :=
  match s.clock, Tbl.get s.waves w with
  | some c, some wv => c.units.contains (wv.core, trackUnit s w wv)
  | _, _ => false

/-- Notes a wave's track. -/
def spendTrack (s : State) (w : Nat) : State :=
  match s.clock, Tbl.get s.waves w with
  | some c, some wv => { s with clock := some { c with units := (wv.core, trackUnit s w wv) :: c.units } }
  | _, _ => s

/-- Whether the track or the uniform unit an instruction takes has issued in the clock that is under way (R36). -/
def unitSpent (s : State) (w : Nat) (i : Instr) : Bool :=
  match s.clock, Tbl.get s.waves w with
  | some c, some wv => c.units.contains (wv.core, issueUnit s w wv i)
  | _, _ => false

/-- Notes the track or the uniform unit an instruction takes. -/
def spendUnit (s : State) (w : Nat) (i : Instr) : State :=
  match s.clock, Tbl.get s.waves w with
  | some c, some wv => { s with clock := some { c with units := (wv.core, issueUnit s w wv i) :: c.units } }
  | _, _ => s

/-- Whether a block's sequencer has issued in the clock that is under way: at most one word per clock (R308). -/
def seqSpent (s : State) (blk : Nat) : Bool :=
  match s.clock with
  | some c => c.blocks.contains blk
  | none => false

/-- Notes a wave's issue in the clock that is under way. -/
def spendWave (s : State) (w : Nat) : State :=
  let core := ((Tbl.get s.waves w).map (fun (x : Wave) => x.core)).toList
  { s with clock := s.clock.map (fun c => { c with waves := w :: c.waves, cores := core ++ c.cores }) }

/-- Notes a sequencer's issue in the clock that is under way. -/
def spendSeq (s : State) (blk : Nat) : State := { s with clock := s.clock.map (fun c => { c with blocks := blk :: c.blocks }) }

/-! ## Which wave an issuer chooses -/

/-- The issuer of a wave that would issue now (R36, R38, R396): the uniform unit of its core, or its track. -/
def issuerOf (s : State) (w : Nat) (wv : Wave) : Option Nat :=
  if waveSpent s w then none
  else match turnWave s w false with
    | .run u i => if unitSpent u w i then none else some (issueUnit s w wv i)
    | .idle _ => if trackSpent s w then none else some (trackUnit s w wv)
    | .done t => if t = s then none else some (trackUnit s w wv)

/-- Whether one wave has waited longer than another since its last issue: of two that have waited equally long, one that yielded is the
younger, and else the lower slot goes first (R396, R167). -/
def longer (a b : Wave) : Bool :=
  if a.lastIssue ≠ b.lastIssue then decide (a.lastIssue < b.lastIssue)
  else if a.yielded ≠ b.yielded then b.yielded
  else decide (a.slot < b.slot)

/-- The VDs of ready waves of one core, from RR on (R396). -/
def readyKeys (s : State) (core : Nat) (ready : List (Nat × Wave)) : List Nat :=
  match ready with
  | [] => []
  | (_, w) :: _ => ((natsFrom 0 16).map (fun n => vdKey w.vale (((s.core? core).rr + n) % 16))).filter (fun k =>
      ready.any (fun e => decide (vdKey e.2.vale e.2.vd = k)))

/-- A core's deficits once a VD with a ready wave at an issuer has more than none (R396). -/
def refillFor (s : State) (core : Nat) (ready : List (Nat × Wave)) : Tbl Int :=
  let keys := readyKeys s core ready
  refilled s keys 16 (keys.foldl (fun t k => if (Tbl.get t k).isSome then t else Tbl.set t k 0) (s.core? core).deficit)

/-- The wave that one issuer of a core issues next, of those ready there (R396). -/
def chosenWave (s : State) (core : Nat) (ready : List (Nat × Wave)) : Option (Nat × Wave) :=
  let keys := readyKeys s core ready
  let k := (keys.find? (fun k => decide (0 < (Tbl.get (refillFor s core ready) k).getD 0))).getD (keys.headD 0)
  match ready.filter (fun e => decide (vdKey e.2.vale e.2.vd = k)) with
  | [] => none
  | e :: r => some (r.foldl (fun (b : Nat × Wave) x => if longer x.2 b.2 then x else b) e)

/-- The other waves of a core that are ready at an issuer, but for some whose needs have not come yet. -/
def rivals (s : State) (w core unit : Nat) (late : List Nat) : List (Nat × Wave) :=
  s.waves.filter (fun e => decide (e.1 ≠ w) && decide (e.2.core = core) && !late.contains e.1 && decide (issuerOf s e.1 e.2 = some unit))

/-- What comes before a wave's issue (R396): none where its issuer chooses another ready wave, else the state with the core's deficits
refilled. Issuers that choose in one clock do so one after another (DESIGN CHOICE, log 144). Which waves are not ready yet, for what they need to come, the schedule says (log 1). -/
def ranked (s : State) (w : Nat) (late : List Nat) : Option State :=
  match Tbl.get s.waves w with
  | none => some s
  | some wv =>
    if s.waves.all (fun e => decide (e.1 = w) || decide (e.2.core ≠ wv.core) || late.contains e.1) then some s
    else match issuerOf s w wv with
      | none => some s
      | some unit => match rivals s w wv.core unit late with
        | [] => some s
        | l =>
          if (chosenWave s wv.core ((w, wv) :: l)).map (fun e => e.1) ≠ some w then none
          else some (s.modCore wv.core (fun c => { c with deficit := refillFor s wv.core ((w, wv) :: l) }))

/-! ## Turns -/

/-- What follows a next state. -/
def andThen (o : Host.Outcome State Fault Refusal) (f : State → State) : Host.Outcome State Fault Refusal :=
  match o with
  | .next s => .next (f s)
  | .fault r => .fault r
  | .refused r => .refused r

/-- No agent executes between turns. -/
def quiet (s : State) : State := { s with cur := .none, defer := false }

/-- A wave's turn: its instruction runs, where its track or the uniform unit is free in this clock (R36), and the issue is counted.
A YIELD or YLD before it ranks no more (R167), and an instruction without lanes takes the track too. -/
def waveTurn (s : State) (w : Nat) (defer : Bool) : Host.Outcome State Fault Refusal :=
  if waveSpent s w then .next s
  else match turnWave ((spendWave s w).modWave w (fun x => { x with yielded := false })) w defer with
  | .done s => .next (quiet s)
  | .idle u => .next (if trackSpent s w then s else quiet (spendTrack u w))
  | .run u i => if unitSpent u w i then .next s else andThen (exec i (spendUnit u w i)) (fun t => countIssue u t w i)

/-- A wave's turn where its issuer chooses it (R396). -/
def rankedTurn (s : State) (w : Nat) (defer : Bool) (late : List Nat) : Host.Outcome State Fault Refusal :=
  match ranked s w late with
  | none => .next s
  | some u => waveTurn u w defer

/-- A sequencer's turn (R308). -/
def seqTurn (s : State) (blk : Nat) : Host.Outcome State Fault Refusal :=
  if seqSpent s blk then .next s
  else match issueSeq (spendSeq s blk) blk with
  | .done s | .idle s => .next (quiet s)
  | .run s i => andThen (exec i s) (fun t => countSeq s t blk)

/-- An event or request: an instruction that no code word encodes. Code and stream words run only in a turn. -/
def happen (s : State) (i : Instr) : Host.Outcome State Fault Refusal := if (encode i).isEmpty then exec i s else .next s

/-- What one entry of the schedule does. -/
def runChoice (s : State) : Choice → Host.Outcome State Fault Refusal
  | .event i => happen s i
  | .issue w defer => rankedTurn s w defer []
  | .issueAmong w defer late => rankedTurn s w defer late
  | .sequence blk => seqTurn s blk
  | .evictL1 core sector => .next (evictSector s core sector)
  | .evictCode core => .next (evictFetched s core)
  | .evictConst core => .next (evictConstants s core)
  | .evictTlb core index => .next (evictEntry s core index)
  | .evictL2 glen index => .next (evictLine s glen index)
  | .evictGlenTlb glen index => .next (evictGlenEntry s glen index)
  | .evictDieTlb die index => .next (evictDieEntry s die index)
  | .readSlab core word => .next (readSlab s core word)
  | .clockBegin => .next (beginClock s)
  | .clockEnd => .next (endClock s)
  | .tick => .next (if s.clock.isSome then s else tickTod s)

/-! ## Placing one instruction -/

/-- The address of the clause that fetchPlace stores: its header, the instruction after it. -/
def placeVa : DWord := 0x10000

/-- The bytes of a clause of the class of an instruction, holding it and its literal (R162, R163). -/
def placeBytes (w : Nat) : List Byte :=
  let cls := (opClass (w / 2 ^ 24 % 256)).toNat
  bytesLE 4 (0xF2000000 + cls * 2 ^ 21) ++ bytesLE 8 w

/-- The vale and VD that run the placed instruction: vale 0 of glen 0, its VD 0 enabled. -/
def placeVale : Vale := { newVale 0 1 false with vds := (natsFrom 0 16).map (fun k => (k, if k = 0 then { Vd.fresh with vdc := [(0, 1)] } else Vd.fresh)) }

/-- The translation of the placed code. -/
def placeTlb (s : State) : TlbEntry :=
  { vale := 0, vd := 0, page := 1, lg := 16, pa := s.pkgId.toNat * 2 ^ 47 + 0x10000, ipa := 0x10000, w1 := true, w2 := true, x1 := true, x2 := true
    mt := 0, nc := false, dirty := true }

/-- Places one instruction where the next step runs it: a block with one wave on core 0, or for a stream word its sequencer, the
code in memory behind a translation, and the schedule naming that agent. A privileged instruction runs in a handler wave. -/
def fetchPlace (s : State) (w : Nat) (stream : Bool) : State :=
  let wid := s.nextId
  let blk := s.nextId + 1
  let job := s.nextId + 2
  let kind : WaveKind := if !stream && decide (0xC0 ≤ w / 2 ^ 24 % 256) then .handler else .ordinary
  let clause : Clause := { hdr := placeVa, n := 2, cls := opClass (w / 2 ^ 24 % 256), pe := false, pi := 0, pn := false }
  let wave : Wave := { freshWave kind 0 0 job blk 0 0 0 0 12 placeVa with pos := ⟨placeVa + 4, some clause⟩ }
  let ctx : SeqCtx := { spc := placeVa, st := 0, m := [], d := [], loaded := 0, ri := [], loops := [], team := none, claim := none
                        saAddr := 0x40000, sbAddr := 0x40000, steps := [], wantBar := none, restore := [] }
  let b : Block := { job := job, vale := 0, vd := 0, core := 0, cluster := 0, rank := 0, record := 0, tracks := [0], pools := [], stashKib := 0
                     stashBase := 0, stash := [], stashPoison := [], rows := [], bars := [], waves := [wid], seqCtx := if stream then some ctx else none
                     cov := none, st := .resident, copyHalted := false, task := none, fork := none, saveAt := none, preempt := false, stopTod := 0
                     placed := job, accSaved := [], codeSaved := none }
  let j : Job := { vale := 0, vd := 0, queue := 0, number := 0, addr := 0, card := [], deadline := none, next := 1, size := 1, chunks := [], ord := none
                   gateBad := false }
  let s := { s with
    nextId := s.nextId + 3, bootStat := 1, halted := false, vales := Tbl.set s.vales 0 placeVale
    glens := Tbl.set s.glens 0 { Glen.fresh with st := 1, vale := some 0 }
    cores := Tbl.set s.cores 0 { Core.fresh with tlb := [placeTlb s], handler := if kind = .handler then some wid else none }
    waves := Tbl.set s.waves wid wave, blocks := Tbl.set s.blocks blk b, jobs := Tbl.set s.jobs job j
    agenda := (if stream then Choice.sequence blk else Choice.issue wid false) :: s.agenda
    cur := if stream then .seq blk else .wave wid }
  writeMem s 0x10000 (if stream then bytesLE 8 w else placeBytes w)

end Sys2Proof.Machine
end

