-- ==== Sys2Proof/Machine/Policy.lean ====
section
/-! DEFINITION. What happens next when the schedule names nothing: one order the part may take, since every order a schedule can
name is allowed (DESIGN CHOICE, log 1). What is under way completes first; then a sequencer takes its turn; then the wave that has
waited longest of those R396 chooses issues, 16 issues to a TOD tick; then a tick passes. -/
namespace Sys2Proof.Machine

/-- Whether an entry of the schedule changes anything. Another read of a waiting address counts when it ends the wait or asks
another package. -/
def takesEffect (s : State) (c : Choice) : Bool :=
  match runChoice s c with
  | .next t =>
    match c with
    | .event (.monitorWake w) => decide (Tbl.get t.waves w ≠ Tbl.get s.waves w) || decide (t.outReqs ≠ s.outReqs)
    | _ => decide (t ≠ s)
  | _ => true

/-! ## What is under way -/

/-- Accesses and loads in flight, and updates that cross saddles. -/
def dueMemory (s : State) : List Instr :=
  s.inflight.map (fun e => .accessPerformed e.1) ++
    s.waves.flatMap (fun e => e.2.outst.map (fun o => .loadComplete e.1 o.id 0xFFFF)) ++
    s.updates.flatMap (fun u => [.saddleUpdateApply u.origin u.seq.toNat, .appliedNotice u.origin u.seq.toNat]) ++
    s.outReqs.map (fun e => .fabricResponseTimeout e.1)

/-- Waits and traps of waves. -/
def dueWaves (s : State) : List Instr :=
  s.waves.flatMap (fun e => [.watchdogExpiry e.1, .sleepWake e.1, .monitorWake e.1, .commandAccept e.1])

/-- Commands of copy engines, encoder lanes and coverage units, K-steps and claims. -/
def dueEngines (s : State) : List Instr :=
  s.cores.flatMap (fun e => e.2.cmds.flatMap (fun c => [.copySectorWritten e.1 c.1, .commandRetire (.copy e.1) c.1, .commandTimeout (.copy e.1) c.1]) ++
    [.kstepRetire e.1, .carveConversion e.1] ++ e.2.owed.map (fun x => .generationScrub e.1 x.1)) ++
    s.glens.flatMap (fun e => e.2.frames.map (fun f => .bandEncoded e.1 f.1) ++
      e.2.encq.flatMap (fun c => [.commandRetire (.encoder e.1) c.1, .commandTimeout (.encoder e.1) c.1]) ++
      e.2.covq.flatMap (fun c => [.covCommandRetire e.1 c.1, .commandTimeout (.coverage e.1) c.1]) ++
      e.2.owed.map (fun x => .generationScrub (16 * e.1) x.1) ++ (if e.2.st = 2 then [.glenScrubComplete e.1 true] else [])) ++
    s.claims.map (fun b => .teamClaim b)

/-- Periods, cuts and rollbacks of virtual devices, and requests of vales. -/
def dueVds (s : State) : List Instr :=
  s.vales.flatMap (fun v => v.2.vds.flatMap (fun d => if d.2.en then
      [.periodBoundary v.1 d.1, .wakeBoostEnd v.1 d.1, .rollbackDone v.1 d.1, .checkpointCut v.1 d.1, .cutComplete v.1 d.1, .switchoutCutTimeout v.1 d.1,
       .cutTimeout v.1 d.1, .vdStopTimeout v.1 d.1] else []) ++ [.valeResetComplete v.1, .tdiWipeComplete v.1]) ++
    s.invals.map (fun e => .invalidationComplete e.1) ++ s.migrations.map (fun e => .migrationDone e.1) ++
    s.leases.flatMap (fun e => [.leaseStart e.1, .leaseEnd e.1])

/-- Blocks that are saved, wake or resume. -/
def dueBlocks (s : State) : List Instr :=
  s.blocks.flatMap (fun e => [.suspendWake e.1, .blockSaveDone e.1, .saveDrainTimeout e.1] ++
    (match e.2.st, s.vale? e.2.vale with
      | .saved _ _ _ _, some v => (coresOf v).map (fun c => .blockResume e.1 c)
      | _, _ => []))

/-- Jobs: handlers, tasks, rounds, chunks, retirement. -/
def dueJobs (s : State) : List Instr :=
  s.jobs.flatMap (fun e => match s.vale? e.2.vale with
    | none => []
    | some v =>
      (if s.waves.any (fun w => decide (w.2.job = e.1) && w.2.trap.isSome) then (coresOf v).map (fun c => .handlerLaunch (glenOfCore c) e.1 c) else []) ++
        (if e.2.ord.isSome then .taskCommit e.1 :: (natsFrom v.first v.n).map (fun g => .taskAdmit e.1 g) ++ (coresOf v).map (fun c => .taskPlace e.1 c) else []) ++
        e.2.chunks.map (fun c => .placeRound e.1 c.1) ++ (natsFrom v.first v.n).map (fun g => .dealChunk e.1 g) ++ [.jobRetire e.1])

/-- Queues: cards are fetched, made ready and run their prologues. -/
def dueQueues (s : State) : List Instr :=
  s.vales.flatMap (fun v => v.2.vds.flatMap (fun d => if d.2.en then
    (natsFrom 0 64).flatMap (fun q => [.prologueStart v.1 d.1 q, .cardReady v.1 d.1 q, .parkuntilExpiry v.1 d.1 q, .fetchCard v.1 d.1 q]) else []))

/-- Bring-up, while it runs (R438), and the waits for the time master (R439); the tray's identity input reads as PKGID stands. -/
def dueBoot (s : State) : List Instr :=
  (if s.bootStat = 0 then (if s.bootStep = 6 && !s.trayRead then [.bringUpStepDone (.tray s.pkgId)] else []) ++ [.bringUpStepDone .pass] else []) ++
    [.timeMasterTimeout, .holdoverExpiry]

/-! ## The wave that issues -/

/-- The wave that issues next: of the waves the issuers choose, the one that has waited longest. -/
def nextWave (s : State) : Option Nat :=
  let ready := s.waves.filterMap (fun e => (issuerOf s e.1 e.2).map (fun i => ((e.2.core, i), e)))
  match ((ready.map (fun x => x.1)).eraseDups).filterMap
      (fun k => chosenWave s k.1 ((ready.filter (fun x => decide (x.1 = k))).map (fun x => x.2))) with
  | [] => none
  | e :: r => some (r.foldl (fun (b : Nat × Wave) x => if longer x.2 b.2 then x else b) e).1

/-! ## The choice -/

/-- The entry an empty schedule stands for. -/
def nextChoice (s : State) : Choice :=
  if s.clock.isSome then .clockEnd else
  let due := dueBoot s ++ dueMemory s ++ dueWaves s ++ dueEngines s ++ dueVds s ++ dueBlocks s ++ dueJobs s ++ dueQueues s
  match due.find? (fun i => takesEffect s (.event i)) with
  | some i => .event i
  | none => match s.blocks.find? (fun e => takesEffect s (.sequence e.1)) with
    | some e => .sequence e.1
    | none =>
      if 16 ≤ s.sinceTick then .tick
      else match nextWave s with
        | some w => .issue w false
        | none => .tick

end Sys2Proof.Machine
end

