-- ==== Sys2Proof/Machine/Step.lean ====
section
/-! DEFINITION. The step: the next entry of the schedule, or the one an empty schedule stands for. -/
namespace Sys2Proof.Machine

/-- One step of the machine. -/
def step (s : State) : Host.Outcome State Fault Refusal :=
  match s.agenda with
  | c :: rest => runChoice { s with agenda := rest } c
  | [] => runChoice s (nextChoice s)

/-- A state in which the next step fetches and runs the instruction of a table word. -/
def State.withFetchWord (s : State) (nbits w : Nat) : State :=
  fetchPlace s w (((decodeTableWord nbits w).map (fun i => i.isStream)).getD false)

end Sys2Proof.Machine
end

