-- ==== Sys2Proof/Safety.lean ====
section
/-! DEFINITION. What counts as a sound state and a safe run: memory keeps its one form, no agent executes between steps, and a
step neither faults nor refuses. And the words statements about instructions are made of: which instruction executes now, what a
wave instruction leaves when it only writes its destination, and what a frame leaves unchanged. -/
namespace Sys2Proof

/-- Memory is in its one form: addresses strictly rising, no byte listed that reads as an unlisted one does. -/
def Machine.Memory.wf (m : List Host.Cell) : Bool := Machine.Tbl.canonical (0 : Byte) m

/-- The invariant of every step: the form of memory. -/
def Machine.State.Inv (s : Machine.State) : Prop := Machine.Memory.wf s.mem = true

/-- An outcome that is a next state. -/
def Machine.completes (o : Host.Outcome Machine.State Machine.Fault Machine.Refusal) : Prop := ∃ t, o = .next t

/-- A step from a state is safe: it answers a next state that is sound. -/
def Machine.State.safe (s : Machine.State) : Prop := ∃ t, Machine.step s = .next t ∧ t.Inv

/-! ## What is left unchanged -/

/-- Every byte of memory reads as before. -/
def Machine.sameMem (s t : Machine.State) : Prop := ∀ a, Machine.memByte t a = Machine.memByte s a

/-- Every byte of memory outside n bytes from k reads as before. -/
def Machine.sameMemBut (s t : Machine.State) (k n : Nat) : Prop :=
  ∀ a, (a < k ∨ k + n ≤ a) → Machine.memByte t a = Machine.memByte s a

/-- Only the wave w may differ: it is x. -/
def Machine.onlyWave (s t : Machine.State) (w : Nat) (x : Machine.Wave) : Prop := t = s.setWave w x

/-- A wave's registers, predicates and control state but for its position and its replay, which every instruction changes. -/
def Machine.sameControl (a b : Machine.Wave) : Prop :=
  b.active = a.active ∧ b.helper = a.helper ∧ b.exited = a.exited ∧ b.returned = a.returned ∧ b.lpair = a.lpair ∧ b.depth = a.depth ∧
    b.stack = a.stack ∧ b.held = a.held ∧ b.wait = a.wait ∧ b.trap = a.trap ∧ b.late = a.late ∧ b.outst = a.outst

/-! ## What executes -/

/-- The wave w, which is wv, executes instruction i now: it is the executing agent, a lane takes part (R165), and stages 4 to 6 of
R479 find nothing: privilege, field values, registers. -/
def Machine.runsNow (s : Machine.State) (w : Nat) (wv : Machine.Wave) (i : Instr) : Bool :=
  decide (s.cur = .wave w) && decide (Machine.Tbl.get s.waves w = some wv) && decide (wv.part ≠ 0) && decide (Machine.staticCause wv i = none)

/-- The wave runs no speculative task (R357) and holds no poisoned register word (R514). -/
def Machine.plainWave (s : Machine.State) (wv : Machine.Wave) : Bool := !s.speculative wv && decide (wv.poison = [])

/-- The sequencer of a block executes a well-formed stream word now (R308). -/
def Machine.streamNow (s : Machine.State) (blk : Nat) (b : Machine.Block) (c : Machine.SeqCtx) (i : Instr) : Bool :=
  decide (s.cur = .seq blk) && decide (Machine.Tbl.get s.blocks blk = some b) && decide (b.seqCtx = some c) && i.wellFormed

/-- The state in which wave w has become x and has moved past instruction i; nothing else has changed. -/
def Machine.State.done (s : Machine.State) (w : Nat) (x : Machine.Wave) (i : Instr) : Machine.State :=
  s.setWave w (x.advance (Machine.instrBytes i))

/-- Instruction i writes g to its destination register in the lanes that take part, moves on, and changes nothing else. -/
def Machine.regStep (i : Instr) (d : RegField) (g : Machine.State → Machine.Wave → Nat → Word) : Prop :=
  ∀ s w wv, Machine.runsNow s w wv i = true → wv.poison = [] →
    Machine.exec i s = .next (s.done w (wv.wr d (Machine.lanesOf wv.part) (g s wv)) i)

/-- Instruction i writes g to its destination pair in the lanes that take part, moves on, and changes nothing else. -/
def Machine.pairStep (i : Instr) (d : RegField) (g : Machine.State → Machine.Wave → Nat → DWord) : Prop :=
  ∀ s w wv, Machine.runsNow s w wv i = true → wv.poison = [] →
    Machine.exec i s = .next (s.done w (wv.wr64 d (Machine.lanesOf wv.part) (g s wv)) i)

/-- Instruction i writes g to predicate p in the lanes that take part, moves on, and changes nothing else. -/
def Machine.predStep (i : Instr) (p : Nat) (g : Machine.State → Machine.Wave → Nat → Bool) : Prop :=
  ∀ s w wv, Machine.runsNow s w wv i = true → wv.poison = [] →
    Machine.exec i s = .next (s.done w (wv.wrPred p (Machine.lanesOf wv.part) (g s wv)) i)

/-- Instruction i, executed by a plain wave, has the effect `f` of the state, the wave's number and the wave. -/
def Machine.waveStep (i : Instr) (f : Machine.State → Nat → Machine.Wave → Machine.State) : Prop :=
  ∀ s w wv, Machine.runsNow s w wv i = true → Machine.plainWave s wv = true → Machine.exec i s = .next (f s w wv)

/-- Instruction i, executed by a plain wave where `p` holds, has the effect `f`. -/
def Machine.waveStepIf (i : Instr) (p : Machine.State → Nat → Machine.Wave → Bool) (f : Machine.State → Nat → Machine.Wave → Machine.State) :
    Prop :=
  ∀ s w wv, Machine.runsNow s w wv i = true → Machine.plainWave s wv = true → p s w wv = true → Machine.exec i s = .next (f s w wv)

/-- Instruction i, executed by a plain wave of a task (q, t) of an ORDERED job where `p` holds, has the effect `f`. -/
def Machine.taskStep (i : Instr) (p : Machine.State → Nat → Machine.Wave → Nat → Machine.Task → Bool)
    (f : Machine.State → Nat → Machine.Wave → Nat → Machine.Task → Machine.State) : Prop :=
  ∀ s w wv q t, Machine.runsNow s w wv i = true → wv.poison = [] → s.taskOf wv = some (q, t) → p s w wv q t = true →
    Machine.exec i s = .next (f s w wv q t)

/-- Instruction i, executed by a plain wave of block b where `p` holds, has the effect `f`. -/
def Machine.covStep (i : Instr) (p : Machine.State → Nat → Machine.Wave → Machine.Block → Bool)
    (f : Machine.State → Nat → Machine.Wave → Machine.Block → Machine.State) : Prop :=
  ∀ s w wv b, Machine.runsNow s w wv i = true → Machine.plainWave s wv = true → Machine.Tbl.get s.blocks wv.blk = some b →
    p s w wv b = true → Machine.exec i s = .next (f s w wv b)

/-- Instruction i where lanes of the wave read poisoned words (`reads` names those lanes), `p` holds and no rollback is armed: the lanes, or
the one lane of a uniform instruction, get zero in their destination registers and predicates and fault POISON at the wave's next issue
slot; everything else is as the instruction leaves it when the same words are not poisoned. -/
def Machine.poisonStepIf (i : Instr) (p : Machine.State → Machine.Wave → Bool) (reads : Machine.Wave → List Nat → List Nat)
    (dst : List RegField) (preds : List Nat) : Prop :=
  ∀ s w wv, Machine.runsNow s w wv i = true → Machine.rollbackArmed s wv.vale wv.vd = false → p s wv = true →
    let lanes := Machine.lanesOf wv.part
    let hit := if Machine.isUniform i || Machine.scalarDest i then lanes.take 1 else reads wv lanes
    let clean := s.setWave w { wv with poison := [] }
    reads wv lanes ≠ [] →
      ∃ x y, Machine.exec i s = .next (s.setWave w x) ∧ Machine.exec i clean = .next (clean.setWave w y) ∧
        (∀ f l, l < 16 → x.rd f l = if f ∈ dst ∧ (isScalar f = true ∨ l ∈ hit) then 0 else y.rd f l) ∧
        (∀ k l, l < 16 → x.predBit k l = if k ∈ preds ∧ l ∈ hit then false else y.predBit k l) ∧
        Machine.sameControl { y with late := x.late } x ∧ x.pos = y.pos ∧ x.replay = y.replay ∧
        x.late = wv.late ++ hit.map (fun l =>
          { pos := wv.pos, lane := l, cause := Machine.cPoison, detail := 0, addr := 0, wait := none, tod := s.tod.toNat })

/-- Instruction i where lanes that read one of some register words find it poisoned. -/
def Machine.poisonStep (i : Instr) (srcs dst : List RegField) (preds : List Nat) : Prop :=
  Machine.poisonStepIf i (fun _ _ => true) (fun w ls => ls.filter (fun l => srcs.any (fun f => w.rdPoison f l))) dst preds

/-- Stream word i, executed by the sequencer context c of block b where `p` holds, has the effect `f`. -/
def Machine.streamStep (i : Instr) (p : Machine.State → Nat → Machine.Block → Machine.SeqCtx → Bool)
    (f : Machine.State → Nat → Machine.Block → Machine.SeqCtx → Machine.State) : Prop :=
  ∀ s blk b c, Machine.streamNow s blk b c i = true → p s blk b c = true → Machine.exec i s = .next (f s blk b c)

/-- Event i, where `p` holds, has the effect `f`. -/
def Machine.eventStep (i : Instr) (p : Machine.State → Bool) (f : Machine.State → Machine.State) : Prop :=
  ∀ s, p s = true → Machine.exec i s = .next (f s)

end Sys2Proof
end

