-- ==== Sys2Proof/Certificates/Slice0/Obligations.lean ====
section
/-! DEFINITION. The statements for the provers, one def Obligations.<Name> : Prop each, made from the numbered rules of the
spec. OBLIGATIONS.json gives each its id, its tier and the rules it cites. -/
open Sys2Proof Sys2Proof.Machine

/-! ## Decoding -/

/-- A few words of the spec's own examples decode to what they stand for (R175, R179, R187, R239, R245, R309, R348). -/
def Obligations.DecodeExamples : Prop :=
  decodeWord 0x00000000 none = .ok (.nop ⟨0, 0, 0, 0, none⟩) ∧
  decodeWord 0x38221430 none = .ok (.icmp ⟨1, 1, 5, 6, 0, none⟩) ∧
  decodeWord 0x3F0A1005 (some 1) = .ok (.shfl ⟨5, 4, 0, 1, some 1⟩) ∧
  decodeWord 0xA83C5000 none = .ok (.ddx ⟨30, 20, 0, 0, none⟩) ∧
  decodeWord 0xA93C5000 none = .ok (.ddy ⟨30, 20, 0, 0, none⟩) ∧
  decodeWord 0x7B000000 none = .ok (.join ⟨0, 0, 0, 0, none⟩) ∧
  decodeStream 0x00000000 = .ok (.mnop 0) ∧ decodeStream 0x38000000 = .ok (.mend 0)

/-- Decoding an encoded well-formed instruction gives it back, whatever bytes follow: a wave instruction from its bytes, a stream
word from its word. -/
def Obligations.DecodeEncode : Prop :=
  ∀ i : Instr, i.wellFormed = true →
    (i.isStream = false → encode i ≠ [] → ∀ rest, decode (encodeBytes i ++ rest) = .ok (i, rest)) ∧
    (i.isStream = true → ∃ w, encode i = [w] ∧ decodeStream w = .ok i)

/-- Encoding what a wave word and its literal decode to gives the words back, where the literal is there exactly where the word says so
(R187): decoding drops no bit of a word. -/
def Obligations.EncodeDecode : Prop :=
  ∀ (w : Word) (lit : Option Word) (i : Instr), decodeWord w lit = .ok i → lit.isSome = hasLiteral w →
    encode i = match lit with
      | some x => [w, x]
      | none => [w]

/-! ## The step -/

/-- A step runs the decoded instruction. A wave's turn (R479): where nothing holds the wave, the word at its position is fetched and
decodes, and the step is that instruction's exec, then the count of the issue. A sequencer's turn (R308) runs the stream word decoded at
SPC. A scheduled event runs its exec, and a scheduled code or stream word does nothing outside a turn.
Where it goes beyond the rules it states the model's choice: log 1. -/
def Obligations.StepRunsDecoded : Prop :=
  (
    (∀ (s : State) (w : Nat) (defer : Bool) (rest : List Choice) (v u : State) (i : Instr),
      s.agenda = .issue w defer :: rest → ranked { s with agenda := rest } w [] = some v → waveSpent v w = false →
      turnWave (State.modWave (spendWave v w) w (fun x => { x with yielded := false })) w defer = .run u i →
      step s = if unitSpent u w i then .next v else andThen (exec i (spendUnit u w i)) (fun t => countIssue u t w i)) ∧
    (∀ (s : State) (w : Nat) (defer : Bool) (rest : List Choice), s.agenda = .issue w defer :: rest →
      (ranked { s with agenda := rest } w [] = none → step s = .next { s with agenda := rest }) ∧
      (∀ v, ranked { s with agenda := rest } w [] = some v → waveSpent v w = true → step s = .next v)) ∧
    (∀ (s : State) (w : Nat) (wv : Wave), Tbl.get s.waves w = some wv → (∀ e ∈ s.waves, e.1 = w ∨ e.2.core ≠ wv.core) →
      ranked s w [] = some s) ∧
    (∀ (s : State) (w : Nat) (wv : Wave) (c : Clause) (s1 s2 : State) (x : Word) (lit : Option Word) (i : Instr),
      Tbl.get s.waves w = some wv → canIssue s wv = true → wv.trap = none → wv.late = [] → wv.wait = none → lookaheadHolds wv = false →
      queueHeld s wv = false → wv.pos.clause = some c → wv.reread = false → (wv.kind = .prologue → wv.issued < 65536) →
      fetchWaits { s with defer := false } wv.cacheCore wv.vale wv.vd wv.pos.pc = false →
      fetchWord { s with defer := false } wv.cacheCore wv.vale wv.vd wv.pos.pc = (s1, .ok x) →
      x.extractLsb' 28 4 ≠ 0xF → opAssigned (opcodeOf x) = true → opClass (opcodeOf x) = c.cls → wv.part ≠ 0 →
      (hasLiteral x = true → literalBeyond c wv.pos = false ∧ fetchWaits s1 wv.cacheCore wv.vale wv.vd (wv.pos.pc + 4) = false) →
      fetchLit s1 wv x = (s2, .ok lit) → decodeWord x lit = .ok i →
      turnWave s w false = .run { s2 with cur := .wave w } i)
  ) ∧ (
    ∀ (s : State) (blk : Nat) (b : Block) (c : SeqCtx) (rest : List Choice) (s1 : State) (x : Word) (i : Instr),
      let t := spendSeq { s with agenda := rest } blk
      s.agenda = .sequence blk :: rest → seqSpent s blk = false → Tbl.get s.blocks blk = some b → b.seqCtx = some c → canSequence t b c = true →
      fetchWaits t b.core b.vale b.vd c.spc = false → fetchWord t b.core b.vale b.vd c.spc = (s1, .ok x) → decodeStream x = .ok i →
      step s = andThen (exec i { s1 with cur := .seq blk }) (fun t => countSeq { s1 with cur := .seq blk } t blk)
  ) ∧ (
    ∀ (s : State) (i : Instr) (rest : List Choice), s.agenda = .event i :: rest →
      (encode i = [] → step s = exec i { s with agenda := rest }) ∧ (encode i ≠ [] → step s = .next { s with agenda := rest })
  )

/-- Every step keeps memory in its canonical form, whatever it runs.
Where it goes beyond the rules it states the model's choice: log 30. -/
def Obligations.StepKeepsMemoryForm : Prop := ∀ s t : State, s.Inv → step s = .next t → t.Inv

/-- The state after reset has the invariant: its memory is in canonical form.
Where it goes beyond the rules it states the model's choice: log 30. -/
def Obligations.ResetHasMemoryForm : Prop := State.reset.Inv

/-- No step faults: a turn or an event always answers a next state.
Where it goes beyond the rules it states the model's choice: log 1. -/
def Obligations.StepNeverFaults : Prop := ∀ s : State, completes (step s)

/-! ## Registers -/

/-- Writing a register field in some lanes, and reading any field afterwards (R174, R212, R213): a vector destination holds the value
in those lanes, a scalar destination the value of the first lane, and every other register word reads as before.
Writing a predicate in some lanes, and reading any predicate afterwards (R214): those lanes hold the value, every other lane and
predicate reads as before, and no register changes. -/
def Obligations.RegisterWrite : Prop :=
  (
    ∀ (w : Wave) (d : RegField) (ls : List Nat) (g : Nat → Word), (∀ l ∈ ls, l < 16) →
      (isScalar d = false → ∀ l < 16, (w.wr d ls g).rd d l = if l ∈ ls then g l else w.rd d l) ∧
      (isScalar d = true → ∀ l, (w.wr d ls g).rd d l = match ls with
        | [] => w.rd d l
        | k :: _ => g k) ∧
      (∀ f l, l < 16 → f ≠ d → (w.wr d ls g).rd f l = w.rd f l) ∧
      (w.wr d ls g).p = w.p ∧ sameControl w (w.wr d ls g) ∧ (w.wr d ls g).pos = w.pos ∧ (w.wr d ls g).replay = w.replay
  ) ∧ (
    ∀ (w : Wave) (p : Nat) (ls : List Nat) (g : Nat → Bool), (∀ l ∈ ls, l < 16) →
      (∀ l < 16, (w.wrPred p ls g).predBit p l = if l ∈ ls then g l else w.predBit p l) ∧
      (∀ q l, q ≠ p → (w.wrPred p ls g).predBit q l = w.predBit q l) ∧
      (∀ f l, (w.wrPred p ls g).rd f l = w.rd f l) ∧ sameControl w (w.wrPred p ls g) ∧ (w.wrPred p ls g).pos = w.pos
  )

/-- The frame of every register and predicate write at an instruction (State.done, regStep, pairStep, predStep): every byte of
memory, every other wave, every special register and the rest of the state is unchanged, and of the wave only what is written, its
position and its replay. -/
def Obligations.DoneFrame : Prop :=
  ∀ (s : State) (w : Nat) (x : Wave) (i : Instr),
    sameMem s (s.done w x i) ∧ Tbl.get (s.done w x i).waves w = some (x.advance (instrBytes i)) ∧
    (∀ v, v ≠ w → Tbl.get (s.done w x i).waves v = Tbl.get s.waves v) ∧ { s.done w x i with waves := s.waves } = s ∧
    (∀ f l, (x.advance (instrBytes i)).rd f l = x.rd f l) ∧ (∀ p l, (x.advance (instrBytes i)).predBit p l = x.predBit p l) ∧
    sameControl x (x.advance (instrBytes i)) ∧
    (x.replay = none → (x.advance (instrBytes i)).pos = x.pos.after (instrBytes i))

/-! ## Integer arithmetic -/

/-- IADD, ISUB, IADD64 and ISUB64 in all forms (R73, R216, R217).
IMUL, IMULH, IMAD, IMULW, IMADW and LEA (R218, R219, R220).
IMIN, IMAX, IABS, IDIV and IREM with the corner results of R73 (R221, R222).
Their opcodes and the modifiers that are defined. -/
def Obligations.IntArithmetic : Prop :=
  (
    let s32 (x : Int) : Word := BitVec.ofInt 32 (max (-2 ^ 31) (min x (2 ^ 31 - 1)))
    let u32 (x : Int) : Word := BitVec.ofInt 32 (max 0 (min x (2 ^ 32 - 1)))
    let s64 (x : Int) : DWord := BitVec.ofInt 64 (max (-2 ^ 63) (min x (2 ^ 63 - 1)))
    let u64 (x : Int) : DWord := BitVec.ofInt 64 (max 0 (min x (2 ^ 64 - 1)))
    ∀ o : VaFields,
      (o.m = 0 → regStep (.iadd o) o.d (fun _ w l => w.rd o.a l + srcB o w l) ∧ regStep (.isub o) o.d (fun _ w l => w.rd o.a l - srcB o w l) ∧
        pairStep (.iadd64 o) o.d (fun _ w l => w.rd64 o.a l + srcB64 o w l) ∧ pairStep (.isub64 o) o.d (fun _ w l => w.rd64 o.a l - srcB64 o w l)) ∧
      (o.m = 1 → regStep (.iadd o) o.d (fun _ w l => s32 ((w.rd o.a l).toInt + (srcB o w l).toInt)) ∧
        regStep (.isub o) o.d (fun _ w l => s32 ((w.rd o.a l).toInt - (srcB o w l).toInt)) ∧
        pairStep (.iadd64 o) o.d (fun _ w l => s64 ((w.rd64 o.a l).toInt + (srcB64 o w l).toInt)) ∧
        pairStep (.isub64 o) o.d (fun _ w l => s64 ((w.rd64 o.a l).toInt - (srcB64 o w l).toInt))) ∧
      (o.m = 2 → regStep (.iadd o) o.d (fun _ w l => u32 ((w.rd o.a l).toNat + (srcB o w l).toNat)) ∧
        regStep (.isub o) o.d (fun _ w l => u32 ((w.rd o.a l).toNat - (srcB o w l).toNat : Int)) ∧
        pairStep (.iadd64 o) o.d (fun _ w l => u64 ((w.rd64 o.a l).toNat + (srcB64 o w l).toNat)) ∧
        pairStep (.isub64 o) o.d (fun _ w l => u64 ((w.rd64 o.a l).toNat - (srcB64 o w l).toNat : Int)))
  ) ∧ (
    let wide (m : BitVec 2) (x : Word) : DWord := if m = 0 then x.signExtend 64 else x.setWidth 64
    ∀ o : VaFields,
      regStep (.imul o) o.d (fun _ w l => w.rd o.a l * srcB o w l) ∧
      regStep (.imulh o) o.d (fun _ w l => (wide o.m (w.rd o.a l) * wide o.m (srcB o w l)).extractLsb' 32 32) ∧
      regStep (.imad o) o.d (fun _ w l => w.rd o.a l * srcB o w l + w.rd o.d l) ∧
      pairStep (.imulw o) o.d (fun _ w l => wide o.m (w.rd o.a l) * wide o.m (srcB o w l)) ∧
      pairStep (.imadw o) o.d (fun _ w l => wide o.m (w.rd o.a l) * wide o.m (srcB o w l) + w.rd64 o.d l) ∧
      pairStep (.lea o) o.d (fun _ w l => w.rd64 o.a l + ((srcB o w l).signExtend 64 <<< (if o.m = 0 then 0 else o.m.toNat + 1)))
  ) ∧ (
    let le (m : BitVec 2) (x y : Word) : Bool := if m = 0 then x.sle y else x.ule y
    ∀ o : VaFields,
      regStep (.imin o) o.d (fun _ w l => if le o.m (w.rd o.a l) (srcB o w l) then w.rd o.a l else srcB o w l) ∧
      regStep (.imax o) o.d (fun _ w l => if le o.m (srcB o w l) (w.rd o.a l) then w.rd o.a l else srcB o w l) ∧
      regStep (.iabs o) o.d (fun _ w l =>
        if o.m = 1 ∧ w.rd o.a l = 0x80000000 then 0x7FFFFFFF else if (w.rd o.a l).msb then - w.rd o.a l else w.rd o.a l) ∧
      regStep (.idiv o) o.d (fun _ w l =>
        if srcB o w l = 0 then 0xFFFFFFFF else if o.m = 0 then (w.rd o.a l).sdiv (srcB o w l) else w.rd o.a l / srcB o w l) ∧
      regStep (.irem o) o.d (fun _ w l =>
        if srcB o w l = 0 then w.rd o.a l else if o.m = 0 then (w.rd o.a l).srem (srcB o w l) else w.rd o.a l % srcB o w l)
  ) ∧ (
    let enc (i : Instr) (op : Nat) (ok : Bool) : Prop := opcodeOf ((encode i).headD 0) = op ∧ (ok = false → i.wellFormed = false)
    ∀ o : VaFields,
      let m := o.m.toNat
      enc (.iadd o) 0x02 (decide (m < 3)) ∧ enc (.isub o) 0x03 (decide (m < 3)) ∧ enc (.imul o) 0x04 (decide (m = 0)) ∧
      enc (.imulh o) 0x05 (decide (m < 2)) ∧ enc (.imad o) 0x06 (decide (m = 0)) ∧ enc (.imulw o) 0x07 (decide (m < 2)) ∧
      enc (.imadw o) 0x08 (decide (m < 2)) ∧ enc (.iadd64 o) 0x09 (decide (m < 3)) ∧ enc (.isub64 o) 0x0A (decide (m < 3)) ∧
      enc (.lea o) 0x0B true ∧ enc (.imin o) 0x0C (decide (m < 2)) ∧ enc (.imax o) 0x0D (decide (m < 2)) ∧ enc (.iabs o) 0x0E (decide (m < 2)) ∧
      enc (.idiv o) 0x0F (decide (m < 2)) ∧ enc (.irem o) 0x10 (decide (m < 2))
  )

/-- AND, OR, XOR, ANDN and LOP3, the last by its truth table bit by bit (R223, R224). -/
def Obligations.Logic : Prop :=
  (∀ o : VaFields,
    regStep (.and o) o.d (fun _ w l => w.rd o.a l &&& srcB o w l) ∧ regStep (.or o) o.d (fun _ w l => w.rd o.a l ||| srcB o w l) ∧
    regStep (.xor o) o.d (fun _ w l => w.rd o.a l ^^^ srcB o w l) ∧ regStep (.andn o) o.d (fun _ w l => w.rd o.a l &&& ~~~srcB o w l) ∧
    regStep (.lop3 o) o.d (fun _ w l => lop3W o.ximm (w.rd o.a l) (w.rd o.b l) (w.rd o.xc l))) ∧
  (let enc (i : Instr) (op : Nat) (ok : Bool) : Prop := opcodeOf ((encode i).headD 0) = op ∧ (ok = false → i.wellFormed = false)
   ∀ o : VaFields,
    enc (.and o) 0x11 (decide (o.m = 0)) ∧ enc (.or o) 0x12 (decide (o.m = 0)) ∧ enc (.xor o) 0x13 (decide (o.m = 0)) ∧
    enc (.andn o) 0x14 (decide (o.m = 0)) ∧ enc (.lop3 o) 0x15 (decide (o.m = 0 ∧ o.lit.isSome = true ∧ o.xp = 0 ∧ o.xpn = false))) ∧
  ∀ (t : BitVec 8) (a b c : Word) (k : Nat), k < 32 →
    (lop3W t a b c).getLsbD k = t.getLsbD (4 * (a.getLsbD k).toNat + 2 * (b.getLsbD k).toNat + (c.getLsbD k).toNat)

/-- SHL, SHRL, SHRA, ROTL and FUNNEL: a shift of 32 or more saturates, ROTL and FUNNEL take the amount modulo 32 (R225, R226). -/
def Obligations.Shifts : Prop :=
  ∀ o : VaFields,
    regStep (.shl o) o.d (fun _ w l => w.rd o.a l <<< (srcB o w l).toNat) ∧ regStep (.shrl o) o.d (fun _ w l => w.rd o.a l >>> (srcB o w l).toNat) ∧
    regStep (.shra o) o.d (fun _ w l => (w.rd o.a l).sshiftRight (srcB o w l).toNat) ∧
    regStep (.rotl o) o.d (fun _ w l => (w.rd o.a l).rotateLeft ((srcB o w l).toNat % 32)) ∧
    regStep (.funnel o) o.d (fun _ w l =>
      let x : DWord := w.rd o.a l ++ w.rd o.b l
      let n := (w.rd o.xc l).toNat % 32
      if o.m = 0 then (x >>> n).setWidth 32 else (x <<< n).extractLsb' 32 32) ∧
    (let enc (i : Instr) (op : Nat) (ok : Bool) : Prop := opcodeOf ((encode i).headD 0) = op ∧ (ok = false → i.wellFormed = false)
     enc (.shl o) 0x16 (decide (o.m = 0)) ∧ enc (.shrl o) 0x17 (decide (o.m = 0)) ∧ enc (.shra o) 0x18 (decide (o.m = 0)) ∧
     enc (.rotl o) 0x19 (decide (o.m = 0)) ∧
     enc (.funnel o) 0x1A (decide (o.m.toNat < 2 ∧ o.lit.isSome = true ∧ o.ximm = 0 ∧ o.xp = 0 ∧ o.xpn = false)))

/-- BFX, BFI, POPC, CLZ, BREV, FFS and PERMB, bit by bit (R227, R228, R229). -/
def Obligations.BitFields : Prop :=
  (∀ o : VaFields,
    regStep (.bfx o) o.d (fun _ w l => bfxW o.m (w.rd o.a l) (srcB o w l)) ∧
    regStep (.bfi o) o.d (fun _ w l => bfiW (w.rd o.a l) (w.rd o.b l) (w.rd o.xc l)) ∧
    regStep (.popc o) o.d (fun _ w l => popcW (w.rd o.a l)) ∧ regStep (.clz o) o.d (fun _ w l => clzW (w.rd o.a l)) ∧
    regStep (.brev o) o.d (fun _ w l => brevW (w.rd o.a l)) ∧ regStep (.ffs o) o.d (fun _ w l => ffsW (w.rd o.a l)) ∧
    regStep (.permb o) o.d (fun _ w l => permbW (w.rd o.a l) (w.rd o.b l) (w.rd o.xc l))) ∧
  (let enc (i : Instr) (op : Nat) (ok : Bool) : Prop := opcodeOf ((encode i).headD 0) = op ∧ (ok = false → i.wellFormed = false)
   ∀ o : VaFields,
    let x := decide (o.m = 0 ∧ o.lit.isSome = true ∧ o.ximm = 0 ∧ o.xp = 0 ∧ o.xpn = false)
    enc (.bfx o) 0x1B (decide (o.m.toNat < 2)) ∧ enc (.bfi o) 0x1C x ∧ enc (.popc o) 0x1D (decide (o.m = 0)) ∧
    enc (.clz o) 0x1E (decide (o.m = 0)) ∧ enc (.brev o) 0x1F (decide (o.m = 0)) ∧ enc (.ffs o) 0x20 (decide (o.m = 0)) ∧ enc (.permb o) 0x21 x) ∧
  ∀ (a b x : Word) (k : Nat), k < 32 →
    let p := x.toNat % 256
    let n := min (x.toNat / 256 % 256) 32
    (bfxW 0 a x).getLsbD k = (decide (k < n) && a.getLsbD (p + k)) ∧
    (bfxW 1 a x).getLsbD k = (decide (n ≠ 0) && a.getLsbD (min (p + min k (n - 1)) 31)) ∧
    (bfiW a b x).getLsbD k = (if p ≤ k ∧ k < p + n then b.getLsbD (k - p) else a.getLsbD k) ∧
    (brevW a).getLsbD k = a.getLsbD (31 - k) ∧
    (popcW a).toNat = ((List.range 32).filter (fun j => a.getLsbD j)).length ∧
    (clzW a).toNat ≤ 32 ∧ (∀ j, j < 32 → 32 - (clzW a).toNat ≤ j → a.getLsbD j = false) ∧ (a ≠ 0 → a.getLsbD (31 - (clzW a).toNat) = true) ∧
    (ffsW a).toNat ≤ 32 ∧ (∀ j, j < (ffsW a).toNat → a.getLsbD j = false) ∧ (a ≠ 0 → a.getLsbD (ffsW a).toNat = true) ∧ (a = 0 → (ffsW a).toNat = 32 ∧ (clzW a).toNat = 32) ∧
    (permbW a b x).getLsbD k =
      (let sel := x.toNat / 2 ^ (4 * (k / 8)) % 16
       (b ++ a).getLsbD (8 * (sel % 8) + if 8 ≤ sel then 7 else k % 8))

/-- NOP, MOV and MOV.64, SEL and both PMOVs (R215, R241, R242, R214): NOP changes nothing but its place.
SREG samples each special register of R250 once; the vale and the VD of a wave whose block was moved since it began are those it
began with (R251); in a prologue, which has one active lane (R53), those of a core or a block lie in the
ranges of R250. -/
def Obligations.MovesAndSpecialRegisters : Prop :=
  (
    (∀ (o : VaFields) (s : State) (w : Nat) (wv : Wave), runsNow s w wv (.nop o) = true → exec (.nop o) s = .next (s.done w wv (.nop o))) ∧
    (∀ o : VaFields,
      (o.m = 0 → regStep (.mov o) o.d (fun _ w l => o.lit.getD (w.rd o.a l))) ∧
      (o.m = 1 → pairStep (.mov o) o.d (fun _ w l => (o.lit.map (fun x => x.signExtend 64)).getD (w.rd64 o.a l))) ∧
      regStep (.sel o) o.d (fun _ w l => if (w.predBit o.xp.toNat l != o.xpn) then w.rd o.a l else w.rd o.b l) ∧
      regStep (.pmovToreg o) o.d (fun _ w l => BitVec.ofNat 32 ((List.range 8).map (fun k => if w.predBit k l then 2 ^ k else 0)).sum)) ∧
    ∀ (o : VaFields) (s : State) (w : Nat) (wv : Wave), runsNow s w wv (.pmovFromreg o) = true → wv.poison = [] →
      ∃ x : Wave, exec (.pmovFromreg o) s = .next (s.done w x (.pmovFromreg o)) ∧ { x with p := wv.p } = wv ∧
        ∀ k l, k < 8 → l < 16 → x.predBit k l = if l ∈ lanesOf wv.part then (wv.rd o.a l).getLsbD k else wv.predBit k l
  ) ∧ (
    (∀ o : VaFields, regStep (.sreg o) o.d (fun s w l => sregOf s w o.b.toNat l)) ∧
    ∀ (s : State) (w : Wave) (l : Nat), l < 16 →
      (sregOf s w 0 l).toNat = l ∧
      (w.born = none → sregOf s w 6 l = BitVec.ofNat 32 w.vale ∧ sregOf s w 7 l = BitVec.ofNat 32 w.vd) ∧
      (∀ v d, w.born = some (v, d) → sregOf s w 6 l = BitVec.ofNat 32 v ∧ sregOf s w 7 l = BitVec.ofNat 32 d) ∧
      sregOf s w 9 l ++ sregOf s w 8 l = s.tod ∧
      (w.kind ≠ .prologue → sregOf s w 4 l = BitVec.ofNat 32 w.core ∧ sregOf s w 5 l = BitVec.ofNat 32 (w.core / 16) ∧
        sregOf s w 15 l = BitVec.ofNat 32 w.held) ∧
      (w.kind = .prologue → (sregOf s w 4 l).toNat < 4096 ∧ (sregOf s w 5 l).toNat < 256 ∧ sregOf s w 17 l = 0 ∧ sregOf s w 18 l = 1) ∧
      (w.kind = .ordinary → sregOf s w 1 l = BitVec.ofNat 32 w.index ∧ sregOf s w 16 l = BitVec.ofNat 32 w.role ∧
        sregOf s w 17 l = w.helper.setWidth 32 ∧ sregOf s w 18 l = w.active.setWidth 32)
  )

/-! ## Floating point -/

/-- Rounding to nearest even gives back every value that a format represents (R75, R84): FP32, FP16 and BF16 patterns that are no
NaN. -/
def Obligations.RoundingIsExact : Prop :=
  ∀ f ∈ [fp32, fp16, bf16], ∀ p : Nat, p < 2 ^ (1 + f.ew + f.fw) → (valOf f p).isNan = false → rne f (valOf f p) = p

/-- FADD, FSUB, FMUL, FMA, FMIN, FMAX, FDIV, PACK, DOT4 and DOT2F: one exact operation and one rounding for each element (R230, R231,
R233, R237, R238).
FNEG, FABS, FRND, the correctly rounded functions, FCLASS and CVT in every conversion and width (R231 to R236). -/
def Obligations.FloatArithmetic : Prop :=
  (
    ∀ o : VaFields,
      regStep (.fadd o) o.d (fun _ w l => fp2 o.m addV (w.rd o.a l) (srcB o w l)) ∧
      regStep (.fsub o) o.d (fun _ w l => fp2 o.m (fun x y => addV x y.negate) (w.rd o.a l) (srcB o w l)) ∧
      regStep (.fmul o) o.d (fun _ w l => fp2 o.m mulV (w.rd o.a l) (srcB o w l)) ∧
      regStep (.fma o) o.d (fun _ w l => fp3 o.m (fun x y d => addV (mulV x y) d) (w.rd o.a l) (srcB o w l) (w.rd o.d l)) ∧
      regStep (.fmin o) o.d (fun _ w l => fp2 o.m minV (w.rd o.a l) (srcB o w l)) ∧
      regStep (.fmax o) o.d (fun _ w l => fp2 o.m maxV (w.rd o.a l) (srcB o w l)) ∧
      regStep (.fdiv o) o.d (fun _ w l => fp2 0 divV (w.rd o.a l) (srcB o w l)) ∧
      regStep (.pack o) o.d (fun _ w l => packW o.m (w.rd o.a l) (srcB o w l)) ∧
      regStep (.dot4 o) o.d (fun _ w l => dot4W o.m (w.rd o.a l) (srcB o w l) (w.rd o.d l)) ∧
      regStep (.dot2f o) o.d (fun _ w l => dot2fW o.m (w.rd o.a l) (srcB o w l) (w.rd o.d l))
  ) ∧ (
    ∀ o : VaFields,
      regStep (.fneg o) o.d (fun _ w l => fp1 o.m fnegPat (w.rd o.a l)) ∧ regStep (.fabs o) o.d (fun _ w l => fp1 o.m fabsPat (w.rd o.a l)) ∧
      regStep (.frnd o) o.d (fun _ w l => BitVec.ofNat 32 (rne fp32 (frndV (valOf fp32 (w.rd o.a l).toNat) (rmodeOf o.m)))) ∧
      regStep (.frcp o) o.d (fun _ w l => fpFun rcpV (w.rd o.a l)) ∧ regStep (.fsqrt o) o.d (fun _ w l => fpFun sqrtV (w.rd o.a l)) ∧
      regStep (.frsq o) o.d (fun _ w l => fpFun rsqrtV (w.rd o.a l)) ∧
      regStep (.fexp2 o) o.d (fun _ w l => BitVec.ofNat 32 (fexp2Pat (w.rd o.a l).toNat)) ∧
      regStep (.flog2 o) o.d (fun _ w l => BitVec.ofNat 32 (flog2Pat (w.rd o.a l).toNat)) ∧
      regStep (.fsinpi o) o.d (fun _ w l => BitVec.ofNat 32 (fsinpiPat (w.rd o.a l).toNat)) ∧
      regStep (.fcospi o) o.d (fun _ w l => BitVec.ofNat 32 (fcospiPat (w.rd o.a l).toNat)) ∧
      regStep (.fclass o) o.d (fun _ w l => fp1 o.m classOf (w.rd o.a l)) ∧
      (((cvtWidths o.b.toNat).getD (1, 1)).2 ≠ 2 →
        regStep (.cvt o) o.d (fun _ w l => loWord (cvtOf o.b.toNat (rmodeOf o.m) (w.rd o.a l) (w.rd64 o.a l)))) ∧
      (((cvtWidths o.b.toNat).getD (1, 1)).2 = 2 →
        pairStep (.cvt o) o.d (fun _ w l => cvtOf o.b.toNat (rmodeOf o.m) (w.rd o.a l) (w.rd64 o.a l)))
  )

/-! ## Predicates and lanes -/

/-- ICMP by its condition table, FCMP, PLOP and the ways a result combines with its predicate (R239, R240). -/
def Obligations.Compares : Prop :=
  let with_ (m : BitVec 2) (old c : Bool) : Bool := if m = 0 then c else if m = 1 then old && c else old || c
  let holds (cond : Nat) (a b : Word) : Bool :=
    match cond with
    | 0 | 8 => a == b
    | 1 | 9 => a != b
    | 2 => a.slt b
    | 3 => a.sle b
    | 4 => b.slt a
    | 5 => b.sle a
    | 10 => a.ult b
    | 11 => a.ule b
    | 12 => b.ult a
    | 13 => b.ule a
    | _ => false
  (∀ o : VcFields,
    predStep (.icmp o) o.pd.toNat (fun _ w l => with_ o.m (w.predBit o.pd.toNat l) (holds o.cond.toNat (w.rd o.a l) (srcBc o w l))) ∧
    predStep (.fcmp o) o.pd.toNat (fun _ w l => with_ o.m (w.predBit o.pd.toNat l) (fcmpHolds o.cond.toNat (w.rd o.a l) (srcBc o w l)))) ∧
  (∀ o : VaFields, predStep (.plop o) (o.d.toNat % 8) (fun _ w l =>
    let x := w.predBit (o.a.toNat % 8) l != o.a.getLsbD 3
    let y := w.predBit (o.b.toNat % 8) l != o.b.getLsbD 3
    if o.m = 0 then x && y else if o.m = 1 then x || y else x != y)) ∧
  ∀ a b : Word, fcmpHolds 1 a b = !fcmpHolds 0 a b ∧ fcmpHolds 7 a b = !fcmpHolds 6 a b ∧ fcmpHolds 4 a b = fcmpHolds 2 b a ∧
    fcmpHolds 5 a b = fcmpHolds 3 b a

/-- The three votes, ELECT and MATCH (R243, R244, R247).
SHFL, SCAN, REDUCE and both V2S (R245, R246, R248): the lane SHFL reads by its mode, and a scan as a running total in ascending
lane order.
DDX and DDY subtract across a quad, outside a speculative task (R348, R358). -/
def Obligations.CrossLane : Prop :=
  (
    let src (o : VaFields) (w : Wave) (l : Nat) : Bool := w.predBit (o.a.toNat % 8) l != o.a.getLsbD 3
    ∀ o : VaFields,
      predStep (.voteAny o) (o.d.toNat % 8) (fun _ w _ => (lanesOf w.part).any (src o w)) ∧
      predStep (.voteAll o) (o.d.toNat % 8) (fun _ w _ => (lanesOf w.part).all (src o w)) ∧
      regStep (.voteBallot o) o.d (fun _ w _ => (maskOf ((lanesOf w.part).filter (src o w))).setWidth 32) ∧
      predStep (.elect o) (o.d.toNat % 8) (fun _ w l => decide ((lanesOf (w.part &&& ~~~w.helper)).head? = some l)) ∧
      regStep (.matchLanes o) o.d (fun _ w l => (maskOf ((lanesOf w.part).filter (fun k =>
        if o.m = 0 then w.rd o.a k == w.rd o.a l else w.rd64 o.a k == w.rd64 o.a l))).setWidth 32)
  ) ∧ (
    let lane (m : BitVec 2) (l n : Nat) : Nat :=
      if m = 0 then n % 16 else if m = 1 then (if n ≤ l then l - n else l) else if m = 2 then (if l + n ≤ 15 then l + n else l) else l ^^^ (n % 16)
    let total (m : BitVec 2) (xs : List Word) : Option Word :=
      match xs with
      | [] => none
      | x :: t => some (t.foldl (scanOp m) (scanFirst m x))
    ∀ o : VaFields,
      regStep (.shfl o) o.d (fun _ w l => w.rd o.a (lane o.m l (srcB o w l).toNat)) ∧
      (o.b ≠ 1 → regStep (.scan o) o.d (fun _ w l => (total o.m (((lanesOf w.part).filter (fun k => decide (k ≤ l))).map (w.rd o.a))).getD 0)) ∧
      (o.b = 1 → regStep (.scan o) o.d (fun _ w l => (total o.m (((lanesOf w.part).filter (fun k => decide (k < l))).map (w.rd o.a))).getD (scanId o.m))) ∧
      regStep (.reduce o) o.d (fun _ w _ => (total o.m ((lanesOf w.part).map (w.rd o.a))).getD 0) ∧
      regStep (.v2sFirst o) o.d (fun _ w l => w.rd o.a l) ∧
      regStep (.v2sLane o) o.d (fun _ w l => w.rd o.a ((srcB o w l).toNat % 16))
  ) ∧ (
    let diff (o : VaFields) (w : Wave) (hi lo : Nat) : Word := fp2 o.m (fun x y => addV x y.negate) (w.rd o.a hi) (w.rd o.a lo)
    ∀ o : VaFields,
      waveStep (.ddx o) (fun s w wv => s.done w (wv.wr o.d (lanesOf wv.part) (fun l =>
        let lo := l / 4 * 4 + l % 4 / 2 * 2
        diff o wv (lo + 1) lo)) (.ddx o)) ∧
      waveStep (.ddy o) (fun s w wv => s.done w (wv.wr o.d (lanesOf wv.part) (fun l =>
        let lo := l / 4 * 4 + l % 4 % 2
        diff o wv (lo + 2) lo)) (.ddy o))
  )

/-- MOVX moves in every lane that takes part when every index stays inside the allocation; otherwise exactly the lanes beyond it fault
REG_INDEX (R249, R487). -/
def Obligations.IndexedMoves : Prop :=
  ∀ (o : VaFields) (s : State) (w : Nat) (wv : Wave), wv.poison = [] →
    let n (l : Nat) : Nat := o.a.toNat + (srcB o wv l).toNat
    let ls := lanesOf wv.part
    let x := ls.foldl (fun (x : Wave) l => x.wrV (n l) l (wv.rd o.d l)) wv
    ((∀ l ∈ ls, n l < 8 * wv.held) →
      (runsNow s w wv (.movxRd o) = true → exec (.movxRd o) s = .next (s.done w (wv.wr o.d ls (fun l => wv.rdV (n l) l)) (.movxRd o))) ∧
      (runsNow s w wv (.movxWr o) = true → exec (.movxWr o) s = .next (s.done w x (.movxWr o)))) ∧
    ((∃ l ∈ ls, 8 * wv.held ≤ n l) → runsNow s w wv (.movxRd o) = true →
      let good := ls.filter (fun l => decide (n l < 8 * wv.held))
      let bad := ls.filter (fun l => decide (8 * wv.held ≤ n l))
      exec (.movxRd o) s = .next (raiseLanes s w (wv.wr o.d good (fun l => wv.rdV (n l) l)) (instrBytes (.movxRd o))
        (bad.map (fun l => laneFault l cIndex (srcB o wv l) 0))))

/-! ## Memory -/

/-- Every load and LDC by a plain wave with no helper lane (R204), none of whose lanes faults and which no recorded stash range (R110) and
no full count of updates (R151) holds, and whose translations wait for no line of the tables (R108): it becomes one outstanding load of all its
lanes, each at its translated address, with the size, extension and registers of its form, and the wave moves on (R172, R281, R283).
Every atomic with return by a plain wave with no helper lane, none of whose lanes faults and which nothing holds (R172, R284): it becomes
outstanding with its
operands read from its registers; a weak one is relaxed (R135). -/
def Obligations.LoadsAndAtomicsIssue : Prop :=
  (
    let ld (i : Instr) (o : MmFields) (n words : Nat) (ext : Extend) : Prop :=
      waveStepIf i
        (fun s w wv =>
          let r := resolveLanes s wv o n .load false (accLanes i wv.part)
          decide (wv.helper = 0) && !crossingHeld s w wv && !walksWait s wv o .load (accLanes i wv.part) && !placesHeld r.1 wv false n .load r.2.oks && r.2.bad.isEmpty && (o.space.toNat ≠ 2 || r.2.oks.all (fun x => (constCheck r.1 wv x.2.1 x.2.2).isNone)))
        (fun s w wv =>
          let r := resolveLanes s wv o n .load false (accLanes i wv.part)
          let req (x : Nat × Xlat × DWord) : LaneReq :=
            { lane := x.1, target := x.2.1.target, va := x.2.2, l1 := x.2.1.l1, nc := x.2.1.nc, dev := x.2.1.dev, helper := false, x := 0, w := 0, ipa := some x.2.1.ipa
              lg := x.2.1.lg }
          let l : LoadOp := { pos := wv.pos, size := n, ext := ext, words := words, dst := o.t, ord := o.ord, scope := o.scope, hint := o.hint
                              atom := none, lanes := r.2.oks.map req }
          finishMem i (issueLoad (r.1.modWave w (fun x => x)) w o.l.toNat l) w [])
    ∀ o : MmFields,
      ld (.ldS8 o) o 1 1 .sext ∧ ld (.ldB8 o) o 1 1 .zext ∧ ld (.ldS16 o) o 2 1 .sext ∧ ld (.ldB16 o) o 2 1 .zext ∧
      ld (.ld32 o) o 4 1 .zext ∧ ld (.ld64 o) o 8 2 .zext ∧ ld (.ld128 o) o 16 4 .zext ∧ (o.space = 2 → ld (.ldc o) o 4 1 .zext)
  ) ∧ (
    let at_ (i : Instr) (o : MmFields) (a : AtomOp) : Prop :=
      o.nr = false → waveStepIf i
        (fun s w wv =>
          let r := resolveLanes s wv o (atomSize a) .atomic false (accLanes i wv.part)
          decide (wv.helper = 0) && !crossingHeld s w wv && !walksWait s wv o .atomic (accLanes i wv.part) &&
            !placesHeld r.1 wv false (atomSize a) .atomic r.2.oks && r.2.bad.isEmpty)
        (fun s w wv =>
          let r := resolveLanes s wv o (atomSize a) .atomic false (accLanes i wv.part)
          let req (x : Nat × Xlat × DWord) : LaneReq :=
            { lane := x.1, target := x.2.1.target, va := x.2.2, l1 := x.2.1.l1, nc := x.2.1.nc, dev := x.2.1.dev, helper := false, x := (atomData wv a o.t (x.1 % 16)).1
              w := (atomData wv a o.t (x.1 % 16)).2, ipa := some x.2.1.ipa, lg := x.2.1.lg }
          let l : LoadOp := { pos := wv.pos, size := atomSize a, ext := .zext, words := atomSize a / 4, dst := o.t
                              ord := if o.ord = 0 then 1 else o.ord, scope := o.scope, hint := o.hint, atom := some a, lanes := r.2.oks.map req }
          finishMem i (issueLoad (r.1.modWave w (fun x => x)) w o.l.toNat l) w [])
    ∀ o : MmFields,
      at_ (.atomAdd o) o .add ∧ at_ (.atomSmin o) o .smin ∧ at_ (.atomSmax o) o .smax ∧ at_ (.atomBmin o) o .bmin ∧ at_ (.atomBmax o) o .bmax ∧
      at_ (.atomAnd o) o .and ∧ at_ (.atomOr o) o .or ∧ at_ (.atomXor o) o .xor ∧ at_ (.atomXchg o) o .xchg ∧ at_ (.atomCas o) o .cas ∧
      at_ (.atomFadd o) o .fadd ∧ at_ (.atomAdd64 o) o .add64 ∧ at_ (.atomCas64 o) o .cas64
  )

/-- What a load writes (R281): a byte or a halfword sign- or zero-extended, and words little-endian from the first register up; in its
lane only.
The new value of every atomic from the old one (R284): 32-bit forms on the low words, 64-bit forms whole. -/
def Obligations.LoadAndAtomicValues : Prop :=
  (
    ∀ (w : Wave) (op : LoadOp) (l : Nat) (b0 b1 b2 b3 b4 b5 b6 b7 : Byte), l < 16 → isScalar op.dst = false → op.dst.toNat < 95 →
      (op.size = 1 → op.words = 1 → (writeLoad w op l [b0]).rd op.dst l = if op.ext = .sext then b0.signExtend 32 else b0.setWidth 32) ∧
      (op.size = 2 → op.words = 1 →
        (writeLoad w op l [b0, b1]).rd op.dst l = if op.ext = .sext then (b1 ++ b0).signExtend 32 else (b1 ++ b0).setWidth 32) ∧
      (op.size = 4 → op.words = 1 → (writeLoad w op l [b0, b1, b2, b3]).rd op.dst l = b3 ++ b2 ++ b1 ++ b0) ∧
      (op.size = 8 → op.words = 2 →
        (writeLoad w op l [b0, b1, b2, b3, b4, b5, b6, b7]).rd64 op.dst l = b7 ++ b6 ++ b5 ++ b4 ++ b3 ++ b2 ++ b1 ++ b0) ∧
      (op.dst.toNat + op.words ≤ 96 → ∀ bs k f, k < 16 → k ≠ l → (writeLoad w op l bs).rd f k = w.rd f k)
  ) ∧ (
    ∀ old x w : DWord,
      let a := old.setWidth 32
      let b : Word := x.setWidth 32
      atomNew .add old x w = (a + b).setWidth 64 ∧ atomNew .smin old x w = (if a.sle b then a else b).setWidth 64 ∧
      atomNew .smax old x w = (if b.sle a then a else b).setWidth 64 ∧ atomNew .bmin old x w = (if a.ule b then a else b).setWidth 64 ∧
      atomNew .bmax old x w = (if b.ule a then a else b).setWidth 64 ∧ atomNew .and old x w = (a &&& b).setWidth 64 ∧
      atomNew .or old x w = (a ||| b).setWidth 64 ∧ atomNew .xor old x w = (a ^^^ b).setWidth 64 ∧ atomNew .xchg old x w = b.setWidth 64 ∧
      atomNew .cas old x w = (if a = b then w else old) ∧ atomNew .fadd old x w = (faddW a b).setWidth 64 ∧ atomNew .add64 old x w = old + x ∧
      atomNew .cas64 old x w = (if old = x then w else old)
  )

/-- A lane of an outstanding load of local memory that nothing holds reads its bytes and writes its registers (R149, R172): the wave
ends up with the registers writeLoad gives it, and memory reads as before where no row of a stash maps a line.
Where it goes beyond the rules it states the model's choice: log 13. -/
def Obligations.LoadDelivers : Prop :=
  ∀ (s s1 : State) (wid lid lane d k : Nat) (w : Wave) (op : LoadOp) (r : LaneReq) (bs : List Byte),
    Tbl.get s.waves wid = some w → w.outst.find? (fun o => decide (o.id = lid)) = some ⟨lid, d, .load op⟩ →
    op.lanes.find? (fun q => decide (q.lane = lane)) = some r → reqReady s wid lid w op r = true → r.target = .mem k → s.taskOf w = none →
    op.atom = none → (∀ e ∈ s.blocks, e.2.rows = []) →
    readMemLoad s w k op.size op.ord op.scope op.hint r.page = (s1, bs, false) →
    (∃ x, Tbl.get (loadLane wid lid lane s).waves wid = some x ∧ (∀ f l, x.rd f l = (writeLoad w op lane bs).rd f l) ∧ x.pos = w.pos ∧
      x.active = w.active ∧ x.stack = w.stack) ∧
    sameMem s (loadLane wid lid lane s)

/-- Every store, counter add and atomic without return by a plain wave none of whose lanes faults and which nothing holds (R110, R151; R282,
R284, R288): its accesses are
issued in ascending lane order (R137), each at its translated address with the data of its lane, and the wave moves on. -/
def Obligations.StoresIssue : Prop :=
  let st (i : Instr) (o : MmFields) (n : Nat) (k : AccKind) (ord : BitVec 3) (cnt : Bool) (data : Wave → Nat → AccOp) : Prop :=
    waveStepIf i
      (fun s w wv =>
        let r := resolveLanes s wv o n k false (accLanes i wv.live)
        !crossingHeld s w wv && !walksWait s wv o k (accLanes i wv.live) && !placesHeld r.1 wv false n k r.2.oks && r.2.bad.isEmpty)
      (fun s w wv =>
        let r := resolveLanes s wv o n k false (accLanes i wv.live)
        finishMem i (issueStores r.1 w o (r.2.oks.map (fun x => accessOf w wv o ord cnt (data wv (x.1 % 16)) x))) w [])
  let store (i : Instr) (o : MmFields) (n : Nat) : Prop := st i o n .store o.ord false (fun w l => .store (storeData w o.t n l))
  let atom (i : Instr) (o : MmFields) (a : AtomOp) : Prop :=
    o.nr = true → st i o (atomSize a) .atomic (if o.ord = 0 then 1 else o.ord) false (fun w l => .atom a (atomData w a o.t l).1 (atomData w a o.t l).2)
  ∀ o : MmFields,
    store (.st8 o) o 1 ∧ store (.st16 o) o 2 ∧ store (.st32 o) o 4 ∧ store (.st64 o) o 8 ∧ store (.st128 o) o 16 ∧
    st (.cntadd o) o 8 .count o.ord true (fun w l => .add ((w.rd o.t l).setWidth 64)) ∧
    atom (.atomAdd o) o .add ∧ atom (.atomSmin o) o .smin ∧ atom (.atomSmax o) o .smax ∧ atom (.atomBmin o) o .bmin ∧ atom (.atomBmax o) o .bmax ∧
    atom (.atomAnd o) o .and ∧ atom (.atomOr o) o .or ∧ atom (.atomXor o) o .xor ∧ atom (.atomXchg o) o .xchg ∧ atom (.atomCas o) o .cas ∧
    atom (.atomFadd o) o .fadd ∧ atom (.atomAdd64 o) o .add64 ∧ atom (.atomCas64 o) o .cas64

/-- Where the stores of StoresIssue go: where no row of a stash maps a line, no poison stands in memory, and the VD neither logs for a
checkpoint nor tracks dirty pages, every byte of memory outside the bytes of the lanes' own translated addresses reads as the translation
of the lanes left it: as before, but for A and D bits of page tables that it set (R126). The addresses are those the meaning computes:
effAddr of each lane, translated by resolveLanes. -/
def Obligations.StoreFrame : Prop :=
  ∀ (i : Instr) (o : MmFields) (n : Nat) (s t : State) (w : Nat) (wv : Wave),
    (i = .st8 o ∧ n = 1 ∨ i = .st16 o ∧ n = 2 ∨ i = .st32 o ∧ n = 4 ∨ i = .st64 o ∧ n = 8 ∨ i = .st128 o ∧ n = 16 ∨ i = .cntadd o ∧ n = 8) →
    runsNow s w wv i = true → plainWave s wv = true → s.poison = [] → (∀ e ∈ s.blocks, e.2.rows = [] ∧ e.2.task = none) →
    (∀ d, s.vd? wv.vale wv.vd = some d → d.ckseq = 0 ∧ d.dirty = none) →
    let k : AccKind := if i = .cntadd o then .count else .store
    let r := resolveLanes s wv o n k false (accLanes i wv.live)
    r.2.bad = [] → (∀ x ∈ r.2.oks, ∃ a, x.2.1.target = .mem a) → crossingHeld s w wv = false →
    walksWait s wv o k (accLanes i wv.live) = false → exec i s = .next t →
    ∀ a, (∀ x ∈ r.2.oks, ∀ m, x.2.1.target = .mem m → a < m ∨ m + n ≤ a) →
      memByte t a = memByte r.1 a ∧ (memByte r.1 a = memByte s a → memByte t a = memByte s a)

/-- Performing an access at its home (R149, R284, R288), under the premises of StoreFrame: the bytes at its place become what the access
makes of them, and every other byte reads as before. -/
def Obligations.PerformAtHome : Prop :=
  ∀ (s : State) (a : Access) (k : Nat),
    s.poison = [] → (∀ e ∈ s.blocks, e.2.rows = [] ∧ e.2.task = none) → (∀ d, s.vd? a.vale a.vd = some d → d.ckseq = 0 ∧ d.dirty = none) →
    (accApply a.op (memBytes s k a.op.size)).length = a.op.size →
    memBytes (performMem s a k) k a.op.size = accApply a.op (memBytes s k a.op.size) ∧ sameMemBut s (performMem s a k) k a.op.size

/-- STMAP, STUNMAP, STWB and STDROP by a plain wave, none of whose lanes faults and whose rows do not wait (R108, R285): each named row is
bound to its line, unbound with write-back, written back, or dropped; STMAP in ascending lane order, so that of two lanes that name one
row the higher stands.
PREFETCH drops every failure and a DEVICE page, and otherwise brings each line into its home slice, and into the wave's L1 unless the
page or the hint leaves L1 out, where nothing holds a line it names (R156, R286); FENCE is outstanding until what it orders is performed,
and is performed at once where it may be (R144, R287).
Where it goes beyond the rules it states the model's choice: log 10, 12, 73. -/
def Obligations.RowsPrefetchFence : Prop :=
  (
    let found (s : State) (wv : Wave) (o : MmFields) (i : Instr) (writes : Bool) : State × Resolved :=
      resolveLanes s wv o 1 (if writes then .stmap else .row) false (accLanes i wv.live)
    let rows (r : Resolved) : List (Nat × Nat) := r.oks.filterMap (fun x => match x.2.1.target with
      | .stash b off => some (b, off / 128)
      | _ => none)
    let row (i : Instr) (o : MmFields) (writes : Bool) (f : State → Nat → Nat → State) : Prop :=
      waveStepIf i
        (fun s w wv =>
          let r := found s wv o i writes
          r.2.bad.isEmpty && !crossingHeld s w wv && !(rows r.2).any (fun x => rowWaits r.1 w wv x.1 x.2 writes))
        (fun s w wv =>
          let r := found s wv o i writes
          finishMem i ((rows r.2).foldl (fun s x => if (rowAt s x.1 x.2).isSome then f s x.1 x.2 else s) r.1) w [])
    let maps (s : State) (wv : Wave) (o : MmFields) : State × List (Nat × Nat × Nat × Nat) × Bool :=
      (accLanes (.stmap o) wv.live).foldl (fun a l => match mapLane a.1 wv o (l % 16) with
        | (t, .ok x) => (t, a.2.1 ++ [x], a.2.2)
        | (t, .error _) => (t, a.2.1, true)) (s, [], false)
    ∀ o : MmFields,
      row (.stunmap o) o true (fun s b r => unbindRow s b r false) ∧ row (.stwb o) o true writeRowBack ∧
      row (.stdrop o) o false (fun s b r => unbindRow s b r true) ∧
      waveStepIf (.stmap o)
        (fun s w wv =>
          let r := maps s wv o
          !crossingHeld s w wv && !(accLanes (.stmap o) wv.live).any (fun l => laneWalks s wv .global (wv.rd64 o.t (l % 16)).toNat .stmap) &&
            !r.2.2 && !r.2.1.any (fun x => rowWaits r.1 w wv x.1 x.2.1 true))
        (fun s w wv =>
          let r := maps s wv o
          finishMem (.stmap o) (r.2.1.foldl (fun s x => bindRow s x.1 x.2.1 x.2.2.1 x.2.2.2) r.1) w [])
  ) ∧ (
    ∀ o : MmFields,
      let lines (s : State) (wv : Wave) : State × List (Nat × PageKind) := (accLanes (.prefetch o) wv.part).foldl (fun (a : State × List (Nat × PageKind)) l =>
        match translate a.1 (some wv.cacheCore) wv.vale wv.vd (effAddr wv o (l % 16)).toNat 1 .load with
        | (s, .error _) => (s, a.2)
        | (s, .ok x) =>
          match x.target with
          | .mem k => (s, a.2 ++ if x.dev then [] else [(k / 128, x.page)])
          | _ => (s, a.2)) (s, [])
      waveStepIf (.prefetch o)
        (fun s w wv => !crossingHeld s w wv && !walksWait s wv { o with space := 0 } .load (accLanes (.prefetch o) wv.part) && !(lines s wv).2.any (fun x => readWaits (lines s wv).1 (dieOfCore wv.core) (.mem (128 * x.1)) 128))
        (fun s w wv => finishMem (.prefetch o) ((lines s wv).2.foldl (fun s x => fillL1 s wv x.1 o.hint x.2) (lines s wv).1) w []) ∧
      waveStepIf (.fence o) (fun s w wv => !crossingHeld s w wv) (fun s w wv =>
        let id := s.nextId
        let s1 := State.modWave { s with nextId := id + 1 } w (fun x => { x with
          outst := x.outst ++ [⟨id, x.issued + 1 + o.l.toNat, .fence o.ord o.scope (decide (o.t = 1)) id⟩] })
        finishMem (.fence o) (if s.defer then s1 else performFence s1 w id wv o.ord o.scope (decide (o.t = 1))) w [])
  )

/-- An instruction that stages 4 to 6 of R479 refuses has no effect but its fault: PRIV for a privileged one in an ordinary wave and
for one forbidden in a handler, then RESERVED_FIELD, then a register beyond the allocation.
With no lane taking part an instruction of a wave has no effect but to move past it (R165).
An access whose address is not a multiple of its size faults MISALIGN in its lane before anything else is checked, in every space
(R503), and a stash access beyond the block's stash faults PROTECT.
Where it goes beyond the rules it states the model's choice: log 32. -/
def Obligations.Checks : Prop :=
  (
    (∀ (i : Instr) (s : State) (w : Nat) (wv : Wave) (c : BitVec 8), (∃ x l, decodeWord x l = .ok i) → s.cur = .wave w → Tbl.get s.waves w = some wv →
      wv.part ≠ 0 → staticCause wv i = some c → exec i s = .next (raiseInstr s w wv i c 0)) ∧
    (∀ (w : Wave) (i : Instr), w.kind = .ordinary → isSys i = true → staticCause w i = some cPriv) ∧
    (∀ (w : Wave) (i : Instr), w.kind = .handler → slotForbidden i = true → staticCause w i = some cPriv) ∧
    (∀ (w : Wave) (i : Instr), privCause w.kind i = none → i.wellFormed = false → staticCause w i = some cField) ∧
    ∀ (w : Wave) (i : Instr), privCause w.kind i = none → i.wellFormed = true → (i.regs.all (fun u => u.within w.held)) = false →
      staticCause w i = some cRange
  ) ∧ (
    ∀ (i : Instr) (s : State) (w : Nat) (wv : Wave), (∃ x l, decodeWord x l = .ok i) → s.cur = .wave w → Tbl.get s.waves w = some wv → wv.part = 0 →
      exec i s = .next (s.setWave w (wv.advance (instrBytes i)))
  ) ∧ (
    (∀ (s : State) (wv : Wave) (sp : Space) (ea : DWord) (n : Nat) (k : AccKind), ea.toNat % n ≠ 0 →
      laneAccess s wv sp ea n k = (s, .error ⟨cAlign, 0, ea⟩)) ∧
    ∀ (s : State) (wv : Wave) (ea : DWord) (n : Nat) (k : AccKind), ea.toNat % n = 0 → stashTarget s wv.blk ea.toNat n = none →
      laneAccess s wv .stash ea n k = (s, .error ⟨cProtect, 11, ea⟩)
  )

/-! ## Control -/

/-- BRA in its four cases (R182, R256): no lane taken, every active lane taken, both with room, and both with a full stack, which
faults STACK_OVER. -/
def Obligations.Branch : Prop :=
  ∀ (o : BrFields) (s : State) (w : Nat) (wv : Wave), runsNow s w wv (.bra o) = true →
    let tk := if o.pe = 1 then wv.part &&& (if o.pn = 1 then ~~~(wv.pred o.pi.toNat) else wv.pred o.pi.toNat) else wv.part
    let nt := wv.active &&& ~~~tk
    let t : DWord := wv.pos.pc + (o.off.signExtend 64 <<< 2)
    (tk = 0 → exec (.bra o) s = .next (s.setWave w (wv.advance 4))) ∧
    (tk ≠ 0 → nt = 0 → exec (.bra o) s = .next (s.setWave w { wv with pos := ⟨t, none⟩, replay := none })) ∧
    (tk ≠ 0 → nt ≠ 0 → wv.stack.length < 64 →
      exec (.bra o) s = .next (s.setWave w { wv.advance 4 with stack := ⟨.path, t, tk, wv.depth⟩ :: wv.stack, active := nt })) ∧
    (tk ≠ 0 → nt ≠ 0 → 64 ≤ wv.stack.length →
      exec (.bra o) s = .next (raiseLanes s w wv 4 ((lanesOf wv.part).map (fun l => laneFault l cOver 0 0))))

/-- BRX, CALLX, CALLX.TAIL and CALL (R257, R259, R479, R491). Where every target is aligned and the pushes fit, each completes: CALLX and
CALL write the link pairs with the address after the clause and push their CALL entry, and the lanes are sent to their targets by the
split of R256. Where the pushes do not fit, or at Depth 255 for a call, each faults STACK_OVER and changes nothing, whatever its targets.
Where they fit and some targets are misaligned, those lanes fault MISALIGN with their target and stay, and the other lanes complete. -/
def Obligations.IndirectAndCalls : Prop :=
  (∀ (o : VaFields) (s : State) (w : Nat) (wv : Wave), runsNow s w wv (.brx o) = true → wv.poison = [] →
    (∀ l ∈ lanesOf wv.part, (wv.rd64 o.a l).toNat % 4 = 0) → wv.stack.length + transferPushes wv (lanesOf wv.part) (wv.rd64 o.a) ≤ 64 →
    exec (.brx o) s = .next (s.setWave w (wv.transfer 4 (lanesOf wv.part) (wv.rd64 o.a) wv.depth []))) ∧
  (∀ (o : VaFields) (s : State) (w : Nat) (wv : Wave), runsNow s w wv (.callxTail o) = true → wv.poison = [] →
    (∀ l ∈ lanesOf wv.part, (wv.rd64 o.a l).toNat % 4 = 0) → wv.stack.length + transferPushes wv (lanesOf wv.part) (wv.rd64 o.a) ≤ 64 →
    exec (.callxTail o) s = .next (s.setWave w (wv.transfer 4 (lanesOf wv.part) (wv.rd64 o.a) wv.depth []))) ∧
  (∀ (o : VaFields) (s : State) (w : Nat) (wv : Wave), runsNow s w wv (.callx o) = true → wv.poison = [] →
    (∀ l ∈ lanesOf wv.part, (wv.rd64 o.a l).toNat % 4 = 0) → wv.depth ≠ 255 →
    wv.stack.length + 1 + transferPushes wv (lanesOf wv.part) (wv.rd64 o.a) ≤ 64 →
    exec (.callx o) s = .next (s.setWave w ((wv.wr64 o.d (lanesOf wv.part) (fun _ => wv.afterClause)).transfer 4 (lanesOf wv.part) (wv.rd64 o.a)
      (wv.depth + 1) [⟨.call, wv.afterClause, wv.part, wv.depth⟩]))) ∧
  (∀ (o : ClFields) (s : State) (w : Nat) (wv : Wave), runsNow s w wv (.call o) = true →
    let t (_ : Nat) : DWord := wv.pos.pc + (o.off.signExtend 64 <<< 2)
    (wv.depth ≠ 255 → wv.stack.length + 1 + transferPushes wv (lanesOf wv.part) t ≤ 64 →
      exec (.call o) s = .next (s.setWave w ((wv.wr64 o.link (lanesOf wv.part) (fun _ => wv.afterClause)).transfer 4 (lanesOf wv.part) t
        (wv.depth + 1) [⟨.call, wv.afterClause, wv.part, wv.depth⟩]))) ∧
    (wv.depth = 255 ∨ 64 < wv.stack.length + 1 + transferPushes wv (lanesOf wv.part) t →
      exec (.call o) s = .next (raiseLanes s w wv 4 ((lanesOf wv.part).map (fun l => laneFault l cOver 0 0))))) ∧
  ∀ (o : VaFields) (s : State) (w : Nat) (wv : Wave), wv.poison = [] →
    let ls := lanesOf wv.part
    let t (l : Nat) : DWord := wv.rd64 o.a l
    let full : State := raiseLanes s w wv 4 (ls.map (fun l => laneFault l cOver 0 0))
    let bad := ls.filter (fun l => decide ((t l).toNat % 4 ≠ 0))
    let good := ls.filter (fun l => decide ((t l).toNat % 4 = 0))
    let stay (x : Wave) : State := raise s w { x with pos := wv.pos } wv.pos (wv.nextPos 4) .instr none (bad.map (fun l => laneFault l cAlign 0 (t l)))
    (∀ i ∈ [Instr.brx o, .callxTail o], runsNow s w wv i = true →
      (64 < wv.stack.length + transferPushes wv ls t → exec i s = .next full) ∧
      (wv.stack.length + transferPushes wv ls t ≤ 64 → bad ≠ [] →
        exec i s = .next (stay (if good = [] then wv.advance 4 else wv.transfer 4 good t wv.depth [])))) ∧
    (runsNow s w wv (.callx o) = true →
      (wv.depth = 255 ∨ 64 < wv.stack.length + 1 + transferPushes wv ls t → exec (.callx o) s = .next full) ∧
      (wv.depth ≠ 255 → wv.stack.length + 1 + transferPushes wv ls t ≤ 64 → bad ≠ [] →
        let x := wv.wr64 o.d good (fun _ => wv.afterClause)
        exec (.callx o) s = .next (stay (if good = [] then x.advance 4
          else x.transfer 4 good t (wv.depth + 1) [⟨.call, wv.afterClause, maskOf good, wv.depth⟩]))))

/-- RCV, JOIN, RET and EXIT (R255, R258, R260, R261): RCV pushes a reconvergence entry for the active lanes; JOIN, RET and EXIT take their
lanes away and, when none is left, run the pop. -/
def Obligations.Reconvergence : Prop :=
  ∀ (o : VaFields) (s : State) (w : Nat) (wv : Wave),
    let left := wv.active &&& ~~~wv.part
    let j : DWord := wv.pos.pc + ((o.d ++ o.a ++ o.b : BitVec 21).signExtend 64 <<< 2)
    let ret : Wave := { wv with lpair := (lanesOf wv.part).foldl (fun t l => Tbl.setCell 0 t l o.a) wv.lpair, returned := wv.returned ||| wv.part, active := left }
    let gone : Wave := { wv with exited := wv.exited ||| wv.part, active := left }
    (runsNow s w wv (.rcv o) = true → wv.stack.length < 64 →
      exec (.rcv o) s = .next (s.setWave w { wv.advance 4 with stack := ⟨.reconv, j, wv.active, wv.depth⟩ :: wv.stack })) ∧
    (runsNow s w wv (.join o) = true → left ≠ 0 → exec (.join o) s = .next (s.setWave w { wv.advance 4 with active := left })) ∧
    (runsNow s w wv (.join o) = true → left = 0 → joinForeign wv.pos.pc (wv.exited ||| wv.returned) wv.stack = false →
      exec (.join o) s = .next (settle s w { wv with active := 0 } wv.pos true)) ∧
    (runsNow s w wv (.ret o) = true → wv.stack.any (fun e => decide (e.kind = .call)) = true →
      exec (.ret o) s = .next (if left ≠ 0 then s.setWave w (ret.advance 4) else settle s w ret wv.pos false)) ∧
    (runsNow s w wv (.ret o) = true → wv.stack.any (fun e => decide (e.kind = .call)) = false →
      exec (.ret o) s = .next (raiseLanes s w wv (instrBytes (.ret o)) ((lanesOf wv.part).map (fun l => laneFault l cUnder 0 0)))) ∧
    (runsNow s w wv (.exit o) = true → exec (.exit o) s = .next (if left ≠ 0 then s.setWave w (gone.advance 4) else settle s w gone wv.pos false))

/-- The pop of R255: the entry on top whose lanes still run is taken, and entries none of whose lanes still runs are passed over; with
an empty stack the wave has ended.
Whatever a stack holds, what the pop gives to run holds only lanes that have not exited. -/
def Obligations.PopRule : Prop :=
  (
    (∀ w : Wave, popStack [] w = .ended { w with stack := [], active := 0 }) ∧
    (∀ (w : Wave) (t : List StackEntry) (pc : DWord) (m : Mask) (d : BitVec 8), m &&& ~~~(w.exited ||| w.returned) ≠ 0 →
      popStack (⟨.path, pc, m, d⟩ :: t) w = .run { w with depth := d, stack := t, active := m &&& ~~~(w.exited ||| w.returned), pos := ⟨pc, none⟩ } ∧
      popStack (⟨.reconv, pc, m, d⟩ :: t) w = .reconv { w with depth := d, stack := t, active := m &&& ~~~(w.exited ||| w.returned) } pc) ∧
    (∀ (w : Wave) (e : StackEntry) (t : List StackEntry), e.kind ≠ .call → e.mask &&& ~~~(w.exited ||| w.returned) = 0 →
      popStack (e :: t) w = popStack t { w with depth := e.depth, stack := t }) ∧
    ∀ (w : Wave) (t : List StackEntry) (pc : DWord) (m : Mask) (d : BitVec 8), m &&& ~~~w.exited ≠ 0 →
      popStack (⟨.call, pc, m, d⟩ :: t) w =
        .ret { w with depth := d, stack := t, returned := w.returned &&& ~~~m, active := m &&& ~~~w.exited }
  ) ∧ (
    ∀ (st : List StackEntry) (w x : Wave), (popStack st w = .run x ∨ (∃ pc, popStack st w = .reconv x pc) ∨ popStack st w = .ret x) →
      x.active ≠ 0 ∧ x.active &&& x.exited = 0 ∧ x.exited = w.exited ∧ x.stack.length < st.length
  )

/-- The block barriers (R262, R263, R264, R493) and BAR.INIT of a plain wave: an arrival is counted once earlier accesses are performed
(a release at BLOCK scope), a wait passes when its phase has, BAREXP adds what it expects, and BAR.INIT sets a barrier up; in ALL mode,
the value 127, EXPECT keeps what it held, which is the model's choice (log 93).
The cluster barriers of a plain wave (R265): an arrival is a release and a passed wait an acquire, at CLUSTER scope.
Where it goes beyond the rules it states the model's choice: log 9, 93. -/
def Obligations.Barriers : Prop :=
  (
    ∀ o : VaFields,
      let n := o.b.toNat % 16
      let free (s : State) (w : Nat) (wv : Wave) : Bool := !releaseWaits s w wv s.nextId 1 false
      waveStepIf (.barArrive o) free (fun s w wv =>
        let x := if o.b.getLsbD 6 then wv.wr o.d (lanesOf wv.part) (fun _ => (barrierOf s wv n).phase) else wv
        modBarrier (s.setWave w (x.advance 4)) wv.blk n (fun b => { b with arrived := b.arrived + 1 })) ∧
      waveStep (.barWait o) (fun s w wv =>
        if tokenPassed (barrierOf s wv n).phase (wv.rd o.a 0) then s.setWave w (wv.advance 4)
        else s.setWave w { wv with wait := some (.bar n (wv.rd o.a 0) false) }) ∧
      waveStepIf (.barSync o) free (fun s w wv =>
        modBarrier (s.setWave w { wv with wait := some (.bar n (barrierOf s wv n).phase true) }) wv.blk n (fun b => { b with arrived := b.arrived + 1 })) ∧
      waveStepIf (.barInit o) (fun s _ wv => !initBad s wv n (wv.rd o.a 0)) (fun s w wv =>
        let e := (wv.rd o.a 0).toNat % 128
        (s.setWave w (wv.advance 4)).modBlock wv.blk (fun b =>
          let x := (Tbl.get b.bars n).getD Barrier.fresh
          let y : Barrier := { x.clear with count := decide (e ≠ 127), expect := if e = 127 then x.expect else e, seq := (wv.rd o.a 0).getLsbD 7 }
          { b with bars := Tbl.set b.bars n y })) ∧
      waveStepIf (.barexp o) (fun s _ wv => decide ((barrierOf s wv n).expSect + (wv.rd o.a 0).toNat < 2 ^ 24)) (fun s w wv =>
        modBarrier (s.setWave w (wv.advance 4)) wv.blk n
          (fun b => { b with expSect := (barrierOf s wv n).expSect + (wv.rd o.a 0).toNat, armed := true }))
  ) ∧ (
    ∀ o : VaFields,
      let n := o.b.toNat % 4
      let free (s : State) (w : Nat) (wv : Wave) : Bool := !releaseWaits s w wv s.nextId 2 false
      waveStepIf (.cbarArrive o) free (fun s w wv =>
        let x := if o.b.getLsbD 6 then wv.wr o.d (lanesOf wv.part) (fun _ => clusterPhase s wv n) else wv
        arriveCluster (s.setWave w (x.advance 4)) wv n) ∧
      waveStep (.cbarWait o) (fun s w wv =>
        if tokenPassed (clusterPhase s wv n) (wv.rd o.a 0) then dropL1 (s.setWave w (wv.advance 4)) wv.core wv.vale wv.vd
        else s.setWave w { wv with wait := some (.cbar n (wv.rd o.a 0) false) }) ∧
      waveStepIf (.cbarSync o) free (fun s w wv => arriveCluster (s.setWave w { wv with wait := some (.cbar n (clusterPhase s wv n) true) }) wv n)
  )

/-- A barrier completes when all arrivals and sectors are in: its phase goes up by one, modulo 2^32, and its counts clear (R262, R263): a
token of the old phase has then passed, and one of the new phase has not. With more arrivals or sectors than it expects it breaks: its
counts clear and its phase stays (R262, R492). -/
def Obligations.BarrierPhase : Prop :=
  (∀ (s : State) (blk n : Nat) (b : Block) (x : Barrier), Tbl.get s.blocks blk = some b → Tbl.get b.bars n = some x →
    x.arrived = barrierNeed s b x → 0 < barrierNeed s b x → x.sect = x.expSect →
    ∃ b', Tbl.get (testOne s blk n).blocks blk = some b' ∧
      Tbl.get b'.bars n = some { x with arrived := 0, expSect := 0, sect := 0, armed := false, phase := x.phase + 1 }) ∧
  (∀ (s : State) (blk n : Nat) (b : Block) (x : Barrier), Tbl.get s.blocks blk = some b → Tbl.get b.bars n = some x → b.seqCtx = none →
    (barrierNeed s b x < x.arrived ∨ x.expSect < x.sect) →
    ∃ b', Tbl.get (testOne s blk n).blocks blk = some b' ∧
      Tbl.get b'.bars n = some { x with arrived := 0, expSect := 0, sect := 0, armed := false }) ∧
  ∀ p : Word, tokenPassed (p + 1) p = true ∧ tokenPassed p p = false ∧ tokenPassed p (p + 1) = false

/-- WAITGE, MWAIT, YIELD and SLEEP of a plain wave (R266, R267, R268): a wait whose condition holds at once passes, as an acquire for
WAITGE; otherwise the wave waits; SLEEP of zero yields.
How a read for a wait ends it (R266, R267): WAITGE passes at its value or above, MWAIT at any other word; a value that does not pass
leaves the wave waiting.
Where it goes beyond the rules it states the model's choice: log 74. -/
def Obligations.Waits : Prop :=
  (
    ∀ o : VaFields,
      waveStep (.waitge o) (fun s w wv => pollOnce s w wv (.waitge (wv.rd64 o.a 0) (wv.rd64 o.b 0) (o.d.setWidth 3))) ∧
      waveStep (.mwait o) (fun s w wv => pollOnce s w wv (.mwait (wv.rd64 o.a 0) (wv.rd o.b 0) (o.d.setWidth 3))) ∧
      waveStep (.yield o) (fun s w wv => s.setWave w { wv.advance 4 with yielded := true }) ∧
      waveStepIf (.sleep o) (fun _ _ wv => decide (wv.rd o.a 0 = 0)) (fun s w wv => s.setWave w { wv.advance 4 with yielded := true }) ∧
      waveStepIf (.sleep o) (fun _ _ wv => decide (wv.rd o.a 0 ≠ 0)) (fun s w wv =>
        s.setWave w { wv with wait := some (.sleep (s.tod + (wv.rd o.a 0).setWidth 64)) })
  ) ∧ (
    ∀ (s t : State) (w : Nat) (wv : Wave) (a : DWord) (sc : BitVec 3) (v : DWord),
      (∀ x : DWord, pollWait s w wv a 8 2 sc = (t, .value v) →
        (x.ule v = true → pollOnce s w wv (.waitge a x sc) =
          (if 2 ≤ sc.toNat then dropL1 (t.setWave w { wv.advance 4 with wait := none }) wv.core wv.vale wv.vd else t.setWave w { wv.advance 4 with wait := none })) ∧
        (x.ule v = false → pollOnce s w wv (.waitge a x sc) = t.setWave w { wv with wait := some (.waitge a x sc) })) ∧
      ∀ e : Word, pollWait s w wv a 4 1 sc = (t, .value v) →
        (v.setWidth 32 ≠ e → pollOnce s w wv (.mwait a e sc) = t.setWave w { wv.advance 4 with wait := none }) ∧
        (v.setWidth 32 = e → pollOnce s w wv (.mwait a e sc) = t.setWave w { wv with wait := some (.mwait a e sc) })
  )

/-- FORK.SUSPEND waits for its block's turn with its operands, and FORK.DETACH forks the card it reads and sets its predicate (R57, R58,
R59, R270), once earlier accesses are performed and the Col may take the card.
Where it goes beyond the rules it states the model's choice: log 9, 33. -/
def Obligations.Fork : Prop :=
  ∀ o : VaFields,
    waveStepIf (.forkSuspend o) (fun s w wv => (forkState s wv true).isNone && !releaseWaits s w wv s.nextId 3 false && !forkHeld s wv.vale wv.vd) (fun s w wv =>
      s.setWave w { wv with wait := some (.fork (wv.rd64 o.a 0) (wv.rd64 o.b 0) (wv.rd64 (o.b + 2) 0) (o.d.setWidth 3) wv.part) }) ∧
    waveStepIf (.forkDetach o)
      (fun s w wv => (forkState s wv false).isNone && !releaseWaits s w wv s.nextId 3 false && !forkHeld s wv.vale wv.vd &&
        (match forkCard s w wv (wv.rd64 o.a 0) with
        | (_, .ok _) => true
        | _ => false))
      (fun s w wv => match forkCard s w wv (wv.rd64 o.a 0) with
        | (s, .ok card) =>
          let (s, ok) := match forkReserve s wv.vale wv.vd with
            | (s, none) => (s, false)
            | (s, some (n, g)) => match forkWrite s wv.vale wv.vd wv.job n g card 3 with
              | some s => (s, true)
              | none => (openEpisode s wv.vale wv.vd 63 4 g n, false)
          s.setWave w ((wv.wrPred o.d.toNat (lanesOf wv.part) (fun _ => ok)).advance 4)
        | (s, _) => s)

/-! ## Exceptions -/

/-- TRAP and BKPT raise SWTRAP and BKPT in every lane that takes part, with CODE as the detail, to go on after the instruction (R272).
Taking an exception in an ordinary wave outside a speculative task, whose job names a handler (R463, R465): the wave holds its trap,
nothing else of it changes but its replay, what is left of which the trap keeps (R468), and no other wave changes; lanes are numbered by
one fresh order of arrival.
A handler wave may not raise an exception of its own to a handler (R466, R470): its fault ends it.
Coming back from an exception of an instruction (R468): lanes resolved KILLL exit, RETRY replays the instruction in its lanes, SKIP goes on
after it; lanes that did not fault go on after it. Replays of earlier traps that were still to come follow. -/
def Obligations.Traps : Prop :=
  (
    ∀ (o : VaFields) (s : State) (w : Nat) (wv : Wave),
      let fs (c : BitVec 8) := (lanesOf wv.part).map (fun l => laneFault l c ((o.a ++ o.b).setWidth 32) 0)
      (runsNow s w wv (.trap o) = true → exec (.trap o) s = .next (raise s w wv wv.pos (wv.nextPos 4) .soft none (fs cSwtrap))) ∧
      (runsNow s w wv (.bkpt o) = true → exec (.bkpt o) s = .next (raise s w wv wv.pos (wv.nextPos 4) .soft none (fs cBkpt)))
  ) ∧ (
    ∀ (s : State) (w : Nat) (wv : Wave) (at_ next : Pos) (kind : TrapKind) (part : Option Mask) (fs : List LaneFault),
      wv.kind = .ordinary → s.speculative wv = false → trapPc (s.cardOf wv.job) ≠ 0 → (∀ f ∈ fs, selfRecorded f = false) →
      raise s w wv at_ next kind part fs =
        State.setWave { s with nextId := s.nextId + 1 } w { wv with
          replay := none
          trap := some { at_ := at_, next := next, kind := kind, part := part, deferred := false, tod := s.tod.toNat
                         after := wv.replay.bind Replay.next
                         lanes := fs.map (fun f => { f with seq := s.nextId }) } }
  ) ∧ (
    ∀ (s : State) (w : Nat) (wv : Wave) (t : Trap), wv.kind = .handler →
      takeTrap s w wv t = endHandler (recordCauses s wv t 2 false t.lanes) w ∧
      Tbl.get (takeTrap s w wv t).waves w = none
  ) ∧ (
    ∀ (s : State) (w : Nat) (wv : Wave) (t : Trap), t.kind = .instr → t.part = none →
      let kill := chosen t .kill
      let retry := chosen t .retry
      let base := dropL1 s wv.core wv.vale wv.vd
      let x : Wave := { wv with trap := none, exited := wv.exited ||| kill, active := wv.active &&& ~~~kill }
      (wv.active &&& ~~~kill ≠ 0 → retry &&& (wv.active &&& ~~~kill) = 0 → (∀ r, t.after = some r → r.lanes &&& (wv.active &&& ~~~kill) ≠ 0) →
        resumeTrap s w wv t = base.setWave w { x with pos := t.next, replay := t.after }) ∧
      (wv.active &&& ~~~kill ≠ 0 → retry &&& (wv.active &&& ~~~kill) ≠ 0 →
        ∃ k, resumeTrap s w wv t = base.setWave w { x with
          pos := t.at_
          replay := some ⟨retry, t.next, (match t.after with
            | some r => (r.lanes, r.cont) :: r.rest
            | none => []), k⟩ } ∧
          (wv.wait = none → t.after = none → k = none))
  )

/-- What poison does (R514, R515). Every instruction that writes registers or predicates from register words: the lanes that read a poisoned
word, or the one lane of a uniform instruction, get zero, the others their results, and fault POISON at the wave's next issue slot. What a
lane of MATCH, SHFL, SCAN, REDUCE, V2S, DDX and DDY reads of other lanes is the model's choice for the first, the third and the fourth
(log 115). An access of a lane whose address or data word is poisoned is not made: a load's lane gets zero, and the lane faults POISON (the
model's choice, log 11). Consuming poison appends the fault where no rollback is armed.
Where it goes beyond the rules it states the model's choice: log 11. -/
def Obligations.PoisonConsumed : Prop :=
  (∀ o : VaFields,
    let b := if o.lit.isSome then [] else [o.b]
    let b64 := if o.lit.isSome then [] else [o.b, o.b + 1]
    let bad (w : Wave) (f : RegField) (l : Nat) : Bool := w.rdPoison f l
    (∀ i ∈ [Instr.iadd o, .isub o, .imul o, .imulh o, .imin o, .imax o, .idiv o, .irem o, .and o, .or o, .xor o, .andn o, .shl o, .shrl o,
        .shra o, .rotl o, .bfx o, .fadd o, .fsub o, .fmul o, .fmin o, .fmax o, .fdiv o, .pack o], poisonStep i (o.a :: b) [o.d] []) ∧
    (∀ i ∈ [Instr.iabs o, .popc o, .clz o, .brev o, .ffs o, .fneg o, .fabs o, .frnd o, .frcp o, .fsqrt o, .frsq o, .fexp2 o, .flog2 o,
        .fsinpi o, .fcospi o, .fclass o], poisonStep i [o.a] [o.d] []) ∧
    (∀ i ∈ [Instr.imad o, .fma o, .dot4 o, .dot2f o], poisonStep i (o.a :: o.d :: b) [o.d] []) ∧
    (∀ i ∈ [Instr.lop3 o, .funnel o, .bfi o, .permb o], poisonStep i [o.a, o.b, o.xc] [o.d] []) ∧
    (∀ i ∈ [Instr.iadd64 o, .isub64 o], poisonStep i (o.a :: (o.a + 1) :: b64) [o.d, o.d + 1] []) ∧
    poisonStep (.imulw o) (o.a :: b) [o.d, o.d + 1] [] ∧ poisonStep (.imadw o) (o.a :: o.d :: (o.d + 1) :: b) [o.d, o.d + 1] [] ∧
    poisonStep (.lea o) (o.a :: (o.a + 1) :: b) [o.d, o.d + 1] [] ∧ poisonStep (.sel o) [o.a, o.b] [o.d] [] ∧
    (o.m = 0 → poisonStep (.mov o) (if o.lit.isSome then [] else [o.a]) [o.d] []) ∧
    (o.m = 1 → poisonStep (.mov o) (if o.lit.isSome then [] else [o.a, o.a + 1]) [o.d, o.d + 1] []) ∧
    poisonStep (.cvt o) (if ((cvtWidths o.b.toNat).getD (1, 1)).1 = 2 then [o.a, o.a + 1] else [o.a])
      (if ((cvtWidths o.b.toNat).getD (1, 1)).2 = 2 then [o.d, o.d + 1] else [o.d]) [] ∧
    poisonStep (.pmovFromreg o) [o.a] [] [0, 1, 2, 3, 4, 5, 6, 7] ∧
    (let reads (i : Instr) (r : Wave → List Nat → List Nat) : Prop := poisonStepIf i (fun _ _ => true) r [o.d] []
     reads (.matchLanes o) (fun w ls => if ls.any (fun l => bad w o.a l || (decide (o.m = 1) && bad w (o.a + 1) l)) then ls else []) ∧
     reads (.shfl o) (fun w ls => ls.filter (fun l => b.any (fun f => bad w f l) || bad w o.a (shflLane o.m l (srcB o w l)))) ∧
     reads (.scan o) (fun w ls => ls.filter (fun l => ls.any (fun k => decide (k ≤ l) && bad w o.a k))) ∧
     reads (.reduce o) (fun w ls => if ls.any (bad w o.a) then ls else []) ∧
     reads (.v2sFirst o) (fun w ls => (ls.take 1).filter (bad w o.a)) ∧
     reads (.v2sLane o) (fun w ls => (ls.take 1).filter (fun l => b.any (fun f => bad w f l) || bad w o.a ((srcB o w l).toNat % 16)))) ∧
    (let quad (i : Instr) (lo hi : Nat → Nat) : Prop :=
       poisonStepIf i (fun s w => !s.speculative w) (fun w ls => ls.filter (fun l => bad w o.a (lo l) || bad w o.a (hi l))) [o.d] []
     quad (.ddx o) (fun l => l / 4 * 4 + l % 4 / 2 * 2) (fun l => l / 4 * 4 + l % 4 / 2 * 2 + 1) ∧
     quad (.ddy o) (fun l => l / 4 * 4 + l % 4 % 2) (fun l => l / 4 * 4 + l % 4 % 2 + 2))) ∧
  (∀ o : VcFields,
    let srcs := if o.lit.isSome then [o.a] else [o.a, o.b]
    poisonStep (.icmp o) srcs [] [o.pd.toNat] ∧ poisonStep (.fcmp o) srcs [] [o.pd.toNat]) ∧
  (∀ (o : MmFields) (s : State) (w : Nat) (wv : Wave), s.speculative wv = false → crossingHeld s w wv = false →
    let hurt (fs : List RegField) (l : Nat) : Bool := fs.any (fun f => wv.rdPoison f (l % 16))
    let addr := if o.space = 0 then [o.a, o.a + 1] else [o.a]
    (∀ x ∈ [(Instr.ld32 o, 4, 1), (.ld64 o, 8, 2), (.ld128 o, 16, 4)], runsNow s w wv x.1 = true → wv.helper = 0 →
      let ls := accLanes x.1 wv.part
      let good := ls.filter (fun l => !hurt addr l)
      let r := resolveLanes s wv o x.2.1 .load false good
      walksWait s wv o .load good = false → placesHeld r.1 wv false x.2.1 .load r.2.oks = false → r.2.bad = [] →
      let req (y : Nat × Xlat × DWord) : LaneReq :=
        { lane := y.1, target := y.2.1.target, va := y.2.2, l1 := y.2.1.l1, nc := y.2.1.nc, dev := y.2.1.dev, helper := false, x := 0, w := 0
          ipa := some y.2.1.ipa, lg := y.2.1.lg }
      let l : LoadOp := { pos := wv.pos, size := x.2.1, ext := .zext, words := x.2.2, dst := o.t, ord := o.ord, scope := o.scope, hint := o.hint
                          atom := none, lanes := r.2.oks.map req }
      let zero (y : Wave) : Wave := (ls.filter (hurt addr)).foldl (fun y k =>
        (natsFrom 0 x.2.2).foldl (fun y j => y.wr (o.t + BitVec.ofNat 7 j) [k % 16] (fun _ => 0)) y) y
      exec x.1 s = .next (consumePoison (finishMem x.1 (issueLoad (r.1.modWave w zero) w o.l.toNat l) w []) w wv.pos
        ((ls.filter (hurt addr)).map (fun k => (k % 16, 0))))) ∧
    (∀ x ∈ [(Instr.st32 o, 4, 1), (.st64 o, 8, 2), (.st128 o, 16, 4)], runsNow s w wv x.1 = true →
      let ls := accLanes x.1 wv.live
      let srcs := addr ++ (natsFrom 0 x.2.2).map (fun j => o.t + BitVec.ofNat 7 j)
      let good := ls.filter (fun l => !hurt srcs l)
      let r := resolveLanes s wv o x.2.1 .store false good
      walksWait s wv o .store good = false → placesHeld r.1 wv false x.2.1 .store r.2.oks = false → r.2.bad = [] →
      exec x.1 s = .next (consumePoison (finishMem x.1 (issueStores r.1 w o (r.2.oks.map (fun y =>
          accessOf w wv o o.ord false (.store (storeData wv o.t x.2.1 (y.1 % 16))) y))) w []) w wv.pos
        ((ls.filter (hurt srcs)).map (fun k => (k % 16, 0)))))) ∧
  ∀ (s : State) (w : Nat) (wv : Wave) (pos : Pos) (hit : List (Nat × DWord)), Tbl.get s.waves w = some wv → hit ≠ [] →
    rollbackArmed s wv.vale wv.vd = false →
    consumePoison s w pos hit = s.modWave w (fun x => { x with late := x.late ++ hit.map (fun p =>
      { pos := pos, lane := p.1, cause := cPoison, detail := 0, addr := p.2, wait := none, tod := s.tod.toNat }) })

/-! ## Ordered tasks -/

/-- TSPAWN, TEND, TABORT and TIRREV in an ORDERED job (R368, R374 to R378): a spawn whose lanes fault nothing and find entries makes
their children; TEND ends the wave once its instructions have completed; TABORT aborts a revocable task; TIRREV goes on in an
irrevocable task, makes the frontier irrevocable, and otherwise waits. Outside an ORDERED job each faults TASK. -/
def Obligations.TaskInstructions : Prop :=
  let lanes (o : VaFields) (wv : Wave) : List Nat :=
    if isScalar o.a && isScalar o.b then (lanesOf (lowestLane wv.live)).map (fun l => 16 + l) else lanesOf wv.live
  ∀ o : VaFields,
    taskStep (.tend o) (fun _ _ wv _ _ => allComplete wv) (fun s w wv _ _ => endWave s w wv) ∧
    taskStep (.tabort o) (fun _ _ _ _ t => !t.irrev) (fun s _ wv q _ => abortTask s wv.job q) ∧
    taskStep (.tabort o) (fun _ _ _ _ t => t.irrev) (fun s w wv _ _ => raiseOnce s w wv 4 cTask 0 0) ∧
    taskStep (.tirrev o) (fun _ _ _ _ t => t.irrev) (fun s w wv _ _ => s.setWave w (wv.advance 4)) ∧
    taskStep (.tirrev o) (fun s _ wv q t => !t.irrev && isFrontier s wv.job q && lockReady s wv.job q)
      (fun s w wv q _ => (makeIrrevocable s wv.job q).modWave w (fun x => x.advance 4)) ∧
    taskStep (.tirrev o) (fun s _ wv q t => !t.irrev && !isFrontier s wv.job q)
      (fun s w wv _ _ => s.setWave w { wv with wait := some .irrevocable }) ∧
    taskStep (.tspawn o)
      (fun s w wv q t =>
        let ls := lanes o wv
        let r := spawnLanes w wv o q ls s
        ls.all (fun l => (spawnFault s o wv t (l % 16)).isNone) &&
          !spawnHeld s w wv o ls && decide (r.2.failed = []) && decide (r.2.poisoned = []) && decide (r.2.left = []) &&
          decide (Tbl.get r.1.waves w = some wv))
      (fun s w wv q _ => (spawnLanes w wv o q (lanes o wv) s).1.setWave w (wv.advance 4)) ∧
    (∀ (s : State) (w : Nat) (wv : Wave) (q l : Nat) (od : Ordered), orderedOf s wv.job = some od → od.seqNext < 2 ^ 32 - 1 →
      let r := readStash s wv.blk (wv.rd o.b (l % 16)).toNat 64
      r.2.2 = false → entryFree r.1 wv.vale = true →
      let record := (((orderedOf r.1 wv.job).bind (fun x => Tbl.get x.tasks q)).elim 0 (fun t => t.record))
      spawnLanes w wv o q [l] s =
        (addTask r.1 wv.job (freshTask (wv.rd64 (o.a + 2) (l % 16)) (some q) record (wv.rd64 o.a (l % 16)) (wordsOfBytes r.2.1)), ⟨[], [], []⟩)) ∧
    ∀ i ∈ [Instr.tspawn o, .tend o, .tabort o, .tirrev o], ∀ (s : State) (w : Nat) (wv : Wave), runsNow s w wv i = true → s.taskOf wv = none →
      exec i s = .next (raiseInstr s w wv i cTask 0)

/-! ## Engines' commands -/

/-- The ASYNC instructions that issue commands (R289 to R304), by a plain wave: one command for each lane of Live, or one for the
instruction, outstanding with its lookahead until the engine accepts it, where the wave then holds at most the 16 commands its save record has room
for (R401; the model's choice where it would hold more: log 109); in a speculative task each faults TASK (R358). Where only helper lanes take
part none issues a command, CODEWR, CODESWAP and the ENCFRAMEs too, which is the model's reading (log 95).
Where it goes beyond the rules it states the model's choice: log 95, 109. -/
def Obligations.AsyncCommands : Prop :=
  let cmds (i : Instr) (wv : Wave) (once : Bool) : List WaitCmd :=
    let low := (lanesOf (lowestLane wv.live)).map (fun l => 16 + l)
    (if once || isUniform i then low else lanesOf wv.live).map (fun l => { pos := wv.pos, op := i, lane := l, a := [], b := [] })
  let asy (i : Instr) (o : AsFields) (once : Bool) : Prop :=
    waveStepIf i (fun _ _ wv => decide ((waitingCmds wv).length + (cmds i wv once).length ≤ 16)) (fun s w wv => issueCmds (s.setWave w (wv.advance (instrBytes i))) w o.l.toNat (cmds i wv once)) ∧
    ∀ (s : State) (w : Nat) (wv : Wave), runsNow s w wv i = true → s.speculative wv = true → exec i s = .next (raiseInstr s w wv i cTask 0)
  (∀ o : AsFields,
    asy (.cpy o) o false ∧ asy (.ccopy o) o false ∧ asy (.tcopy o) o false ∧ asy (.tgather o) o false ∧ asy (.tstore o) o false ∧
    asy (.codewr o) o true ∧ asy (.codeswap o) o true ∧ asy (.encpost o) o false ∧ asy (.encframeOpen o) o true ∧ asy (.encframeClose o) o true) ∧
  ∀ (s : State) (w l : Nat) (cs : List WaitCmd), cs ≠ [] → s.defer = true →
    issueCmds s w l cs =
      State.modWave { s with nextId := s.nextId + 1 } w (fun x => { x with outst := x.outst ++ [⟨s.nextId, x.issued + 1 + l, .cmds cs⟩] })

/-- RGIVE returns the wave's highest register blocks to its pool and bumps the generation; RTAKE joins the pool's queue of takes; a count
of zero, above 11 or beyond what the wave may hold faults LEND (R63, R301, R494). -/
def Obligations.RegisterLending : Prop :=
  ∀ o : AsFields,
    let n := o.a.toNat
    waveStepIf (.rgive o) (fun _ _ wv => decide (n ≠ 0) && decide (n ≤ 11) && decide (n < wv.held) && !outstWrites wv (8 * (wv.held - n)))
      (fun s w wv =>
        let t := s.setWave w { (wv.dropRegs (8 * (wv.held - n))).advance 4 with held := wv.held - n }
        givePool (bumpGen t wv.core wv.vale wv.vd) wv.blk (wv.track (t.cardOf wv.job)) n) ∧
    waveStepIf (.rgive o) (fun _ _ wv => decide (n = 0) || decide (11 < n) || decide (wv.held ≤ n)) (fun s w wv => raiseOnce s w wv 4 cLend 0 0) ∧
    waveStepIf (.rtake o) (fun s _ wv => decide (n ≠ 0) && decide (n ≤ 11) && decide (wv.held + pendingTakes wv + n ≤ cardMax (s.cardOf wv.job) wv.role))
      (fun s w wv =>
        let x := wv.advance 4
        let t := State.setWave { s with nextId := s.nextId + 1 } w { x with outst := x.outst ++ [⟨s.nextId, x.issued + 1 + o.l.toNat, .rtake n wv.pos⟩] }
        let u := { t with takes := t.takes ++ [(w, s.nextId)] }
        serveTakes wv.blk (wv.track (s.cardOf wv.job)) u.takes.length u) ∧
    waveStepIf (.rtake o)
      (fun s _ wv => decide (n = 0) || decide (11 < n) || decide (cardMax (s.cardOf wv.job) wv.role < wv.held + pendingTakes wv + n))
      (fun s w wv => raiseOnce s w wv 4 cLend 0 0)

/-! ## Coverage -/

/-- COVBEGIN, COVLINE, COVQUAD, COVCUBE, COVTRI, COVRES, COVEND and COVPOP by a plain wave of a block (R333 to R347, R498, R511): a command
that meets the session it needs and finds room is accepted, and the wave moves on; COVPOP takes records that are there, and waits
where triangles accepted before it may still give some, where a COVPOP accepted before it waits, or where the queue's rows must be filled
and their line is held (R131); a misused session faults once the command could be accepted (R498).
Where it goes beyond the rules it states the model's choice: log 45. -/
def Obligations.CoverageCommands : Prop :=
  let prims (i : Instr) (o : VaFields) (an bn : Nat) (wv : Wave) : List (List Word) :=
    (if isUniform i then (lanesOf (lowestLane wv.live)).map (fun l => 16 + l) else lanesOf wv.live).map
      (fun l => groupWords wv o.a an l ++ groupWords wv o.b bn l)
  let inMode (s : State) (wv : Wave) (b : Block) (tri : Bool) : Bool := match openSession s wv b with
    | some c => c.tri == tri
    | none => false
  let coordRec (s : State) (wv : Wave) : State :=
    record s { ErrRec.blank cCov 1 (some wv.vale) (some wv.vd) with
      core := wv.core, pc := wv.pos.pc.toNat, slot := wv.slot, unit := 5, detail := trapDetail 0 0 0 1 0 }
  let seg (i : Instr) (o : VaFields) (an bn nc : Nat) (tri : Bool) : Prop :=
    (∀ (s : State) (w : Nat) (wv : Wave) (b : Block) (c : CovSession), runsNow s w wv i = true → plainWave s wv = true →
      Tbl.get s.blocks wv.blk = some b → openSession s wv b = some c → c.tri = tri → covHolds s w wv (covRanges i c).length = false →
      let ps := prims i o an bn wv
      let t := if ps = [] then s else acceptCov s w wv i c ps (o.m.getLsbD 0)
      exec i s = .next ((if ps.any (fun p => (p.take nc).any badCoord) then coordRec t wv else t).setWave w (wv.advance 4))) ∧
    covStep i (fun s w wv b => !covHolds s w wv 0 && !inMode s wv b tri) (fun s w wv _ => raiseInstr s w wv i cCov 0)
  ∀ o : VaFields,
    let fresh (wv : Wave) : CovSession := freshSession o.b ((natsFrom 0 4).map (fun j => wv.rdN o.a j 0))
    covStep (.covbegin o)
      (fun s w wv b => (openSession s wv b).isNone && !sessionBad (fresh wv) (b.stashKib * 1024) && !ending s b wv.blk &&
        decide (sessionsIn s (glenOfCore wv.core) < 64) && !covHolds s w wv 0)
      (fun s w wv _ => ((acceptCov s w wv (.covbegin o) (fresh wv) [] false).setWave w (wv.advance 4)).modBlock wv.blk
        (fun b => { b with cov := some (fresh wv) })) ∧
    covStep (.covbegin o) (fun s w wv b => !covHolds s w wv 0 && ((openSession s wv b).isSome || sessionBad (fresh wv) (b.stashKib * 1024)))
      (fun s w wv _ => raiseInstr s w wv (.covbegin o) cCov 0) ∧
    seg (.covline o) o 4 0 4 false ∧ seg (.covquad o) o 6 0 6 false ∧ seg (.covcube o) o 8 0 8 false ∧ seg (.covtri o) o 6 4 6 true ∧
    (∀ (s : State) (w : Nat) (wv : Wave) (b : Block) (c : CovSession), plainWave s wv = true → Tbl.get s.blocks wv.blk = some b →
      openSession s wv b = some c →
      (runsNow s w wv (.covres o) = true → c.tri = false → covHolds s w wv 2 = false →
        exec (.covres o) s = .next ((acceptCov s w wv (.covres o) c [] false).setWave w (wv.advance 4))) ∧
      (runsNow s w wv (.covend o) = true → covHolds s w wv 0 = false →
        exec (.covend o) s = .next ((acceptCov s w wv (.covend o) c [] false).setWave w (wv.advance 4))) ∧
      (runsNow s w wv (.covpop o) = true → c.tri = true → wv.part = 0xFFFF →
        let tris := ((covQueue s b wv.blk).filter (fun e => isTri e.2.op)).map (fun e => e.1)
        exec (.covpop o) s = .next (if (c.count ≠ 0 ∨ tris = []) ∧ popBefore s w wv.blk (s.turns + 1) = false ∧ popHeld s wv.blk c = false then popQuads s w wv o.d (o.a.toNat % 8) c
          else s.setWave w { wv with wait := some (.covpop tris o.d (o.a.toNat % 8)) }))) ∧
    covStep (.covres o) (fun s w wv b => !covHolds s w wv 0 && !inMode s wv b false) (fun s w wv _ => raiseInstr s w wv (.covres o) cCov 0) ∧
    covStep (.covend o) (fun s w wv b => !covHolds s w wv 0 && (openSession s wv b).isNone) (fun s w wv _ => raiseInstr s w wv (.covend o) cCov 0) ∧
    covStep (.covpop o) (fun s _ wv b => !inMode s wv b true || decide (wv.part ≠ 0xFFFF)) (fun s w wv _ => raiseInstr s w wv (.covpop o) cCov 0)

/-! ## Matrix engines -/

/-- MXRD, MXWR and MXSTAT by a plain wave, none of whose lanes misuses its selection (R325 to R328, R330): MXRD becomes outstanding and
reads the accumulators of its block's team, MXWR writes them, MXSTAT reads the status word of the member that bits [1:0] of its selection name; MXRD and MXWR without a team fault RESERVED_FIELD, as
lanes of MXSTAT do whose bits [31:16] are not zero.
Where it goes beyond the rules it states the model's choice: log 15. -/
def Obligations.MatrixAccess : Prop :=
  ∀ o : MxFields,
    let fmt := o.f.toNat % 8
    let words := if o.f.getLsbD 5 then 4 else 1
    waveStepIf (.mxrd o)
      (fun s _ wv => match teamHeld s wv with
        | some t => (accLanes (.mxrd o) wv.part).all (fun l => !selBad t (mxFormat fmt).1 (mxSpan o.f) (wv.rd o.a (l % 16)))
        | none => false)
      (fun s w wv =>
        let ls := accLanes (.mxrd o) wv.part
        let id := s.nextId
        let r := mxReq s wv o ls
        let t := State.modWave { s with nextId := id + 1 } w (fun x => { x with outst := x.outst ++ [⟨id, x.issued + 1 + o.l.toNat, .mxrd r⟩] })
        finishMem (.mxrd o) (if ls = [] then dropOutst t w id else if t.defer then t else completeMx t w id r 0xFFFF) w []) ∧
    waveStepIf (.mxwr o)
      (fun s w wv => !mxwrHeld s w wv && match teamHeld s wv with
        | some t => (accLanes (.mxwr o) wv.live).all (fun l => !selBad t 1 (mxSpan o.f) (wv.rd o.a (l % 16)))
        | none => false)
      (fun s w wv =>
        let t := (teamHeld s wv).getD ⟨0, 0, 0, []⟩
        let put (l : Nat) (s : State) (q : Nat) : State :=
          let x := (wv.rd o.a (l % 16)).toNat
          let j := bitsOf x 15 7 + q
          let n := 128 * (x % 128) + j % 128
          if leaseEnded s t then s else s.modCore (t.engines.getD (j / 128) 0) (fun c =>
            let v := mxSource fmt c.engine.s32 (wv.rdN o.d q (l % 16))
            let e : Engine := { c.engine with acc := Tbl.setCell 0 c.engine.acc n v, accPoison := removeNat n c.engine.accPoison }
            { c with engine := e.note v })
        finishMem (.mxwr o) ((accLanes (.mxwr o) wv.live).foldl (fun s l => (natsFrom 0 words).foldl (put l) s) s) w []) ∧
    waveStep (.mxstat o) (fun s w wv =>
      let bad := (accLanes (.mxstat o) wv.part).filter (fun l => decide (65536 ≤ (wv.rd o.a (l % 16)).toNat))
      let good := (accLanes (.mxstat o) wv.part).filter (fun l => !bad.contains l)
      finishMem (.mxstat o) (s.modWave w (fun x => good.foldl (fun x l =>
        x.wr o.d [l % 16] (fun _ => mxStatus s (teamHeld s wv) ((wv.rd o.a (l % 16)).toNat % 4))) x)) w (bad.map (fun l => (l, ⟨cField, 0, 0⟩)))) ∧
    waveStepIf (.mxrd o) (fun s _ wv => (teamHeld s wv).isNone) (fun s w wv => raiseInstr s w wv (.mxrd o) cField 0) ∧
    waveStepIf (.mxwr o) (fun s w wv => !mxwrHeld s w wv && (teamHeld s wv).isNone) (fun s w wv => raiseInstr s w wv (.mxwr o) cField 0) ∧
    (∀ (s : State) (m : Nat), mxStatus s none m = 0)

/-- The control words of the matrix stream (R321 to R324): each with its register, loop, ring or barrier effect, or its wait; a
stream word with a reserved field halts the stream (R500). -/
def Obligations.StreamControl : Prop :=
  let bar (b : Block) (n : BitVec 4) : Barrier := (Tbl.get b.bars n.toNat).getD Barrier.fresh
  (∀ rest : BitVec 26,
    streamStep (.mnop rest) (fun _ _ _ _ => true) (fun s blk _ _ => modSeq s blk (fun c => { c with spc := c.spc + 4, st := 0, wantBar := none })) ∧
    streamStep (.mfence rest) (fun _ _ _ c => decide (c.steps = [])) (fun s blk _ _ => seqDone s blk) ∧
    streamStep (.mfence rest) (fun _ _ _ c => decide (c.steps ≠ [])) (fun s blk _ _ => modSeq s blk (fun c => { c with st := 1 })) ∧
    streamStep (.mend rest) (fun _ _ _ c => decide (c.steps = []))
      (fun s blk _ _ => testLeft (modSeq s blk (fun c => { c with spc := c.spc + 4, st := 2 })) blk) ∧
    streamStep (.mend rest) (fun _ _ _ c => decide (c.steps ≠ [])) (fun s blk _ _ => seqWait s blk) ∧
    (∀ (s : State) (blk : Nat) (b : Block) (c : SeqCtx) (l : Loop) (t : List Loop), streamNow s blk b c (.mendl rest) = true → c.loops = l :: t →
      (1 < l.count.toNat → exec (.mendl rest) s =
        .next (modSeq s blk (fun c => { c with spc := l.start, st := 0, loops := { l with count := l.count - 1 } :: t }))) ∧
      (l.count.toNat ≤ 1 → exec (.mendl rest) s = .next (seqDone (modSeq s blk (fun c => { c with loops := t })) blk))) ∧
    streamStep (.mendl rest) (fun _ _ _ c => decide (c.loops = [])) (fun s blk _ _ => seqHalt s blk 0)) ∧
  (∀ (m : BitVec 4) (imm : BitVec 22),
    streamStep (.mset m imm) (fun _ _ _ _ => true)
      (fun s blk _ _ => seqDone (modSeq s blk (fun c => { c with m := Tbl.setCell 0 c.m m.toNat (imm.signExtend 32) })) blk) ∧
    streamStep (.madd m imm) (fun _ _ _ _ => true)
      (fun s blk _ _ => seqDone (modSeq s blk (fun c => { c with m := Tbl.setCell 0 c.m m.toNat (Tbl.cell 0 c.m m.toNat + imm.signExtend 32) })) blk)) ∧
  (∀ (slots : BitVec 8) (z : BitVec 18),
    streamStep (.mbuf slots z) (fun _ _ _ c => decide (slots &&& ~~~c.loaded = 0)) (fun s blk _ _ => seqDone (modSeq s blk (fun c => { c with
      ri := (natsFrom 0 8).foldl (fun t j =>
        if slots.getLsbD j then Tbl.setCell 0 t j ((Tbl.cell 0 t j + 1) % max 1 (descOf ((Tbl.get c.d j).getD [])).ring) else t) c.ri })) blk) ∧
    streamStep (.mbuf slots z) (fun _ _ _ c => decide (slots &&& ~~~c.loaded ≠ 0)) (fun s blk _ _ => seqHalt s blk 0)) ∧
  (∀ (n m : BitVec 4) (inc : BitVec 1) (z : BitVec 17),
    streamStep (.mbarw n m inc z) (fun _ _ b c => tokenPassed (bar b n).phase (c.reg m.toNat)) (fun s blk _ _ =>
      seqDone (modSeq s blk (fun c => if inc = 1 then c.setReg m.toNat (c.reg m.toNat + 1) else c)) blk) ∧
    streamStep (.mbarw n m inc z) (fun _ _ b c => !tokenPassed (bar b n).phase (c.reg m.toNat)) (fun s blk _ _ =>
      modSeq s blk (fun c => { c with st := 1, wantBar := some (n.toNat, c.reg m.toNat) }))) ∧
  (∀ (n : BitVec 4) (lag : BitVec 2) (z : BitVec 20),
    streamStep (.mbara n lag z) (fun _ _ b c => (bar b n).seq && decide (c.steps.length ≤ lag.toNat)) (fun s blk _ _ =>
      modBarrier (seqDone s blk) blk n.toNat (fun x => { x with arrived := x.arrived + 1 })) ∧
    streamStep (.mbara n lag z) (fun _ _ b c => (bar b n).seq && decide (lag.toNat < c.steps.length)) (fun s blk _ _ => seqWait s blk) ∧
    streamStep (.mbara n lag z) (fun _ _ b _ => !(bar b n).seq) (fun s blk _ _ => seqHalt s blk 0)) ∧
  (∀ (i : Instr) (s : State) (blk : Nat) (b : Block) (c : SeqCtx), i.isStream = true → i.wellFormed = false → s.cur = .seq blk →
    Tbl.get s.blocks blk = some b → b.seqCtx = some c → exec i s = .next (seqHalt s blk 0)) ∧
  ∀ (i : Instr) (span : BitVec 10) (k : SeqCtx → Word),
    ((∃ count : BitVec 15, i = .mloop span count ∧ k = fun _ => count.setWidth 32) ∨
      (∃ (z : BitVec 11) (m : BitVec 4), i = .mloopMreg span z m ∧ k = fun c => c.reg m.toNat)) →
    ∀ (s : State) (blk : Nat) (b : Block) (c : SeqCtx) (t : State) (x : Word), streamNow s blk b c i = true →
      let e : DWord := c.spc + BitVec.ofNat 64 (4 * span.toNat)
      (fetchWaits s b.core b.vale b.vd e = true → exec i s = .next (seqWait s blk)) ∧
      (fetchWaits s b.core b.vale b.vd e = false → fetchWord s b.core b.vale b.vd e = (t, .ok x) → x.extractLsb' 26 6 = 7 →
        (k c = 0 → exec i s = .next (modSeq t blk (fun c => { c with spc := e + 4, st := 0 }))) ∧
        (k c ≠ 0 → c.loops.length < 4 → exec i s = .next (seqDone (modSeq t blk (fun y => { y with loops := ⟨y.spc + 4, k y⟩ :: y.loops })) blk)) ∧
        (k c ≠ 0 → 4 ≤ c.loops.length → exec i s = .next (seqHalt t blk 0)))

/-- The words of the matrix stream that claim engines, load descriptors and queue steps (R312 to R318, R330): MTEAM, MDESC, MZERO, MMA
and MMAS. MDESC takes the bytes it reads whether they are poisoned or not, which is the model's choice (log 130); where they lie in a row
whose line has left the vale the stream halts (R32; the model's reading, log 142).
Where it goes beyond the rules it states the model's choice: log 28, 130, 142. -/
def Obligations.StreamMatrix : Prop :=
  (∀ (mode tm1 : BitVec 2) (first hreg : BitVec 4) (z : BitVec 14),
    streamStep (.mteam mode tm1 first hreg z) (fun _ _ _ c => decide (c.steps ≠ [])) (fun s blk _ _ => seqWait s blk) ∧
    streamStep (.mteam mode tm1 first hreg z) (fun _ _ _ c => decide (c.steps = []) && c.claim.isSome) (fun s blk _ _ => tryClaim s blk) ∧
    ∀ (s : State) (blk : Nat) (b : Block) (c : SeqCtx), streamNow s blk b c (.mteam mode tm1 first hreg z) = true → c.steps = [] → c.claim = none →
      (∀ t, teamOf s b c mode tm1 first hreg = some t →
        let u := releaseTeam s blk
        exec (.mteam mode tm1 first hreg z) s =
          .next (tryClaim (modSeq { u with claims := u.claims ++ [blk] } blk (fun c => { c with team := none, claim := some t, st := 1 })) blk)) ∧
      (teamOf s b c mode tm1 first hreg = none → exec (.mteam mode tm1 first hreg z) s = .next (seqHalt s blk 0))) ∧
  (∀ (slot : BitVec 3) (mreg : BitVec 4) (z : BitVec 1) (off : BitVec 18) (s : State) (blk : Nat) (b : Block) (c : SeqCtx),
    streamNow s blk b c (.mdesc slot mreg z off) = true →
    let a := ((c.reg mreg.toNat).toNat + off.toNat) % 2 ^ 18
    let r := readStash s blk a 32
    let ws := wordsOfBytes r.2.1
    (a % 32 ≠ 0 ∨ b.stashKib * 1024 < a + 32 → exec (.mdesc slot mreg z off) s = .next (seqHalt s blk a)) ∧
    (a % 32 = 0 → a + 32 ≤ b.stashKib * 1024 → (rowGone s blk a 32).isSome = true →
      exec (.mdesc slot mreg z off) s = .next (testLeft (haltSeq s blk cXlate 6 a) blk)) ∧
    (a % 32 = 0 → a + 32 ≤ b.stashKib * 1024 → (rowGone s blk a 32).isSome = false → targetWaits s (.stash blk a) 32 false = false →
      exec (.mdesc slot mreg z off) s = .next (if descBad ws (b.stashKib * 1024) then seqHalt r.1 blk a
        else seqDone (modSeq r.1 blk (fun c => { c with
          d := Tbl.set c.d slot.toNat ws, loaded := c.loaded ||| BitVec.ofNat 8 (2 ^ slot.toNat), ri := Tbl.setCell 0 c.ri slot.toNat 0 })) blk))) ∧
  (∀ (kind : BitVec 1) (z : BitVec 25) (s : State) (blk : Nat) (b : Block) (c : SeqCtx), streamNow s blk b c (.mzero kind z) = true →
    (c.team = none → exec (.mzero kind z) s = .next (seqHalt s blk 0)) ∧
    ∀ t, c.team = some t →
      (queuesFree s t = true → exec (.mzero kind z) s = .next (queueStep s blk t (fun id _ =>
        { id := id, blk := blk, zero := some kind, sparse := false, ovw := false, aBase := 0, bBase := 0, da := [], db := [], bands := [], lease := teamLease s t, read := [], readBad := false }))) ∧
      (queuesFree s t = false → exec (.mzero kind z) s = .next (seqWait s blk))) ∧
  ∀ (da db : BitVec 3) (ovw : BitVec 1) (z : BitVec 19) (i : Instr) (sparse : Bool), (i = .mma da db ovw z ∧ sparse = false ∨ i = .mmas da db ovw z ∧ sparse = true) →
    ∀ (s : State) (blk : Nat) (b : Block) (c : SeqCtx), streamNow s blk b c i = true →
      (c.team = none → exec i s = .next (seqHalt s blk 0)) ∧
      ∀ t, c.team = some t →
        let x := descOf (c.slot da)
        let y := descOf (c.slot db)
        let a := x.base + c.ring da * x.stride
        let bands := (natsFrom 0 t.engines.length).map (fun j => y.base + c.ring db * y.stride + j * y.bandStride)
        let entry (id j : Nat) : KStep := { id := id, blk := blk, zero := none, sparse := sparse, ovw := decide (ovw = 1), aBase := a
                                            bBase := bands.getD j 0, da := c.slot da, db := c.slot db, bands := bands, lease := teamLease s t
                                            read := [], readBad := false }
        (c.loaded.getLsbD da.toNat = false ∨ c.loaded.getLsbD db.toNat = false → exec i s = .next (seqHalt s blk 0)) ∧
        (c.loaded.getLsbD da.toNat = true → c.loaded.getLsbD db.toNat = true → isIntFormat x.format = isIntFormat y.format →
          (∀ j < t.engines.length, kindAfter (memberEngine s t j) = isIntFormat x.format) → (sparse = true → x.bitmap = true ∧ y.bitmap = true) →
          a + x.size ≤ b.stashKib * 1024 → (∀ p ∈ bands, p + y.size ≤ b.stashKib * 1024) →
          (queuesFree s t = true → exec i s = .next (modSeq (queueStep s blk t entry) blk (fun c => { c with
            saAddr := if x.bands then BitVec.ofNat 19 x.bscale else 0x40000
            sbAddr := if y.bands then BitVec.ofNat 19 y.bscale else 0x40000 }))) ∧
          (queuesFree s t = false → exec i s = .next (seqWait s blk)))

/-! ## Handler and firmware waves -/

/-- RESUMEL.RETRY, RESUMEL.SKIP, KILLL, the three ORIGIN reads, SSET, RTH and CKPT where privilege lets them run (R273 to R277): a
resolution is recorded for each lane's origin that has none; ORIGIN reads and SSET writes the registers of origin lanes, and where some
codes name no register of their origin wave those lanes fault RESERVED_FIELD and the others complete; RTH ends the wave once its accesses
are performed; CKPT names a cut at least 64 ticks ahead unless one is pending. That an ORIGIN into a scalar shows the highest lane (log 94),
that an SSET lane with a poisoned operand writes nothing (log 11) and that RTH is held at issue until then (log 9) are the model's choices.
Where it goes beyond the rules it states the model's choice: log 9, 11, 94. -/
def Obligations.SystemInstructions : Prop :=
  let resolved (s : State) (w : Nat) (wv : Wave) (r : Resolution) : State :=
    ((lanesOf wv.part).foldl (fun s l => match originLane s w l with
      | some (ow, f) => modOrigin s ow f.lane (fun y => if y.choice.isSome then y else { y with choice := some r })
      | none => s) s).setWave w (wv.advance 4)
  let code (wv : Wave) (a : RegField) (l : Nat) : Nat := (wv.rd a l).toNat % 256
  let named (s : State) (w : Nat) (k l : Nat) : Bool := match originLane s w l with
    | some p => (Tbl.get s.waves p.1).any (fun y => (decide (k < 96) && decide (k < 8 * y.held)) || (decide (96 ≤ k) && decide (k ≤ 135)))
    | none => false
  (∀ (o : VaFields) (s : State) (w : Nat) (wv : Wave), runsNow s w wv (.resumelRetry o) = true →
    exec (.resumelRetry o) s = .next (resolved s w wv .retry)) ∧
  (∀ (o : VaFields) (s : State) (w : Nat) (wv : Wave), runsNow s w wv (.resumelSkip o) = true →
    exec (.resumelSkip o) s = .next (resolved s w wv .skip)) ∧
  (∀ (o : VaFields) (s : State) (w : Nat) (wv : Wave), runsNow s w wv (.killl o) = true →
    exec (.killl o) s = .next (resolved s w wv .kill)) ∧
  (∀ (o : VaFields) (s : State) (w : Nat) (wv : Wave), runsNow s w wv (.originTag o) = true →
    exec (.originTag o) s = .next (s.setWave w (((lanesOf wv.part).foldl (fun x l => match originLane s w l with
      | some p => (natsFrom 0 4).foldl (fun (x : Wave) j => x.wr (o.d + BitVec.ofNat 7 j) [l] (fun _ => tagWord s p j)) x
      | none => x) wv).advance 4))) ∧
  (∀ (o : VaFields) (s : State) (w : Nat) (wv : Wave), runsNow s w wv (.originAddr o) = true →
    exec (.originAddr o) s = .next (s.setWave w (((lanesOf wv.part).foldl (fun (x : Wave) l => match originLane s w l with
      | some p => x.wr64 o.d [l] (fun _ =>
          if p.2.cause = cXlate || p.2.cause = cProtect || p.2.cause = cAlign || p.2.cause = cPoison then p.2.addr else 0)
      | none => x) wv).advance 4))) ∧
  (∀ (o : VaFields) (s : State) (w : Nat) (wv : Wave), runsNow s w wv (.originReg o) = true →
    let good := (lanesOf wv.part).filter (fun l => named s w (code wv o.a l) l)
    let bad := (lanesOf wv.part).filter (fun l => !named s w (code wv o.a l) l)
    let pois := good.filter (fun l => wv.rdPoison o.a l || originPoisoned s w (code wv o.a l) l)
    let x := good.foldl (fun (x : Wave) l => match originLane s w l with
      | some p => x.wr o.d [l] (fun _ => if pois.contains l then 0 else originRead s p (code wv o.a l))
      | none => x) wv
    (bad = [] → exec (.originReg o) s = .next (consumePoison (s.setWave w (x.advance 4)) w wv.pos (pois.map (fun l => (l, 0))))) ∧
    (bad ≠ [] → exec (.originReg o) s = .next (consumePoison (raiseLanes (s.setWave w x) w x 4 (bad.map (fun l => laneFault l cField 0 0))) w wv.pos
      (pois.map (fun l => (l, 0)))))) ∧
  (∀ (o : VaFields) (s : State) (w : Nat) (wv : Wave), runsNow s w wv (.sset o) = true →
    let good := (lanesOf wv.part).filter (fun l => named s w (code wv o.a l) l)
    let bad := (lanesOf wv.part).filter (fun l => !named s w (code wv o.a l) l)
    let pois := poisonedLanes wv [o.a, o.b] good
    let u := (good.filter (fun l => !pois.contains l)).foldl (fun s l => match originLane s w l with
      | some p => originWrite s p (code wv o.a l) (wv.rd o.b l)
      | none => s) s
    (bad = [] → exec (.sset o) s = .next (consumePoison (u.setWave w (wv.advance 4)) w wv.pos (pois.map (fun l => (l, 0))))) ∧
    (bad ≠ [] → exec (.sset o) s = .next (consumePoison (raiseLanes u w wv 4 (bad.map (fun l => laneFault l cField 0 0))) w wv.pos
      (pois.map (fun l => (l, 0)))))) ∧
  (∀ (o : VaFields) (s : State) (w : Nat) (wv : Wave), runsNow s w wv (.rth o) = true → releaseWaits s w wv s.nextId 3 false = false →
    exec (.rth o) s = .next (endSlotWave s w wv)) ∧
  ∀ (o : VaFields) (s : State) (w : Nat) (wv : Wave) (d : Vd), runsNow s w wv (.ckpt o) = true → wv.poison = [] → s.vd? wv.vale wv.vd = some d →
    let c := (wv.rd64 o.a 0).toNat
    let after (s : State) (ok : Bool) : State := s.setWave w ((wv.wrPred o.d.toNat (lanesOf wv.part) (fun _ => ok)).advance 4)
    (s.tod.toNat + 64 ≤ c → d.cut = none → exec (.ckpt o) s = .next (after (s.modVd wv.vale wv.vd (fun d => nameCut d c false)) true)) ∧
    (c < s.tod.toNat + 64 ∨ d.cut.isSome = true → exec (.ckpt o) s = .next (after s false))

/-! ## Events -/

/-- The events of memory traffic and of waves: an access reaches its home (R149), a load's data comes back (R172), an update is applied
and its notice returns (R151), a sleep ends (R268), a monitored line is read again (R266, R267), a held command is accepted (R291), a
scrub of generations ends (R122), the watchdog expires (R473), a handler wave starts (R465, R466). That a store to the control window has its
effect as it is performed is the model's choice (log 110), and so is that a register of a pair or quad may be written later (log 13).
Where it goes beyond the rules it states the model's choice: log 7, 8, 82, 110. -/
def Obligations.WaveEvents : Prop :=
  (∀ (acc : Nat) (s : State), ((Tbl.get s.inflight acc).all (fun a => match a.target with
      | .control _ => false
      | _ => true) = true → exec (.accessPerformed acc) s = .next (performAccess s acc)) ∧
    ∀ (a : Access) (off : Nat) (bs : List Byte), Tbl.get s.inflight acc = some a → a.target = .control off → a.op = .store bs →
      exec (.accessPerformed acc) s = .next (if accReady s acc a then irrevWrite (controlStore (dropAccess s acc) off bs) a.blk (2 ^ 63 + off) bs.length else s)) ∧
  (∀ (w id : Nat) (m : Mask), eventStep (.loadComplete w id m)
    (fun s => match (Tbl.get s.waves w).bind (fun x => x.outst.find? (fun o => decide (o.id = id))) with
      | some ⟨_, _, .load _⟩ => true
      | _ => false)
    (fun s => completeLoad s w id m true)) ∧
  (∀ (die seq : Nat) (s : State) (u : Update) (a : Access),
    s.updates.find? (fun u => decide (u.origin = die) && decide (u.seq.toNat = seq) && !u.applied) = some u →
    updateReady s u = true →
    (∀ l ∈ unitsOf 128 u.key u.op.size, lineHeldBut s u.access l = false ∧ lineLocked s l = false ∧ updateHeld s u l = false) → routeStalled s u.origin u.home = false →
    Tbl.get s.inflight u.access = some a →
    let t := { s with updates := s.updates.map (fun x => if x.origin = u.origin && decide (x.seq = u.seq) then { x with applied := true } else x) }
    exec (.saddleUpdateApply die seq) s = .next (dropAccess (performMem t a u.key) u.access)) ∧
  (∀ (die seq : Nat) (s : State) (u : Update),
    s.updates.find? (fun u => decide (u.origin = die) && decide (u.seq.toNat = seq) && u.applied) = some u → routeStalled s u.home u.origin = false →
    let t := mergeKnown s u.origin u.home
    let left := t.updates.filter (fun x => !(decide (x.origin = u.origin) && decide (x.seq = u.seq)))
    let upTo : BitVec 16 := match left.find? (fun x => decide (x.origin = die)) with
      | some x => x.seq - 1
      | none => vecGet t.known die die
    let upTo := if serialGe upTo (vecGet t.applied die die) then upTo else vecGet t.applied die die
    exec (.appliedNotice die seq) s = .next { t with updates := left, applied := (natsFrom 0 8).foldl (fun v a => vecSet v a die upTo) t.applied }) ∧
  (∀ (w : Nat) (s : State) (wv : Wave), Tbl.get s.waves w = some wv →
    (∀ t, wv.wait = some (.sleep t) → t.toNat ≤ s.tod.toNat → canIssue s wv = true → wv.standing = true → exec (.sleepWake w) s = .next (s.setWave w { wv.advance 4 with wait := none })) ∧
    (∀ t, wv.wait = some (.sleep t) → s.tod.toNat < t.toNat → exec (.sleepWake w) s = .next s) ∧
    (canIssue s wv = true → wv.standing = true →
      (∀ a t sc, wv.wait = some (.waitge a t sc) → exec (.monitorWake w) s = .next (pollOnce s w wv (.waitge a t sc))) ∧
      (∀ a e sc, wv.wait = some (.mwait a e sc) → exec (.monitorWake w) s = .next (pollOnce s w wv (.mwait a e sc)))) ∧
    (canIssue s wv = true → exec (.commandAccept w) s = .next (acceptCmds s w)) ∧
    (stalledLanes wv ≠ [] → wv.ended = false → wv.trap = none → wv.late = [] → allComplete wv = true → canIssue s wv = true →
      let t := record s (progressRec wv (stalledLanes wv))
      let x := { wv with wdog := [], wait := none }
      let fs (m : Mask) := (lanesOf m).map (fun l => laneFault l cProgress 0 0)
      (wv.wait = none → standsAt t wv = none → exec (.watchdogExpiry w) s = .next (raiseFetch t w x cProgress 0 0)) ∧
      (∀ p q, wv.wait = none → standsAt t wv = some (p, q) → exec (.watchdogExpiry w) s =
        .next (raise t w x p ((wv.replay.map (fun r => r.cont)).getD q) .instr none (fs wv.arriving))) ∧
      ∀ y, wv.wait = some y → (∀ k, y ≠ .sleep k) → wv.standing = true →
        exec (.watchdogExpiry w) s = .next (raiseAt t.tod.toNat t w x wv.pos wv.pos wv.replay (.wait y) none (fs wv.active)))) ∧
  (∀ (core vd : Nat) (s : State),
    let t := scrubDone s core (vd / 16) (vd % 16)
    exec (.generationScrub core vd) s =
      .next ((t.blocks.filter (fun e => decide (e.2.core = core))).foldl (fun s e => (natsFrom 0 32).foldl (fun s k => serveTakes e.1 k s.takes.length s) s) t)) ∧
  ∀ (glen job core : Nat) (s : State) (j : Job), Tbl.get s.jobs job = some j →
    let mine (x : Wave) : Bool := decide (x.job = job) && decide (x.kind = .ordinary) && decide (glenOfCore x.core = glen)
    let ready := (s.waves.filter (fun e => mine e.2 && deliverable s e.1 e.2)).map (fun e => e.1)
    let ls := ((faultedLanes s (fun x f => mine x && f.handler.isNone && !f.resolved)).filter (fun p => ready.contains p.1)).take 16
    ls ≠ [] → trapPc j.card ≠ 0 → glenOfCore core = glen → glen < 256 → (s.core? core).handler = none → vdIssues s j.vale j.vd = true →
    let h := s.nextId
    let t := ls.foldl (fun (s : State) p => modOrigin s p.1 p.2.lane (fun y => { y with handler := some h })) { s with nextId := h + 1 }
    let w := execHandlerLaunch.freshHandler j.vale j.vd job core (trapPc j.card) (maskOf (natsFrom 0 ls.length)) t.turns
    exec (.handlerLaunch glen job core) s =
      .next ((dropL1 { t with waves := Tbl.set t.waves h w } core j.vale j.vd).modCore core (fun c => { c with handler := some h }))

/-- The events of the engines: a copy's sector is written and its command retires (R157, R291, R507), the coverage unit's next command is
processed (R333), a band is encoded (R303), the oldest K-step is performed (R317, R318, R516), a waiting claim is met (R314), a lease
starts and ends (R411, R539).
Where it goes beyond the rules it states the model's choice: log 14, 17, 22. -/
def Obligations.EngineEvents : Prop :=
  (∀ (core cmd : Nat) (s : State) (c : Cmd), Tbl.get (s.core? core).cmds cmd = some c →
    (∀ f, startFault s c = some f → exec (.copySectorWritten core cmd) s = .next (failCmd s core cmd c f)) ∧
    (startFault s c = none → s.halted = false → c.done < c.total → tableWaits (s.core? core) cmd c = false →
      (c.posted ≠ [] → (∀ k ∈ c.posted, Tbl.get s.inflight k = none) → exec (.copySectorWritten core cmd) s = .next (sectorDone s core cmd c)) ∧
      (c.posted = [] → ∀ t, (c.kind = .cpy ∨ c.kind = .ccopy) → copySector s core cmd c = (t, .ok ()) →
        exec (.copySectorWritten core cmd) s =
          .next (if (((Tbl.get (t.core? core).cmds cmd).map (fun y => y.posted)).getD []) = [] then sectorDone t core cmd c else t)))) ∧
  (∀ (core glen cmd : Nat) (s : State), s.halted = false →
    exec (.commandRetire (.copy core) cmd) s = .next (retireCopy s core cmd) ∧ exec (.commandRetire (.encoder glen) cmd) s = .next (retireEnc s glen cmd)) ∧
  (∀ (core cmd : Nat) (s : State) (c : Cmd), Tbl.get (s.core? core).cmds cmd = some c → startFault s c = none → c.total ≤ c.done → c.posted = [] →
    c.ordered = false → c.ctr = none → c.kind ≠ .codewr → c.kind ≠ .codeswap → retireCopy s core cmd = dropCmd s core cmd) ∧
  (∀ (glen cmd : Nat) (s : State) (m : CovCmd) (b : Block) (c : CovSession), Tbl.get (s.glen? glen).covq cmd = some m → Tbl.get s.blocks m.blk = some b →
    b.cov = some c → s.halted = false → covWaits s m c = false → (∀ e ∈ (s.glen? glen).covq, e.2.blk = m.blk → cmd ≤ e.1) →
    let go (t : State) := exec (.covCommandRetire glen cmd) s = .next (releaseRetired t m.blk)
    ∀ o : VaFields,
      (m.op = .covline o ∨ m.op = .covquad o ∨ m.op = .covcube o → go (processSegments s glen cmd b m c)) ∧
      (m.op = .covres o → go (processRes s glen cmd b m c (decide (o.m = 1)))) ∧ (m.op = .covtri o → go (processTri s glen cmd b m c)) ∧
      (m.op = .covend o → go (closeSession (b.waves.foldl (fun s _ => servePops s m.blk b.waves) s) glen cmd m.blk)) ∧
      (m.op = .covbegin o → go (dropCov s glen cmd))) ∧
  (∀ (glen k id : Nat) (s : State) (f : Frame) (c : Cmd), nextBand s glen = some (k, f) → s.halted = false → postOf s glen k f.encoded = some (id, c) →
    (∀ (t : State) (samples : List Byte), f.out = none → readBand s (encCore glen) id c (bandRows f.words f.encoded) = (t, .ok samples) →
      let out := Config.encodeBand t.freeCount f.words f.encoded samples
      let room := (wordAt f.words 10).toNat - f.bytes
      exec (.bandEncoded glen k) s = .next (writeBand (engForget { t with freeCount := t.freeCount + 1 } (encCore glen) id) glen k f id c
        (out.take room, 0, decide (room < out.length)))) ∧
    ∀ o, f.out = some o → exec (.bandEncoded glen k) s = .next (writeBand s glen k f id c o)) ∧
  (∀ (glen k id n : Nat) (s u : State) (f : Frame) (c : Cmd) (o : List Byte × Nat × Bool) (r : Got Unit),
    writeSome s (encCore glen) id c ((dwordAt f.words 8).toNat + f.bytes + o.2.1) (o.1.drop o.2.1) = (u, n, r) →
    (r = .ok () → writeBand s glen k f id c o = modFrame u glen k (fun x =>
      { x with encoded := x.encoded + 1, bytes := x.bytes + o.1.length, full := x.full || o.2.2, out := none })) ∧
    ∀ ask, r = .wait ask → writeBand s glen k f id c o = modFrame u glen k (fun x => { x with out := some (o.1, o.2.1 + n, o.2.2) })) ∧
  (∀ (core : Nat) (s : State) (k : KStep) (rest : List KStep) (b : Block), (s.core? core).engine.queue = k :: rest →
    Tbl.get s.blocks k.blk = some b → k.lease = none →
    slabsWait s b k = false → (∀ r ∈ k.slabs, invalidRows b r.1 r.2 = [] ∧ rowGone s k.blk r.1 r.2 = none) →
    (k.zero = none → k.readBad = false ∧ (∀ r ∈ k.slabs, slabPoisoned b r.1 r.2 = false) ∧ (k.ovw = true ∨ (s.core? core).engine.accPoison = [])) →
    let clocks := kstepClocks (k.byte b) k
    let t := (s.modCore core (fun c => { c with engine := retired (s.core? core).engine b k false })).modVd b.vale b.vd
      (fun d => { d with stats := Tbl.setCell 0 d.stats 5 (Tbl.cell 0 d.stats 5 + BitVec.ofNat 64 clocks) })
    let pending := t.cores.any (fun c => c.2.engine.queue.any (fun q => decide (q.id = k.id)))
    exec (.kstepRetire core) s =
      .next (releaseRetired (if pending then t else modSeq t k.blk (fun c => { c with steps := removeNat k.id c.steps })) k.blk)) ∧
  (∀ (blk : Nat) (s : State), exec (.teamClaim blk) s = .next (tryClaim s blk)) ∧
  ∀ (i : Nat) (s : State) (l : Lease), Tbl.get s.leases i = some l →
    (l.st = 1 → l.revoked = false → l.start.toNat ≤ s.tod.toNat → exec (.leaseStart i) s =
      .next ((leaseEngines l).foldl (fun s c => if (s.core? c).convert.getD (s.core? c).stashKib < 64 then beginConversion s c 64 else s)
        (s.modLease i (fun l => { l with st := 2 })))) ∧
    (l.st ≠ 3 → (l.revoked = true ∨ l.stop.toNat ≤ s.tod.toNat) → leaseBusy s i l = false → exec (.leaseEnd i) s = .next (endLease s i l))

/-- The events of queues (R53, R381, R386, R389, R390, R530, R531): a valid queue with a card that may start has it fetched, a plug-in
answers once, a parked queue leaves PARKED, a card with a prologue starts it, a card without one is launched, and an ended prologue
decides its card.
Where it goes beyond the rules it states the model's choice: log 43. -/
def Obligations.QueueEvents : Prop :=
  ∀ (vale vd q : Nat) (s : State),
    let x := s.queue? vale vd q
    (∀ (t u : State) (avail : Nat) (h : HeadCard), q < 64 → vdIssues s vale vd = true → x.stage = .none → visitWaits s vale vd q = false → roHalf s vale vd q ≠ [] →
      natLE ((roHalf s vale vd q).take 2) ≠ 0 → queueValid s vale vd q = true → lookPost (closeEpisode s vale vd q 5) vale vd q = (t, some avail) →
      nextCard t vale vd q avail = (u, some h) → mayStart u (u.queue? vale vd q) h.words = true →
      exec (.fetchCard vale vd q) s = .next (refresh (takeCard u vale vd q h) vale vd q)) ∧
    (∀ (d : Vd) (ans : PluginAnswer), s.vd? vale vd = some d → x.stage = .fetched none → d.plugin.isSome = true → vdIssues s vale vd = true → qcbWaits s vale vd q = false →
      let t := s.modQueue vale vd q (fun x => { x with stage := .fetched (some ans) })
      exec (.pluginInvocation vale vd q ans) s = .next (match ans with
        | .park until_ => refresh (qcbPut t vale vd q 0xB0 8 until_.toNat) vale vd q
        | _ => t)) ∧
    ((s.vd? vale vd).isSome = true → qParkUntil s vale vd q ≤ s.tod.toNat → exec (.parkuntilExpiry vale vd q) s = .next (refresh s vale vd q)) ∧
    (∀ dl, x.stage = .ready dl → cardFlag x.card 4 = true → vdIssues s vale vd = true →
      (∀ e ∈ s.waves, e.2.kind = .prologue → e.2.vale ≠ vale) → ((s.vale? vale).map (fun v => glenFenced s v.first)) = some false →
      let w := freshWave .prologue vale vd 0 0 0 (scalarCore s vale) 0xFF 0 0 (BitVec.ofNat 64 (card64 x.card 0x58))
      let w := (natsFrom 0 32).foldl (fun (w : Wave) j => w.wrS j (wordAt x.card j)) { w with active := 1, queueOf := q, lastIssue := s.turns }
      let t : State := { s with nextId := s.nextId + 1, waves := Tbl.set s.waves s.nextId w }
      exec (.prologueStart vale vd q) s = .next (t.modQueue vale vd q (fun x => { x with stage := .prologue dl s.nextId }))) ∧
    (vdIssues s vale vd = true → visitWaits s vale vd q = false → colWaits s vale vd q x.number = false →
      (∀ dl, x.stage = .ready dl → cardFlag x.card 4 = false → exec (.cardReady vale vd q) s = .next (tryLaunch s vale vd q x.card dl)) ∧
      (∀ (d : Vd) (plug : Option PluginAnswer), x.stage = .fetched plug → s.vd? vale vd = some d → (plug.isSome = true ∨ d.plugin = none) →
        qParkUntil s vale vd q ≤ s.tod.toNat → mayStart s x x.card = true → cardFlag x.card 4 = true →
        exec (.cardReady vale vd q) s = .next (fixDeadline s vale vd q)) ∧
      (∀ (dl : Option DWord) (w : Nat) (wv : Wave), x.stage = .prologue dl w → Tbl.get s.waves w = some wv → wv.ended = true →
        exec (.cardReady vale vd q) s = .next (finishPrologue s vale vd q dl w wv)))

/-- The events of jobs and tasks (R49 to R52, R55, R133, R353 to R356, R363, R391, R394, R398): a chunk is dealt, a round placed, a job
retires, a carve-out converts, a period and a wake boost end, an accounting window ends, a task is admitted, placed and committed.
Where it goes beyond the rules it states the model's choice: log 16, 36, 37, 62. -/
def Obligations.JobEvents : Prop :=
  (∀ (job : Nat) (s : State) (j : Job), Tbl.get s.jobs job = some j →
    (∀ (glen : Nat) (t : State) (cores : List Nat), vdIssues s j.vale j.vd = true → j.ord = none → j.next < cardRecords j.card →
      gateOpen s job j.next = (t, true) → savedFits t job glen = false → firstOffer t j.vale glen = some job → bestGlen t j.vale (fun g => (slotIn t j g).isSome) = some glen →
      slotIn t j glen = some cores →
      let n := min (max 1 j.size) (cardRecords j.card - j.next)
      let u := { t with nextId := t.nextId + 1 }
      let x := { j with next := j.next + n, chunks := Tbl.set j.chunks t.nextId { glen := glen, cores := cores, next := j.next, stop := j.next + n, round := none } }
      let y := { x with size := chunkSize u x }
      exec (.dealChunk job glen) s = .next (refresh (passKey (u.modJob job (fun _ => y)) x) j.vale j.vd j.queue)) ∧
    (∀ (slot : Nat) (c : Chunk) (t : State), Tbl.get j.chunks slot = some c → roundReady s j c = true →
      (c.round ≠ none ∨ (savedFits s job c.glen = false ∧ firstOffer s j.vale c.glen = some job)) → gatesOpen job (natsFrom c.next (roundSize j c)) s = (t, true) →
      let m := roundSize j c
      let t := gateAcquire t j (c.cores.take m)
      let cl := t.nextId
      let r := (natsFrom 0 m).foldl (fun (r : State × List Nat) i =>
        let p := placeBlock r.1 ((c.cores.take m).getD i 0) job cl i (BitVec.ofNat 32 (c.next + i)) (BitVec.ofNat 64 (card64 j.card 0x08)) none
        (p.2, r.2 ++ [p.1])) ({ t with nextId := cl + 1 }, [])
      let u := { r.1 with clusters := Tbl.set r.1.clusters cl { job := job, glen := c.glen, members := r.2, phase := [], arrived := [] } }
      exec (.placeRound job slot) s = .next (refresh (u.modJob job (fun j =>
        { j with chunks := Tbl.set j.chunks slot { c with next := c.next + m, round := some cl } })) j.vale j.vd j.queue)) ∧
    (∀ d : Vd, s.vd? j.vale j.vd = some d → d.stopped = false → d.rolling = false → d.cut = none → s.halted = false → jobOver s job j = true →
      colWaits s j.vale j.vd j.queue j.number = false →
      let t := (dropJob (completionAdd s job j.vale j.vd j.addr j.card) job).modQueue j.vale j.vd j.queue (fun x => { x with running := removeNat job x.running })
      exec (.jobRetire job) s = .next (refresh (cardDone t j.vale j.vd j.queue j.number) j.vale j.vd j.queue))) ∧
  (∀ (core k : Nat) (s : State), (s.core? core).convert = some k →
    ((s.core? core).stashKib < k → waysBusy s core (l1Ways (s.core? core)) = false) →
    (k < (s.core? core).stashKib → ∀ e ∈ blocksOn s core, e.2.stashBase + e.2.stashKib ≤ k) →
    (∀ e ∈ blocksOn s core, cardField (s.cardOf e.2.job) 0x70 2 0 = 0) →
    exec (.carveConversion core) s = .next (s.modCore core (fun c =>
      { c with stashKib := k, convert := none, l1 := c.l1.filter (fun e => decide (e.way < l1Ways (s.core? core))) }))) ∧
  (∀ (vale vd : Nat) (s : State) (d : Vd), s.vd? vale vd = some d →
    (d.en = true → d.nextBoundary ≤ s.tod.toNat →
      let t := (startPeriod s vale vd).modVd vale vd (fun d => { d with parked := false })
      exec (.periodBoundary vale vd) s = .next ((activeQueues t vale vd).foldl (fun s q => refresh s vale vd q) t)) ∧
    ((d.en = false ∨ s.tod.toNat < d.nextBoundary) → exec (.periodBoundary vale vd) s = .next s)) ∧
  (∀ (vale vd : Nat) (s : State), exec (.wakeBoostEnd vale vd) s = .next (s.modVd vale vd (fun d => match d.boostEnd with
    | some t => if t ≤ s.tod.toNat then { d with boostEnd := none } else d
    | none => d))) ∧
  (∀ (ch : Nat) (s : State), exec (.accountingWindow ch) s = .next (s.vales.foldl (fun (s : State) e =>
    if decide (e.2.first ≤ ch / 4) && decide (ch / 4 < e.2.first + e.2.n) then
      e.2.vds.foldl (fun (s : State) d => { s with window := Tbl.setCell 0 s.window (4096 * ch + vdKey e.1 d.1) (d.2.reg 8 % 65536) }) s
    else s) s)) ∧
  ∀ (job : Nat) (s : State) (j : Job) (v : Vale) (o : Ordered), Tbl.get s.jobs job = some j → s.vale? j.vale = some v → j.ord = some o →
    (∀ (glen : Nat) (t : State), v.first ≤ glen → glen < v.first + v.n → vdIssues s j.vale j.vd = true → o.stuck = false →
      o.rootNext < cardRecords j.card → walkWaits s none j.vale j.vd (rootVa j o.rootNext) .load = false →
      entryFree (rootFetch s job j o false) j.vale = true → o.seqNext < 2 ^ 32 - 1 →
      gateOpen (rootFetch s job j o false) job o.rootNext = (t, true) → rootWaits t j o.rootNext = false →
      let u := rootTouch (rootFetch t job j ((orderedOf t job).getD o) true) j o.rootNext
      let o := (orderedOf u job).getD o
      let got := rootGot u j (o.rootSeen.filter (fun x => decide (x.1 % 2 = 1))) o.rootNext
      (∀ x, got = .value x →
        let ts := if x.toNat < o.rootTs.toNat then o.rootTs else x
        exec (.taskAdmit job glen) s = .next ((addTask u job
          (freshTask ts none (BitVec.ofNat 32 o.rootNext) (BitVec.ofNat 64 (card64 j.card 0x08)) [])).modJob job (fun j =>
            { j with ord := j.ord.map (fun o' => { o' with rootNext := o.rootNext + 1, rootTs := ts }) }))) ∧
      (got = .later → exec (.taskAdmit job glen) s = .next u) ∧
      (got = .failed → exec (.taskAdmit job glen) s =
        .next (severity2 (u.modJob job (fun j => { j with ord := j.ord.map (fun o => { o with stuck := true }) })) j.vale j.vd
          (schedRec cCard 2 (some j.vale) (some j.vd) j.addr 6 0 j.queue j.number o.rootNext)))) ∧
    (∀ (core q : Nat) (t : Task), earliestTask (o.tasks.filter (fun e => decide (e.2.st = .pending))) = some q → (coresOf v).contains core = true →
      vdIssues s j.vale j.vd = true → fitsCore s core j.vale j.vd j.card = true → readSets s (glenOfCore core) < 2048 →
      frontierSaved o = false → Tbl.get o.tasks q = some t →
      let x := if t.root then gateAcquire s j [core] else s
      let p := placeBlock { x with nextId := x.nextId + 1 } core job x.nextId 0 t.record t.entry (some q)
      let u := { p.2 with clusters := Tbl.set p.2.clusters x.nextId { job := job, glen := glenOfCore core, members := [p.1], phase := [], arrived := [] } }
      exec (.taskPlace job core) s =
        .next (u.modTask job q (fun t => { t with st := .running p.1, core := core, ways := specWays (u.core? core) j.card }))) ∧
    (∀ (q : Nat) (t : Task), earliestTask o.tasks = some q → Tbl.get o.tasks q = some t → vdServed s j.vale j.vd = true → isFrontier s job q = true → lockReady s job q = true →
      (taskDone s t = true → exec (.taskCommit job) s = .next (commitTask s job q)) ∧
      (∀ b, taskDone s t = false → t.st = .running b → t.fault.isSome = true → exec (.taskCommit job) s = .next (wakeTask (makeIrrevocable s job q) job b)))

/-- The events of saves, cuts and rollbacks (R57, R371, R395, R399, R404 to R409, R534): a suspended block's counter reaches its target, a
drained block is saved, a save or a cut takes too long, a saved block is placed again, a cut halts its VD and completes, a rollback is done. The SUB of the two HANG records is the model's reading (log 49).
Where it goes beyond the rules it states the model's choice: log 24, 26, 41, 42, 49. -/
def Obligations.SaveEvents : Prop :=
  (∀ (blk : Nat) (s : State) (b : Block), Tbl.get s.blocks blk = some b →
    (∀ (a : Nat) (ctr target v : DWord) (t : State), b.st = .saved a true ctr target → readHeld s b.vale b.vd (3 * blk + 2) = false → partRead s blk b.vale b.vd (cardAddr s b.job) ctr = (t, .ok (some v)) →
      let u := (engForget t (scalarCore t b.vale) blk).modVd b.vale b.vd (fun d => { d with episodes := removeNat (1024 + blk) d.episodes })
      exec (.suspendWake blk) s = .next (if target.toNat ≤ v.toNat then u.modBlock blk (fun b => { b with st := .saved a false ctr target }) else u)) ∧
    (∀ (fork : Bool) (d : Vd), b.st = .saving fork → s.vd? b.vale b.vd = some d → d.cut = none → d.stopped = false → d.rolling = false → s.halted = false →
      let ms := saveGroup s blk b
      ms ≠ [] → s.clock = none → frontierOf s b = none → (∀ e ∈ ms, saveDrained s e.1 e.2 = true ∧ rowsBackWait s e.2 = false ∧ saveHeld s e.2 = false ∧ liveWaves s e.2 ≠ [] ∧ ∀ x ∈ liveWaves s e.2, faultDue x.2 = false) →
      exec (.blockSaveDone blk) s = .next (ms.foldl (fun s e => finishSave s e.1) s)) ∧
    (∀ fork : Bool, b.st = .saving fork → b.stopTod + b.waited + 600000 ≤ s.tod.toNat → vdServed s b.vale b.vd = true → exec (.saveDrainTimeout blk) s =
      .next (severity2 s b.vale b.vd { schedRec cHang 2 (some b.vale) (some b.vd) (cardAddr s b.job) 1 0 b.core (s.tod.toNat - b.stopTod - b.waited) (cardAddr s b.job) with
        core := b.core })) ∧
    (∀ (core : Nat) (v : Vale) (t : State) (places : List (Nat × Nat)) (j : Job), s.vale? b.vale = some v → waitsSlot b = true →
      vdIssues s b.vale b.vd = true → (coresOf v).contains core = true → gatesOpen b.job (savedGates s (savedMembers s b)) s = (t, true) →
      membersFit t (savedMembers s b) (glenOfCore core) = some places → (places.map (fun p => p.2)).headD core = core →
      firstOffer t b.vale (glenOfCore core) = some b.job →
      bestGlen t b.vale (fun g => (membersFit t (savedMembers s b) g).isSome) = some (glenOfCore core) →
      let u := places.foldl (fun s p => reclaim s p.1) (places.foldl (fun s p => placeSaved s p.1 p.2) t)
      Tbl.get u.jobs b.job = some j → exec (.blockResume blk core) s = .next (passKey (gateAcquire u j (places.map (fun p => p.2))) j))) ∧
  ∀ (vale vd : Nat) (s : State) (v : Vale) (d : Vd), s.vale? vale = some v → s.vd? vale vd = some d →
    (∀ c, d.cut = some c →
      (c.halted = false → c.count ≤ s.tod.toNat → d.stopped = false → d.rolling = false →
        let t := (writeRows s vale vd).modVd vale vd (fun d => { d with
          cut := d.cut.map (fun c => { c with halted := true, start := d.undoHead, moved := d.migrated.length }), ckseq := d.ckseq + 1, logged := []
          firstCut := some (d.firstCut.getD ((d.cut.map (fun c => c.count)).getD 0)) })
        exec (.checkpointCut vale vd) s = .next ((orderedJobs t vale vd).foldl abortOthers t)) ∧
      (s.tod.toNat < c.count → exec (.checkpointCut vale vd) s = .next s) ∧
      (c.halted = true → d.stopped = false → s.halted = false → cutDrained s vale vd = true → rowsWait s vale vd = false → (∀ e ∈ coreBlocks s vale vd, rowsBackWait s e.2 = false) → frontierDue s vale vd = none →
        (∀ e ∈ coreBlocks s vale vd, ∀ x ∈ liveWaves s e.2, faultDue x.2 = false) →
        exec (.cutComplete vale vd) s = .next (writeImage s vale vd v c)) ∧
      (c.switchOut = false → d.stopped = false → c.count + 600000 ≤ s.tod.toNat → exec (.cutTimeout vale vd) s =
        .next (record (abandonCut s vale vd) (schedRec cHang 1 (some vale) (some vd) 0 2 8 0xFFFF (s.tod.toNat - c.count) 0))) ∧
      (c.switchOut = true → c.count + 30000 ≤ s.tod.toNat → exec (.switchoutCutTimeout vale vd) s = .next (abandonSwitch s vale vd))) ∧
    (∀ (im : Image) (t : State), d.image = some im → d.rolling = true → d.stopped = false → s.halted = false → epochOwed s vale vd = false → (∀ m ∈ s.migrations, m.2.vale = vale → m.2.vd ≠ vd) →
      applyUndo v d d.undoList s = some t →
      exec (.rollbackDone vale vd) s = .next (match d.rollRec with
        | some r => record (rollbackAnswered (restoreImage t vale vd im) vale vd 0) r
        | none => rollbackAnswered (restoreImage t vale vd im) vale vd 0))

/-! ## Errors, links and the fabric -/

/-- The errors that the part detects by itself (R513, R514, R517, R518, R519, R534, R541): what a soft error in each structure poisons,
clears, corrects or stops, how hangs are reported, and how links and glens fail and come back. A replay is counted with those of the 600
ticks before it; more than 16 retrain the link, and a pass link may go down at any time, while it retrains too. The glen a record of a link
names (log 121), the package it names (log 148), the place of a register word and CONSUMED in the records of wider scope (log 143) are the
model's choices.
Where it goes beyond the rules it states the model's choice: log 44, 47, 48, 49, 50, 121. -/
def Obligations.ErrorEvents : Prop :=
  (∀ (a core n blk word w reg lane g vd d job task : Nat) (c : Bool) (s : State),
    let err (e : SoftError) : Host.Outcome State Fault Refusal := exec (.memError e) s
    let some8 : Nat := (Config.freeByte s.freeCount).toNat % 8 + 1
    let once : State := { s with freeCount := s.freeCount + 1 }
    err (.hbm a false) = .next (memUe (poisonSectors s [a / 32]) (memSite s 0 11 a) false) ∧
    err (.hbm a true) = .next (memCe once (memSite s 0 11 a) false some8) ∧
    err (.l2Data a false) = .next (memUe (poisonSectors s [a / 32]) (memSite s 1 12 a) false) ∧
    err (.l2Data a true) = .next (memCe s (memSite s 1 12 a) false 1) ∧
    err (.l2Tag g c) = .next (valeError s (unitSite 2 12 g 0) c) ∧
    err (.l1 core n) =
      .next (memCe (s.modCore core (fun x => { x with l1 := x.l1.filter (fun e => decide (e.sector / 4 ≠ n / 4)) })) { memSite s 3 2 (32 * n) with glen := glenOfCore core, core := core } false 1) ∧
    (let u := memCe s (coreSite 3 2 core 0) false 1
     ∀ o t, orderedOf u job = some o → Tbl.get o.tasks task = some t →
       err (.l1Spec core job task) = .next (if t.irrev || decide (t.st = .pending) then u else abortTask u job task)) ∧
    err (.fetchCache core) = .next (memCe (s.modCore core (fun x => { x with icache := [], ccache := [] })) (coreSite 4 0 core 0) false 1) ∧
    err (.tlb core) = .next (memCe (s.modCore core (fun x => { x with tlb := [] })) (coreSite 5 2 core 0) false 1) ∧
    err (.glenTlb g) = .next (memCe (s.modGlen g (fun x => { x with tlb := [] })) (unitSite 5 2 g 0) false 1) ∧
    err (.dieTlb d) = .next (memCe { s with dieTlb := Tbl.set s.dieTlb d [] } (unitSite 5 2 (32 * d) 0) false 1) ∧
    (∀ b, Tbl.get s.blocks blk = some b →
      err (.stash blk word false) =
        .next (memUe (s.modBlock blk (fun b => { b with stashPoison := insertNat word b.stashPoison })) (coreSite 6 2 b.core (4 * word)) false) ∧
      err (.stash blk word true) = .next (memCe s (coreSite 6 2 b.core (4 * word)) false 1)) ∧
    (∀ x, Tbl.get s.waves w = some x →
      let y := { coreSite 7 0 x.core (regPlace reg lane) with slot := x.slot }
      err (.register w reg lane false) = .next (memUe (s.modWave w (fun w => { w with poison := insertNat (regKey reg lane) w.poison })) y false) ∧
      err (.register w reg lane true) = .next (memCe s y false 1)) ∧
    err (.accumulator core n false) = .next (memUe (s.modCore core (fun k =>
      { k with engine := { k.engine with accPoison := insertNat n k.engine.accPoison } })) (coreSite 8 4 core n) false) ∧
    err (.taskUnit g vd c) = .next (unitError s 9 6 g vd c) ∧ err (.coverageUnit g vd c) = .next (unitError s 10 5 g vd c) ∧
    err (.encoderLane g vd c) = .next (unitError s 11 7 g vd c) ∧ err (.colSram g c) = .next (valeError s (unitSite 12 8 g 0) c) ∧
    err (.saddleSwitch d false) = .next (severity4 s { (memRec s (unitSite 13 9 (32 * d) 0) false false 0xFF).atUse 4 with vale := none }) ∧
    err (.saddleSwitch d true) = .next (recordCe s { memRec s (unitSite 13 9 (32 * d) 0) true false 1 with vale := none } (32 * d)) ∧
    (∀ k u v, glenVale s g = some v →
      valeError s (unitSite k u g 0) false = severity3 s v ((memRec s (unitSite k u g 0) false false 0xFF).atUse 3) ∧
      unitError s k u g vd false = severity2 s v vd { (memRec s (unitSite k u g 0) false false 0xFF).atUse 2 with vd := some vd }) ∧
    (∀ k u, valeError s (unitSite k u g 0) true = memCe s (unitSite k u g 0) false 1 ∧ unitError s k u g vd true = memCe s (unitSite k u g 0) false 1) ∧
    (s.poison.contains n = true → exec (.patrolScrub n c) s = .next (memUe s (memSite s 0 11 (32 * n)) true)) ∧
    (s.poison.contains n = false → exec (.patrolScrub n false) s = .next s ∧
      exec (.patrolScrub n true) s = .next (memCe once (memSite s 0 11 (32 * n)) true some8))) ∧
  (∀ (unit : EngineUnit) (cmd u : Nat) (s : State) (a : Accepted), acceptedCmd s unit cmd = some (u, a) → a.faulting = false → a.at_ + 60000000 ≤ s.tod.toNat →
    exec (.commandTimeout unit cmd) s =
      .next (severity3 s a.vale (hangRec 3 (some a.vale) (some a.vd) a.pc 3 u a.core (s.tod.toNat - a.at_) a.pc))) ∧
  (∀ s : State, exec (.colWatchdogTimeout none) s = .next (severity4 s (hangRec 4 none none 0 4 8 0xFFFF 600000 0))) ∧
  (∀ (g v : Nat) (s : State), glenVale s g = some v →
    exec (.colWatchdogTimeout (some g)) s = .next (severity3 s v (hangRec 3 (some v) none 0 4 8 0xFFFF 600000 0))) ∧
  (∀ (l : LinkRef) (s : State), linkExists l = true →
    let x := linkOf s l
    let past := s.tod.toNat :: x.replays.filter (fun t => decide (s.tod.toNat ≤ t + 600))
    (x.up = true → x.retraining = false → past.length ≤ 16 → exec (.linkCrcFail l) s =
      .next (recordCe (setLink s l { x with replays := past }) (linkRec cLinkCe 0 l 0 past.length (linkPeer l)) (linkGlen l))) ∧
    (x.up = true → x.retraining = false → 16 < past.length → exec (.linkCrcFail l) s =
      .next (recordCe (setLink s l { x with replays := past, retraining := true, since := s.tod.toNat })
        (linkRec cLinkCe 0 l 1 past.length (linkPeer l)) (linkGlen l))) ∧
    ((x.up = false ∨ x.retraining = true) → exec (.linkCrcFail l) s = .next s) ∧
    (x.up = true → x.retraining = true → exec (.retrainComplete l) s = .next (setLink s l { x with retraining := false, replays := [], since := s.tod.toNat }))) ∧
  (∀ (n : Nat) (s : State), exec (.linkRetrainTimeout (.pass n)) s = .next s) ∧
  (∀ (n : Nat) (s : State), (linkOf s (.saddle n)).retraining = true → (linkOf s (.saddle n)).since + 60000 ≤ s.tod.toNat →
    exec (.linkRetrainTimeout (.saddle n)) s =
      .next (severity4 (setLink s (.saddle n) { linkOf s (.saddle n) with up := false }) (linkRec cLinkDown 4 (.saddle n) 2 (linkOf s (.saddle n)).replays.length 0))) ∧
  (∀ (n : Nat) (s : State), n < 36 → s.passUp.getLsbD n = true →
    let t := { s with passUp := s.passUp &&& ~~~(BitVec.ofNat 36 (2 ^ n)) }
    let u := setLink t (.pass n) { linkOf t (.pass n) with up := false, retraining := false }
    let r := { u with outReqs := Tbl.mapVals (fun _ r => if r.link = n then { r with link := linkFor u r.die r.pkg } else r) u.outReqs }
    let count := if (linkOf s (.pass n)).retraining then (linkOf s (.pass n)).replays.length else 0
    exec (.passLinkDown n) s = .next (recordCe r (linkRec cLinkDown 0 (.pass n) 2 count (linkPeer (.pass n))) (linkGlen (.pass n)))) ∧
  ∀ (g : Nat) (s : State),
    ((s.glen? g).st = 2 → s.bootStat = 1 → glenTargeted s g = false → ∀ ok, exec (.glenScrubComplete g ok) s =
      .next (splitCheck ((wipeGlen s g).modGlen g (fun _ => { Glen.fresh with st := if ok then 0 else 3 })))) ∧
    (g < 256 → (s.glen? g).st ≠ 3 →
      let t := s.modGlen g (fun x => { x with st := 3, vale := none })
      let u := match glenVale s g with
        | some v => severity3 t v { memRec s (unitSite 12 8 g 0) false false 0xFF with sev := 3 }
        | none => record t { memRec s (unitSite 12 8 g 0) false false 0xFF with sev := 3 }
      let w := { u with cores := Tbl.mapVals (fun c x => if glenOfCore c = g then { x with engine := { x.engine with queue := [] } } else x) u.cores }
      exec (.glenFailure g) s = .next (splitCheck (w.leases.foldl (fun s e => if e.2.glen = g then revokeLease s e.1 e.2 2 else s) w))) ∧
    ((s.glen? g).st = 3 → exec (.glenFailure g) s = .next s)

/-- The scale-up fabric (R422 to R425, R506, R519): an inbound request that an entry permits is performed at its key and answered, one not
permitted is refused, one whose tag fails is discarded; a response, no sooner than 64 ticks after its request while the package is locked
to the domain (R439, R536; that the floor is held at the response is the model's choice, log 108), ends it and reaches its wave or engine; a
request without a response times out; a re-key starts both keys' counters again.
Where it goes beyond the rules it states the model's choice: log 51, 52, 53, 108. -/
def Obligations.FabricEvents : Prop :=
  let run (s : State) (r : FabricReq) (k : Nat) : State := (unitsOf 128 k r.size).foldl (fun s j => recallLine s j noRow noRow) s
  (∀ (r : FabricReq) (s : State) (k : Nat),
    (judge s r 42 = .at_ k →
      let t := run s r k
      exec (.fabricRead r) s = .next { noteSeen t r (memBytes t k r.size) with
        reply := if memPoisoned t k r.size then .poisoned (memBytes t k r.size) else .bytes (memBytes t k r.size) }) ∧
    (judge s r 43 = .at_ k → exec (.fabricPostedWrite r) s = .next { noteSeen (writeMem (run s r k) k (r.data.take r.size)) r [] with reply := .ok }) ∧
    (judge s r 44 = .at_ k →
      let x := inboundAtomic r (run s r k) k
      exec (.fabricAtomic r) s = .next { noteSeen x.1 r x.2.1 with reply := if x.2.2 then .poisoned x.2.1 else .bytes x.2.1 } ∧
      exec (.fabricPostedAtomic r) s = .next { noteSeen x.1 r [] with reply := .ok }) ∧
    (∀ i ∈ [(42, Instr.fabricRead r), (43, .fabricPostedWrite r), (44, .fabricAtomic r), (44, .fabricPostedAtomic r)],
      (judge s r i.1 = .refused → exec i.2 s = .next { answerFlit s r with reply := .error 0 }) ∧
      (judge s r i.1 = .badTag → exec i.2 s = .next { badFlit s r.src with reply := .none }) ∧ (judge s r i.1 = .wait → exec i.2 s = .next s)) ∧
    (∀ bs, (judge s r 42 = .again bs → exec (.fabricRead r) s = .next { answerFlit s r with reply := .bytes bs }) ∧
      (judge s r 43 = .again bs → exec (.fabricPostedWrite r) s = .next { answerFlit s r with reply := .ok }) ∧
      (judge s r 44 = .again bs → exec (.fabricAtomic r) s = .next { answerFlit s r with reply := .bytes bs } ∧
        exec (.fabricPostedAtomic r) s = .next { answerFlit s r with reply := .ok })) ∧
    (r.enc = true → r.tagGood = false → judge s r 42 = .badTag) ∧
    (r.enc = false → (∀ e ∈ s.inSeen, e.1 = r.src → e.2.1 ≠ r.seq) → s.imports = [] → judge s r 42 = .refused)) ∧
  (∀ (idx : Nat) (s : State) (r : OutReq), Tbl.get s.outReqs idx = some r →
    let t (resp : FabricResp) := postDone (responseFlit { s with outReqs := Tbl.erase s.outReqs idx } r resp) r
    (s.tsync ≠ 2 → s.tod.toNat < r.sentAt + 64 → ∀ resp, exec (.fabricResponse idx resp) s = .next s) ∧
    ((s.tsync = 2 ∨ r.sentAt + 64 ≤ s.tod.toNat) → (linkOf s (.pass r.link)).retraining = false → r.link ≠ 36 → reqBehind s idx r = false →
      (∀ w l lane, r.load = some (w, l, lane) → r.eng = none →
        (∀ bs p, exec (.fabricResponse idx (.data bs p)) s = .next (deliverRead (t (.data bs p)) w l lane r.pa none bs p)) ∧
        exec (.fabricResponse idx .refusal) s = .next (deliverRead (t .refusal) w l lane r.pa (some (cProtect, 12)) [] false) ∧
        exec (.fabricResponse idx .badTag) s = .next (deliverRead (badFlit (t .badTag) r.pkg) w l lane r.pa (some (cProtect, 13)) [] false)) ∧
      (∀ c k, r.eng = some (c, k) →
        (∀ bs p, exec (.fabricResponse idx (.data bs p)) s = .next (engAnswered (t (.data bs p)) r c k none bs p)) ∧
        exec (.fabricResponse idx .refusal) s = .next (engAnswered (t .refusal) r c k (some (cProtect, 12)) [] false) ∧
        exec (.fabricResponse idx .badTag) s = .next (engAnswered (badFlit (t .badTag) r.pkg) r c k (some (cProtect, 13)) [] false)) ∧
      (r.load = none → r.eng = none → exec (.fabricResponse idx .ack) s = .next (t .ack) ∧
        exec (.fabricResponse idx .refusal) s = .next (postLost (t .refusal) r 3) ∧
        exec (.fabricResponse idx .badTag) s = .next (postLost (badFlit (t .badTag) r.pkg) r 4))) ∧
    ((r.link = 36 ∨ r.sentAt + 600000 ≤ s.tod.toNat) →
      let u := postDone { s with outReqs := Tbl.erase s.outReqs idx } r
      (∀ w l lane, r.load = some (w, l, lane) → exec (.fabricResponseTimeout idx) s = .next (deliverRead u w l lane r.pa (some (cProtect, 14)) [] false)) ∧
      (∀ c k, r.load = none → r.eng = some (c, k) →
        exec (.fabricResponseTimeout idx) s = .next (engAnswered u r c k (some (cProtect, 14)) [] false)) ∧
      (r.load = none → r.eng = none → exec (.fabricResponseTimeout idx) s = .next (postLost u r 5)))) ∧
  ∀ (peer : Nat) (s : State), exec (.fabricRekey peer) s = .next { s with
    pairKeys := Tbl.modify s.pairKeys peer (fun k => (k.1 + 1, 0)), pairKeysIn := Tbl.modify s.pairKeysIn peer (fun k => (k.1 + 1, 0)) }

/-! ## The part -/

/-- Reset, bring-up, time, lifecycle, power and temperature (R123, R438 to R443): a reset clears memory and every unit and applies an
accepted lifecycle change; bring-up's steps; the TOD counter is stepped once; a lifecycle change is refused by its reason; limits, alarms
and the clock.
Where it goes beyond the rules it states the model's choice: log 2, 54, 55, 56. -/
def Obligations.PartEvents : Prop :=
  (∀ s : State, ∃ t, exec .reset s = .next t ∧ t.mem = [] ∧ t.poison = [] ∧ t.vales = [] ∧ t.waves = [] ∧ t.blocks = [] ∧ t.jobs = [] ∧ t.inflight = [] ∧
    t.cores = [] ∧ t.tod = 0 ∧ t.bootStat = 0 ∧ t.bootStep = 1 ∧ t.tsync = 0 ∧ t.halted = false ∧ t.lifecycle = s.lcPending.getD s.lifecycle ∧
    t.lcPending = none ∧ t.revoked = s.revoked ∧ t.svnMin = s.svnMin ∧
    (t.lifecycle = 4 → t.rootGone = true ∧ t.certSlots = 0) ∧
    (t.lifecycle ≠ 4 → t.rootGone = s.rootGone ∧ t.certSlots = (if s.lifecycle = 0 ∧ t.lifecycle = 1 then s.certSlots ||| 1 else s.certSlots))) ∧
  (∀ s : State, s.bootStat = 0 → s.halted = false →
    exec (.bringUpStepDone .fail) s = .next { s with bootStat := 2, failStep := BitVec.ofNat 3 s.bootStep } ∧
    (s.bootStep = 1 → exec (.bringUpStepDone .pass) s = .next { measure s 1 0 with identity := decide (s.lifecycle ≠ 4), bootStep := 2 }) ∧
    (s.bootStep = 2 → s.lifecycle ≠ 4 → imageAccepted s 1 = true → exec (.bringUpStepDone .pass) s = .next { measure s 2 1 with bootStep := 3 }) ∧
    (s.bootStep = 2 → (s.lifecycle = 4 ∨ imageAccepted s 1 = false) → exec (.bringUpStepDone .pass) s = .next { s with bootStat := 2, failStep := 2 }) ∧
    (s.bootStep = 4 → ∀ up width rate fenced, exec (.bringUpStepDone (.links up width rate fenced)) s = .next (
      if width.toNat ∈ [1, 2, 4] ∧ 1 ≤ rate.toNat ∧ rate.toNat ≤ 6 then
        { fenced.foldl (fun s g => s.modGlen g (fun x => { x with st := 3 })) { trainLinks s up with hlWidth := width, hlRate := rate } with bootStep := 5 }
      else s)) ∧
    (s.bootStep = 6 → (∀ id, id.toNat < 4608 → exec (.bringUpStepDone (.tray id)) s = .next { s with pkgId := id, trayRead := true }) ∧
      (s.tsync = 0 ∨ s.trayRead = false → exec (.bringUpStepDone .pass) s = .next s) ∧
      (s.tsync ≠ 0 → s.trayRead = true → ∃ t, exec (.bringUpStepDone .pass) s = .next t ∧ t.bootStat = 1 ∧ t.mem = s.mem ∧ t.tod = s.tod))) ∧
  (∀ s : State, s.bootStat = 0 → s.halted = true → ∀ r, exec (.bringUpStepDone r) s = .next s) ∧
  (∀ (s : State) (up : BitVec 36) (n : Nat), n < 36 →
    (trainLinks s up).passUp = up ∧ (linkOf (trainLinks s up) (.pass n)).up = up.getLsbD n) ∧
  (∀ (s : State) (n : DWord) (own : Bool),
    (s.tsync = 0 → s.bootStat = 0 → s.bootStep = 6 → s.trayRead = true →
      (own = true ∨ s.passUp = 0 ∨ s.pkgId = 0 → exec (.timeSyncMessage n own) s = .next { s with tsync := 2 }) ∧
      (own = false → s.passUp ≠ 0 → s.pkgId ≠ 0 →
        exec (.timeSyncMessage n own) s = .next { s with tsync := 1, tod := n, timeMaster := n.toNat, compared := 0 })) ∧
    (s.tsync ≠ 0 → ∃ t, exec (.timeSyncMessage n own) s = .next t ∧ t.tod = s.tod) ∧
    (s.tsync = 1 → own = false → s.passUp ≠ 0 → s.pkgId ≠ 0 →
      ∃ t, exec (.timeSyncMessage n own) s = .next t ∧ t.tod = s.tod ∧ t.timeMaster = s.tod.toNat ∧ -50 ≤ t.steer ∧ t.steer ≤ 50) ∧
    (s.tsync = 1 → s.timeMaster + 600000000 ≤ s.tod.toNat → exec .timeMasterTimeout s = .next { s with tsync := 3, timeMaster := s.tod.toNat }) ∧
    (s.tsync = 3 → s.timeMaster + 6000000000 ≤ s.tod.toNat → exec .holdoverExpiry s = .next { s with tsync := 2 })) ∧
  (∀ (s : State) (x : BitVec 3) (tk : DWord), 4 ≤ s.bootStep → s.bootStat ≠ 2 →
    (let u := { s with lcToken := tk, lcReq := x, freeCount := s.freeCount + 1 }
     exec (.lcReq x tk) s = .next (
      if lcAllowed s.lifecycle x = false then { u with lcStat := 4 }
      else if s.vales ≠ [] then { u with lcStat := 3 }
      else if tokenGood { s with lcToken := tk } x = false then { u with lcStat := 2 }
      else { u with lcStat := 1, lcPending := some x })) ∧
    (∀ k, keyOf s s.lcToken.toNat = some k → tokenGood s x =
      Config.tokenVerifies (if x = 4 then Config.publicKey deviceKey else Config.tokenKey) x (memBytes s k Config.tokenLength)) ∧
    (lcAllowed s.lifecycle x = true ↔
      (s.lifecycle, x) ∈ [((0 : BitVec 3), (1 : BitVec 3)), (1, 2), (1, 4), (2, 3), (2, 4), (3, 1), (3, 4)])) ∧
  (∀ (s : State) (v : BitVec 16) (m : BitVec 4), 4 ≤ s.bootStep → s.bootStat ≠ 2 →
    exec (.limitWrite false v) s = .next (if 5000 ≤ v.toNat ∧ v.toNat ≤ 15000 then { s with plimit := v } else s) ∧
    exec (.limitWrite true v) s = .next (if 5000 ≤ v.toNat ∧ v.toNat ≤ 22000 then { s with ilimit := v } else s) ∧
    exec (.alarmClear m) s = .next { s with alarm := s.alarm &&& ~~~m }) ∧
  (∀ s : State, s.bootStep < 4 ∨ s.bootStat = 2 → ∀ x tk v m c, exec (.lcReq x tk) s = .next s ∧ exec (.limitWrite c v) s = .next s ∧
    exec (.alarmClear m) s = .next s) ∧
  (∀ (s : State) (die : Nat) (x : BitVec 16),
    (1840 ≤ x.toInt → die < 8 → exec (.thermalTrip die x) s = .next (severity4 (setAlarm { s with temps := Tbl.setCell 0 s.temps die x } 8)
      (schedRec cThermal 4 none none 0 1 die 0 x.toNat s.clkNow.toNat))) ∧
    (x.toInt < 1840 → exec (.thermalTrip die x) s = .next s)) ∧
  ∀ (s : State) (t : Telemetry), s.halted = false → s.tod.toNat % 600 = 0 → s.compared < s.tod.toNat → s.bootStep = 6 → s.bootStat ≠ 2 →
    let u : State := { s with
      power := BitVec.ofNat 32 t.power, compared := s.tod.toNat
      temps := (natsFrom 0 8).foldl (fun m d => Tbl.setCell 0 m d (t.temps.getD d 0)) s.temps }
    (s.plimit.toNat < t.power → t.current ≤ s.ilimit.toNat → (∀ x ∈ t.temps, x.toInt ≤ 1680) → 1200 < s.clkNow.toNat →
      exec (.clockControl t) s = .next (setAlarm (setClock u (max 1200 (s.clkNow.toNat - 100))) 1)) ∧
    (100 * t.power < 95 * s.plimit.toNat → 100 * t.current < 95 * s.ilimit.toNat → (∀ x ∈ t.temps, x.toInt < 1600) → s.clkNow.toNat < 2400 →
      exec (.clockControl t) s = .next (setClock u (min 2400 (s.clkNow.toNat + 100)))) ∧
    (∀ d, d < 8 → 1840 ≤ (t.temps.getD d 0).toInt → (∀ e, e < 8 → e ≠ d → (t.temps.getD e 0).toInt < 1840) →
      t.power ≤ s.plimit.toNat → t.current ≤ s.ilimit.toNat → 1200 < s.clkNow.toNat →
      exec (.clockControl t) s = .next (tripDie (setAlarm (setClock u (max 1200 (s.clkNow.toNat - 100))) 4) d (t.temps.getD d 0)))

/-- Right after reset (R123, R438, R439, R443): memory, poison and every unit are empty or zero, bring-up RUNS at step 1 from TOD 0, and the
limits and the clock read as the management window's table gives them. -/
def Obligations.ResetValues : Prop :=
  (∀ a, memByte State.reset a = 0) ∧ State.reset.poison = [] ∧ State.reset.vales = [] ∧ State.reset.waves = [] ∧ State.reset.blocks = [] ∧
  State.reset.inflight = [] ∧ State.reset.tod = 0 ∧ State.reset.bootStat = 0 ∧ State.reset.failStep = 0 ∧ State.reset.bootStep = 1 ∧
  State.reset.tsync = 0 ∧ State.reset.trayRead = false ∧ State.reset.lcStat = 0 ∧ State.reset.lcReq = 0 ∧ State.reset.lcToken = 0 ∧ State.reset.plimit = 15000 ∧
  State.reset.ilimit = 20000 ∧ State.reset.clkNow = 2400 ∧ State.reset.power = 0 ∧ State.reset.alarm = 0 ∧ State.reset.temps = [] ∧
  State.reset.errBase = 0 ∧ State.reset.errCount = 0 ∧ State.reset.errHead = 0 ∧ State.reset.pf.busy = false ∧
  (∀ c, (State.reset.core? c).stashKib = 64 ∧ (State.reset.core? c).l1 = [] ∧ (State.reset.core? c).tlb = [] ∧ (State.reset.core? c).engine = Engine.fresh)

/-! ## The host -/

/-- Host accesses that a vale's interface lets through (R12, R384, R414 to R416, R433, R443): register writes, VD control blocks, posts,
apertures and configuration writes; and one that it does not let through writes nothing but its error. A write of half of a 64-bit register
leaves the other half (log 58).
Where it goes beyond the rules it states the model's choice: log 58, 59, 71, 79, 110, 116. -/
def Obligations.HostAccesses : Prop :=
  (∀ (p : HostPath) (vale off : Nat) (wide : Bool) (x : DWord) (s t : State),
    let bs := bytesLE (if wide then 8 else 4) x.toNat
    (hostAccess s p vale true 0 off x.toNat = (t, true) → exec (.registerWrite p (.valeWindow vale off wide) x) s = .next (regStore t vale off bs)) ∧
    (hostAccess s p vale true 0 off x.toNat = (t, false) → exec (.registerWrite p (.valeWindow vale off wide) x) s = .next t) ∧
    (4 ≤ s.bootStep → s.bootStat ≠ 2 → exec (.registerWrite p (.management off wide) x) s = .next (regStore s 256 off bs)) ∧
    (s.bootStep < 4 ∨ s.bootStat = 2 → exec (.registerWrite p (.management off wide) x) s = .next s)) ∧
  (∀ (s : State) (x : DWord) (vale k : Nat),
    (∀ v : Vale, s.vale? vale = some v → vale < 256 → k < 16 →
      regStore s vale (0x880 + 8 * k) (bytesLE 4 x.toNat) = s.modVale vale (fun v => { v with
        stage := Tbl.setCell 0 v.stage k ((hiWord (Tbl.cell 0 v.stage k) ++ loWord x) &&& stageMask) }) ∧
      regStore s vale (0x884 + 8 * k) (bytesLE 4 x.toNat) = s.modVale vale (fun v => { v with
        stage := Tbl.setCell 0 v.stage k ((loWord x ++ loWord (Tbl.cell 0 v.stage k)) &&& stageMask) })) ∧
    regStore s 256 0x28 (bytesLE 8 x.toNat) = { s with lcToken := x } ∧
    regStore s 256 0x2C (bytesLE 4 x.toNat) = { s with lcToken := loWord x ++ loWord s.lcToken } ∧
    managementPut s 0x20 x = lcRequest s (x.setWidth 3) ∧
    managementPut s 0x30 x = limitPut s false (x.setWidth 16) ∧ managementPut s 0x34 x = limitPut s true (x.setWidth 16) ∧
    managementPut s 0x80 x = alarmPut s (x.setWidth 4) ∧ managementPut s 0x28 x = { s with lcToken := x } ∧ managementPut s 0x810 x = { s with errBase := x } ∧
    windowPut s vale 0x808 x = s.modVale vale (fun v => { v with pthresh := x.setWidth 32 }) ∧
    windowPut s vale 0x810 x = s.modVale vale (fun v => { v with errBase := x }) ∧
    (k < 16 → windowPut s vale (0x880 + 8 * k) x = s.modVale vale (fun v => { v with stage := Tbl.setCell 0 v.stage k (x &&& stageMask) })) ∧
    windowPut s vale 0x800 x = s ∧ managementPut s 0x38 x = s) ∧
  (∀ (p : HostPath) (vale vd off : Nat) (x y : Word) (s t : State),
    (hostAccess s p vale true 0 (128 * vd + off) x.toNat = (t, true) → exec (.vdcWrite p vale vd off x) s = .next (vdcPut t vale vd off x)) ∧
    (y = (if off = 0 then x ||| 1 else x) → hostAccess s p vale true 0 (128 * vd + off) y.toNat = (t, true) →
      exec (.vdcEnSet p vale vd off x) s = .next (vdcPut t vale vd off y)) ∧
    (y = (if off = 0 then x &&& ~~~1 else x) → hostAccess s p vale true 0 (128 * vd + off) y.toNat = (t, true) →
      exec (.vdcEnClear p vale vd off x) s = .next (vdcPut t vale vd off y))) ∧
  (∀ (p : HostPath) (vale n q : Nat) (x : DWord) (s t : State), n < 16 → q < 63 → hostAccess s p vale true 2 (4096 * n + 8 * q) x.toNat = (t, true) →
    exec (.hostPostWrite p vale (4096 * n + 8 * q) 8 x) s = .next (hostPost t vale (64 * n + q) x)) ∧
  (∀ (s : State) (vale i : Nat) (x : DWord) (v : Vale), s.vale? vale = some v → v.hostPosts = [] → hostWrites s vale = [] →
    (hostPost s vale i x).vale? vale = some { v with posts := Tbl.setCell 0 v.posts i x }) ∧
  (∀ (p : HostPath) (vale off n : Nat) (data : List Byte) (s t : State) (v : Vale), t.vale? vale = some v → off / 2 ^ 20 < 16 →
    (∀ ps ipa, hostAccess s p vale true 4 off (natLE (data.take 8)) = (t, true) → aperturePieces t v off data.length true = some ps →
      apertureIpa v off = some ipa →
      exec (.apertureWrite p vale off data) s = .next (ps.foldl (fun (x : State × List Byte × Nat) p =>
        (aperturePut x.1 v vale (off / 2 ^ 20) x.2.2 p.1 (x.2.1.take p.2), x.2.1.drop p.2, x.2.2 + p.2)) (markIpas t v ipa data.length true, data, ipa)).1) ∧
    (∀ ps ipa u bs bad, hostAccess s p vale false 4 off 0 = (t, true) → aperturePieces t v off n false = some ps → apertureIpa v off = some ipa →
      apertureWaits t v ps = false →
      apertureGather v vale (off / 2 ^ 20) ps (markIpas t v ipa n false) = (u, .ok (bs, bad)) →
      exec (.apertureRead p vale off n) s = .next { engForget u (scalarCore u vale) (apertureTag (off / 2 ^ 20)) with
        reply := if bad then .poisoned bs else .bytes bs }) ∧
    (∀ k, let u := mergeKnown (recallBytes t k n) v.die (dieOfKey k)
      apertureGet t v vale (off / 2 ^ 20) (.mem k) n = (u, .ok (seenBytes u v.die k n, diePoisoned u v.die k n)))) ∧
  (∀ (s : State) (vale : Nat) (a : DWord), 4 ≤ s.bootStep →
    exec (.configWrite vale (.pfBar a)) s = .next { s with pfBar := BitVec.ofNat 64 (a.toNat / 2 ^ 20 * 2 ^ 20) } ∧
    (vale < 256 → s.vale? vale = none → ∀ b ∈ [(0, 2 ^ 16), (2, 2 ^ 16), (4, 2 ^ 24)],
      exec (.configWrite vale (.bar b.1 a)) s = .next (
        if BitVec.ofNat 64 (a.toNat / b.2 * b.2) = vfBar s vale b.1 then s
        else { s with bars := Tbl.setCell 0 s.bars (8 * valeFunction vale + b.1) (BitVec.ofNat 64 (a.toNat / b.2 * b.2)) })) ∧
    (∀ b ∈ [(0, 2 ^ 16), (2, 2 ^ 16), (4, 2 ^ 24)], ∃ t, exec (.configWrite vale (.vfBar b.1 a)) s = .next t ∧
      Tbl.cell 0 t.vfBars b.1 = BitVec.ofNat 64 (a.toNat / b.2 * b.2) ∧
      (s.vales = [] → ∀ f, f < 256 → vfBar t f b.1 = BitVec.ofNat 64 (a.toNat / b.2 * b.2) + BitVec.ofNat 64 (b.2 * f)))) ∧
  ∀ (vale : Nat) (s : State) (v : Vale), s.vale? vale = some v → v.resetting = false → 4 ≤ s.bootStep →
    (v.tdi.st = .unlocked →
      (∀ on, exec (.configWrite vale (.memEnable on)) s = .next (s.modVale vale (fun v => { v with memEnable := on }))) ∧
      (vale < 256 → ∀ b ∈ [(0, 2 ^ 16), (2, 2 ^ 16), (4, 2 ^ 24)], ∀ a : DWord, ∃ t, exec (.configWrite vale (.bar b.1 a)) s = .next t ∧
        vfBar t vale b.1 = BitVec.ofNat 64 (a.toNat / b.2 * b.2) ∧ t.vales = s.vales)) ∧
    (v.tdi.st ≠ .unlocked → vale < 256 → ∀ b ∈ [(0, 2 ^ 16), (2, 2 ^ 16), (4, 2 ^ 24)], ∀ a : DWord,
      BitVec.ofNat 64 (a.toNat / b.2 * b.2) ≠ vfBar s vale b.1 → exec (.configWrite vale (.bar b.1 a)) s = .next (tdiViolation s vale 7 0 0 0)) ∧
    (v.tdi.st ≠ .unlocked → v.memEnable = true → exec (.configWrite vale (.memEnable false)) s = .next (tdiViolation s vale 7 0 0 0)) ∧
    (v.tdi.wiping = false → s.halted = false → ∀ (p : HostPath) (w : Bool) (bar off x : Nat),
      (v.tdi.st = .unlocked → hostAccess s p vale w bar off x = (s, true)) ∧ (v.tdi.st = .error → hostAccess s p vale w bar off x = (s, false)) ∧
      (v.tdi.st = .run → p = .tee v.tdi.stream → hostAccess s p vale w bar off x = (s, true)))

/-- What registers read as (R12, R210, R383, R417, R443): the words of the vales' windows and of the management window give the state
back, LCREQ, which is write-only, and reserved offsets read zero, and a load of the control window (R97) reads them.
Where it goes beyond the rules it states the model's choice: log 110. -/
def Obligations.RegisterReads : Prop :=
  (∀ (s : State) (vale : Nat) (v : Vale),
    (∀ n j, n < 16 → j < 32 → windowWord s vale v (128 * n + 4 * j) = (Tbl.get v.vds n).elim 0 (fun d => Tbl.cell 0 d.vdc j)) ∧
    (∀ k, k < 7 → windowWord s vale v (0x840 + 4 * k) = if k = 0 then 0x00000101 else 0x00010001) ∧
    (∀ k, k < 16 → windowWord s vale v (0x880 + 8 * k) = loWord (Tbl.cell 0 v.stage k) ∧ windowWord s vale v (0x884 + 8 * k) = hiWord (Tbl.cell 0 v.stage k)) ∧
    windowWord s vale v 0x808 = v.pthresh ∧ windowWord s vale v 0x810 = loWord v.errBase ∧ windowWord s vale v 0x814 = hiWord v.errBase ∧
    windowWord s vale v 0x818 = v.errCount ∧ windowWord s vale v 0x81C = v.errHead ∧
    (∀ off, 0x820 ≤ off → off < 0x840 → windowWord s vale v off = 0) ∧ (∀ off, 0x2200 ≤ off → windowWord s vale v off = 0)) ∧
  (∀ s : State,
    managementWord s 0x20 = 0 ∧ managementWord s 0x28 = loWord s.lcToken ∧ managementWord s 0x2C = hiWord s.lcToken ∧
    managementWord s 0x30 = s.plimit.setWidth 32 ∧ managementWord s 0x34 = s.ilimit.setWidth 32 ∧ managementWord s 0x38 = s.clkNow.setWidth 32 ∧
    managementWord s 0x40 = s.power ∧ managementWord s 0x80 = s.alarm.setWidth 32 ∧ managementWord s 0x14 = s.tsync.setWidth 32 ∧
    (∀ d, d < 8 → managementWord s (0x48 + 4 * d) = (Tbl.cell (0 : BitVec 16) s.temps d).setWidth 32) ∧ (∀ off, 0x940 ≤ off → managementWord s off = 0)) ∧
  (∀ (s : State) (off n : Nat), pfRead s off n =
    { s with reply := .bytes ((natsFrom off n).map (fun o => (managementWord s (o / 4 * 4)).extractLsb' (8 * (o % 4)) 8)) }) ∧
  (∀ (s t : State) (p : HostPath) (vale off n : Nat) (v : Vale), t.vale? vale = some v →
    (hostAccess s p vale false 0 off 0 = (t, true) → hostRead s p vale 0 off n =
      { t with reply := .bytes ((natsFrom off n).map (fun o => (windowWord t vale v (o / 4 * 4)).extractLsb' (8 * (o % 4)) 8)) }) ∧
    (hostAccess s p vale false 2 off 0 = (t, true) → hostRead s p vale 2 off n =
      { (postBytes t vale off n).1 with reply := .bytes (postBytes t vale off n).2 }) ∧
    (∀ i, i < n → (off + i) % 4096 < 512 →
      (postBytes t vale off n).2.getD i 0 = (Tbl.cell 0 v.posts (postWordOf (off + i))).extractLsb' (8 * ((off + i) % 8)) 8)) ∧
  ∀ (s : State) (w : Wave) (op : LoadOp) (q : LaneReq) (off : Nat), q.target = .control off →
    (let t := noteRead s w (2 ^ 63 + off) op.size
     readReq s w op q = (t, controlBytes t off op.size, false)) ∧
    (s.taskOf w = none → readReq s w op q = (s, controlBytes s off op.size, false))

/-- The commands of a vale's command block (R418, R540): a command that the interface lets through while the block is idle starts with its
operation, VD and arguments, and runs; then invalidations and migrations go on (R128, R129).
Where it goes beyond the rules it states the model's choice: log 57, 60. -/
def Obligations.ValeCommands : Prop :=
  (∀ (vale vd : Nat) (a : CmdArgs) (s t : State) (v : Vale), t.vale? vale = some v → v.cmd.busy = false → v.stopped = false →
    let start (op : Nat) : State := t.modVale vale (fun v => { v with
      cmd := { op := BitVec.ofNat 8 op, vd := BitVec.ofNat 4 vd, busy := true, result := 0, args := argList a, held := argList a } })
    let runs (i : Instr) (op : Nat) (f : State → State) : Prop :=
      hostAccess s a.path vale true 0 0x900 (op + 256 * (vd % 16)) = (t, true) → exec i s = .next (f (start op))
    runs (.s1inv vale vd a) 1 (fun s => runS1inv s vale (vd % 16) (argList a)) ∧ runs (.migrate vale vd a) 2 (fun s => runMigrate s vale (vd % 16) (argList a)) ∧
    runs (.cut vale vd a) 3 (fun s => runCut s vale (vd % 16) (argList a)) ∧ runs (.rollback vale vd a) 4 (fun s => runRollback s vale (vd % 16)) ∧
    runs (.switchout vale vd a) 5 (fun s => runSwitchout s vale (vd % 16)) ∧ runs (.statclr vale vd a) 6 (fun s => runStatclr s vale (vd % 16) (argList a)) ∧
    runs (.qcbwr vale vd a) 7 (fun s => runQcbwr s vale (vd % 16) (argList a)) ∧ runs (.fwwave vale vd a) 8 (fun s => runFwwave s vale (vd % 16) (argList a)) ∧
    runs (.plugin vale vd a) 9 (fun s => runPlugin s vale (vd % 16) (argList a))) ∧
  (∀ (s : State) (vale vd : Nat) (d : Vd) (args : List DWord), s.vd? vale vd = some d →
    (d.en = true → d.stopReq = none → d.vdStopped = false → d.cut = none → s.tod.toNat + 64 ≤ (args.getD 0 0).toNat →
      runCut s vale vd args = endCommand (s.modVd vale vd (fun d => nameCut d (args.getD 0 0).toNat false)) vale 0) ∧
    ((args.getD 0 0).toNat < s.tod.toNat + 64 → runCut s vale vd args = endCommand s vale 0x0A) ∧
    (∀ m, m = (args.getD 0 0).toNat → m < 64 → runStatclr s vale vd args = endCommand (s.modVd vale vd (fun d =>
      { d with stats := Tbl.keep (fun k _ => if k < 8 then decide (6 ≤ k) || !bitOf m k else !bitOf m (k % 4)) d.stats })) vale 0)) ∧
  (∀ (idx : Nat) (s : State) (i : Inval), Tbl.get s.invals idx = some i → spilling s i = [] →
    let x := if i.purged then i else { i with purged := true, accesses := usersOf s i }
    let t := purge { s with invals := Tbl.set s.invals idx x } x
    exec (.invalidationComplete idx) s = .next (if x.accesses.any (stillThere t) then t else endInval t idx x)) ∧
  ∀ (idx : Nat) (s : State) (m : Migration), Tbl.get s.migrations idx = some m → s.halted = false →
    (m.step = 0 → pageHeld s m.runs = false → (∀ j ∈ pageRows s m.runs, recallWaits s j noRow noRow = false) → exec (.migrationDone idx) s =
      .next { recallPage s m.runs with migrations := Tbl.modify (recallPage s m.runs).migrations idx (fun x => { x with step := 2 }) }) ∧
    (m.step = 4 → ∃ t, exec (.migrationDone idx) s = .next (endCommand t m.vale 0))

/-- Requests to PF firmware (R421, R438, R540, R544): a request while the block is idle and the part READY starts with its operation and
arguments, and runs; before READY it is refused; a VD_STOP that drains too long times out (R534).
Where it goes beyond the rules it states the model's choice: log 57, 61, 63, 65. -/
def Obligations.PfRequests : Prop :=
  (∀ (a : CmdArgs) (s : State), s.pf.busy = false → s.halted = false →
    let start (op : Nat) : State := { s with pf := { op := BitVec.ofNat 8 op, vd := 0, busy := true, result := 0, args := argList a, held := argList a } }
    let runs (i : Instr) (op : Nat) (f : State → List DWord → State) : Prop :=
      (s.bootStat = 1 → exec i s = .next (f (start op) (argList a))) ∧ (s.bootStat ≠ 1 → exec i s = .next (pfDone (start op) 0x0A none))
    runs (.create a) 0x10 runCreate ∧ runs (.fuse a) 0x11 runFuse ∧ runs (.split a) 0x12 runSplit ∧ runs (.s2root a) 0x13 runS2root ∧
    runs (.s2inv a) 0x14 runS2inv ∧ runs (.lease a) 0x18 runLease ∧ runs (.revoke a) 0x19 runRevoke ∧ runs (.importEntry a) 0x20 runImport ∧
    runs (.dirtyStart a) 0x28 runDirtyStart ∧ runs (.dirtySwap a) 0x29 runDirtySwap ∧ runs (.dirtyStop a) 0x2A runDirtyStop ∧
    runs (.vdStop a) 0x2B runVdStop ∧ runs (.vdExport a) 0x2C runVdExport ∧ runs (.vdImport a) 0x2D runVdImport ∧
    runs (.vdResume a) 0x2E runVdResume ∧ runs (.pageCopy a) 0x2F runPageCopy) ∧
  (∀ (s : State) (vale first n : Nat) (conf : Bool) (rest : List DWord), vale < 256 → first < 256 → n ≠ 0 → first + n ≤ 256 → s.lifecycle = 2 →
    s.vale? vale = none → (∀ g ∈ natsFrom first n, (s.glen? g).st = 0) →
    runCreate s (BitVec.ofNat 64 (vale + 256 * first + 65536 * n + if conf then 2 ^ 25 else 0) :: rest) =
      pfDone (joinGlens { s with vales := Tbl.set s.vales vale (newVale first n conf) } vale first n) 0 none) ∧
  (∀ (s : State) (args : List DWord) (vale vd : Nat) (v : Vale), pfVale s args = .ok (vale, vd, v) →
    ((args.getD 1 0).toNat % 2 ^ 19 = 0 → (args.getD 1 0).toNat < 2 ^ 60 →
      runS2root s args = pfDone (s.modVale vale (fun v => { v with root := BitVec.ofNat 64 (args.getD 1 0).toNat })) 0 none) ∧
    (∀ d, Tbl.get v.vds vd = some d → d.vdStopped = true → runVdResume s args = pfDone (s.modVd vale vd (fun d => { d with vdStopped := false })) 0 none)) ∧
  ∀ (vale vd t : Nat) (s : State) (d : Vd), s.vd? vale vd = some d → d.stopReq = some t → t + 60000000 ≤ s.tod.toNat →
    exec (.vdStopTimeout vale vd) s =
      .next (stopVd (endStop (record s (hangRec 2 (some vale) (some vd) 0 5 8 0xFFFF (s.tod.toNat - t) 0)) vale vd 0x0E) vale vd)

/-! ## Trust -/

/-- SPDM (R426 to R428, R545): the messages come in sequence, each answered in reply; one out of sequence is answered with an error.
Where it goes beyond the rules it states the model's choice: log 69, 70, 72. -/
def Obligations.SpdmMessages : Prop :=
  ∀ s : State, 4 ≤ s.bootStep →
    let out (r : Reply) : State := { s with reply := r }
    exec .getVersion s = .next { s with spdm := { s.spdm with version := true, caps := false, algs := false }, reply := .words [0x12, 0x13] } ∧
    exec .getCapabilities s =
      .next (if s.spdm.version then { s with spdm := { s.spdm with caps := true, algs := false }, reply := .ok } else out (.error 4)) ∧
    (∀ o : AlgorithmOffer, exec (.negotiateAlgorithms o) s = .next (
      if s.spdm.caps = false then out (.error 4)
      else if o.ecdsaP256 && o.sha256 && o.ecdheP256 && o.aes256gcm && o.dmtf then { s with spdm := { s.spdm with algs := true }, reply := .ok } else out (.error 7))) ∧
    (s.spdm.algs = false → ∀ k n, exec .getDigests s = .next (out (.error 4)) ∧ exec (.getCertificate k) s = .next (out (.error 4)) ∧
      exec (.challenge k n) s = .next (out (.error 4)) ∧ exec (.getMeasurements k) s = .next (out (.error 4)) ∧
      ∀ share, exec (.keyExchange k share) s = .next (out (.error 4))) ∧
    (s.spdm.algs = true →
      exec .getDigests s =
        .next (out (.bytes (((natsFrom 0 8).filter (slotFull s)).flatMap (fun k => bitBytes (Config.sha256 (Config.certChain k)))))) ∧
      (∀ k, slotFull s k = true →
        exec (.getCertificate k) s = .next (out (.bytes (Config.certChain k))) ∧
        (∀ n, exec (.challenge k n) s = .next (out (.signature (Config.ecdsaSign deviceKey (bitBytes (Config.sha256 (Config.certChain k)) ++ bitBytes n))))) ∧
        (∀ share, (∀ e ∈ s.spdm.sessions, e.2.established = true) → ∃ t, exec (.keyExchange k share) s = .next t ∧
          Tbl.get t.spdm.sessions (newSession s) = some { established := false, keyGen := 0, lastBeat := s.tod.toNat } ∧ t.mem = s.mem)) ∧
      (∀ i m, i ≠ 255 → measurement s i = some m → exec (.getMeasurements i) s = .next (out (.bytes (bitBytes m))))) ∧
    (∀ k x, Tbl.first (fun _ (x : Session) => !x.established) s.spdm.sessions = some (k, x) →
      exec (.finish true) s = .next { s with spdm := { s.spdm with sessions := Tbl.set s.spdm.sessions k { x with established := true, lastBeat := s.tod.toNat } }, reply := .ok } ∧
      exec (.finish false) s = .next { s with spdm := { s.spdm with sessions := Tbl.erase s.spdm.sessions k }, reply := .error 6 }) ∧
    ∀ k, (sessionLive s k = true →
        exec (.heartbeat k) s = .next { s with spdm := { s.spdm with sessions := Tbl.modify s.spdm.sessions k (fun x => { x with lastBeat := s.tod.toNat }) }, reply := .ok } ∧
        exec (.keyUpdate k) s = .next { s with spdm := { s.spdm with sessions := Tbl.modify s.spdm.sessions k (fun x => { x with keyGen := x.keyGen + 1 }) }, reply := .ok } ∧
        exec (.endSession k) s = .next { sessionEnds s k with reply := .ok }) ∧
      (sessionLive s k = false → exec (.heartbeat k) s = .next (out (.error 4)) ∧ exec (.keyUpdate k) s = .next (out (.error 4)) ∧
        exec (.endSession k) s = .next (out (.error 4))) ∧
      ∀ x, Tbl.get s.spdm.sessions k = some x → x.established = true → x.lastBeat < s.tod.toNat → exec (.heartbeatTimeout k) s = .next (sessionEnds s k)

/-- TDISP, IDE and the resets of a vale (R431 to R435, R475, R476, R542): a TDI goes from CONFIG_UNLOCKED to CONFIG_LOCKED to RUN by its
messages, with the nonce of its lock; STOP wipes the vale and unlocks it; a function-level reset wipes the vale and its window; keys are
programmed, set and stopped in their own session.
Where it goes beyond the rules it states the model's choice: log 68, 70, 71. -/
def Obligations.TdispMessages : Prop :=
  (∀ (s : State) (session vale : Nat) (v : Vale), 4 ≤ s.bootStep → sessionLive s session = true → s.vale? vale = some v →
    let out (r : Reply) : State := { s with reply := r }
    (∀ stream x, v.tdi.st = .unlocked → v.tdi.wiping = false → v.resetting = false → v.memEnable = true → pfNames s vale = false →
      Tbl.get s.ide stream = some x → x.secure = true → x.vf = some (vale + 1) → stream < 256 →
      let n := Config.nonce s.freeCount
      exec (.lockInterfaceRequest session vale stream) s = .next { State.modVale { s with freeCount := s.freeCount + 1 } vale (fun w => { w with
        tdi := { st := .locked, session := session, stream := stream, nonce := n, leases := partyLeases v, wiping := false } }) with reply := .nonce n }) ∧
    (∀ stream, v.tdi.st ≠ .unlocked → exec (.lockInterfaceRequest session vale stream) s = .next (out (.error 4))) ∧
    (∀ n, (v.tdi.st = .locked → v.tdi.wiping = false → v.tdi.nonce = n → exec (.startInterfaceRequest session vale n) s =
        .next { s.modVale vale (fun v => { v with tdi := { v.tdi with st := .run } }) with reply := .ok }) ∧
      (v.tdi.nonce ≠ n → exec (.startInterfaceRequest session vale n) s = .next (out (.error 4)))) ∧
    (v.tdi.st ≠ .unlocked → exec (.stopInterfaceRequest session vale) s = .next { (v.vds.foldl (fun s e => stopVd s vale e.1) s).modVale vale
      (fun v => { v with tdi := { v.tdi with wiping := true } }) with reply := .ok }) ∧
    (vale < 256 → exec (.getDeviceInterfaceState session vale) s = .next (out (.tdiState v.tdi.st))) ∧
    (v.tdi.st = .locked ∨ v.tdi.st = .run → exec (.getDeviceInterfaceReport session vale) s = .next (out (.bytes (tdiReport s vale v))))) ∧
  (∀ (s : State) (session vale : Nat), 4 ≤ s.bootStep → sessionLive s session = true → s.vale? vale = none → vale < 256 →
    exec (.getDeviceInterfaceState session vale) s = .next { s with reply := .tdiState .unlocked }) ∧
  (∀ (s : State) (vale : Nat) (v : Vale), s.vale? vale = some v →
    (v.tdi.wiping = true → exec (.tdiWipeComplete vale) s = .next ((wipeVale s vale).modVale vale (fun v => { v with tdi := Tdi.fresh, stopped := false }))) ∧
    (v.resetting = true → pfNames s vale = false → exec (.valeResetComplete vale) s =
      .next ((resetWindow (wipeVale s vale) vale).modVale vale (fun v => { v with resetting := false }))) ∧
    (let t := (tdiViolation s vale 3 0 0 0).modVale vale (fun v => { v with resetting := true })
     exec (.perValeReset vale) s = .next (if pfNames t vale then t else resetWindow (wipeVale t vale) vale))) ∧
  ∀ (s : State) (k stream : Nat) (x : IdeStream), Tbl.get s.ide stream = some x →
    (4 ≤ s.bootStep → sessionLive s k = true → x.session = k →
      exec (.ideKm k (.keySetGo stream)) s = .next { s with ide := Tbl.set s.ide stream { x with secure := true }, reply := .ok } ∧
      exec (.ideKm k (.keySetStop stream)) s = .next { streamLost s stream with reply := .ok } ∧
      (∀ vf key, stream ≤ 256 → vfTaken s stream vf = false → exec (.ideKm k (.keyProg stream vf key)) s =
        .next { s with ide := Tbl.set s.ide stream { key := key, secure := x.secure, vf := vf, session := k }, reply := .ok })) ∧
    (4 ≤ s.bootStep → sessionLive s k = false → ∀ op, exec (.ideKm k op) s = .next { s with reply := .error 4 }) ∧
    (x.secure = true → exec (.ideStreamFault stream) s = .next (streamLost s stream))
end

