-- ==== Sys2Proof/Laws/State.lean ====
section
/-! SUPPORT. One lemma for each field of the state under each named update, and for each field of a wave under each write of
registers, so that no proof unfolds a record update. -/
namespace Sys2Proof.Machine

/-! ## State.setWave -/
@[simp] theorem State.setWave_agenda (s : State) (w : Nat) (x : Wave) : (s.setWave w x).agenda = s.agenda := rfl
@[simp] theorem State.setWave_clock (s : State) (w : Nat) (x : Wave) : (s.setWave w x).clock = s.clock := rfl
@[simp] theorem State.setWave_cur (s : State) (w : Nat) (x : Wave) : (s.setWave w x).cur = s.cur := rfl
@[simp] theorem State.setWave_defer (s : State) (w : Nat) (x : Wave) : (s.setWave w x).defer = s.defer := rfl
@[simp] theorem State.setWave_freeCount (s : State) (w : Nat) (x : Wave) : (s.setWave w x).freeCount = s.freeCount := rfl
@[simp] theorem State.setWave_turns (s : State) (w : Nat) (x : Wave) : (s.setWave w x).turns = s.turns := rfl
@[simp] theorem State.setWave_sinceTick (s : State) (w : Nat) (x : Wave) : (s.setWave w x).sinceTick = s.sinceTick := rfl
@[simp] theorem State.setWave_nextId (s : State) (w : Nat) (x : Wave) : (s.setWave w x).nextId = s.nextId := rfl
@[simp] theorem State.setWave_tod (s : State) (w : Nat) (x : Wave) : (s.setWave w x).tod = s.tod := rfl
@[simp] theorem State.setWave_bootStat (s : State) (w : Nat) (x : Wave) : (s.setWave w x).bootStat = s.bootStat := rfl
@[simp] theorem State.setWave_failStep (s : State) (w : Nat) (x : Wave) : (s.setWave w x).failStep = s.failStep := rfl
@[simp] theorem State.setWave_bootStep (s : State) (w : Nat) (x : Wave) : (s.setWave w x).bootStep = s.bootStep := rfl
@[simp] theorem State.setWave_lifecycle (s : State) (w : Nat) (x : Wave) : (s.setWave w x).lifecycle = s.lifecycle := rfl
@[simp] theorem State.setWave_lcStat (s : State) (w : Nat) (x : Wave) : (s.setWave w x).lcStat = s.lcStat := rfl
@[simp] theorem State.setWave_lcReq (s : State) (w : Nat) (x : Wave) : (s.setWave w x).lcReq = s.lcReq := rfl
@[simp] theorem State.setWave_lcPending (s : State) (w : Nat) (x : Wave) : (s.setWave w x).lcPending = s.lcPending := rfl
@[simp] theorem State.setWave_lcToken (s : State) (w : Nat) (x : Wave) : (s.setWave w x).lcToken = s.lcToken := rfl
@[simp] theorem State.setWave_stackGib (s : State) (w : Nat) (x : Wave) : (s.setWave w x).stackGib = s.stackGib := rfl
@[simp] theorem State.setWave_pkgId (s : State) (w : Nat) (x : Wave) : (s.setWave w x).pkgId = s.pkgId := rfl
@[simp] theorem State.setWave_hlWidth (s : State) (w : Nat) (x : Wave) : (s.setWave w x).hlWidth = s.hlWidth := rfl
@[simp] theorem State.setWave_hlRate (s : State) (w : Nat) (x : Wave) : (s.setWave w x).hlRate = s.hlRate := rfl
@[simp] theorem State.setWave_tsync (s : State) (w : Nat) (x : Wave) : (s.setWave w x).tsync = s.tsync := rfl
@[simp] theorem State.setWave_timeMaster (s : State) (w : Nat) (x : Wave) : (s.setWave w x).timeMaster = s.timeMaster := rfl
@[simp] theorem State.setWave_steer (s : State) (w : Nat) (x : Wave) : (s.setWave w x).steer = s.steer := rfl
@[simp] theorem State.setWave_trayRead (s : State) (w : Nat) (x : Wave) : (s.setWave w x).trayRead = s.trayRead := rfl
@[simp] theorem State.setWave_compared (s : State) (w : Nat) (x : Wave) : (s.setWave w x).compared = s.compared := rfl
@[simp] theorem State.setWave_pfBar (s : State) (w : Nat) (x : Wave) : (s.setWave w x).pfBar = s.pfBar := rfl
@[simp] theorem State.setWave_bars (s : State) (w : Nat) (x : Wave) : (s.setWave w x).bars = s.bars := rfl
@[simp] theorem State.setWave_vfBars (s : State) (w : Nat) (x : Wave) : (s.setWave w x).vfBars = s.vfBars := rfl
@[simp] theorem State.setWave_passUp (s : State) (w : Nat) (x : Wave) : (s.setWave w x).passUp = s.passUp := rfl
@[simp] theorem State.setWave_plimit (s : State) (w : Nat) (x : Wave) : (s.setWave w x).plimit = s.plimit := rfl
@[simp] theorem State.setWave_ilimit (s : State) (w : Nat) (x : Wave) : (s.setWave w x).ilimit = s.ilimit := rfl
@[simp] theorem State.setWave_clkNow (s : State) (w : Nat) (x : Wave) : (s.setWave w x).clkNow = s.clkNow := rfl
@[simp] theorem State.setWave_power (s : State) (w : Nat) (x : Wave) : (s.setWave w x).power = s.power := rfl
@[simp] theorem State.setWave_temps (s : State) (w : Nat) (x : Wave) : (s.setWave w x).temps = s.temps := rfl
@[simp] theorem State.setWave_alarm (s : State) (w : Nat) (x : Wave) : (s.setWave w x).alarm = s.alarm := rfl
@[simp] theorem State.setWave_errBase (s : State) (w : Nat) (x : Wave) : (s.setWave w x).errBase = s.errBase := rfl
@[simp] theorem State.setWave_errCount (s : State) (w : Nat) (x : Wave) : (s.setWave w x).errCount = s.errCount := rfl
@[simp] theorem State.setWave_errHead (s : State) (w : Nat) (x : Wave) : (s.setWave w x).errHead = s.errHead := rfl
@[simp] theorem State.setWave_pf (s : State) (w : Nat) (x : Wave) : (s.setWave w x).pf = s.pf := rfl
@[simp] theorem State.setWave_pageCopy (s : State) (w : Nat) (x : Wave) : (s.setWave w x).pageCopy = s.pageCopy := rfl
@[simp] theorem State.setWave_msix (s : State) (w : Nat) (x : Wave) : (s.setWave w x).msix = s.msix := rfl
@[simp] theorem State.setWave_halted (s : State) (w : Nat) (x : Wave) : (s.setWave w x).halted = s.halted := rfl
@[simp] theorem State.setWave_rootGone (s : State) (w : Nat) (x : Wave) : (s.setWave w x).rootGone = s.rootGone := rfl
@[simp] theorem State.setWave_identity (s : State) (w : Nat) (x : Wave) : (s.setWave w x).identity = s.identity := rfl
@[simp] theorem State.setWave_revoked (s : State) (w : Nat) (x : Wave) : (s.setWave w x).revoked = s.revoked := rfl
@[simp] theorem State.setWave_svnMin (s : State) (w : Nat) (x : Wave) : (s.setWave w x).svnMin = s.svnMin := rfl
@[simp] theorem State.setWave_measured (s : State) (w : Nat) (x : Wave) : (s.setWave w x).measured = s.measured := rfl
@[simp] theorem State.setWave_certSlots (s : State) (w : Nat) (x : Wave) : (s.setWave w x).certSlots = s.certSlots := rfl
@[simp] theorem State.setWave_mem (s : State) (w : Nat) (x : Wave) : (s.setWave w x).mem = s.mem := rfl
@[simp] theorem State.setWave_poison (s : State) (w : Nat) (x : Wave) : (s.setWave w x).poison = s.poison := rfl
@[simp] theorem State.setWave_vales (s : State) (w : Nat) (x : Wave) : (s.setWave w x).vales = s.vales := rfl
@[simp] theorem State.setWave_glens (s : State) (w : Nat) (x : Wave) : (s.setWave w x).glens = s.glens := rfl
@[simp] theorem State.setWave_cores (s : State) (w : Nat) (x : Wave) : (s.setWave w x).cores = s.cores := rfl
@[simp] theorem State.setWave_jobs (s : State) (w : Nat) (x : Wave) : (s.setWave w x).jobs = s.jobs := rfl
@[simp] theorem State.setWave_blocks (s : State) (w : Nat) (x : Wave) : (s.setWave w x).blocks = s.blocks := rfl
@[simp] theorem State.setWave_clusters (s : State) (w : Nat) (x : Wave) : (s.setWave w x).clusters = s.clusters := rfl
@[simp] theorem State.setWave_inflight (s : State) (w : Nat) (x : Wave) : (s.setWave w x).inflight = s.inflight := rfl
@[simp] theorem State.setWave_updates (s : State) (w : Nat) (x : Wave) : (s.setWave w x).updates = s.updates := rfl
@[simp] theorem State.setWave_known (s : State) (w : Nat) (x : Wave) : (s.setWave w x).known = s.known := rfl
@[simp] theorem State.setWave_applied (s : State) (w : Nat) (x : Wave) : (s.setWave w x).applied = s.applied := rfl
@[simp] theorem State.setWave_relSeq (s : State) (w : Nat) (x : Wave) : (s.setWave w x).relSeq = s.relSeq := rfl
@[simp] theorem State.setWave_dieTlb (s : State) (w : Nat) (x : Wave) : (s.setWave w x).dieTlb = s.dieTlb := rfl
@[simp] theorem State.setWave_outReqs (s : State) (w : Nat) (x : Wave) : (s.setWave w x).outReqs = s.outReqs := rfl
@[simp] theorem State.setWave_engGot (s : State) (w : Nat) (x : Wave) : (s.setWave w x).engGot = s.engGot := rfl
@[simp] theorem State.setWave_outSeq (s : State) (w : Nat) (x : Wave) : (s.setWave w x).outSeq = s.outSeq := rfl
@[simp] theorem State.setWave_inSeen (s : State) (w : Nat) (x : Wave) : (s.setWave w x).inSeen = s.inSeen := rfl
@[simp] theorem State.setWave_imports (s : State) (w : Nat) (x : Wave) : (s.setWave w x).imports = s.imports := rfl
@[simp] theorem State.setWave_pairKeys (s : State) (w : Nat) (x : Wave) : (s.setWave w x).pairKeys = s.pairKeys := rfl
@[simp] theorem State.setWave_pairKeysIn (s : State) (w : Nat) (x : Wave) : (s.setWave w x).pairKeysIn = s.pairKeysIn := rfl
@[simp] theorem State.setWave_leases (s : State) (w : Nat) (x : Wave) : (s.setWave w x).leases = s.leases := rfl
@[simp] theorem State.setWave_invals (s : State) (w : Nat) (x : Wave) : (s.setWave w x).invals = s.invals := rfl
@[simp] theorem State.setWave_migrations (s : State) (w : Nat) (x : Wave) : (s.setWave w x).migrations = s.migrations := rfl
@[simp] theorem State.setWave_saddles (s : State) (w : Nat) (x : Wave) : (s.setWave w x).saddles = s.saddles := rfl
@[simp] theorem State.setWave_passLinks (s : State) (w : Nat) (x : Wave) : (s.setWave w x).passLinks = s.passLinks := rfl
@[simp] theorem State.setWave_takes (s : State) (w : Nat) (x : Wave) : (s.setWave w x).takes = s.takes := rfl
@[simp] theorem State.setWave_claims (s : State) (w : Nat) (x : Wave) : (s.setWave w x).claims = s.claims := rfl
@[simp] theorem State.setWave_window (s : State) (w : Nat) (x : Wave) : (s.setWave w x).window = s.window := rfl
@[simp] theorem State.setWave_ide (s : State) (w : Nat) (x : Wave) : (s.setWave w x).ide = s.ide := rfl
@[simp] theorem State.setWave_spdm (s : State) (w : Nat) (x : Wave) : (s.setWave w x).spdm = s.spdm := rfl
@[simp] theorem State.setWave_reply (s : State) (w : Nat) (x : Wave) : (s.setWave w x).reply = s.reply := rfl
@[simp] theorem State.setWave_exports (s : State) (w : Nat) (x : Wave) : (s.setWave w x).exports = s.exports := rfl
@[simp] theorem State.setWave_pkgCe (s : State) (w : Nat) (x : Wave) : (s.setWave w x).pkgCe = s.pkgCe := rfl

/-! ## State.modWave -/
@[simp] theorem State.modWave_agenda (s : State) (w : Nat) (f : Wave → Wave) : (s.modWave w f).agenda = s.agenda := rfl
@[simp] theorem State.modWave_clock (s : State) (w : Nat) (f : Wave → Wave) : (s.modWave w f).clock = s.clock := rfl
@[simp] theorem State.modWave_cur (s : State) (w : Nat) (f : Wave → Wave) : (s.modWave w f).cur = s.cur := rfl
@[simp] theorem State.modWave_defer (s : State) (w : Nat) (f : Wave → Wave) : (s.modWave w f).defer = s.defer := rfl
@[simp] theorem State.modWave_freeCount (s : State) (w : Nat) (f : Wave → Wave) : (s.modWave w f).freeCount = s.freeCount := rfl
@[simp] theorem State.modWave_turns (s : State) (w : Nat) (f : Wave → Wave) : (s.modWave w f).turns = s.turns := rfl
@[simp] theorem State.modWave_sinceTick (s : State) (w : Nat) (f : Wave → Wave) : (s.modWave w f).sinceTick = s.sinceTick := rfl
@[simp] theorem State.modWave_nextId (s : State) (w : Nat) (f : Wave → Wave) : (s.modWave w f).nextId = s.nextId := rfl
@[simp] theorem State.modWave_tod (s : State) (w : Nat) (f : Wave → Wave) : (s.modWave w f).tod = s.tod := rfl
@[simp] theorem State.modWave_bootStat (s : State) (w : Nat) (f : Wave → Wave) : (s.modWave w f).bootStat = s.bootStat := rfl
@[simp] theorem State.modWave_failStep (s : State) (w : Nat) (f : Wave → Wave) : (s.modWave w f).failStep = s.failStep := rfl
@[simp] theorem State.modWave_bootStep (s : State) (w : Nat) (f : Wave → Wave) : (s.modWave w f).bootStep = s.bootStep := rfl
@[simp] theorem State.modWave_lifecycle (s : State) (w : Nat) (f : Wave → Wave) : (s.modWave w f).lifecycle = s.lifecycle := rfl
@[simp] theorem State.modWave_lcStat (s : State) (w : Nat) (f : Wave → Wave) : (s.modWave w f).lcStat = s.lcStat := rfl
@[simp] theorem State.modWave_lcReq (s : State) (w : Nat) (f : Wave → Wave) : (s.modWave w f).lcReq = s.lcReq := rfl
@[simp] theorem State.modWave_lcPending (s : State) (w : Nat) (f : Wave → Wave) : (s.modWave w f).lcPending = s.lcPending := rfl
@[simp] theorem State.modWave_lcToken (s : State) (w : Nat) (f : Wave → Wave) : (s.modWave w f).lcToken = s.lcToken := rfl
@[simp] theorem State.modWave_stackGib (s : State) (w : Nat) (f : Wave → Wave) : (s.modWave w f).stackGib = s.stackGib := rfl
@[simp] theorem State.modWave_pkgId (s : State) (w : Nat) (f : Wave → Wave) : (s.modWave w f).pkgId = s.pkgId := rfl
@[simp] theorem State.modWave_hlWidth (s : State) (w : Nat) (f : Wave → Wave) : (s.modWave w f).hlWidth = s.hlWidth := rfl
@[simp] theorem State.modWave_hlRate (s : State) (w : Nat) (f : Wave → Wave) : (s.modWave w f).hlRate = s.hlRate := rfl
@[simp] theorem State.modWave_tsync (s : State) (w : Nat) (f : Wave → Wave) : (s.modWave w f).tsync = s.tsync := rfl
@[simp] theorem State.modWave_timeMaster (s : State) (w : Nat) (f : Wave → Wave) : (s.modWave w f).timeMaster = s.timeMaster := rfl
@[simp] theorem State.modWave_steer (s : State) (w : Nat) (f : Wave → Wave) : (s.modWave w f).steer = s.steer := rfl
@[simp] theorem State.modWave_trayRead (s : State) (w : Nat) (f : Wave → Wave) : (s.modWave w f).trayRead = s.trayRead := rfl
@[simp] theorem State.modWave_compared (s : State) (w : Nat) (f : Wave → Wave) : (s.modWave w f).compared = s.compared := rfl
@[simp] theorem State.modWave_pfBar (s : State) (w : Nat) (f : Wave → Wave) : (s.modWave w f).pfBar = s.pfBar := rfl
@[simp] theorem State.modWave_bars (s : State) (w : Nat) (f : Wave → Wave) : (s.modWave w f).bars = s.bars := rfl
@[simp] theorem State.modWave_vfBars (s : State) (w : Nat) (f : Wave → Wave) : (s.modWave w f).vfBars = s.vfBars := rfl
@[simp] theorem State.modWave_passUp (s : State) (w : Nat) (f : Wave → Wave) : (s.modWave w f).passUp = s.passUp := rfl
@[simp] theorem State.modWave_plimit (s : State) (w : Nat) (f : Wave → Wave) : (s.modWave w f).plimit = s.plimit := rfl
@[simp] theorem State.modWave_ilimit (s : State) (w : Nat) (f : Wave → Wave) : (s.modWave w f).ilimit = s.ilimit := rfl
@[simp] theorem State.modWave_clkNow (s : State) (w : Nat) (f : Wave → Wave) : (s.modWave w f).clkNow = s.clkNow := rfl
@[simp] theorem State.modWave_power (s : State) (w : Nat) (f : Wave → Wave) : (s.modWave w f).power = s.power := rfl
@[simp] theorem State.modWave_temps (s : State) (w : Nat) (f : Wave → Wave) : (s.modWave w f).temps = s.temps := rfl
@[simp] theorem State.modWave_alarm (s : State) (w : Nat) (f : Wave → Wave) : (s.modWave w f).alarm = s.alarm := rfl
@[simp] theorem State.modWave_errBase (s : State) (w : Nat) (f : Wave → Wave) : (s.modWave w f).errBase = s.errBase := rfl
@[simp] theorem State.modWave_errCount (s : State) (w : Nat) (f : Wave → Wave) : (s.modWave w f).errCount = s.errCount := rfl
@[simp] theorem State.modWave_errHead (s : State) (w : Nat) (f : Wave → Wave) : (s.modWave w f).errHead = s.errHead := rfl
@[simp] theorem State.modWave_pf (s : State) (w : Nat) (f : Wave → Wave) : (s.modWave w f).pf = s.pf := rfl
@[simp] theorem State.modWave_pageCopy (s : State) (w : Nat) (f : Wave → Wave) : (s.modWave w f).pageCopy = s.pageCopy := rfl
@[simp] theorem State.modWave_msix (s : State) (w : Nat) (f : Wave → Wave) : (s.modWave w f).msix = s.msix := rfl
@[simp] theorem State.modWave_halted (s : State) (w : Nat) (f : Wave → Wave) : (s.modWave w f).halted = s.halted := rfl
@[simp] theorem State.modWave_rootGone (s : State) (w : Nat) (f : Wave → Wave) : (s.modWave w f).rootGone = s.rootGone := rfl
@[simp] theorem State.modWave_identity (s : State) (w : Nat) (f : Wave → Wave) : (s.modWave w f).identity = s.identity := rfl
@[simp] theorem State.modWave_revoked (s : State) (w : Nat) (f : Wave → Wave) : (s.modWave w f).revoked = s.revoked := rfl
@[simp] theorem State.modWave_svnMin (s : State) (w : Nat) (f : Wave → Wave) : (s.modWave w f).svnMin = s.svnMin := rfl
@[simp] theorem State.modWave_measured (s : State) (w : Nat) (f : Wave → Wave) : (s.modWave w f).measured = s.measured := rfl
@[simp] theorem State.modWave_certSlots (s : State) (w : Nat) (f : Wave → Wave) : (s.modWave w f).certSlots = s.certSlots := rfl
@[simp] theorem State.modWave_mem (s : State) (w : Nat) (f : Wave → Wave) : (s.modWave w f).mem = s.mem := rfl
@[simp] theorem State.modWave_poison (s : State) (w : Nat) (f : Wave → Wave) : (s.modWave w f).poison = s.poison := rfl
@[simp] theorem State.modWave_vales (s : State) (w : Nat) (f : Wave → Wave) : (s.modWave w f).vales = s.vales := rfl
@[simp] theorem State.modWave_glens (s : State) (w : Nat) (f : Wave → Wave) : (s.modWave w f).glens = s.glens := rfl
@[simp] theorem State.modWave_cores (s : State) (w : Nat) (f : Wave → Wave) : (s.modWave w f).cores = s.cores := rfl
@[simp] theorem State.modWave_jobs (s : State) (w : Nat) (f : Wave → Wave) : (s.modWave w f).jobs = s.jobs := rfl
@[simp] theorem State.modWave_blocks (s : State) (w : Nat) (f : Wave → Wave) : (s.modWave w f).blocks = s.blocks := rfl
@[simp] theorem State.modWave_clusters (s : State) (w : Nat) (f : Wave → Wave) : (s.modWave w f).clusters = s.clusters := rfl
@[simp] theorem State.modWave_inflight (s : State) (w : Nat) (f : Wave → Wave) : (s.modWave w f).inflight = s.inflight := rfl
@[simp] theorem State.modWave_updates (s : State) (w : Nat) (f : Wave → Wave) : (s.modWave w f).updates = s.updates := rfl
@[simp] theorem State.modWave_known (s : State) (w : Nat) (f : Wave → Wave) : (s.modWave w f).known = s.known := rfl
@[simp] theorem State.modWave_applied (s : State) (w : Nat) (f : Wave → Wave) : (s.modWave w f).applied = s.applied := rfl
@[simp] theorem State.modWave_relSeq (s : State) (w : Nat) (f : Wave → Wave) : (s.modWave w f).relSeq = s.relSeq := rfl
@[simp] theorem State.modWave_dieTlb (s : State) (w : Nat) (f : Wave → Wave) : (s.modWave w f).dieTlb = s.dieTlb := rfl
@[simp] theorem State.modWave_outReqs (s : State) (w : Nat) (f : Wave → Wave) : (s.modWave w f).outReqs = s.outReqs := rfl
@[simp] theorem State.modWave_engGot (s : State) (w : Nat) (f : Wave → Wave) : (s.modWave w f).engGot = s.engGot := rfl
@[simp] theorem State.modWave_outSeq (s : State) (w : Nat) (f : Wave → Wave) : (s.modWave w f).outSeq = s.outSeq := rfl
@[simp] theorem State.modWave_inSeen (s : State) (w : Nat) (f : Wave → Wave) : (s.modWave w f).inSeen = s.inSeen := rfl
@[simp] theorem State.modWave_imports (s : State) (w : Nat) (f : Wave → Wave) : (s.modWave w f).imports = s.imports := rfl
@[simp] theorem State.modWave_pairKeys (s : State) (w : Nat) (f : Wave → Wave) : (s.modWave w f).pairKeys = s.pairKeys := rfl
@[simp] theorem State.modWave_pairKeysIn (s : State) (w : Nat) (f : Wave → Wave) : (s.modWave w f).pairKeysIn = s.pairKeysIn := rfl
@[simp] theorem State.modWave_leases (s : State) (w : Nat) (f : Wave → Wave) : (s.modWave w f).leases = s.leases := rfl
@[simp] theorem State.modWave_invals (s : State) (w : Nat) (f : Wave → Wave) : (s.modWave w f).invals = s.invals := rfl
@[simp] theorem State.modWave_migrations (s : State) (w : Nat) (f : Wave → Wave) : (s.modWave w f).migrations = s.migrations := rfl
@[simp] theorem State.modWave_saddles (s : State) (w : Nat) (f : Wave → Wave) : (s.modWave w f).saddles = s.saddles := rfl
@[simp] theorem State.modWave_passLinks (s : State) (w : Nat) (f : Wave → Wave) : (s.modWave w f).passLinks = s.passLinks := rfl
@[simp] theorem State.modWave_takes (s : State) (w : Nat) (f : Wave → Wave) : (s.modWave w f).takes = s.takes := rfl
@[simp] theorem State.modWave_claims (s : State) (w : Nat) (f : Wave → Wave) : (s.modWave w f).claims = s.claims := rfl
@[simp] theorem State.modWave_window (s : State) (w : Nat) (f : Wave → Wave) : (s.modWave w f).window = s.window := rfl
@[simp] theorem State.modWave_ide (s : State) (w : Nat) (f : Wave → Wave) : (s.modWave w f).ide = s.ide := rfl
@[simp] theorem State.modWave_spdm (s : State) (w : Nat) (f : Wave → Wave) : (s.modWave w f).spdm = s.spdm := rfl
@[simp] theorem State.modWave_reply (s : State) (w : Nat) (f : Wave → Wave) : (s.modWave w f).reply = s.reply := rfl
@[simp] theorem State.modWave_exports (s : State) (w : Nat) (f : Wave → Wave) : (s.modWave w f).exports = s.exports := rfl
@[simp] theorem State.modWave_pkgCe (s : State) (w : Nat) (f : Wave → Wave) : (s.modWave w f).pkgCe = s.pkgCe := rfl

/-! ## State.modBlock -/
@[simp] theorem State.modBlock_agenda (s : State) (b : Nat) (f : Block → Block) : (s.modBlock b f).agenda = s.agenda := rfl
@[simp] theorem State.modBlock_clock (s : State) (b : Nat) (f : Block → Block) : (s.modBlock b f).clock = s.clock := rfl
@[simp] theorem State.modBlock_cur (s : State) (b : Nat) (f : Block → Block) : (s.modBlock b f).cur = s.cur := rfl
@[simp] theorem State.modBlock_defer (s : State) (b : Nat) (f : Block → Block) : (s.modBlock b f).defer = s.defer := rfl
@[simp] theorem State.modBlock_freeCount (s : State) (b : Nat) (f : Block → Block) : (s.modBlock b f).freeCount = s.freeCount := rfl
@[simp] theorem State.modBlock_turns (s : State) (b : Nat) (f : Block → Block) : (s.modBlock b f).turns = s.turns := rfl
@[simp] theorem State.modBlock_sinceTick (s : State) (b : Nat) (f : Block → Block) : (s.modBlock b f).sinceTick = s.sinceTick := rfl
@[simp] theorem State.modBlock_nextId (s : State) (b : Nat) (f : Block → Block) : (s.modBlock b f).nextId = s.nextId := rfl
@[simp] theorem State.modBlock_tod (s : State) (b : Nat) (f : Block → Block) : (s.modBlock b f).tod = s.tod := rfl
@[simp] theorem State.modBlock_bootStat (s : State) (b : Nat) (f : Block → Block) : (s.modBlock b f).bootStat = s.bootStat := rfl
@[simp] theorem State.modBlock_failStep (s : State) (b : Nat) (f : Block → Block) : (s.modBlock b f).failStep = s.failStep := rfl
@[simp] theorem State.modBlock_bootStep (s : State) (b : Nat) (f : Block → Block) : (s.modBlock b f).bootStep = s.bootStep := rfl
@[simp] theorem State.modBlock_lifecycle (s : State) (b : Nat) (f : Block → Block) : (s.modBlock b f).lifecycle = s.lifecycle := rfl
@[simp] theorem State.modBlock_lcStat (s : State) (b : Nat) (f : Block → Block) : (s.modBlock b f).lcStat = s.lcStat := rfl
@[simp] theorem State.modBlock_lcReq (s : State) (b : Nat) (f : Block → Block) : (s.modBlock b f).lcReq = s.lcReq := rfl
@[simp] theorem State.modBlock_lcPending (s : State) (b : Nat) (f : Block → Block) : (s.modBlock b f).lcPending = s.lcPending := rfl
@[simp] theorem State.modBlock_lcToken (s : State) (b : Nat) (f : Block → Block) : (s.modBlock b f).lcToken = s.lcToken := rfl
@[simp] theorem State.modBlock_stackGib (s : State) (b : Nat) (f : Block → Block) : (s.modBlock b f).stackGib = s.stackGib := rfl
@[simp] theorem State.modBlock_pkgId (s : State) (b : Nat) (f : Block → Block) : (s.modBlock b f).pkgId = s.pkgId := rfl
@[simp] theorem State.modBlock_hlWidth (s : State) (b : Nat) (f : Block → Block) : (s.modBlock b f).hlWidth = s.hlWidth := rfl
@[simp] theorem State.modBlock_hlRate (s : State) (b : Nat) (f : Block → Block) : (s.modBlock b f).hlRate = s.hlRate := rfl
@[simp] theorem State.modBlock_tsync (s : State) (b : Nat) (f : Block → Block) : (s.modBlock b f).tsync = s.tsync := rfl
@[simp] theorem State.modBlock_timeMaster (s : State) (b : Nat) (f : Block → Block) : (s.modBlock b f).timeMaster = s.timeMaster := rfl
@[simp] theorem State.modBlock_steer (s : State) (b : Nat) (f : Block → Block) : (s.modBlock b f).steer = s.steer := rfl
@[simp] theorem State.modBlock_trayRead (s : State) (b : Nat) (f : Block → Block) : (s.modBlock b f).trayRead = s.trayRead := rfl
@[simp] theorem State.modBlock_compared (s : State) (b : Nat) (f : Block → Block) : (s.modBlock b f).compared = s.compared := rfl
@[simp] theorem State.modBlock_pfBar (s : State) (b : Nat) (f : Block → Block) : (s.modBlock b f).pfBar = s.pfBar := rfl
@[simp] theorem State.modBlock_bars (s : State) (b : Nat) (f : Block → Block) : (s.modBlock b f).bars = s.bars := rfl
@[simp] theorem State.modBlock_vfBars (s : State) (b : Nat) (f : Block → Block) : (s.modBlock b f).vfBars = s.vfBars := rfl
@[simp] theorem State.modBlock_passUp (s : State) (b : Nat) (f : Block → Block) : (s.modBlock b f).passUp = s.passUp := rfl
@[simp] theorem State.modBlock_plimit (s : State) (b : Nat) (f : Block → Block) : (s.modBlock b f).plimit = s.plimit := rfl
@[simp] theorem State.modBlock_ilimit (s : State) (b : Nat) (f : Block → Block) : (s.modBlock b f).ilimit = s.ilimit := rfl
@[simp] theorem State.modBlock_clkNow (s : State) (b : Nat) (f : Block → Block) : (s.modBlock b f).clkNow = s.clkNow := rfl
@[simp] theorem State.modBlock_power (s : State) (b : Nat) (f : Block → Block) : (s.modBlock b f).power = s.power := rfl
@[simp] theorem State.modBlock_temps (s : State) (b : Nat) (f : Block → Block) : (s.modBlock b f).temps = s.temps := rfl
@[simp] theorem State.modBlock_alarm (s : State) (b : Nat) (f : Block → Block) : (s.modBlock b f).alarm = s.alarm := rfl
@[simp] theorem State.modBlock_errBase (s : State) (b : Nat) (f : Block → Block) : (s.modBlock b f).errBase = s.errBase := rfl
@[simp] theorem State.modBlock_errCount (s : State) (b : Nat) (f : Block → Block) : (s.modBlock b f).errCount = s.errCount := rfl
@[simp] theorem State.modBlock_errHead (s : State) (b : Nat) (f : Block → Block) : (s.modBlock b f).errHead = s.errHead := rfl
@[simp] theorem State.modBlock_pf (s : State) (b : Nat) (f : Block → Block) : (s.modBlock b f).pf = s.pf := rfl
@[simp] theorem State.modBlock_pageCopy (s : State) (b : Nat) (f : Block → Block) : (s.modBlock b f).pageCopy = s.pageCopy := rfl
@[simp] theorem State.modBlock_msix (s : State) (b : Nat) (f : Block → Block) : (s.modBlock b f).msix = s.msix := rfl
@[simp] theorem State.modBlock_halted (s : State) (b : Nat) (f : Block → Block) : (s.modBlock b f).halted = s.halted := rfl
@[simp] theorem State.modBlock_rootGone (s : State) (b : Nat) (f : Block → Block) : (s.modBlock b f).rootGone = s.rootGone := rfl
@[simp] theorem State.modBlock_identity (s : State) (b : Nat) (f : Block → Block) : (s.modBlock b f).identity = s.identity := rfl
@[simp] theorem State.modBlock_revoked (s : State) (b : Nat) (f : Block → Block) : (s.modBlock b f).revoked = s.revoked := rfl
@[simp] theorem State.modBlock_svnMin (s : State) (b : Nat) (f : Block → Block) : (s.modBlock b f).svnMin = s.svnMin := rfl
@[simp] theorem State.modBlock_measured (s : State) (b : Nat) (f : Block → Block) : (s.modBlock b f).measured = s.measured := rfl
@[simp] theorem State.modBlock_certSlots (s : State) (b : Nat) (f : Block → Block) : (s.modBlock b f).certSlots = s.certSlots := rfl
@[simp] theorem State.modBlock_mem (s : State) (b : Nat) (f : Block → Block) : (s.modBlock b f).mem = s.mem := rfl
@[simp] theorem State.modBlock_poison (s : State) (b : Nat) (f : Block → Block) : (s.modBlock b f).poison = s.poison := rfl
@[simp] theorem State.modBlock_vales (s : State) (b : Nat) (f : Block → Block) : (s.modBlock b f).vales = s.vales := rfl
@[simp] theorem State.modBlock_glens (s : State) (b : Nat) (f : Block → Block) : (s.modBlock b f).glens = s.glens := rfl
@[simp] theorem State.modBlock_cores (s : State) (b : Nat) (f : Block → Block) : (s.modBlock b f).cores = s.cores := rfl
@[simp] theorem State.modBlock_jobs (s : State) (b : Nat) (f : Block → Block) : (s.modBlock b f).jobs = s.jobs := rfl
@[simp] theorem State.modBlock_clusters (s : State) (b : Nat) (f : Block → Block) : (s.modBlock b f).clusters = s.clusters := rfl
@[simp] theorem State.modBlock_waves (s : State) (b : Nat) (f : Block → Block) : (s.modBlock b f).waves = s.waves := rfl
@[simp] theorem State.modBlock_inflight (s : State) (b : Nat) (f : Block → Block) : (s.modBlock b f).inflight = s.inflight := rfl
@[simp] theorem State.modBlock_updates (s : State) (b : Nat) (f : Block → Block) : (s.modBlock b f).updates = s.updates := rfl
@[simp] theorem State.modBlock_known (s : State) (b : Nat) (f : Block → Block) : (s.modBlock b f).known = s.known := rfl
@[simp] theorem State.modBlock_applied (s : State) (b : Nat) (f : Block → Block) : (s.modBlock b f).applied = s.applied := rfl
@[simp] theorem State.modBlock_relSeq (s : State) (b : Nat) (f : Block → Block) : (s.modBlock b f).relSeq = s.relSeq := rfl
@[simp] theorem State.modBlock_dieTlb (s : State) (b : Nat) (f : Block → Block) : (s.modBlock b f).dieTlb = s.dieTlb := rfl
@[simp] theorem State.modBlock_outReqs (s : State) (b : Nat) (f : Block → Block) : (s.modBlock b f).outReqs = s.outReqs := rfl
@[simp] theorem State.modBlock_engGot (s : State) (b : Nat) (f : Block → Block) : (s.modBlock b f).engGot = s.engGot := rfl
@[simp] theorem State.modBlock_outSeq (s : State) (b : Nat) (f : Block → Block) : (s.modBlock b f).outSeq = s.outSeq := rfl
@[simp] theorem State.modBlock_inSeen (s : State) (b : Nat) (f : Block → Block) : (s.modBlock b f).inSeen = s.inSeen := rfl
@[simp] theorem State.modBlock_imports (s : State) (b : Nat) (f : Block → Block) : (s.modBlock b f).imports = s.imports := rfl
@[simp] theorem State.modBlock_pairKeys (s : State) (b : Nat) (f : Block → Block) : (s.modBlock b f).pairKeys = s.pairKeys := rfl
@[simp] theorem State.modBlock_pairKeysIn (s : State) (b : Nat) (f : Block → Block) : (s.modBlock b f).pairKeysIn = s.pairKeysIn := rfl
@[simp] theorem State.modBlock_leases (s : State) (b : Nat) (f : Block → Block) : (s.modBlock b f).leases = s.leases := rfl
@[simp] theorem State.modBlock_invals (s : State) (b : Nat) (f : Block → Block) : (s.modBlock b f).invals = s.invals := rfl
@[simp] theorem State.modBlock_migrations (s : State) (b : Nat) (f : Block → Block) : (s.modBlock b f).migrations = s.migrations := rfl
@[simp] theorem State.modBlock_saddles (s : State) (b : Nat) (f : Block → Block) : (s.modBlock b f).saddles = s.saddles := rfl
@[simp] theorem State.modBlock_passLinks (s : State) (b : Nat) (f : Block → Block) : (s.modBlock b f).passLinks = s.passLinks := rfl
@[simp] theorem State.modBlock_takes (s : State) (b : Nat) (f : Block → Block) : (s.modBlock b f).takes = s.takes := rfl
@[simp] theorem State.modBlock_claims (s : State) (b : Nat) (f : Block → Block) : (s.modBlock b f).claims = s.claims := rfl
@[simp] theorem State.modBlock_window (s : State) (b : Nat) (f : Block → Block) : (s.modBlock b f).window = s.window := rfl
@[simp] theorem State.modBlock_ide (s : State) (b : Nat) (f : Block → Block) : (s.modBlock b f).ide = s.ide := rfl
@[simp] theorem State.modBlock_spdm (s : State) (b : Nat) (f : Block → Block) : (s.modBlock b f).spdm = s.spdm := rfl
@[simp] theorem State.modBlock_reply (s : State) (b : Nat) (f : Block → Block) : (s.modBlock b f).reply = s.reply := rfl
@[simp] theorem State.modBlock_exports (s : State) (b : Nat) (f : Block → Block) : (s.modBlock b f).exports = s.exports := rfl
@[simp] theorem State.modBlock_pkgCe (s : State) (b : Nat) (f : Block → Block) : (s.modBlock b f).pkgCe = s.pkgCe := rfl

/-! ## State.modJob -/
@[simp] theorem State.modJob_agenda (s : State) (j : Nat) (f : Job → Job) : (s.modJob j f).agenda = s.agenda := rfl
@[simp] theorem State.modJob_clock (s : State) (j : Nat) (f : Job → Job) : (s.modJob j f).clock = s.clock := rfl
@[simp] theorem State.modJob_cur (s : State) (j : Nat) (f : Job → Job) : (s.modJob j f).cur = s.cur := rfl
@[simp] theorem State.modJob_defer (s : State) (j : Nat) (f : Job → Job) : (s.modJob j f).defer = s.defer := rfl
@[simp] theorem State.modJob_freeCount (s : State) (j : Nat) (f : Job → Job) : (s.modJob j f).freeCount = s.freeCount := rfl
@[simp] theorem State.modJob_turns (s : State) (j : Nat) (f : Job → Job) : (s.modJob j f).turns = s.turns := rfl
@[simp] theorem State.modJob_sinceTick (s : State) (j : Nat) (f : Job → Job) : (s.modJob j f).sinceTick = s.sinceTick := rfl
@[simp] theorem State.modJob_nextId (s : State) (j : Nat) (f : Job → Job) : (s.modJob j f).nextId = s.nextId := rfl
@[simp] theorem State.modJob_tod (s : State) (j : Nat) (f : Job → Job) : (s.modJob j f).tod = s.tod := rfl
@[simp] theorem State.modJob_bootStat (s : State) (j : Nat) (f : Job → Job) : (s.modJob j f).bootStat = s.bootStat := rfl
@[simp] theorem State.modJob_failStep (s : State) (j : Nat) (f : Job → Job) : (s.modJob j f).failStep = s.failStep := rfl
@[simp] theorem State.modJob_bootStep (s : State) (j : Nat) (f : Job → Job) : (s.modJob j f).bootStep = s.bootStep := rfl
@[simp] theorem State.modJob_lifecycle (s : State) (j : Nat) (f : Job → Job) : (s.modJob j f).lifecycle = s.lifecycle := rfl
@[simp] theorem State.modJob_lcStat (s : State) (j : Nat) (f : Job → Job) : (s.modJob j f).lcStat = s.lcStat := rfl
@[simp] theorem State.modJob_lcReq (s : State) (j : Nat) (f : Job → Job) : (s.modJob j f).lcReq = s.lcReq := rfl
@[simp] theorem State.modJob_lcPending (s : State) (j : Nat) (f : Job → Job) : (s.modJob j f).lcPending = s.lcPending := rfl
@[simp] theorem State.modJob_lcToken (s : State) (j : Nat) (f : Job → Job) : (s.modJob j f).lcToken = s.lcToken := rfl
@[simp] theorem State.modJob_stackGib (s : State) (j : Nat) (f : Job → Job) : (s.modJob j f).stackGib = s.stackGib := rfl
@[simp] theorem State.modJob_pkgId (s : State) (j : Nat) (f : Job → Job) : (s.modJob j f).pkgId = s.pkgId := rfl
@[simp] theorem State.modJob_hlWidth (s : State) (j : Nat) (f : Job → Job) : (s.modJob j f).hlWidth = s.hlWidth := rfl
@[simp] theorem State.modJob_hlRate (s : State) (j : Nat) (f : Job → Job) : (s.modJob j f).hlRate = s.hlRate := rfl
@[simp] theorem State.modJob_tsync (s : State) (j : Nat) (f : Job → Job) : (s.modJob j f).tsync = s.tsync := rfl
@[simp] theorem State.modJob_timeMaster (s : State) (j : Nat) (f : Job → Job) : (s.modJob j f).timeMaster = s.timeMaster := rfl
@[simp] theorem State.modJob_steer (s : State) (j : Nat) (f : Job → Job) : (s.modJob j f).steer = s.steer := rfl
@[simp] theorem State.modJob_trayRead (s : State) (j : Nat) (f : Job → Job) : (s.modJob j f).trayRead = s.trayRead := rfl
@[simp] theorem State.modJob_compared (s : State) (j : Nat) (f : Job → Job) : (s.modJob j f).compared = s.compared := rfl
@[simp] theorem State.modJob_pfBar (s : State) (j : Nat) (f : Job → Job) : (s.modJob j f).pfBar = s.pfBar := rfl
@[simp] theorem State.modJob_bars (s : State) (j : Nat) (f : Job → Job) : (s.modJob j f).bars = s.bars := rfl
@[simp] theorem State.modJob_vfBars (s : State) (j : Nat) (f : Job → Job) : (s.modJob j f).vfBars = s.vfBars := rfl
@[simp] theorem State.modJob_passUp (s : State) (j : Nat) (f : Job → Job) : (s.modJob j f).passUp = s.passUp := rfl
@[simp] theorem State.modJob_plimit (s : State) (j : Nat) (f : Job → Job) : (s.modJob j f).plimit = s.plimit := rfl
@[simp] theorem State.modJob_ilimit (s : State) (j : Nat) (f : Job → Job) : (s.modJob j f).ilimit = s.ilimit := rfl
@[simp] theorem State.modJob_clkNow (s : State) (j : Nat) (f : Job → Job) : (s.modJob j f).clkNow = s.clkNow := rfl
@[simp] theorem State.modJob_power (s : State) (j : Nat) (f : Job → Job) : (s.modJob j f).power = s.power := rfl
@[simp] theorem State.modJob_temps (s : State) (j : Nat) (f : Job → Job) : (s.modJob j f).temps = s.temps := rfl
@[simp] theorem State.modJob_alarm (s : State) (j : Nat) (f : Job → Job) : (s.modJob j f).alarm = s.alarm := rfl
@[simp] theorem State.modJob_errBase (s : State) (j : Nat) (f : Job → Job) : (s.modJob j f).errBase = s.errBase := rfl
@[simp] theorem State.modJob_errCount (s : State) (j : Nat) (f : Job → Job) : (s.modJob j f).errCount = s.errCount := rfl
@[simp] theorem State.modJob_errHead (s : State) (j : Nat) (f : Job → Job) : (s.modJob j f).errHead = s.errHead := rfl
@[simp] theorem State.modJob_pf (s : State) (j : Nat) (f : Job → Job) : (s.modJob j f).pf = s.pf := rfl
@[simp] theorem State.modJob_pageCopy (s : State) (j : Nat) (f : Job → Job) : (s.modJob j f).pageCopy = s.pageCopy := rfl
@[simp] theorem State.modJob_msix (s : State) (j : Nat) (f : Job → Job) : (s.modJob j f).msix = s.msix := rfl
@[simp] theorem State.modJob_halted (s : State) (j : Nat) (f : Job → Job) : (s.modJob j f).halted = s.halted := rfl
@[simp] theorem State.modJob_rootGone (s : State) (j : Nat) (f : Job → Job) : (s.modJob j f).rootGone = s.rootGone := rfl
@[simp] theorem State.modJob_identity (s : State) (j : Nat) (f : Job → Job) : (s.modJob j f).identity = s.identity := rfl
@[simp] theorem State.modJob_revoked (s : State) (j : Nat) (f : Job → Job) : (s.modJob j f).revoked = s.revoked := rfl
@[simp] theorem State.modJob_svnMin (s : State) (j : Nat) (f : Job → Job) : (s.modJob j f).svnMin = s.svnMin := rfl
@[simp] theorem State.modJob_measured (s : State) (j : Nat) (f : Job → Job) : (s.modJob j f).measured = s.measured := rfl
@[simp] theorem State.modJob_certSlots (s : State) (j : Nat) (f : Job → Job) : (s.modJob j f).certSlots = s.certSlots := rfl
@[simp] theorem State.modJob_mem (s : State) (j : Nat) (f : Job → Job) : (s.modJob j f).mem = s.mem := rfl
@[simp] theorem State.modJob_poison (s : State) (j : Nat) (f : Job → Job) : (s.modJob j f).poison = s.poison := rfl
@[simp] theorem State.modJob_vales (s : State) (j : Nat) (f : Job → Job) : (s.modJob j f).vales = s.vales := rfl
@[simp] theorem State.modJob_glens (s : State) (j : Nat) (f : Job → Job) : (s.modJob j f).glens = s.glens := rfl
@[simp] theorem State.modJob_cores (s : State) (j : Nat) (f : Job → Job) : (s.modJob j f).cores = s.cores := rfl
@[simp] theorem State.modJob_blocks (s : State) (j : Nat) (f : Job → Job) : (s.modJob j f).blocks = s.blocks := rfl
@[simp] theorem State.modJob_clusters (s : State) (j : Nat) (f : Job → Job) : (s.modJob j f).clusters = s.clusters := rfl
@[simp] theorem State.modJob_waves (s : State) (j : Nat) (f : Job → Job) : (s.modJob j f).waves = s.waves := rfl
@[simp] theorem State.modJob_inflight (s : State) (j : Nat) (f : Job → Job) : (s.modJob j f).inflight = s.inflight := rfl
@[simp] theorem State.modJob_updates (s : State) (j : Nat) (f : Job → Job) : (s.modJob j f).updates = s.updates := rfl
@[simp] theorem State.modJob_known (s : State) (j : Nat) (f : Job → Job) : (s.modJob j f).known = s.known := rfl
@[simp] theorem State.modJob_applied (s : State) (j : Nat) (f : Job → Job) : (s.modJob j f).applied = s.applied := rfl
@[simp] theorem State.modJob_relSeq (s : State) (j : Nat) (f : Job → Job) : (s.modJob j f).relSeq = s.relSeq := rfl
@[simp] theorem State.modJob_dieTlb (s : State) (j : Nat) (f : Job → Job) : (s.modJob j f).dieTlb = s.dieTlb := rfl
@[simp] theorem State.modJob_outReqs (s : State) (j : Nat) (f : Job → Job) : (s.modJob j f).outReqs = s.outReqs := rfl
@[simp] theorem State.modJob_engGot (s : State) (j : Nat) (f : Job → Job) : (s.modJob j f).engGot = s.engGot := rfl
@[simp] theorem State.modJob_outSeq (s : State) (j : Nat) (f : Job → Job) : (s.modJob j f).outSeq = s.outSeq := rfl
@[simp] theorem State.modJob_inSeen (s : State) (j : Nat) (f : Job → Job) : (s.modJob j f).inSeen = s.inSeen := rfl
@[simp] theorem State.modJob_imports (s : State) (j : Nat) (f : Job → Job) : (s.modJob j f).imports = s.imports := rfl
@[simp] theorem State.modJob_pairKeys (s : State) (j : Nat) (f : Job → Job) : (s.modJob j f).pairKeys = s.pairKeys := rfl
@[simp] theorem State.modJob_pairKeysIn (s : State) (j : Nat) (f : Job → Job) : (s.modJob j f).pairKeysIn = s.pairKeysIn := rfl
@[simp] theorem State.modJob_leases (s : State) (j : Nat) (f : Job → Job) : (s.modJob j f).leases = s.leases := rfl
@[simp] theorem State.modJob_invals (s : State) (j : Nat) (f : Job → Job) : (s.modJob j f).invals = s.invals := rfl
@[simp] theorem State.modJob_migrations (s : State) (j : Nat) (f : Job → Job) : (s.modJob j f).migrations = s.migrations := rfl
@[simp] theorem State.modJob_saddles (s : State) (j : Nat) (f : Job → Job) : (s.modJob j f).saddles = s.saddles := rfl
@[simp] theorem State.modJob_passLinks (s : State) (j : Nat) (f : Job → Job) : (s.modJob j f).passLinks = s.passLinks := rfl
@[simp] theorem State.modJob_takes (s : State) (j : Nat) (f : Job → Job) : (s.modJob j f).takes = s.takes := rfl
@[simp] theorem State.modJob_claims (s : State) (j : Nat) (f : Job → Job) : (s.modJob j f).claims = s.claims := rfl
@[simp] theorem State.modJob_window (s : State) (j : Nat) (f : Job → Job) : (s.modJob j f).window = s.window := rfl
@[simp] theorem State.modJob_ide (s : State) (j : Nat) (f : Job → Job) : (s.modJob j f).ide = s.ide := rfl
@[simp] theorem State.modJob_spdm (s : State) (j : Nat) (f : Job → Job) : (s.modJob j f).spdm = s.spdm := rfl
@[simp] theorem State.modJob_reply (s : State) (j : Nat) (f : Job → Job) : (s.modJob j f).reply = s.reply := rfl
@[simp] theorem State.modJob_exports (s : State) (j : Nat) (f : Job → Job) : (s.modJob j f).exports = s.exports := rfl
@[simp] theorem State.modJob_pkgCe (s : State) (j : Nat) (f : Job → Job) : (s.modJob j f).pkgCe = s.pkgCe := rfl

/-! ## State.modVale -/
@[simp] theorem State.modVale_agenda (s : State) (v : Nat) (f : Vale → Vale) : (s.modVale v f).agenda = s.agenda := rfl
@[simp] theorem State.modVale_clock (s : State) (v : Nat) (f : Vale → Vale) : (s.modVale v f).clock = s.clock := rfl
@[simp] theorem State.modVale_cur (s : State) (v : Nat) (f : Vale → Vale) : (s.modVale v f).cur = s.cur := rfl
@[simp] theorem State.modVale_defer (s : State) (v : Nat) (f : Vale → Vale) : (s.modVale v f).defer = s.defer := rfl
@[simp] theorem State.modVale_freeCount (s : State) (v : Nat) (f : Vale → Vale) : (s.modVale v f).freeCount = s.freeCount := rfl
@[simp] theorem State.modVale_turns (s : State) (v : Nat) (f : Vale → Vale) : (s.modVale v f).turns = s.turns := rfl
@[simp] theorem State.modVale_sinceTick (s : State) (v : Nat) (f : Vale → Vale) : (s.modVale v f).sinceTick = s.sinceTick := rfl
@[simp] theorem State.modVale_nextId (s : State) (v : Nat) (f : Vale → Vale) : (s.modVale v f).nextId = s.nextId := rfl
@[simp] theorem State.modVale_tod (s : State) (v : Nat) (f : Vale → Vale) : (s.modVale v f).tod = s.tod := rfl
@[simp] theorem State.modVale_bootStat (s : State) (v : Nat) (f : Vale → Vale) : (s.modVale v f).bootStat = s.bootStat := rfl
@[simp] theorem State.modVale_failStep (s : State) (v : Nat) (f : Vale → Vale) : (s.modVale v f).failStep = s.failStep := rfl
@[simp] theorem State.modVale_bootStep (s : State) (v : Nat) (f : Vale → Vale) : (s.modVale v f).bootStep = s.bootStep := rfl
@[simp] theorem State.modVale_lifecycle (s : State) (v : Nat) (f : Vale → Vale) : (s.modVale v f).lifecycle = s.lifecycle := rfl
@[simp] theorem State.modVale_lcStat (s : State) (v : Nat) (f : Vale → Vale) : (s.modVale v f).lcStat = s.lcStat := rfl
@[simp] theorem State.modVale_lcReq (s : State) (v : Nat) (f : Vale → Vale) : (s.modVale v f).lcReq = s.lcReq := rfl
@[simp] theorem State.modVale_lcPending (s : State) (v : Nat) (f : Vale → Vale) : (s.modVale v f).lcPending = s.lcPending := rfl
@[simp] theorem State.modVale_lcToken (s : State) (v : Nat) (f : Vale → Vale) : (s.modVale v f).lcToken = s.lcToken := rfl
@[simp] theorem State.modVale_stackGib (s : State) (v : Nat) (f : Vale → Vale) : (s.modVale v f).stackGib = s.stackGib := rfl
@[simp] theorem State.modVale_pkgId (s : State) (v : Nat) (f : Vale → Vale) : (s.modVale v f).pkgId = s.pkgId := rfl
@[simp] theorem State.modVale_hlWidth (s : State) (v : Nat) (f : Vale → Vale) : (s.modVale v f).hlWidth = s.hlWidth := rfl
@[simp] theorem State.modVale_hlRate (s : State) (v : Nat) (f : Vale → Vale) : (s.modVale v f).hlRate = s.hlRate := rfl
@[simp] theorem State.modVale_tsync (s : State) (v : Nat) (f : Vale → Vale) : (s.modVale v f).tsync = s.tsync := rfl
@[simp] theorem State.modVale_timeMaster (s : State) (v : Nat) (f : Vale → Vale) : (s.modVale v f).timeMaster = s.timeMaster := rfl
@[simp] theorem State.modVale_steer (s : State) (v : Nat) (f : Vale → Vale) : (s.modVale v f).steer = s.steer := rfl
@[simp] theorem State.modVale_trayRead (s : State) (v : Nat) (f : Vale → Vale) : (s.modVale v f).trayRead = s.trayRead := rfl
@[simp] theorem State.modVale_compared (s : State) (v : Nat) (f : Vale → Vale) : (s.modVale v f).compared = s.compared := rfl
@[simp] theorem State.modVale_pfBar (s : State) (v : Nat) (f : Vale → Vale) : (s.modVale v f).pfBar = s.pfBar := rfl
@[simp] theorem State.modVale_bars (s : State) (v : Nat) (f : Vale → Vale) : (s.modVale v f).bars = s.bars := rfl
@[simp] theorem State.modVale_vfBars (s : State) (v : Nat) (f : Vale → Vale) : (s.modVale v f).vfBars = s.vfBars := rfl
@[simp] theorem State.modVale_passUp (s : State) (v : Nat) (f : Vale → Vale) : (s.modVale v f).passUp = s.passUp := rfl
@[simp] theorem State.modVale_plimit (s : State) (v : Nat) (f : Vale → Vale) : (s.modVale v f).plimit = s.plimit := rfl
@[simp] theorem State.modVale_ilimit (s : State) (v : Nat) (f : Vale → Vale) : (s.modVale v f).ilimit = s.ilimit := rfl
@[simp] theorem State.modVale_clkNow (s : State) (v : Nat) (f : Vale → Vale) : (s.modVale v f).clkNow = s.clkNow := rfl
@[simp] theorem State.modVale_power (s : State) (v : Nat) (f : Vale → Vale) : (s.modVale v f).power = s.power := rfl
@[simp] theorem State.modVale_temps (s : State) (v : Nat) (f : Vale → Vale) : (s.modVale v f).temps = s.temps := rfl
@[simp] theorem State.modVale_alarm (s : State) (v : Nat) (f : Vale → Vale) : (s.modVale v f).alarm = s.alarm := rfl
@[simp] theorem State.modVale_errBase (s : State) (v : Nat) (f : Vale → Vale) : (s.modVale v f).errBase = s.errBase := rfl
@[simp] theorem State.modVale_errCount (s : State) (v : Nat) (f : Vale → Vale) : (s.modVale v f).errCount = s.errCount := rfl
@[simp] theorem State.modVale_errHead (s : State) (v : Nat) (f : Vale → Vale) : (s.modVale v f).errHead = s.errHead := rfl
@[simp] theorem State.modVale_pf (s : State) (v : Nat) (f : Vale → Vale) : (s.modVale v f).pf = s.pf := rfl
@[simp] theorem State.modVale_pageCopy (s : State) (v : Nat) (f : Vale → Vale) : (s.modVale v f).pageCopy = s.pageCopy := rfl
@[simp] theorem State.modVale_msix (s : State) (v : Nat) (f : Vale → Vale) : (s.modVale v f).msix = s.msix := rfl
@[simp] theorem State.modVale_halted (s : State) (v : Nat) (f : Vale → Vale) : (s.modVale v f).halted = s.halted := rfl
@[simp] theorem State.modVale_rootGone (s : State) (v : Nat) (f : Vale → Vale) : (s.modVale v f).rootGone = s.rootGone := rfl
@[simp] theorem State.modVale_identity (s : State) (v : Nat) (f : Vale → Vale) : (s.modVale v f).identity = s.identity := rfl
@[simp] theorem State.modVale_revoked (s : State) (v : Nat) (f : Vale → Vale) : (s.modVale v f).revoked = s.revoked := rfl
@[simp] theorem State.modVale_svnMin (s : State) (v : Nat) (f : Vale → Vale) : (s.modVale v f).svnMin = s.svnMin := rfl
@[simp] theorem State.modVale_measured (s : State) (v : Nat) (f : Vale → Vale) : (s.modVale v f).measured = s.measured := rfl
@[simp] theorem State.modVale_certSlots (s : State) (v : Nat) (f : Vale → Vale) : (s.modVale v f).certSlots = s.certSlots := rfl
@[simp] theorem State.modVale_mem (s : State) (v : Nat) (f : Vale → Vale) : (s.modVale v f).mem = s.mem := rfl
@[simp] theorem State.modVale_poison (s : State) (v : Nat) (f : Vale → Vale) : (s.modVale v f).poison = s.poison := rfl
@[simp] theorem State.modVale_glens (s : State) (v : Nat) (f : Vale → Vale) : (s.modVale v f).glens = s.glens := rfl
@[simp] theorem State.modVale_cores (s : State) (v : Nat) (f : Vale → Vale) : (s.modVale v f).cores = s.cores := rfl
@[simp] theorem State.modVale_jobs (s : State) (v : Nat) (f : Vale → Vale) : (s.modVale v f).jobs = s.jobs := rfl
@[simp] theorem State.modVale_blocks (s : State) (v : Nat) (f : Vale → Vale) : (s.modVale v f).blocks = s.blocks := rfl
@[simp] theorem State.modVale_clusters (s : State) (v : Nat) (f : Vale → Vale) : (s.modVale v f).clusters = s.clusters := rfl
@[simp] theorem State.modVale_waves (s : State) (v : Nat) (f : Vale → Vale) : (s.modVale v f).waves = s.waves := rfl
@[simp] theorem State.modVale_inflight (s : State) (v : Nat) (f : Vale → Vale) : (s.modVale v f).inflight = s.inflight := rfl
@[simp] theorem State.modVale_updates (s : State) (v : Nat) (f : Vale → Vale) : (s.modVale v f).updates = s.updates := rfl
@[simp] theorem State.modVale_known (s : State) (v : Nat) (f : Vale → Vale) : (s.modVale v f).known = s.known := rfl
@[simp] theorem State.modVale_applied (s : State) (v : Nat) (f : Vale → Vale) : (s.modVale v f).applied = s.applied := rfl
@[simp] theorem State.modVale_relSeq (s : State) (v : Nat) (f : Vale → Vale) : (s.modVale v f).relSeq = s.relSeq := rfl
@[simp] theorem State.modVale_dieTlb (s : State) (v : Nat) (f : Vale → Vale) : (s.modVale v f).dieTlb = s.dieTlb := rfl
@[simp] theorem State.modVale_outReqs (s : State) (v : Nat) (f : Vale → Vale) : (s.modVale v f).outReqs = s.outReqs := rfl
@[simp] theorem State.modVale_engGot (s : State) (v : Nat) (f : Vale → Vale) : (s.modVale v f).engGot = s.engGot := rfl
@[simp] theorem State.modVale_outSeq (s : State) (v : Nat) (f : Vale → Vale) : (s.modVale v f).outSeq = s.outSeq := rfl
@[simp] theorem State.modVale_inSeen (s : State) (v : Nat) (f : Vale → Vale) : (s.modVale v f).inSeen = s.inSeen := rfl
@[simp] theorem State.modVale_imports (s : State) (v : Nat) (f : Vale → Vale) : (s.modVale v f).imports = s.imports := rfl
@[simp] theorem State.modVale_pairKeys (s : State) (v : Nat) (f : Vale → Vale) : (s.modVale v f).pairKeys = s.pairKeys := rfl
@[simp] theorem State.modVale_pairKeysIn (s : State) (v : Nat) (f : Vale → Vale) : (s.modVale v f).pairKeysIn = s.pairKeysIn := rfl
@[simp] theorem State.modVale_leases (s : State) (v : Nat) (f : Vale → Vale) : (s.modVale v f).leases = s.leases := rfl
@[simp] theorem State.modVale_invals (s : State) (v : Nat) (f : Vale → Vale) : (s.modVale v f).invals = s.invals := rfl
@[simp] theorem State.modVale_migrations (s : State) (v : Nat) (f : Vale → Vale) : (s.modVale v f).migrations = s.migrations := rfl
@[simp] theorem State.modVale_saddles (s : State) (v : Nat) (f : Vale → Vale) : (s.modVale v f).saddles = s.saddles := rfl
@[simp] theorem State.modVale_passLinks (s : State) (v : Nat) (f : Vale → Vale) : (s.modVale v f).passLinks = s.passLinks := rfl
@[simp] theorem State.modVale_takes (s : State) (v : Nat) (f : Vale → Vale) : (s.modVale v f).takes = s.takes := rfl
@[simp] theorem State.modVale_claims (s : State) (v : Nat) (f : Vale → Vale) : (s.modVale v f).claims = s.claims := rfl
@[simp] theorem State.modVale_window (s : State) (v : Nat) (f : Vale → Vale) : (s.modVale v f).window = s.window := rfl
@[simp] theorem State.modVale_ide (s : State) (v : Nat) (f : Vale → Vale) : (s.modVale v f).ide = s.ide := rfl
@[simp] theorem State.modVale_spdm (s : State) (v : Nat) (f : Vale → Vale) : (s.modVale v f).spdm = s.spdm := rfl
@[simp] theorem State.modVale_reply (s : State) (v : Nat) (f : Vale → Vale) : (s.modVale v f).reply = s.reply := rfl
@[simp] theorem State.modVale_exports (s : State) (v : Nat) (f : Vale → Vale) : (s.modVale v f).exports = s.exports := rfl
@[simp] theorem State.modVale_pkgCe (s : State) (v : Nat) (f : Vale → Vale) : (s.modVale v f).pkgCe = s.pkgCe := rfl

/-! ## State.modVd -/
@[simp] theorem State.modVd_agenda (s : State) (v d : Nat) (f : Vd → Vd) : (s.modVd v d f).agenda = s.agenda := rfl
@[simp] theorem State.modVd_clock (s : State) (v d : Nat) (f : Vd → Vd) : (s.modVd v d f).clock = s.clock := rfl
@[simp] theorem State.modVd_cur (s : State) (v d : Nat) (f : Vd → Vd) : (s.modVd v d f).cur = s.cur := rfl
@[simp] theorem State.modVd_defer (s : State) (v d : Nat) (f : Vd → Vd) : (s.modVd v d f).defer = s.defer := rfl
@[simp] theorem State.modVd_freeCount (s : State) (v d : Nat) (f : Vd → Vd) : (s.modVd v d f).freeCount = s.freeCount := rfl
@[simp] theorem State.modVd_turns (s : State) (v d : Nat) (f : Vd → Vd) : (s.modVd v d f).turns = s.turns := rfl
@[simp] theorem State.modVd_sinceTick (s : State) (v d : Nat) (f : Vd → Vd) : (s.modVd v d f).sinceTick = s.sinceTick := rfl
@[simp] theorem State.modVd_nextId (s : State) (v d : Nat) (f : Vd → Vd) : (s.modVd v d f).nextId = s.nextId := rfl
@[simp] theorem State.modVd_tod (s : State) (v d : Nat) (f : Vd → Vd) : (s.modVd v d f).tod = s.tod := rfl
@[simp] theorem State.modVd_bootStat (s : State) (v d : Nat) (f : Vd → Vd) : (s.modVd v d f).bootStat = s.bootStat := rfl
@[simp] theorem State.modVd_failStep (s : State) (v d : Nat) (f : Vd → Vd) : (s.modVd v d f).failStep = s.failStep := rfl
@[simp] theorem State.modVd_bootStep (s : State) (v d : Nat) (f : Vd → Vd) : (s.modVd v d f).bootStep = s.bootStep := rfl
@[simp] theorem State.modVd_lifecycle (s : State) (v d : Nat) (f : Vd → Vd) : (s.modVd v d f).lifecycle = s.lifecycle := rfl
@[simp] theorem State.modVd_lcStat (s : State) (v d : Nat) (f : Vd → Vd) : (s.modVd v d f).lcStat = s.lcStat := rfl
@[simp] theorem State.modVd_lcReq (s : State) (v d : Nat) (f : Vd → Vd) : (s.modVd v d f).lcReq = s.lcReq := rfl
@[simp] theorem State.modVd_lcPending (s : State) (v d : Nat) (f : Vd → Vd) : (s.modVd v d f).lcPending = s.lcPending := rfl
@[simp] theorem State.modVd_lcToken (s : State) (v d : Nat) (f : Vd → Vd) : (s.modVd v d f).lcToken = s.lcToken := rfl
@[simp] theorem State.modVd_stackGib (s : State) (v d : Nat) (f : Vd → Vd) : (s.modVd v d f).stackGib = s.stackGib := rfl
@[simp] theorem State.modVd_pkgId (s : State) (v d : Nat) (f : Vd → Vd) : (s.modVd v d f).pkgId = s.pkgId := rfl
@[simp] theorem State.modVd_hlWidth (s : State) (v d : Nat) (f : Vd → Vd) : (s.modVd v d f).hlWidth = s.hlWidth := rfl
@[simp] theorem State.modVd_hlRate (s : State) (v d : Nat) (f : Vd → Vd) : (s.modVd v d f).hlRate = s.hlRate := rfl
@[simp] theorem State.modVd_tsync (s : State) (v d : Nat) (f : Vd → Vd) : (s.modVd v d f).tsync = s.tsync := rfl
@[simp] theorem State.modVd_timeMaster (s : State) (v d : Nat) (f : Vd → Vd) : (s.modVd v d f).timeMaster = s.timeMaster := rfl
@[simp] theorem State.modVd_steer (s : State) (v d : Nat) (f : Vd → Vd) : (s.modVd v d f).steer = s.steer := rfl
@[simp] theorem State.modVd_trayRead (s : State) (v d : Nat) (f : Vd → Vd) : (s.modVd v d f).trayRead = s.trayRead := rfl
@[simp] theorem State.modVd_compared (s : State) (v d : Nat) (f : Vd → Vd) : (s.modVd v d f).compared = s.compared := rfl
@[simp] theorem State.modVd_pfBar (s : State) (v d : Nat) (f : Vd → Vd) : (s.modVd v d f).pfBar = s.pfBar := rfl
@[simp] theorem State.modVd_bars (s : State) (v d : Nat) (f : Vd → Vd) : (s.modVd v d f).bars = s.bars := rfl
@[simp] theorem State.modVd_vfBars (s : State) (v d : Nat) (f : Vd → Vd) : (s.modVd v d f).vfBars = s.vfBars := rfl
@[simp] theorem State.modVd_passUp (s : State) (v d : Nat) (f : Vd → Vd) : (s.modVd v d f).passUp = s.passUp := rfl
@[simp] theorem State.modVd_plimit (s : State) (v d : Nat) (f : Vd → Vd) : (s.modVd v d f).plimit = s.plimit := rfl
@[simp] theorem State.modVd_ilimit (s : State) (v d : Nat) (f : Vd → Vd) : (s.modVd v d f).ilimit = s.ilimit := rfl
@[simp] theorem State.modVd_clkNow (s : State) (v d : Nat) (f : Vd → Vd) : (s.modVd v d f).clkNow = s.clkNow := rfl
@[simp] theorem State.modVd_power (s : State) (v d : Nat) (f : Vd → Vd) : (s.modVd v d f).power = s.power := rfl
@[simp] theorem State.modVd_temps (s : State) (v d : Nat) (f : Vd → Vd) : (s.modVd v d f).temps = s.temps := rfl
@[simp] theorem State.modVd_alarm (s : State) (v d : Nat) (f : Vd → Vd) : (s.modVd v d f).alarm = s.alarm := rfl
@[simp] theorem State.modVd_errBase (s : State) (v d : Nat) (f : Vd → Vd) : (s.modVd v d f).errBase = s.errBase := rfl
@[simp] theorem State.modVd_errCount (s : State) (v d : Nat) (f : Vd → Vd) : (s.modVd v d f).errCount = s.errCount := rfl
@[simp] theorem State.modVd_errHead (s : State) (v d : Nat) (f : Vd → Vd) : (s.modVd v d f).errHead = s.errHead := rfl
@[simp] theorem State.modVd_pf (s : State) (v d : Nat) (f : Vd → Vd) : (s.modVd v d f).pf = s.pf := rfl
@[simp] theorem State.modVd_pageCopy (s : State) (v d : Nat) (f : Vd → Vd) : (s.modVd v d f).pageCopy = s.pageCopy := rfl
@[simp] theorem State.modVd_msix (s : State) (v d : Nat) (f : Vd → Vd) : (s.modVd v d f).msix = s.msix := rfl
@[simp] theorem State.modVd_halted (s : State) (v d : Nat) (f : Vd → Vd) : (s.modVd v d f).halted = s.halted := rfl
@[simp] theorem State.modVd_rootGone (s : State) (v d : Nat) (f : Vd → Vd) : (s.modVd v d f).rootGone = s.rootGone := rfl
@[simp] theorem State.modVd_identity (s : State) (v d : Nat) (f : Vd → Vd) : (s.modVd v d f).identity = s.identity := rfl
@[simp] theorem State.modVd_revoked (s : State) (v d : Nat) (f : Vd → Vd) : (s.modVd v d f).revoked = s.revoked := rfl
@[simp] theorem State.modVd_svnMin (s : State) (v d : Nat) (f : Vd → Vd) : (s.modVd v d f).svnMin = s.svnMin := rfl
@[simp] theorem State.modVd_measured (s : State) (v d : Nat) (f : Vd → Vd) : (s.modVd v d f).measured = s.measured := rfl
@[simp] theorem State.modVd_certSlots (s : State) (v d : Nat) (f : Vd → Vd) : (s.modVd v d f).certSlots = s.certSlots := rfl
@[simp] theorem State.modVd_mem (s : State) (v d : Nat) (f : Vd → Vd) : (s.modVd v d f).mem = s.mem := rfl
@[simp] theorem State.modVd_poison (s : State) (v d : Nat) (f : Vd → Vd) : (s.modVd v d f).poison = s.poison := rfl
@[simp] theorem State.modVd_glens (s : State) (v d : Nat) (f : Vd → Vd) : (s.modVd v d f).glens = s.glens := rfl
@[simp] theorem State.modVd_cores (s : State) (v d : Nat) (f : Vd → Vd) : (s.modVd v d f).cores = s.cores := rfl
@[simp] theorem State.modVd_jobs (s : State) (v d : Nat) (f : Vd → Vd) : (s.modVd v d f).jobs = s.jobs := rfl
@[simp] theorem State.modVd_blocks (s : State) (v d : Nat) (f : Vd → Vd) : (s.modVd v d f).blocks = s.blocks := rfl
@[simp] theorem State.modVd_clusters (s : State) (v d : Nat) (f : Vd → Vd) : (s.modVd v d f).clusters = s.clusters := rfl
@[simp] theorem State.modVd_waves (s : State) (v d : Nat) (f : Vd → Vd) : (s.modVd v d f).waves = s.waves := rfl
@[simp] theorem State.modVd_inflight (s : State) (v d : Nat) (f : Vd → Vd) : (s.modVd v d f).inflight = s.inflight := rfl
@[simp] theorem State.modVd_updates (s : State) (v d : Nat) (f : Vd → Vd) : (s.modVd v d f).updates = s.updates := rfl
@[simp] theorem State.modVd_known (s : State) (v d : Nat) (f : Vd → Vd) : (s.modVd v d f).known = s.known := rfl
@[simp] theorem State.modVd_applied (s : State) (v d : Nat) (f : Vd → Vd) : (s.modVd v d f).applied = s.applied := rfl
@[simp] theorem State.modVd_relSeq (s : State) (v d : Nat) (f : Vd → Vd) : (s.modVd v d f).relSeq = s.relSeq := rfl
@[simp] theorem State.modVd_dieTlb (s : State) (v d : Nat) (f : Vd → Vd) : (s.modVd v d f).dieTlb = s.dieTlb := rfl
@[simp] theorem State.modVd_outReqs (s : State) (v d : Nat) (f : Vd → Vd) : (s.modVd v d f).outReqs = s.outReqs := rfl
@[simp] theorem State.modVd_engGot (s : State) (v d : Nat) (f : Vd → Vd) : (s.modVd v d f).engGot = s.engGot := rfl
@[simp] theorem State.modVd_outSeq (s : State) (v d : Nat) (f : Vd → Vd) : (s.modVd v d f).outSeq = s.outSeq := rfl
@[simp] theorem State.modVd_inSeen (s : State) (v d : Nat) (f : Vd → Vd) : (s.modVd v d f).inSeen = s.inSeen := rfl
@[simp] theorem State.modVd_imports (s : State) (v d : Nat) (f : Vd → Vd) : (s.modVd v d f).imports = s.imports := rfl
@[simp] theorem State.modVd_pairKeys (s : State) (v d : Nat) (f : Vd → Vd) : (s.modVd v d f).pairKeys = s.pairKeys := rfl
@[simp] theorem State.modVd_pairKeysIn (s : State) (v d : Nat) (f : Vd → Vd) : (s.modVd v d f).pairKeysIn = s.pairKeysIn := rfl
@[simp] theorem State.modVd_leases (s : State) (v d : Nat) (f : Vd → Vd) : (s.modVd v d f).leases = s.leases := rfl
@[simp] theorem State.modVd_invals (s : State) (v d : Nat) (f : Vd → Vd) : (s.modVd v d f).invals = s.invals := rfl
@[simp] theorem State.modVd_migrations (s : State) (v d : Nat) (f : Vd → Vd) : (s.modVd v d f).migrations = s.migrations := rfl
@[simp] theorem State.modVd_saddles (s : State) (v d : Nat) (f : Vd → Vd) : (s.modVd v d f).saddles = s.saddles := rfl
@[simp] theorem State.modVd_passLinks (s : State) (v d : Nat) (f : Vd → Vd) : (s.modVd v d f).passLinks = s.passLinks := rfl
@[simp] theorem State.modVd_takes (s : State) (v d : Nat) (f : Vd → Vd) : (s.modVd v d f).takes = s.takes := rfl
@[simp] theorem State.modVd_claims (s : State) (v d : Nat) (f : Vd → Vd) : (s.modVd v d f).claims = s.claims := rfl
@[simp] theorem State.modVd_window (s : State) (v d : Nat) (f : Vd → Vd) : (s.modVd v d f).window = s.window := rfl
@[simp] theorem State.modVd_ide (s : State) (v d : Nat) (f : Vd → Vd) : (s.modVd v d f).ide = s.ide := rfl
@[simp] theorem State.modVd_spdm (s : State) (v d : Nat) (f : Vd → Vd) : (s.modVd v d f).spdm = s.spdm := rfl
@[simp] theorem State.modVd_reply (s : State) (v d : Nat) (f : Vd → Vd) : (s.modVd v d f).reply = s.reply := rfl
@[simp] theorem State.modVd_exports (s : State) (v d : Nat) (f : Vd → Vd) : (s.modVd v d f).exports = s.exports := rfl
@[simp] theorem State.modVd_pkgCe (s : State) (v d : Nat) (f : Vd → Vd) : (s.modVd v d f).pkgCe = s.pkgCe := rfl

/-! ## State.modCore -/
@[simp] theorem State.modCore_agenda (s : State) (c : Nat) (f : Core → Core) : (s.modCore c f).agenda = s.agenda := rfl
@[simp] theorem State.modCore_clock (s : State) (c : Nat) (f : Core → Core) : (s.modCore c f).clock = s.clock := rfl
@[simp] theorem State.modCore_cur (s : State) (c : Nat) (f : Core → Core) : (s.modCore c f).cur = s.cur := rfl
@[simp] theorem State.modCore_defer (s : State) (c : Nat) (f : Core → Core) : (s.modCore c f).defer = s.defer := rfl
@[simp] theorem State.modCore_freeCount (s : State) (c : Nat) (f : Core → Core) : (s.modCore c f).freeCount = s.freeCount := rfl
@[simp] theorem State.modCore_turns (s : State) (c : Nat) (f : Core → Core) : (s.modCore c f).turns = s.turns := rfl
@[simp] theorem State.modCore_sinceTick (s : State) (c : Nat) (f : Core → Core) : (s.modCore c f).sinceTick = s.sinceTick := rfl
@[simp] theorem State.modCore_nextId (s : State) (c : Nat) (f : Core → Core) : (s.modCore c f).nextId = s.nextId := rfl
@[simp] theorem State.modCore_tod (s : State) (c : Nat) (f : Core → Core) : (s.modCore c f).tod = s.tod := rfl
@[simp] theorem State.modCore_bootStat (s : State) (c : Nat) (f : Core → Core) : (s.modCore c f).bootStat = s.bootStat := rfl
@[simp] theorem State.modCore_failStep (s : State) (c : Nat) (f : Core → Core) : (s.modCore c f).failStep = s.failStep := rfl
@[simp] theorem State.modCore_bootStep (s : State) (c : Nat) (f : Core → Core) : (s.modCore c f).bootStep = s.bootStep := rfl
@[simp] theorem State.modCore_lifecycle (s : State) (c : Nat) (f : Core → Core) : (s.modCore c f).lifecycle = s.lifecycle := rfl
@[simp] theorem State.modCore_lcStat (s : State) (c : Nat) (f : Core → Core) : (s.modCore c f).lcStat = s.lcStat := rfl
@[simp] theorem State.modCore_lcReq (s : State) (c : Nat) (f : Core → Core) : (s.modCore c f).lcReq = s.lcReq := rfl
@[simp] theorem State.modCore_lcPending (s : State) (c : Nat) (f : Core → Core) : (s.modCore c f).lcPending = s.lcPending := rfl
@[simp] theorem State.modCore_lcToken (s : State) (c : Nat) (f : Core → Core) : (s.modCore c f).lcToken = s.lcToken := rfl
@[simp] theorem State.modCore_stackGib (s : State) (c : Nat) (f : Core → Core) : (s.modCore c f).stackGib = s.stackGib := rfl
@[simp] theorem State.modCore_pkgId (s : State) (c : Nat) (f : Core → Core) : (s.modCore c f).pkgId = s.pkgId := rfl
@[simp] theorem State.modCore_hlWidth (s : State) (c : Nat) (f : Core → Core) : (s.modCore c f).hlWidth = s.hlWidth := rfl
@[simp] theorem State.modCore_hlRate (s : State) (c : Nat) (f : Core → Core) : (s.modCore c f).hlRate = s.hlRate := rfl
@[simp] theorem State.modCore_tsync (s : State) (c : Nat) (f : Core → Core) : (s.modCore c f).tsync = s.tsync := rfl
@[simp] theorem State.modCore_timeMaster (s : State) (c : Nat) (f : Core → Core) : (s.modCore c f).timeMaster = s.timeMaster := rfl
@[simp] theorem State.modCore_steer (s : State) (c : Nat) (f : Core → Core) : (s.modCore c f).steer = s.steer := rfl
@[simp] theorem State.modCore_trayRead (s : State) (c : Nat) (f : Core → Core) : (s.modCore c f).trayRead = s.trayRead := rfl
@[simp] theorem State.modCore_compared (s : State) (c : Nat) (f : Core → Core) : (s.modCore c f).compared = s.compared := rfl
@[simp] theorem State.modCore_pfBar (s : State) (c : Nat) (f : Core → Core) : (s.modCore c f).pfBar = s.pfBar := rfl
@[simp] theorem State.modCore_bars (s : State) (c : Nat) (f : Core → Core) : (s.modCore c f).bars = s.bars := rfl
@[simp] theorem State.modCore_vfBars (s : State) (c : Nat) (f : Core → Core) : (s.modCore c f).vfBars = s.vfBars := rfl
@[simp] theorem State.modCore_passUp (s : State) (c : Nat) (f : Core → Core) : (s.modCore c f).passUp = s.passUp := rfl
@[simp] theorem State.modCore_plimit (s : State) (c : Nat) (f : Core → Core) : (s.modCore c f).plimit = s.plimit := rfl
@[simp] theorem State.modCore_ilimit (s : State) (c : Nat) (f : Core → Core) : (s.modCore c f).ilimit = s.ilimit := rfl
@[simp] theorem State.modCore_clkNow (s : State) (c : Nat) (f : Core → Core) : (s.modCore c f).clkNow = s.clkNow := rfl
@[simp] theorem State.modCore_power (s : State) (c : Nat) (f : Core → Core) : (s.modCore c f).power = s.power := rfl
@[simp] theorem State.modCore_temps (s : State) (c : Nat) (f : Core → Core) : (s.modCore c f).temps = s.temps := rfl
@[simp] theorem State.modCore_alarm (s : State) (c : Nat) (f : Core → Core) : (s.modCore c f).alarm = s.alarm := rfl
@[simp] theorem State.modCore_errBase (s : State) (c : Nat) (f : Core → Core) : (s.modCore c f).errBase = s.errBase := rfl
@[simp] theorem State.modCore_errCount (s : State) (c : Nat) (f : Core → Core) : (s.modCore c f).errCount = s.errCount := rfl
@[simp] theorem State.modCore_errHead (s : State) (c : Nat) (f : Core → Core) : (s.modCore c f).errHead = s.errHead := rfl
@[simp] theorem State.modCore_pf (s : State) (c : Nat) (f : Core → Core) : (s.modCore c f).pf = s.pf := rfl
@[simp] theorem State.modCore_pageCopy (s : State) (c : Nat) (f : Core → Core) : (s.modCore c f).pageCopy = s.pageCopy := rfl
@[simp] theorem State.modCore_msix (s : State) (c : Nat) (f : Core → Core) : (s.modCore c f).msix = s.msix := rfl
@[simp] theorem State.modCore_halted (s : State) (c : Nat) (f : Core → Core) : (s.modCore c f).halted = s.halted := rfl
@[simp] theorem State.modCore_rootGone (s : State) (c : Nat) (f : Core → Core) : (s.modCore c f).rootGone = s.rootGone := rfl
@[simp] theorem State.modCore_identity (s : State) (c : Nat) (f : Core → Core) : (s.modCore c f).identity = s.identity := rfl
@[simp] theorem State.modCore_revoked (s : State) (c : Nat) (f : Core → Core) : (s.modCore c f).revoked = s.revoked := rfl
@[simp] theorem State.modCore_svnMin (s : State) (c : Nat) (f : Core → Core) : (s.modCore c f).svnMin = s.svnMin := rfl
@[simp] theorem State.modCore_measured (s : State) (c : Nat) (f : Core → Core) : (s.modCore c f).measured = s.measured := rfl
@[simp] theorem State.modCore_certSlots (s : State) (c : Nat) (f : Core → Core) : (s.modCore c f).certSlots = s.certSlots := rfl
@[simp] theorem State.modCore_mem (s : State) (c : Nat) (f : Core → Core) : (s.modCore c f).mem = s.mem := rfl
@[simp] theorem State.modCore_poison (s : State) (c : Nat) (f : Core → Core) : (s.modCore c f).poison = s.poison := rfl
@[simp] theorem State.modCore_vales (s : State) (c : Nat) (f : Core → Core) : (s.modCore c f).vales = s.vales := rfl
@[simp] theorem State.modCore_glens (s : State) (c : Nat) (f : Core → Core) : (s.modCore c f).glens = s.glens := rfl
@[simp] theorem State.modCore_jobs (s : State) (c : Nat) (f : Core → Core) : (s.modCore c f).jobs = s.jobs := rfl
@[simp] theorem State.modCore_blocks (s : State) (c : Nat) (f : Core → Core) : (s.modCore c f).blocks = s.blocks := rfl
@[simp] theorem State.modCore_clusters (s : State) (c : Nat) (f : Core → Core) : (s.modCore c f).clusters = s.clusters := rfl
@[simp] theorem State.modCore_waves (s : State) (c : Nat) (f : Core → Core) : (s.modCore c f).waves = s.waves := rfl
@[simp] theorem State.modCore_inflight (s : State) (c : Nat) (f : Core → Core) : (s.modCore c f).inflight = s.inflight := rfl
@[simp] theorem State.modCore_updates (s : State) (c : Nat) (f : Core → Core) : (s.modCore c f).updates = s.updates := rfl
@[simp] theorem State.modCore_known (s : State) (c : Nat) (f : Core → Core) : (s.modCore c f).known = s.known := rfl
@[simp] theorem State.modCore_applied (s : State) (c : Nat) (f : Core → Core) : (s.modCore c f).applied = s.applied := rfl
@[simp] theorem State.modCore_relSeq (s : State) (c : Nat) (f : Core → Core) : (s.modCore c f).relSeq = s.relSeq := rfl
@[simp] theorem State.modCore_dieTlb (s : State) (c : Nat) (f : Core → Core) : (s.modCore c f).dieTlb = s.dieTlb := rfl
@[simp] theorem State.modCore_outReqs (s : State) (c : Nat) (f : Core → Core) : (s.modCore c f).outReqs = s.outReqs := rfl
@[simp] theorem State.modCore_engGot (s : State) (c : Nat) (f : Core → Core) : (s.modCore c f).engGot = s.engGot := rfl
@[simp] theorem State.modCore_outSeq (s : State) (c : Nat) (f : Core → Core) : (s.modCore c f).outSeq = s.outSeq := rfl
@[simp] theorem State.modCore_inSeen (s : State) (c : Nat) (f : Core → Core) : (s.modCore c f).inSeen = s.inSeen := rfl
@[simp] theorem State.modCore_imports (s : State) (c : Nat) (f : Core → Core) : (s.modCore c f).imports = s.imports := rfl
@[simp] theorem State.modCore_pairKeys (s : State) (c : Nat) (f : Core → Core) : (s.modCore c f).pairKeys = s.pairKeys := rfl
@[simp] theorem State.modCore_pairKeysIn (s : State) (c : Nat) (f : Core → Core) : (s.modCore c f).pairKeysIn = s.pairKeysIn := rfl
@[simp] theorem State.modCore_leases (s : State) (c : Nat) (f : Core → Core) : (s.modCore c f).leases = s.leases := rfl
@[simp] theorem State.modCore_invals (s : State) (c : Nat) (f : Core → Core) : (s.modCore c f).invals = s.invals := rfl
@[simp] theorem State.modCore_migrations (s : State) (c : Nat) (f : Core → Core) : (s.modCore c f).migrations = s.migrations := rfl
@[simp] theorem State.modCore_saddles (s : State) (c : Nat) (f : Core → Core) : (s.modCore c f).saddles = s.saddles := rfl
@[simp] theorem State.modCore_passLinks (s : State) (c : Nat) (f : Core → Core) : (s.modCore c f).passLinks = s.passLinks := rfl
@[simp] theorem State.modCore_takes (s : State) (c : Nat) (f : Core → Core) : (s.modCore c f).takes = s.takes := rfl
@[simp] theorem State.modCore_claims (s : State) (c : Nat) (f : Core → Core) : (s.modCore c f).claims = s.claims := rfl
@[simp] theorem State.modCore_window (s : State) (c : Nat) (f : Core → Core) : (s.modCore c f).window = s.window := rfl
@[simp] theorem State.modCore_ide (s : State) (c : Nat) (f : Core → Core) : (s.modCore c f).ide = s.ide := rfl
@[simp] theorem State.modCore_spdm (s : State) (c : Nat) (f : Core → Core) : (s.modCore c f).spdm = s.spdm := rfl
@[simp] theorem State.modCore_reply (s : State) (c : Nat) (f : Core → Core) : (s.modCore c f).reply = s.reply := rfl
@[simp] theorem State.modCore_exports (s : State) (c : Nat) (f : Core → Core) : (s.modCore c f).exports = s.exports := rfl
@[simp] theorem State.modCore_pkgCe (s : State) (c : Nat) (f : Core → Core) : (s.modCore c f).pkgCe = s.pkgCe := rfl

/-! ## State.modGlen -/
@[simp] theorem State.modGlen_agenda (s : State) (g : Nat) (f : Glen → Glen) : (s.modGlen g f).agenda = s.agenda := rfl
@[simp] theorem State.modGlen_clock (s : State) (g : Nat) (f : Glen → Glen) : (s.modGlen g f).clock = s.clock := rfl
@[simp] theorem State.modGlen_cur (s : State) (g : Nat) (f : Glen → Glen) : (s.modGlen g f).cur = s.cur := rfl
@[simp] theorem State.modGlen_defer (s : State) (g : Nat) (f : Glen → Glen) : (s.modGlen g f).defer = s.defer := rfl
@[simp] theorem State.modGlen_freeCount (s : State) (g : Nat) (f : Glen → Glen) : (s.modGlen g f).freeCount = s.freeCount := rfl
@[simp] theorem State.modGlen_turns (s : State) (g : Nat) (f : Glen → Glen) : (s.modGlen g f).turns = s.turns := rfl
@[simp] theorem State.modGlen_sinceTick (s : State) (g : Nat) (f : Glen → Glen) : (s.modGlen g f).sinceTick = s.sinceTick := rfl
@[simp] theorem State.modGlen_nextId (s : State) (g : Nat) (f : Glen → Glen) : (s.modGlen g f).nextId = s.nextId := rfl
@[simp] theorem State.modGlen_tod (s : State) (g : Nat) (f : Glen → Glen) : (s.modGlen g f).tod = s.tod := rfl
@[simp] theorem State.modGlen_bootStat (s : State) (g : Nat) (f : Glen → Glen) : (s.modGlen g f).bootStat = s.bootStat := rfl
@[simp] theorem State.modGlen_failStep (s : State) (g : Nat) (f : Glen → Glen) : (s.modGlen g f).failStep = s.failStep := rfl
@[simp] theorem State.modGlen_bootStep (s : State) (g : Nat) (f : Glen → Glen) : (s.modGlen g f).bootStep = s.bootStep := rfl
@[simp] theorem State.modGlen_lifecycle (s : State) (g : Nat) (f : Glen → Glen) : (s.modGlen g f).lifecycle = s.lifecycle := rfl
@[simp] theorem State.modGlen_lcStat (s : State) (g : Nat) (f : Glen → Glen) : (s.modGlen g f).lcStat = s.lcStat := rfl
@[simp] theorem State.modGlen_lcReq (s : State) (g : Nat) (f : Glen → Glen) : (s.modGlen g f).lcReq = s.lcReq := rfl
@[simp] theorem State.modGlen_lcPending (s : State) (g : Nat) (f : Glen → Glen) : (s.modGlen g f).lcPending = s.lcPending := rfl
@[simp] theorem State.modGlen_lcToken (s : State) (g : Nat) (f : Glen → Glen) : (s.modGlen g f).lcToken = s.lcToken := rfl
@[simp] theorem State.modGlen_stackGib (s : State) (g : Nat) (f : Glen → Glen) : (s.modGlen g f).stackGib = s.stackGib := rfl
@[simp] theorem State.modGlen_pkgId (s : State) (g : Nat) (f : Glen → Glen) : (s.modGlen g f).pkgId = s.pkgId := rfl
@[simp] theorem State.modGlen_hlWidth (s : State) (g : Nat) (f : Glen → Glen) : (s.modGlen g f).hlWidth = s.hlWidth := rfl
@[simp] theorem State.modGlen_hlRate (s : State) (g : Nat) (f : Glen → Glen) : (s.modGlen g f).hlRate = s.hlRate := rfl
@[simp] theorem State.modGlen_tsync (s : State) (g : Nat) (f : Glen → Glen) : (s.modGlen g f).tsync = s.tsync := rfl
@[simp] theorem State.modGlen_timeMaster (s : State) (g : Nat) (f : Glen → Glen) : (s.modGlen g f).timeMaster = s.timeMaster := rfl
@[simp] theorem State.modGlen_steer (s : State) (g : Nat) (f : Glen → Glen) : (s.modGlen g f).steer = s.steer := rfl
@[simp] theorem State.modGlen_trayRead (s : State) (g : Nat) (f : Glen → Glen) : (s.modGlen g f).trayRead = s.trayRead := rfl
@[simp] theorem State.modGlen_compared (s : State) (g : Nat) (f : Glen → Glen) : (s.modGlen g f).compared = s.compared := rfl
@[simp] theorem State.modGlen_pfBar (s : State) (g : Nat) (f : Glen → Glen) : (s.modGlen g f).pfBar = s.pfBar := rfl
@[simp] theorem State.modGlen_bars (s : State) (g : Nat) (f : Glen → Glen) : (s.modGlen g f).bars = s.bars := rfl
@[simp] theorem State.modGlen_vfBars (s : State) (g : Nat) (f : Glen → Glen) : (s.modGlen g f).vfBars = s.vfBars := rfl
@[simp] theorem State.modGlen_passUp (s : State) (g : Nat) (f : Glen → Glen) : (s.modGlen g f).passUp = s.passUp := rfl
@[simp] theorem State.modGlen_plimit (s : State) (g : Nat) (f : Glen → Glen) : (s.modGlen g f).plimit = s.plimit := rfl
@[simp] theorem State.modGlen_ilimit (s : State) (g : Nat) (f : Glen → Glen) : (s.modGlen g f).ilimit = s.ilimit := rfl
@[simp] theorem State.modGlen_clkNow (s : State) (g : Nat) (f : Glen → Glen) : (s.modGlen g f).clkNow = s.clkNow := rfl
@[simp] theorem State.modGlen_power (s : State) (g : Nat) (f : Glen → Glen) : (s.modGlen g f).power = s.power := rfl
@[simp] theorem State.modGlen_temps (s : State) (g : Nat) (f : Glen → Glen) : (s.modGlen g f).temps = s.temps := rfl
@[simp] theorem State.modGlen_alarm (s : State) (g : Nat) (f : Glen → Glen) : (s.modGlen g f).alarm = s.alarm := rfl
@[simp] theorem State.modGlen_errBase (s : State) (g : Nat) (f : Glen → Glen) : (s.modGlen g f).errBase = s.errBase := rfl
@[simp] theorem State.modGlen_errCount (s : State) (g : Nat) (f : Glen → Glen) : (s.modGlen g f).errCount = s.errCount := rfl
@[simp] theorem State.modGlen_errHead (s : State) (g : Nat) (f : Glen → Glen) : (s.modGlen g f).errHead = s.errHead := rfl
@[simp] theorem State.modGlen_pf (s : State) (g : Nat) (f : Glen → Glen) : (s.modGlen g f).pf = s.pf := rfl
@[simp] theorem State.modGlen_pageCopy (s : State) (g : Nat) (f : Glen → Glen) : (s.modGlen g f).pageCopy = s.pageCopy := rfl
@[simp] theorem State.modGlen_msix (s : State) (g : Nat) (f : Glen → Glen) : (s.modGlen g f).msix = s.msix := rfl
@[simp] theorem State.modGlen_halted (s : State) (g : Nat) (f : Glen → Glen) : (s.modGlen g f).halted = s.halted := rfl
@[simp] theorem State.modGlen_rootGone (s : State) (g : Nat) (f : Glen → Glen) : (s.modGlen g f).rootGone = s.rootGone := rfl
@[simp] theorem State.modGlen_identity (s : State) (g : Nat) (f : Glen → Glen) : (s.modGlen g f).identity = s.identity := rfl
@[simp] theorem State.modGlen_revoked (s : State) (g : Nat) (f : Glen → Glen) : (s.modGlen g f).revoked = s.revoked := rfl
@[simp] theorem State.modGlen_svnMin (s : State) (g : Nat) (f : Glen → Glen) : (s.modGlen g f).svnMin = s.svnMin := rfl
@[simp] theorem State.modGlen_measured (s : State) (g : Nat) (f : Glen → Glen) : (s.modGlen g f).measured = s.measured := rfl
@[simp] theorem State.modGlen_certSlots (s : State) (g : Nat) (f : Glen → Glen) : (s.modGlen g f).certSlots = s.certSlots := rfl
@[simp] theorem State.modGlen_mem (s : State) (g : Nat) (f : Glen → Glen) : (s.modGlen g f).mem = s.mem := rfl
@[simp] theorem State.modGlen_poison (s : State) (g : Nat) (f : Glen → Glen) : (s.modGlen g f).poison = s.poison := rfl
@[simp] theorem State.modGlen_vales (s : State) (g : Nat) (f : Glen → Glen) : (s.modGlen g f).vales = s.vales := rfl
@[simp] theorem State.modGlen_cores (s : State) (g : Nat) (f : Glen → Glen) : (s.modGlen g f).cores = s.cores := rfl
@[simp] theorem State.modGlen_jobs (s : State) (g : Nat) (f : Glen → Glen) : (s.modGlen g f).jobs = s.jobs := rfl
@[simp] theorem State.modGlen_blocks (s : State) (g : Nat) (f : Glen → Glen) : (s.modGlen g f).blocks = s.blocks := rfl
@[simp] theorem State.modGlen_clusters (s : State) (g : Nat) (f : Glen → Glen) : (s.modGlen g f).clusters = s.clusters := rfl
@[simp] theorem State.modGlen_waves (s : State) (g : Nat) (f : Glen → Glen) : (s.modGlen g f).waves = s.waves := rfl
@[simp] theorem State.modGlen_inflight (s : State) (g : Nat) (f : Glen → Glen) : (s.modGlen g f).inflight = s.inflight := rfl
@[simp] theorem State.modGlen_updates (s : State) (g : Nat) (f : Glen → Glen) : (s.modGlen g f).updates = s.updates := rfl
@[simp] theorem State.modGlen_known (s : State) (g : Nat) (f : Glen → Glen) : (s.modGlen g f).known = s.known := rfl
@[simp] theorem State.modGlen_applied (s : State) (g : Nat) (f : Glen → Glen) : (s.modGlen g f).applied = s.applied := rfl
@[simp] theorem State.modGlen_relSeq (s : State) (g : Nat) (f : Glen → Glen) : (s.modGlen g f).relSeq = s.relSeq := rfl
@[simp] theorem State.modGlen_dieTlb (s : State) (g : Nat) (f : Glen → Glen) : (s.modGlen g f).dieTlb = s.dieTlb := rfl
@[simp] theorem State.modGlen_outReqs (s : State) (g : Nat) (f : Glen → Glen) : (s.modGlen g f).outReqs = s.outReqs := rfl
@[simp] theorem State.modGlen_engGot (s : State) (g : Nat) (f : Glen → Glen) : (s.modGlen g f).engGot = s.engGot := rfl
@[simp] theorem State.modGlen_outSeq (s : State) (g : Nat) (f : Glen → Glen) : (s.modGlen g f).outSeq = s.outSeq := rfl
@[simp] theorem State.modGlen_inSeen (s : State) (g : Nat) (f : Glen → Glen) : (s.modGlen g f).inSeen = s.inSeen := rfl
@[simp] theorem State.modGlen_imports (s : State) (g : Nat) (f : Glen → Glen) : (s.modGlen g f).imports = s.imports := rfl
@[simp] theorem State.modGlen_pairKeys (s : State) (g : Nat) (f : Glen → Glen) : (s.modGlen g f).pairKeys = s.pairKeys := rfl
@[simp] theorem State.modGlen_pairKeysIn (s : State) (g : Nat) (f : Glen → Glen) : (s.modGlen g f).pairKeysIn = s.pairKeysIn := rfl
@[simp] theorem State.modGlen_leases (s : State) (g : Nat) (f : Glen → Glen) : (s.modGlen g f).leases = s.leases := rfl
@[simp] theorem State.modGlen_invals (s : State) (g : Nat) (f : Glen → Glen) : (s.modGlen g f).invals = s.invals := rfl
@[simp] theorem State.modGlen_migrations (s : State) (g : Nat) (f : Glen → Glen) : (s.modGlen g f).migrations = s.migrations := rfl
@[simp] theorem State.modGlen_saddles (s : State) (g : Nat) (f : Glen → Glen) : (s.modGlen g f).saddles = s.saddles := rfl
@[simp] theorem State.modGlen_passLinks (s : State) (g : Nat) (f : Glen → Glen) : (s.modGlen g f).passLinks = s.passLinks := rfl
@[simp] theorem State.modGlen_takes (s : State) (g : Nat) (f : Glen → Glen) : (s.modGlen g f).takes = s.takes := rfl
@[simp] theorem State.modGlen_claims (s : State) (g : Nat) (f : Glen → Glen) : (s.modGlen g f).claims = s.claims := rfl
@[simp] theorem State.modGlen_window (s : State) (g : Nat) (f : Glen → Glen) : (s.modGlen g f).window = s.window := rfl
@[simp] theorem State.modGlen_ide (s : State) (g : Nat) (f : Glen → Glen) : (s.modGlen g f).ide = s.ide := rfl
@[simp] theorem State.modGlen_spdm (s : State) (g : Nat) (f : Glen → Glen) : (s.modGlen g f).spdm = s.spdm := rfl
@[simp] theorem State.modGlen_reply (s : State) (g : Nat) (f : Glen → Glen) : (s.modGlen g f).reply = s.reply := rfl
@[simp] theorem State.modGlen_exports (s : State) (g : Nat) (f : Glen → Glen) : (s.modGlen g f).exports = s.exports := rfl
@[simp] theorem State.modGlen_pkgCe (s : State) (g : Nat) (f : Glen → Glen) : (s.modGlen g f).pkgCe = s.pkgCe := rfl

/-! ## writeMem -/
@[simp] theorem writeMem_agenda (s : State) (k : Nat) (bs : List Byte) : (writeMem s k bs).agenda = s.agenda := rfl
@[simp] theorem writeMem_clock (s : State) (k : Nat) (bs : List Byte) : (writeMem s k bs).clock = s.clock := rfl
@[simp] theorem writeMem_cur (s : State) (k : Nat) (bs : List Byte) : (writeMem s k bs).cur = s.cur := rfl
@[simp] theorem writeMem_defer (s : State) (k : Nat) (bs : List Byte) : (writeMem s k bs).defer = s.defer := rfl
@[simp] theorem writeMem_freeCount (s : State) (k : Nat) (bs : List Byte) : (writeMem s k bs).freeCount = s.freeCount := rfl
@[simp] theorem writeMem_turns (s : State) (k : Nat) (bs : List Byte) : (writeMem s k bs).turns = s.turns := rfl
@[simp] theorem writeMem_sinceTick (s : State) (k : Nat) (bs : List Byte) : (writeMem s k bs).sinceTick = s.sinceTick := rfl
@[simp] theorem writeMem_nextId (s : State) (k : Nat) (bs : List Byte) : (writeMem s k bs).nextId = s.nextId := rfl
@[simp] theorem writeMem_tod (s : State) (k : Nat) (bs : List Byte) : (writeMem s k bs).tod = s.tod := rfl
@[simp] theorem writeMem_bootStat (s : State) (k : Nat) (bs : List Byte) : (writeMem s k bs).bootStat = s.bootStat := rfl
@[simp] theorem writeMem_failStep (s : State) (k : Nat) (bs : List Byte) : (writeMem s k bs).failStep = s.failStep := rfl
@[simp] theorem writeMem_bootStep (s : State) (k : Nat) (bs : List Byte) : (writeMem s k bs).bootStep = s.bootStep := rfl
@[simp] theorem writeMem_lifecycle (s : State) (k : Nat) (bs : List Byte) : (writeMem s k bs).lifecycle = s.lifecycle := rfl
@[simp] theorem writeMem_lcStat (s : State) (k : Nat) (bs : List Byte) : (writeMem s k bs).lcStat = s.lcStat := rfl
@[simp] theorem writeMem_lcReq (s : State) (k : Nat) (bs : List Byte) : (writeMem s k bs).lcReq = s.lcReq := rfl
@[simp] theorem writeMem_lcPending (s : State) (k : Nat) (bs : List Byte) : (writeMem s k bs).lcPending = s.lcPending := rfl
@[simp] theorem writeMem_lcToken (s : State) (k : Nat) (bs : List Byte) : (writeMem s k bs).lcToken = s.lcToken := rfl
@[simp] theorem writeMem_stackGib (s : State) (k : Nat) (bs : List Byte) : (writeMem s k bs).stackGib = s.stackGib := rfl
@[simp] theorem writeMem_pkgId (s : State) (k : Nat) (bs : List Byte) : (writeMem s k bs).pkgId = s.pkgId := rfl
@[simp] theorem writeMem_hlWidth (s : State) (k : Nat) (bs : List Byte) : (writeMem s k bs).hlWidth = s.hlWidth := rfl
@[simp] theorem writeMem_hlRate (s : State) (k : Nat) (bs : List Byte) : (writeMem s k bs).hlRate = s.hlRate := rfl
@[simp] theorem writeMem_tsync (s : State) (k : Nat) (bs : List Byte) : (writeMem s k bs).tsync = s.tsync := rfl
@[simp] theorem writeMem_timeMaster (s : State) (k : Nat) (bs : List Byte) : (writeMem s k bs).timeMaster = s.timeMaster := rfl
@[simp] theorem writeMem_steer (s : State) (k : Nat) (bs : List Byte) : (writeMem s k bs).steer = s.steer := rfl
@[simp] theorem writeMem_trayRead (s : State) (k : Nat) (bs : List Byte) : (writeMem s k bs).trayRead = s.trayRead := rfl
@[simp] theorem writeMem_compared (s : State) (k : Nat) (bs : List Byte) : (writeMem s k bs).compared = s.compared := rfl
@[simp] theorem writeMem_pfBar (s : State) (k : Nat) (bs : List Byte) : (writeMem s k bs).pfBar = s.pfBar := rfl
@[simp] theorem writeMem_bars (s : State) (k : Nat) (bs : List Byte) : (writeMem s k bs).bars = s.bars := rfl
@[simp] theorem writeMem_vfBars (s : State) (k : Nat) (bs : List Byte) : (writeMem s k bs).vfBars = s.vfBars := rfl
@[simp] theorem writeMem_passUp (s : State) (k : Nat) (bs : List Byte) : (writeMem s k bs).passUp = s.passUp := rfl
@[simp] theorem writeMem_plimit (s : State) (k : Nat) (bs : List Byte) : (writeMem s k bs).plimit = s.plimit := rfl
@[simp] theorem writeMem_ilimit (s : State) (k : Nat) (bs : List Byte) : (writeMem s k bs).ilimit = s.ilimit := rfl
@[simp] theorem writeMem_clkNow (s : State) (k : Nat) (bs : List Byte) : (writeMem s k bs).clkNow = s.clkNow := rfl
@[simp] theorem writeMem_power (s : State) (k : Nat) (bs : List Byte) : (writeMem s k bs).power = s.power := rfl
@[simp] theorem writeMem_temps (s : State) (k : Nat) (bs : List Byte) : (writeMem s k bs).temps = s.temps := rfl
@[simp] theorem writeMem_alarm (s : State) (k : Nat) (bs : List Byte) : (writeMem s k bs).alarm = s.alarm := rfl
@[simp] theorem writeMem_errBase (s : State) (k : Nat) (bs : List Byte) : (writeMem s k bs).errBase = s.errBase := rfl
@[simp] theorem writeMem_errCount (s : State) (k : Nat) (bs : List Byte) : (writeMem s k bs).errCount = s.errCount := rfl
@[simp] theorem writeMem_errHead (s : State) (k : Nat) (bs : List Byte) : (writeMem s k bs).errHead = s.errHead := rfl
@[simp] theorem writeMem_pf (s : State) (k : Nat) (bs : List Byte) : (writeMem s k bs).pf = s.pf := rfl
@[simp] theorem writeMem_pageCopy (s : State) (k : Nat) (bs : List Byte) : (writeMem s k bs).pageCopy = s.pageCopy := rfl
@[simp] theorem writeMem_msix (s : State) (k : Nat) (bs : List Byte) : (writeMem s k bs).msix = s.msix := rfl
@[simp] theorem writeMem_halted (s : State) (k : Nat) (bs : List Byte) : (writeMem s k bs).halted = s.halted := rfl
@[simp] theorem writeMem_rootGone (s : State) (k : Nat) (bs : List Byte) : (writeMem s k bs).rootGone = s.rootGone := rfl
@[simp] theorem writeMem_identity (s : State) (k : Nat) (bs : List Byte) : (writeMem s k bs).identity = s.identity := rfl
@[simp] theorem writeMem_revoked (s : State) (k : Nat) (bs : List Byte) : (writeMem s k bs).revoked = s.revoked := rfl
@[simp] theorem writeMem_svnMin (s : State) (k : Nat) (bs : List Byte) : (writeMem s k bs).svnMin = s.svnMin := rfl
@[simp] theorem writeMem_measured (s : State) (k : Nat) (bs : List Byte) : (writeMem s k bs).measured = s.measured := rfl
@[simp] theorem writeMem_certSlots (s : State) (k : Nat) (bs : List Byte) : (writeMem s k bs).certSlots = s.certSlots := rfl
@[simp] theorem writeMem_vales (s : State) (k : Nat) (bs : List Byte) : (writeMem s k bs).vales = s.vales := rfl
@[simp] theorem writeMem_cores (s : State) (k : Nat) (bs : List Byte) : (writeMem s k bs).cores = s.cores := rfl
@[simp] theorem writeMem_jobs (s : State) (k : Nat) (bs : List Byte) : (writeMem s k bs).jobs = s.jobs := rfl
@[simp] theorem writeMem_blocks (s : State) (k : Nat) (bs : List Byte) : (writeMem s k bs).blocks = s.blocks := rfl
@[simp] theorem writeMem_clusters (s : State) (k : Nat) (bs : List Byte) : (writeMem s k bs).clusters = s.clusters := rfl
@[simp] theorem writeMem_waves (s : State) (k : Nat) (bs : List Byte) : (writeMem s k bs).waves = s.waves := rfl
@[simp] theorem writeMem_inflight (s : State) (k : Nat) (bs : List Byte) : (writeMem s k bs).inflight = s.inflight := rfl
@[simp] theorem writeMem_updates (s : State) (k : Nat) (bs : List Byte) : (writeMem s k bs).updates = s.updates := rfl
@[simp] theorem writeMem_known (s : State) (k : Nat) (bs : List Byte) : (writeMem s k bs).known = s.known := rfl
@[simp] theorem writeMem_applied (s : State) (k : Nat) (bs : List Byte) : (writeMem s k bs).applied = s.applied := rfl
@[simp] theorem writeMem_relSeq (s : State) (k : Nat) (bs : List Byte) : (writeMem s k bs).relSeq = s.relSeq := rfl
@[simp] theorem writeMem_dieTlb (s : State) (k : Nat) (bs : List Byte) : (writeMem s k bs).dieTlb = s.dieTlb := rfl
@[simp] theorem writeMem_outReqs (s : State) (k : Nat) (bs : List Byte) : (writeMem s k bs).outReqs = s.outReqs := rfl
@[simp] theorem writeMem_engGot (s : State) (k : Nat) (bs : List Byte) : (writeMem s k bs).engGot = s.engGot := rfl
@[simp] theorem writeMem_outSeq (s : State) (k : Nat) (bs : List Byte) : (writeMem s k bs).outSeq = s.outSeq := rfl
@[simp] theorem writeMem_inSeen (s : State) (k : Nat) (bs : List Byte) : (writeMem s k bs).inSeen = s.inSeen := rfl
@[simp] theorem writeMem_imports (s : State) (k : Nat) (bs : List Byte) : (writeMem s k bs).imports = s.imports := rfl
@[simp] theorem writeMem_pairKeys (s : State) (k : Nat) (bs : List Byte) : (writeMem s k bs).pairKeys = s.pairKeys := rfl
@[simp] theorem writeMem_pairKeysIn (s : State) (k : Nat) (bs : List Byte) : (writeMem s k bs).pairKeysIn = s.pairKeysIn := rfl
@[simp] theorem writeMem_leases (s : State) (k : Nat) (bs : List Byte) : (writeMem s k bs).leases = s.leases := rfl
@[simp] theorem writeMem_invals (s : State) (k : Nat) (bs : List Byte) : (writeMem s k bs).invals = s.invals := rfl
@[simp] theorem writeMem_migrations (s : State) (k : Nat) (bs : List Byte) : (writeMem s k bs).migrations = s.migrations := rfl
@[simp] theorem writeMem_saddles (s : State) (k : Nat) (bs : List Byte) : (writeMem s k bs).saddles = s.saddles := rfl
@[simp] theorem writeMem_passLinks (s : State) (k : Nat) (bs : List Byte) : (writeMem s k bs).passLinks = s.passLinks := rfl
@[simp] theorem writeMem_takes (s : State) (k : Nat) (bs : List Byte) : (writeMem s k bs).takes = s.takes := rfl
@[simp] theorem writeMem_claims (s : State) (k : Nat) (bs : List Byte) : (writeMem s k bs).claims = s.claims := rfl
@[simp] theorem writeMem_window (s : State) (k : Nat) (bs : List Byte) : (writeMem s k bs).window = s.window := rfl
@[simp] theorem writeMem_ide (s : State) (k : Nat) (bs : List Byte) : (writeMem s k bs).ide = s.ide := rfl
@[simp] theorem writeMem_spdm (s : State) (k : Nat) (bs : List Byte) : (writeMem s k bs).spdm = s.spdm := rfl
@[simp] theorem writeMem_reply (s : State) (k : Nat) (bs : List Byte) : (writeMem s k bs).reply = s.reply := rfl
@[simp] theorem writeMem_exports (s : State) (k : Nat) (bs : List Byte) : (writeMem s k bs).exports = s.exports := rfl
@[simp] theorem writeMem_pkgCe (s : State) (k : Nat) (bs : List Byte) : (writeMem s k bs).pkgCe = s.pkgCe := rfl

/-! ## quiet -/
@[simp] theorem quiet_agenda (s : State) : (quiet s).agenda = s.agenda := rfl
@[simp] theorem quiet_clock (s : State) : (quiet s).clock = s.clock := rfl
@[simp] theorem quiet_freeCount (s : State) : (quiet s).freeCount = s.freeCount := rfl
@[simp] theorem quiet_turns (s : State) : (quiet s).turns = s.turns := rfl
@[simp] theorem quiet_sinceTick (s : State) : (quiet s).sinceTick = s.sinceTick := rfl
@[simp] theorem quiet_nextId (s : State) : (quiet s).nextId = s.nextId := rfl
@[simp] theorem quiet_tod (s : State) : (quiet s).tod = s.tod := rfl
@[simp] theorem quiet_bootStat (s : State) : (quiet s).bootStat = s.bootStat := rfl
@[simp] theorem quiet_failStep (s : State) : (quiet s).failStep = s.failStep := rfl
@[simp] theorem quiet_bootStep (s : State) : (quiet s).bootStep = s.bootStep := rfl
@[simp] theorem quiet_lifecycle (s : State) : (quiet s).lifecycle = s.lifecycle := rfl
@[simp] theorem quiet_lcStat (s : State) : (quiet s).lcStat = s.lcStat := rfl
@[simp] theorem quiet_lcReq (s : State) : (quiet s).lcReq = s.lcReq := rfl
@[simp] theorem quiet_lcPending (s : State) : (quiet s).lcPending = s.lcPending := rfl
@[simp] theorem quiet_lcToken (s : State) : (quiet s).lcToken = s.lcToken := rfl
@[simp] theorem quiet_stackGib (s : State) : (quiet s).stackGib = s.stackGib := rfl
@[simp] theorem quiet_pkgId (s : State) : (quiet s).pkgId = s.pkgId := rfl
@[simp] theorem quiet_hlWidth (s : State) : (quiet s).hlWidth = s.hlWidth := rfl
@[simp] theorem quiet_hlRate (s : State) : (quiet s).hlRate = s.hlRate := rfl
@[simp] theorem quiet_tsync (s : State) : (quiet s).tsync = s.tsync := rfl
@[simp] theorem quiet_timeMaster (s : State) : (quiet s).timeMaster = s.timeMaster := rfl
@[simp] theorem quiet_steer (s : State) : (quiet s).steer = s.steer := rfl
@[simp] theorem quiet_trayRead (s : State) : (quiet s).trayRead = s.trayRead := rfl
@[simp] theorem quiet_compared (s : State) : (quiet s).compared = s.compared := rfl
@[simp] theorem quiet_pfBar (s : State) : (quiet s).pfBar = s.pfBar := rfl
@[simp] theorem quiet_bars (s : State) : (quiet s).bars = s.bars := rfl
@[simp] theorem quiet_vfBars (s : State) : (quiet s).vfBars = s.vfBars := rfl
@[simp] theorem quiet_passUp (s : State) : (quiet s).passUp = s.passUp := rfl
@[simp] theorem quiet_plimit (s : State) : (quiet s).plimit = s.plimit := rfl
@[simp] theorem quiet_ilimit (s : State) : (quiet s).ilimit = s.ilimit := rfl
@[simp] theorem quiet_clkNow (s : State) : (quiet s).clkNow = s.clkNow := rfl
@[simp] theorem quiet_power (s : State) : (quiet s).power = s.power := rfl
@[simp] theorem quiet_temps (s : State) : (quiet s).temps = s.temps := rfl
@[simp] theorem quiet_alarm (s : State) : (quiet s).alarm = s.alarm := rfl
@[simp] theorem quiet_errBase (s : State) : (quiet s).errBase = s.errBase := rfl
@[simp] theorem quiet_errCount (s : State) : (quiet s).errCount = s.errCount := rfl
@[simp] theorem quiet_errHead (s : State) : (quiet s).errHead = s.errHead := rfl
@[simp] theorem quiet_pf (s : State) : (quiet s).pf = s.pf := rfl
@[simp] theorem quiet_pageCopy (s : State) : (quiet s).pageCopy = s.pageCopy := rfl
@[simp] theorem quiet_msix (s : State) : (quiet s).msix = s.msix := rfl
@[simp] theorem quiet_halted (s : State) : (quiet s).halted = s.halted := rfl
@[simp] theorem quiet_rootGone (s : State) : (quiet s).rootGone = s.rootGone := rfl
@[simp] theorem quiet_identity (s : State) : (quiet s).identity = s.identity := rfl
@[simp] theorem quiet_revoked (s : State) : (quiet s).revoked = s.revoked := rfl
@[simp] theorem quiet_svnMin (s : State) : (quiet s).svnMin = s.svnMin := rfl
@[simp] theorem quiet_measured (s : State) : (quiet s).measured = s.measured := rfl
@[simp] theorem quiet_certSlots (s : State) : (quiet s).certSlots = s.certSlots := rfl
@[simp] theorem quiet_mem (s : State) : (quiet s).mem = s.mem := rfl
@[simp] theorem quiet_poison (s : State) : (quiet s).poison = s.poison := rfl
@[simp] theorem quiet_vales (s : State) : (quiet s).vales = s.vales := rfl
@[simp] theorem quiet_glens (s : State) : (quiet s).glens = s.glens := rfl
@[simp] theorem quiet_cores (s : State) : (quiet s).cores = s.cores := rfl
@[simp] theorem quiet_jobs (s : State) : (quiet s).jobs = s.jobs := rfl
@[simp] theorem quiet_blocks (s : State) : (quiet s).blocks = s.blocks := rfl
@[simp] theorem quiet_clusters (s : State) : (quiet s).clusters = s.clusters := rfl
@[simp] theorem quiet_waves (s : State) : (quiet s).waves = s.waves := rfl
@[simp] theorem quiet_inflight (s : State) : (quiet s).inflight = s.inflight := rfl
@[simp] theorem quiet_updates (s : State) : (quiet s).updates = s.updates := rfl
@[simp] theorem quiet_known (s : State) : (quiet s).known = s.known := rfl
@[simp] theorem quiet_applied (s : State) : (quiet s).applied = s.applied := rfl
@[simp] theorem quiet_relSeq (s : State) : (quiet s).relSeq = s.relSeq := rfl
@[simp] theorem quiet_dieTlb (s : State) : (quiet s).dieTlb = s.dieTlb := rfl
@[simp] theorem quiet_outReqs (s : State) : (quiet s).outReqs = s.outReqs := rfl
@[simp] theorem quiet_engGot (s : State) : (quiet s).engGot = s.engGot := rfl
@[simp] theorem quiet_outSeq (s : State) : (quiet s).outSeq = s.outSeq := rfl
@[simp] theorem quiet_inSeen (s : State) : (quiet s).inSeen = s.inSeen := rfl
@[simp] theorem quiet_imports (s : State) : (quiet s).imports = s.imports := rfl
@[simp] theorem quiet_pairKeys (s : State) : (quiet s).pairKeys = s.pairKeys := rfl
@[simp] theorem quiet_pairKeysIn (s : State) : (quiet s).pairKeysIn = s.pairKeysIn := rfl
@[simp] theorem quiet_leases (s : State) : (quiet s).leases = s.leases := rfl
@[simp] theorem quiet_invals (s : State) : (quiet s).invals = s.invals := rfl
@[simp] theorem quiet_migrations (s : State) : (quiet s).migrations = s.migrations := rfl
@[simp] theorem quiet_saddles (s : State) : (quiet s).saddles = s.saddles := rfl
@[simp] theorem quiet_passLinks (s : State) : (quiet s).passLinks = s.passLinks := rfl
@[simp] theorem quiet_takes (s : State) : (quiet s).takes = s.takes := rfl
@[simp] theorem quiet_claims (s : State) : (quiet s).claims = s.claims := rfl
@[simp] theorem quiet_window (s : State) : (quiet s).window = s.window := rfl
@[simp] theorem quiet_ide (s : State) : (quiet s).ide = s.ide := rfl
@[simp] theorem quiet_spdm (s : State) : (quiet s).spdm = s.spdm := rfl
@[simp] theorem quiet_reply (s : State) : (quiet s).reply = s.reply := rfl
@[simp] theorem quiet_exports (s : State) : (quiet s).exports = s.exports := rfl
@[simp] theorem quiet_pkgCe (s : State) : (quiet s).pkgCe = s.pkgCe := rfl

/-! ## The field that is written -/
@[simp] theorem State.setWave_waves (s : State) (w : Nat) (x : Wave) : (s.setWave w x).waves = Tbl.set s.waves w x := rfl
@[simp] theorem State.modWave_waves (s : State) (w : Nat) (f : Wave → Wave) : (s.modWave w f).waves = Tbl.modify s.waves w f := rfl
@[simp] theorem State.modBlock_blocks (s : State) (b : Nat) (f : Block → Block) : (s.modBlock b f).blocks = Tbl.modify s.blocks b f := rfl
@[simp] theorem State.modJob_jobs (s : State) (j : Nat) (f : Job → Job) : (s.modJob j f).jobs = Tbl.modify s.jobs j f := rfl
@[simp] theorem State.modVale_vales (s : State) (v : Nat) (f : Vale → Vale) : (s.modVale v f).vales = Tbl.modify s.vales v f := rfl
@[simp] theorem writeMem_mem (s : State) (k : Nat) (bs : List Byte) : (writeMem s k bs).mem = setMemBytes s.mem k bs := rfl
@[simp] theorem quiet_cur (s : State) : (quiet s).cur = .none := rfl
@[simp] theorem quiet_defer (s : State) : (quiet s).defer = false := rfl

/-! ## Wave.wrV -/
@[simp] theorem Wave.wrV_kind (w : Wave) (r l : Nat) (x : Word) : (w.wrV r l x).kind = w.kind := rfl
@[simp] theorem Wave.wrV_vale (w : Wave) (r l : Nat) (x : Word) : (w.wrV r l x).vale = w.vale := rfl
@[simp] theorem Wave.wrV_vd (w : Wave) (r l : Nat) (x : Word) : (w.wrV r l x).vd = w.vd := rfl
@[simp] theorem Wave.wrV_job (w : Wave) (r l : Nat) (x : Word) : (w.wrV r l x).job = w.job := rfl
@[simp] theorem Wave.wrV_blk (w : Wave) (r l : Nat) (x : Word) : (w.wrV r l x).blk = w.blk := rfl
@[simp] theorem Wave.wrV_index (w : Wave) (r l : Nat) (x : Word) : (w.wrV r l x).index = w.index := rfl
@[simp] theorem Wave.wrV_core (w : Wave) (r l : Nat) (x : Word) : (w.wrV r l x).core = w.core := rfl
@[simp] theorem Wave.wrV_slot (w : Wave) (r l : Nat) (x : Word) : (w.wrV r l x).slot = w.slot := rfl
@[simp] theorem Wave.wrV_role (w : Wave) (r l : Nat) (x : Word) : (w.wrV r l x).role = w.role := rfl
@[simp] theorem Wave.wrV_held (w : Wave) (r l : Nat) (x : Word) : (w.wrV r l x).held = w.held := rfl
@[simp] theorem Wave.wrV_pos (w : Wave) (r l : Nat) (x : Word) : (w.wrV r l x).pos = w.pos := rfl
@[simp] theorem Wave.wrV_replay (w : Wave) (r l : Nat) (x : Word) : (w.wrV r l x).replay = w.replay := rfl
@[simp] theorem Wave.wrV_active (w : Wave) (r l : Nat) (x : Word) : (w.wrV r l x).active = w.active := rfl
@[simp] theorem Wave.wrV_helper (w : Wave) (r l : Nat) (x : Word) : (w.wrV r l x).helper = w.helper := rfl
@[simp] theorem Wave.wrV_exited (w : Wave) (r l : Nat) (x : Word) : (w.wrV r l x).exited = w.exited := rfl
@[simp] theorem Wave.wrV_returned (w : Wave) (r l : Nat) (x : Word) : (w.wrV r l x).returned = w.returned := rfl
@[simp] theorem Wave.wrV_lpair (w : Wave) (r l : Nat) (x : Word) : (w.wrV r l x).lpair = w.lpair := rfl
@[simp] theorem Wave.wrV_depth (w : Wave) (r l : Nat) (x : Word) : (w.wrV r l x).depth = w.depth := rfl
@[simp] theorem Wave.wrV_stack (w : Wave) (r l : Nat) (x : Word) : (w.wrV r l x).stack = w.stack := rfl
@[simp] theorem Wave.wrV_s (w : Wave) (r l : Nat) (x : Word) : (w.wrV r l x).s = w.s := rfl
@[simp] theorem Wave.wrV_p (w : Wave) (r l : Nat) (x : Word) : (w.wrV r l x).p = w.p := rfl
@[simp] theorem Wave.wrV_outst (w : Wave) (r l : Nat) (x : Word) : (w.wrV r l x).outst = w.outst := rfl
@[simp] theorem Wave.wrV_wait (w : Wave) (r l : Nat) (x : Word) : (w.wrV r l x).wait = w.wait := rfl
@[simp] theorem Wave.wrV_trap (w : Wave) (r l : Nat) (x : Word) : (w.wrV r l x).trap = w.trap := rfl
@[simp] theorem Wave.wrV_late (w : Wave) (r l : Nat) (x : Word) : (w.wrV r l x).late = w.late := rfl
@[simp] theorem Wave.wrV_wdog (w : Wave) (r l : Nat) (x : Word) : (w.wrV r l x).wdog = w.wdog := rfl
@[simp] theorem Wave.wrV_lastIssue (w : Wave) (r l : Nat) (x : Word) : (w.wrV r l x).lastIssue = w.lastIssue := rfl
@[simp] theorem Wave.wrV_yielded (w : Wave) (r l : Nat) (x : Word) : (w.wrV r l x).yielded = w.yielded := rfl
@[simp] theorem Wave.wrV_ended (w : Wave) (r l : Nat) (x : Word) : (w.wrV r l x).ended = w.ended := rfl
@[simp] theorem Wave.wrV_issued (w : Wave) (r l : Nat) (x : Word) : (w.wrV r l x).issued = w.issued := rfl
@[simp] theorem Wave.wrV_queueOf (w : Wave) (r l : Nat) (x : Word) : (w.wrV r l x).queueOf = w.queueOf := rfl
@[simp] theorem Wave.wrV_reread (w : Wave) (r l : Nat) (x : Word) : (w.wrV r l x).reread = w.reread := rfl
@[simp] theorem Wave.wrV_bindFirst (w : Wave) (r l : Nat) (x : Word) : (w.wrV r l x).bindFirst = w.bindFirst := rfl
@[simp] theorem Wave.wrV_born (w : Wave) (r l : Nat) (x : Word) : (w.wrV r l x).born = w.born := rfl

/-! ## Wave.wrS -/
@[simp] theorem Wave.wrS_kind (w : Wave) (n : Nat) (x : Word) : (w.wrS n x).kind = w.kind := rfl
@[simp] theorem Wave.wrS_vale (w : Wave) (n : Nat) (x : Word) : (w.wrS n x).vale = w.vale := rfl
@[simp] theorem Wave.wrS_vd (w : Wave) (n : Nat) (x : Word) : (w.wrS n x).vd = w.vd := rfl
@[simp] theorem Wave.wrS_job (w : Wave) (n : Nat) (x : Word) : (w.wrS n x).job = w.job := rfl
@[simp] theorem Wave.wrS_blk (w : Wave) (n : Nat) (x : Word) : (w.wrS n x).blk = w.blk := rfl
@[simp] theorem Wave.wrS_index (w : Wave) (n : Nat) (x : Word) : (w.wrS n x).index = w.index := rfl
@[simp] theorem Wave.wrS_core (w : Wave) (n : Nat) (x : Word) : (w.wrS n x).core = w.core := rfl
@[simp] theorem Wave.wrS_slot (w : Wave) (n : Nat) (x : Word) : (w.wrS n x).slot = w.slot := rfl
@[simp] theorem Wave.wrS_role (w : Wave) (n : Nat) (x : Word) : (w.wrS n x).role = w.role := rfl
@[simp] theorem Wave.wrS_held (w : Wave) (n : Nat) (x : Word) : (w.wrS n x).held = w.held := rfl
@[simp] theorem Wave.wrS_pos (w : Wave) (n : Nat) (x : Word) : (w.wrS n x).pos = w.pos := rfl
@[simp] theorem Wave.wrS_replay (w : Wave) (n : Nat) (x : Word) : (w.wrS n x).replay = w.replay := rfl
@[simp] theorem Wave.wrS_active (w : Wave) (n : Nat) (x : Word) : (w.wrS n x).active = w.active := rfl
@[simp] theorem Wave.wrS_helper (w : Wave) (n : Nat) (x : Word) : (w.wrS n x).helper = w.helper := rfl
@[simp] theorem Wave.wrS_exited (w : Wave) (n : Nat) (x : Word) : (w.wrS n x).exited = w.exited := rfl
@[simp] theorem Wave.wrS_returned (w : Wave) (n : Nat) (x : Word) : (w.wrS n x).returned = w.returned := rfl
@[simp] theorem Wave.wrS_lpair (w : Wave) (n : Nat) (x : Word) : (w.wrS n x).lpair = w.lpair := rfl
@[simp] theorem Wave.wrS_depth (w : Wave) (n : Nat) (x : Word) : (w.wrS n x).depth = w.depth := rfl
@[simp] theorem Wave.wrS_stack (w : Wave) (n : Nat) (x : Word) : (w.wrS n x).stack = w.stack := rfl
@[simp] theorem Wave.wrS_v (w : Wave) (n : Nat) (x : Word) : (w.wrS n x).v = w.v := rfl
@[simp] theorem Wave.wrS_p (w : Wave) (n : Nat) (x : Word) : (w.wrS n x).p = w.p := rfl
@[simp] theorem Wave.wrS_outst (w : Wave) (n : Nat) (x : Word) : (w.wrS n x).outst = w.outst := rfl
@[simp] theorem Wave.wrS_wait (w : Wave) (n : Nat) (x : Word) : (w.wrS n x).wait = w.wait := rfl
@[simp] theorem Wave.wrS_trap (w : Wave) (n : Nat) (x : Word) : (w.wrS n x).trap = w.trap := rfl
@[simp] theorem Wave.wrS_late (w : Wave) (n : Nat) (x : Word) : (w.wrS n x).late = w.late := rfl
@[simp] theorem Wave.wrS_wdog (w : Wave) (n : Nat) (x : Word) : (w.wrS n x).wdog = w.wdog := rfl
@[simp] theorem Wave.wrS_lastIssue (w : Wave) (n : Nat) (x : Word) : (w.wrS n x).lastIssue = w.lastIssue := rfl
@[simp] theorem Wave.wrS_yielded (w : Wave) (n : Nat) (x : Word) : (w.wrS n x).yielded = w.yielded := rfl
@[simp] theorem Wave.wrS_ended (w : Wave) (n : Nat) (x : Word) : (w.wrS n x).ended = w.ended := rfl
@[simp] theorem Wave.wrS_issued (w : Wave) (n : Nat) (x : Word) : (w.wrS n x).issued = w.issued := rfl
@[simp] theorem Wave.wrS_queueOf (w : Wave) (n : Nat) (x : Word) : (w.wrS n x).queueOf = w.queueOf := rfl
@[simp] theorem Wave.wrS_reread (w : Wave) (n : Nat) (x : Word) : (w.wrS n x).reread = w.reread := rfl
@[simp] theorem Wave.wrS_bindFirst (w : Wave) (n : Nat) (x : Word) : (w.wrS n x).bindFirst = w.bindFirst := rfl
@[simp] theorem Wave.wrS_born (w : Wave) (n : Nat) (x : Word) : (w.wrS n x).born = w.born := rfl

/-! ## Wave.wrPred -/
@[simp] theorem Wave.wrPred_kind (w : Wave) (p : Nat) (ls : List Nat) (g : Nat → Bool) : (w.wrPred p ls g).kind = w.kind := rfl
@[simp] theorem Wave.wrPred_vale (w : Wave) (p : Nat) (ls : List Nat) (g : Nat → Bool) : (w.wrPred p ls g).vale = w.vale := rfl
@[simp] theorem Wave.wrPred_vd (w : Wave) (p : Nat) (ls : List Nat) (g : Nat → Bool) : (w.wrPred p ls g).vd = w.vd := rfl
@[simp] theorem Wave.wrPred_job (w : Wave) (p : Nat) (ls : List Nat) (g : Nat → Bool) : (w.wrPred p ls g).job = w.job := rfl
@[simp] theorem Wave.wrPred_blk (w : Wave) (p : Nat) (ls : List Nat) (g : Nat → Bool) : (w.wrPred p ls g).blk = w.blk := rfl
@[simp] theorem Wave.wrPred_index (w : Wave) (p : Nat) (ls : List Nat) (g : Nat → Bool) : (w.wrPred p ls g).index = w.index := rfl
@[simp] theorem Wave.wrPred_core (w : Wave) (p : Nat) (ls : List Nat) (g : Nat → Bool) : (w.wrPred p ls g).core = w.core := rfl
@[simp] theorem Wave.wrPred_slot (w : Wave) (p : Nat) (ls : List Nat) (g : Nat → Bool) : (w.wrPred p ls g).slot = w.slot := rfl
@[simp] theorem Wave.wrPred_role (w : Wave) (p : Nat) (ls : List Nat) (g : Nat → Bool) : (w.wrPred p ls g).role = w.role := rfl
@[simp] theorem Wave.wrPred_held (w : Wave) (p : Nat) (ls : List Nat) (g : Nat → Bool) : (w.wrPred p ls g).held = w.held := rfl
@[simp] theorem Wave.wrPred_pos (w : Wave) (p : Nat) (ls : List Nat) (g : Nat → Bool) : (w.wrPred p ls g).pos = w.pos := rfl
@[simp] theorem Wave.wrPred_replay (w : Wave) (p : Nat) (ls : List Nat) (g : Nat → Bool) : (w.wrPred p ls g).replay = w.replay := rfl
@[simp] theorem Wave.wrPred_active (w : Wave) (p : Nat) (ls : List Nat) (g : Nat → Bool) : (w.wrPred p ls g).active = w.active := rfl
@[simp] theorem Wave.wrPred_helper (w : Wave) (p : Nat) (ls : List Nat) (g : Nat → Bool) : (w.wrPred p ls g).helper = w.helper := rfl
@[simp] theorem Wave.wrPred_exited (w : Wave) (p : Nat) (ls : List Nat) (g : Nat → Bool) : (w.wrPred p ls g).exited = w.exited := rfl
@[simp] theorem Wave.wrPred_returned (w : Wave) (p : Nat) (ls : List Nat) (g : Nat → Bool) : (w.wrPred p ls g).returned = w.returned := rfl
@[simp] theorem Wave.wrPred_lpair (w : Wave) (p : Nat) (ls : List Nat) (g : Nat → Bool) : (w.wrPred p ls g).lpair = w.lpair := rfl
@[simp] theorem Wave.wrPred_depth (w : Wave) (p : Nat) (ls : List Nat) (g : Nat → Bool) : (w.wrPred p ls g).depth = w.depth := rfl
@[simp] theorem Wave.wrPred_stack (w : Wave) (p : Nat) (ls : List Nat) (g : Nat → Bool) : (w.wrPred p ls g).stack = w.stack := rfl
@[simp] theorem Wave.wrPred_v (w : Wave) (p : Nat) (ls : List Nat) (g : Nat → Bool) : (w.wrPred p ls g).v = w.v := rfl
@[simp] theorem Wave.wrPred_s (w : Wave) (p : Nat) (ls : List Nat) (g : Nat → Bool) : (w.wrPred p ls g).s = w.s := rfl
@[simp] theorem Wave.wrPred_poison (w : Wave) (p : Nat) (ls : List Nat) (g : Nat → Bool) : (w.wrPred p ls g).poison = w.poison := rfl
@[simp] theorem Wave.wrPred_outst (w : Wave) (p : Nat) (ls : List Nat) (g : Nat → Bool) : (w.wrPred p ls g).outst = w.outst := rfl
@[simp] theorem Wave.wrPred_wait (w : Wave) (p : Nat) (ls : List Nat) (g : Nat → Bool) : (w.wrPred p ls g).wait = w.wait := rfl
@[simp] theorem Wave.wrPred_trap (w : Wave) (p : Nat) (ls : List Nat) (g : Nat → Bool) : (w.wrPred p ls g).trap = w.trap := rfl
@[simp] theorem Wave.wrPred_late (w : Wave) (p : Nat) (ls : List Nat) (g : Nat → Bool) : (w.wrPred p ls g).late = w.late := rfl
@[simp] theorem Wave.wrPred_wdog (w : Wave) (p : Nat) (ls : List Nat) (g : Nat → Bool) : (w.wrPred p ls g).wdog = w.wdog := rfl
@[simp] theorem Wave.wrPred_lastIssue (w : Wave) (p : Nat) (ls : List Nat) (g : Nat → Bool) : (w.wrPred p ls g).lastIssue = w.lastIssue := rfl
@[simp] theorem Wave.wrPred_yielded (w : Wave) (p : Nat) (ls : List Nat) (g : Nat → Bool) : (w.wrPred p ls g).yielded = w.yielded := rfl
@[simp] theorem Wave.wrPred_ended (w : Wave) (p : Nat) (ls : List Nat) (g : Nat → Bool) : (w.wrPred p ls g).ended = w.ended := rfl
@[simp] theorem Wave.wrPred_issued (w : Wave) (p : Nat) (ls : List Nat) (g : Nat → Bool) : (w.wrPred p ls g).issued = w.issued := rfl
@[simp] theorem Wave.wrPred_queueOf (w : Wave) (p : Nat) (ls : List Nat) (g : Nat → Bool) : (w.wrPred p ls g).queueOf = w.queueOf := rfl
@[simp] theorem Wave.wrPred_reread (w : Wave) (p : Nat) (ls : List Nat) (g : Nat → Bool) : (w.wrPred p ls g).reread = w.reread := rfl
@[simp] theorem Wave.wrPred_bindFirst (w : Wave) (p : Nat) (ls : List Nat) (g : Nat → Bool) : (w.wrPred p ls g).bindFirst = w.bindFirst := rfl
@[simp] theorem Wave.wrPred_born (w : Wave) (p : Nat) (ls : List Nat) (g : Nat → Bool) : (w.wrPred p ls g).born = w.born := rfl

/-! ## Wave.advance -/
@[simp] theorem Wave.advance_kind (w : Wave) (n : Nat) : (w.advance n).kind = w.kind := rfl
@[simp] theorem Wave.advance_vale (w : Wave) (n : Nat) : (w.advance n).vale = w.vale := rfl
@[simp] theorem Wave.advance_vd (w : Wave) (n : Nat) : (w.advance n).vd = w.vd := rfl
@[simp] theorem Wave.advance_job (w : Wave) (n : Nat) : (w.advance n).job = w.job := rfl
@[simp] theorem Wave.advance_blk (w : Wave) (n : Nat) : (w.advance n).blk = w.blk := rfl
@[simp] theorem Wave.advance_index (w : Wave) (n : Nat) : (w.advance n).index = w.index := rfl
@[simp] theorem Wave.advance_core (w : Wave) (n : Nat) : (w.advance n).core = w.core := rfl
@[simp] theorem Wave.advance_slot (w : Wave) (n : Nat) : (w.advance n).slot = w.slot := rfl
@[simp] theorem Wave.advance_role (w : Wave) (n : Nat) : (w.advance n).role = w.role := rfl
@[simp] theorem Wave.advance_held (w : Wave) (n : Nat) : (w.advance n).held = w.held := rfl
@[simp] theorem Wave.advance_active (w : Wave) (n : Nat) : (w.advance n).active = w.active := rfl
@[simp] theorem Wave.advance_helper (w : Wave) (n : Nat) : (w.advance n).helper = w.helper := rfl
@[simp] theorem Wave.advance_exited (w : Wave) (n : Nat) : (w.advance n).exited = w.exited := rfl
@[simp] theorem Wave.advance_returned (w : Wave) (n : Nat) : (w.advance n).returned = w.returned := rfl
@[simp] theorem Wave.advance_lpair (w : Wave) (n : Nat) : (w.advance n).lpair = w.lpair := rfl
@[simp] theorem Wave.advance_depth (w : Wave) (n : Nat) : (w.advance n).depth = w.depth := rfl
@[simp] theorem Wave.advance_stack (w : Wave) (n : Nat) : (w.advance n).stack = w.stack := rfl
@[simp] theorem Wave.advance_v (w : Wave) (n : Nat) : (w.advance n).v = w.v := rfl
@[simp] theorem Wave.advance_s (w : Wave) (n : Nat) : (w.advance n).s = w.s := rfl
@[simp] theorem Wave.advance_p (w : Wave) (n : Nat) : (w.advance n).p = w.p := rfl
@[simp] theorem Wave.advance_poison (w : Wave) (n : Nat) : (w.advance n).poison = w.poison := rfl
@[simp] theorem Wave.advance_outst (w : Wave) (n : Nat) : (w.advance n).outst = w.outst := rfl
@[simp] theorem Wave.advance_wait (w : Wave) (n : Nat) : (w.advance n).wait = w.wait := rfl
@[simp] theorem Wave.advance_trap (w : Wave) (n : Nat) : (w.advance n).trap = w.trap := rfl
@[simp] theorem Wave.advance_late (w : Wave) (n : Nat) : (w.advance n).late = w.late := rfl
@[simp] theorem Wave.advance_wdog (w : Wave) (n : Nat) : (w.advance n).wdog = w.wdog := rfl
@[simp] theorem Wave.advance_lastIssue (w : Wave) (n : Nat) : (w.advance n).lastIssue = w.lastIssue := rfl
@[simp] theorem Wave.advance_yielded (w : Wave) (n : Nat) : (w.advance n).yielded = w.yielded := rfl
@[simp] theorem Wave.advance_ended (w : Wave) (n : Nat) : (w.advance n).ended = w.ended := rfl
@[simp] theorem Wave.advance_issued (w : Wave) (n : Nat) : (w.advance n).issued = w.issued := rfl
@[simp] theorem Wave.advance_queueOf (w : Wave) (n : Nat) : (w.advance n).queueOf = w.queueOf := rfl
@[simp] theorem Wave.advance_reread (w : Wave) (n : Nat) : (w.advance n).reread = w.reread := rfl
@[simp] theorem Wave.advance_bindFirst (w : Wave) (n : Nat) : (w.advance n).bindFirst = w.bindFirst := rfl
@[simp] theorem Wave.advance_born (w : Wave) (n : Nat) : (w.advance n).born = w.born := rfl
@[simp] theorem Wave.advance_pos (w : Wave) (n : Nat) : (w.advance n).pos = w.nextPos n := rfl
@[simp] theorem Wave.advance_replay (w : Wave) (n : Nat) : (w.advance n).replay = w.replay.bind Replay.next := rfl

end Sys2Proof.Machine
end

