-- ==== Sys2Proof/Laws/Table.lean ====
section
/-! SUPPORT. What the tables of Machine/Table.lean do: a read after a write or an erasure, of the same key and of another, and that
writes keep the rising order and the canonical form. -/
namespace Sys2Proof.Machine

variable {α : Type}

@[simp] theorem Tbl.get_set_same (t : Tbl α) (k : Nat) (v : α) : Tbl.get (Tbl.set t k v) k = some v := by
  induction t with
  | nil => simp [Tbl.set, Tbl.get]
  | cons e t ih =>
    obtain ⟨j, w⟩ := e
    simp only [Tbl.set]
    split
    · simp [Tbl.get]
    · split
      · simp [Tbl.get]
      · rename_i h; simp [Tbl.get, Ne.symm h, ih]

theorem Tbl.get_set_ne (t : Tbl α) {j k : Nat} (v : α) (h : j ≠ k) : Tbl.get (Tbl.set t k v) j = Tbl.get t j := by
  induction t with
  | nil => simp [Tbl.set, Tbl.get, Ne.symm h]
  | cons e t ih =>
    obtain ⟨i, w⟩ := e
    simp only [Tbl.set]
    split
    · simp [Tbl.get, Ne.symm h]
    · split
      · rename_i h1; subst h1; simp [Tbl.get, Ne.symm h]
      · simp [Tbl.get, ih]

@[simp] theorem Tbl.get_erase_same (t : Tbl α) (k : Nat) : Tbl.get (Tbl.erase t k) k = none := by
  induction t with
  | nil => rfl
  | cons e t ih =>
    obtain ⟨j, w⟩ := e
    by_cases h : j = k <;> simp [Tbl.erase, Tbl.get, h, ih]

theorem Tbl.get_erase_ne (t : Tbl α) {j k : Nat} (h : j ≠ k) : Tbl.get (Tbl.erase t k) j = Tbl.get t j := by
  induction t with
  | nil => rfl
  | cons e t ih =>
    obtain ⟨i, w⟩ := e
    by_cases h1 : i = k
    · subst h1; simp [Tbl.erase, Tbl.get, Ne.symm h, ih]
    · simp [Tbl.erase, Tbl.get, h1, ih]

theorem Tbl.get_modify_same (t : Tbl α) (k : Nat) (f : α → α) : Tbl.get (Tbl.modify t k f) k = (Tbl.get t k).map f := by
  unfold Tbl.modify
  split <;> simp [*]

theorem Tbl.get_modify_ne (t : Tbl α) {j k : Nat} (f : α → α) (h : j ≠ k) : Tbl.get (Tbl.modify t k f) j = Tbl.get t j := by
  unfold Tbl.modify
  split
  · rfl
  · exact Tbl.get_set_ne t _ h

@[simp] theorem Tbl.cell_setCell_same [DecidableEq α] (d : α) (t : Tbl α) (k : Nat) (v : α) : Tbl.cell d (Tbl.setCell d t k v) k = v := by
  unfold Tbl.setCell Tbl.cell
  split <;> simp [*]

theorem Tbl.cell_setCell_ne [DecidableEq α] (d : α) (t : Tbl α) {j k : Nat} (v : α) (h : j ≠ k) :
    Tbl.cell d (Tbl.setCell d t k v) j = Tbl.cell d t j := by
  unfold Tbl.setCell Tbl.cell
  split
  · rw [Tbl.get_erase_ne t h]
  · rw [Tbl.get_set_ne t v h]

/-! ## Order -/

theorem Tbl.above_of_le {t : Tbl α} {i j : Nat} (h : i ≤ j) (ht : Tbl.above j t = true) : Tbl.above i t = true := by
  cases t with
  | nil => rfl
  | cons e t =>
    obtain ⟨k, v⟩ := e
    simp only [Tbl.above, Bool.and_eq_true, decide_eq_true_eq] at ht ⊢
    exact ⟨by omega, ht.2⟩

theorem Tbl.above_set {t : Tbl α} {i k : Nat} (v : α) (hk : i < k) (ht : Tbl.above i t = true) : Tbl.above i (Tbl.set t k v) = true := by
  induction t generalizing i with
  | nil => simp [Tbl.set, Tbl.above, hk]
  | cons e t ih =>
    obtain ⟨j, w⟩ := e
    simp only [Tbl.above, Bool.and_eq_true, decide_eq_true_eq] at ht
    simp only [Tbl.set]
    split
    · simp [Tbl.above, *]
    · split
      · rename_i h; subst h; simp [Tbl.above, *]
      · simp only [Tbl.above, Bool.and_eq_true, decide_eq_true_eq]
        exact ⟨ht.1, ih (by omega) ht.2⟩

theorem Tbl.sorted_of_above {t : Tbl α} {i : Nat} (ht : Tbl.above i t = true) : Tbl.sorted t = true := by
  cases t with
  | nil => rfl
  | cons e t =>
    obtain ⟨k, v⟩ := e
    simp only [Tbl.above, Bool.and_eq_true] at ht
    exact ht.2

theorem Tbl.sorted_set {t : Tbl α} (k : Nat) (v : α) (ht : Tbl.sorted t = true) : Tbl.sorted (Tbl.set t k v) = true := by
  cases t with
  | nil => rfl
  | cons e t =>
    obtain ⟨j, w⟩ := e
    simp only [Tbl.sorted] at ht
    simp only [Tbl.set]
    split
    · simp [Tbl.sorted, Tbl.above, *]
    · split
      · rename_i h; subst h; simpa [Tbl.sorted] using ht
      · simp only [Tbl.sorted]; exact Tbl.above_set v (by omega) ht

theorem Tbl.above_keep {t : Tbl α} {i : Nat} (p : Nat → α → Bool) (ht : Tbl.above i t = true) : Tbl.above i (Tbl.keep p t) = true := by
  induction t generalizing i with
  | nil => rfl
  | cons e t ih =>
    obtain ⟨j, w⟩ := e
    simp only [Tbl.above, Bool.and_eq_true, decide_eq_true_eq] at ht
    simp only [Tbl.keep]
    split
    · simp [Tbl.above, ht.1, ih ht.2]
    · exact ih (Tbl.above_of_le (Nat.le_of_lt ht.1) ht.2)

theorem Tbl.sorted_keep {t : Tbl α} (p : Nat → α → Bool) (ht : Tbl.sorted t = true) : Tbl.sorted (Tbl.keep p t) = true := by
  cases t with
  | nil => rfl
  | cons e t =>
    obtain ⟨j, w⟩ := e
    simp only [Tbl.sorted] at ht
    simp only [Tbl.keep]
    split
    · exact Tbl.above_keep p ht
    · exact Tbl.sorted_of_above (Tbl.above_keep p ht)

theorem Tbl.erase_eq_keep (t : Tbl α) (k : Nat) : Tbl.erase t k = Tbl.keep (fun j _ => decide (j ≠ k)) t := by
  induction t with
  | nil => rfl
  | cons e t ih =>
    obtain ⟨j, w⟩ := e
    by_cases h : j = k <;> simp [Tbl.erase, Tbl.keep, h, ih]

/-! ## The canonical form -/

theorem Tbl.mem_keep {t : Tbl α} {p : Nat → α → Bool} {e : Nat × α} (h : e ∈ Tbl.keep p t) : e ∈ t := by
  induction t with
  | nil => simp [Tbl.keep] at h
  | cons x t ih =>
    obtain ⟨j, w⟩ := x
    simp only [Tbl.keep] at h
    split at h
    · rcases List.mem_cons.mp h with rfl | h
      · exact List.mem_cons_self
      · exact List.mem_cons_of_mem _ (ih h)
    · exact List.mem_cons_of_mem _ (ih h)

theorem Tbl.mem_set {t : Tbl α} {k : Nat} {v : α} {e : Nat × α} (h : e ∈ Tbl.set t k v) : e = (k, v) ∨ e ∈ t := by
  induction t with
  | nil => simpa [Tbl.set] using h
  | cons x t ih =>
    obtain ⟨j, w⟩ := x
    simp only [Tbl.set] at h
    split at h
    · simpa using h
    · split at h
      · rcases List.mem_cons.mp h with rfl | h
        · exact .inl rfl
        · exact .inr (List.mem_cons_of_mem _ h)
      · rcases List.mem_cons.mp h with rfl | h
        · exact .inr List.mem_cons_self
        · rcases ih h with h | h
          · exact .inl h
          · exact .inr (List.mem_cons_of_mem _ h)

variable [DecidableEq α]

theorem Tbl.canonical_iff (d : α) (t : Tbl α) : Tbl.canonical d t = true ↔ Tbl.sorted t = true ∧ ∀ e ∈ t, e.2 ≠ d := by
  simp [Tbl.canonical, List.all_eq_true]

/-- Keeping some entries keeps the canonical form. -/
theorem Tbl.canonical_keep {d : α} {t : Tbl α} (p : Nat → α → Bool) (h : Tbl.canonical d t = true) : Tbl.canonical d (Tbl.keep p t) = true := by
  rw [Tbl.canonical_iff] at h ⊢
  exact ⟨Tbl.sorted_keep p h.1, fun e he => h.2 e (Tbl.mem_keep he)⟩

/-- Writing a cell keeps the canonical form. -/
theorem Tbl.canonical_setCell {d : α} {t : Tbl α} (k : Nat) (v : α) (h : Tbl.canonical d t = true) :
    Tbl.canonical d (Tbl.setCell d t k v) = true := by
  unfold Tbl.setCell
  split
  · rw [Tbl.erase_eq_keep]; exact Tbl.canonical_keep _ h
  · rename_i hv
    rw [Tbl.canonical_iff] at h ⊢
    refine ⟨Tbl.sorted_set k v h.1, fun e he => ?_⟩
    rcases Tbl.mem_set he with rfl | he
    · exact hv
    · exact h.2 e he

end Sys2Proof.Machine
end

