-- ==== Sys2Proof/Laws/Exec.lean ====
section
/-! SUPPORT. What the frames of the instructions do: each shared operation's outcome, said once. -/
namespace Sys2Proof.Machine

/-! ## Waves -/

theorem runsNow_iff (s : State) (w : Nat) (wv : Wave) (i : Instr) :
    runsNow s w wv i = true ↔ s.cur = .wave w ∧ Tbl.get s.waves w = some wv ∧ wv.part ≠ 0 ∧ staticCause wv i = none := by
  simp [runsNow, and_assoc]

theorem curWave_of_runsNow {s : State} {w : Nat} {wv : Wave} {i : Instr} (h : runsNow s w wv i = true) : s.curWave = some (w, wv) := by
  obtain ⟨h1, h2, -, -⟩ := (runsNow_iff s w wv i).mp h
  simp [State.curWave, h1, h2]

/-- Where an instruction runs now, its frame runs its operation. -/
theorem runWave_runsNow {i : Instr} (op : State → Nat → Wave → State) {s : State} {w : Nat} {wv : Wave} (h : runsNow s w wv i = true) :
    runWave i op s = .next (op s w wv) := by
  obtain ⟨-, -, h3, h4⟩ := (runsNow_iff s w wv i).mp h
  simp only [runWave, curWave_of_runsNow h]
  rw [if_neg h3, h4]

/-- Everything a wave instruction can come to. -/
theorem runWave_cases {i : Instr} {op : State → Nat → Wave → State} {s : State} {r : Host.Outcome State Fault Refusal} (h : runWave i op s = r) :
    (s.curWave = none ∧ r = .fault .noAgent) ∨
    ∃ w wv, s.curWave = some (w, wv) ∧
      ((wv.part = 0 ∧ r = .next (s.setWave w (wv.advance (instrBytes i)))) ∨
       (wv.part ≠ 0 ∧ ∃ c, staticCause wv i = some c ∧ r = .next (raiseInstr s w wv i c 0)) ∨
       (wv.part ≠ 0 ∧ staticCause wv i = none ∧ r = .next (op s w wv))) := by
  subst h
  unfold runWave
  split
  · rename_i h0; exact .inl ⟨h0, rfl⟩
  · rename_i w wv h0
    refine .inr ⟨w, wv, h0, ?_⟩
    by_cases hp : wv.part = 0
    · rw [if_pos hp]; exact .inl ⟨hp, rfl⟩
    · rw [if_neg hp]
      cases hc : staticCause wv i with
      | none => exact .inr (.inr ⟨hp, rfl, rfl⟩)
      | some c => exact .inr (.inl ⟨hp, c, rfl, rfl⟩)

@[simp] theorem poisonedLanes_clean {w : Wave} (fs : List RegField) (ls : List Nat) (h : w.poison = []) : poisonedLanes w fs ls = [] := by
  simp [poisonedLanes, h]

@[simp] theorem consumePoison_nil (s : State) (w : Nat) (pos : Pos) : consumePoison s w pos [] = s := by
  simp [consumePoison]

/-- A register or predicate instruction of a wave with no poison writes what it computes and moves on. -/
theorem runAlu_clean {i : Instr} (srcs : List RegField) (dst : Option (RegField × Nat)) (f : State → Wave → List Nat → Wave) {s : State} {w : Nat}
    {wv : Wave} (h : runsNow s w wv i = true) (hp : wv.poison = []) :
    runAlu i srcs dst f s = .next (s.done w (f s wv (lanesOf wv.part)) i) := by
  rw [runAlu, runWave_runsNow _ h]
  cases dst <;> simp [aluWave, aluWaveBy, hp, State.done]

/-- An instruction that acts once, in a wave with no poison, runs its operation. -/
theorem runOnce_clean {i : Instr} (srcs : List RegField) (op : State → Nat → Wave → State) {s : State} {w : Nat} {wv : Wave}
    (h : runsNow s w wv i = true) (hp : wv.poison = []) : runOnce i srcs op s = .next (op s w wv) := by
  rw [runOnce, runWave_runsNow _ h]
  simp [hp]

/-- A task instruction in a task runs its operation, and outside one faults TASK. -/
theorem runTask_runsNow {i : Instr} (op : State → Nat → Wave → Nat → Task → State) {s : State} {w : Nat} {wv : Wave} (h : runsNow s w wv i = true) :
    runTask i op s = .next (match s.taskOf wv with
      | none => raiseInstr s w wv i cTask 0
      | some (q, t) => op s w wv q t) := by
  exact (runWave_runsNow _ h).trans (by rcases s.taskOf wv with _ | ⟨q, t⟩ <;> rfl)

/-- A coverage command of a wave in no speculative task runs its operation on the wave's block. -/
theorem runCov_runsNow {i : Instr} (op : State → Nat → Wave → Block → State) {s : State} {w : Nat} {wv : Wave} {b : Block}
    (h : runsNow s w wv i = true) (hs : s.speculative wv = false) (hb : Tbl.get s.blocks wv.blk = some b) :
    runCov i op s = .next (op s w wv b) := by
  rw [runCov, runWave_runsNow _ h]
  simp [hs, hb]

/-- A memory instruction of a plain wave does its work on every lane, unless its die sends nothing more (R151). -/
theorem runMem_plain {i : Instr} (srcs : List RegField) (task : Bool) (lanes : Wave → Mask)
    (op : State → Nat → Wave → List Nat → Except State (State × List (Nat × AddrFault))) {s : State} {w : Nat} {wv : Wave}
    (h : runsNow s w wv i = true) (hs : plainWave s wv = true) (hc : crossingHeld s w wv = false) :
    runMem i srcs task lanes op s = .next (match op s w wv (accLanes i (lanes wv)) with
      | .error t => t
      | .ok (t, fs) => finishMem i t w fs) := by
  simp only [plainWave, Bool.and_eq_true, Bool.not_eq_true', decide_eq_true_eq] at hs
  rw [runMem, runWave_runsNow _ h]
  simp only [hs.1, hc, Bool.and_false, Bool.false_eq_true, if_false, poisonedLanes_clean _ _ hs.2, List.contains_nil, Bool.not_false,
    List.filter_true]
  all_goals split <;> simp_all

/-! ## Streams -/

theorem streamNow_iff (s : State) (blk : Nat) (b : Block) (c : SeqCtx) (i : Instr) :
    streamNow s blk b c i = true ↔ s.cur = .seq blk ∧ Tbl.get s.blocks blk = some b ∧ b.seqCtx = some c ∧ i.wellFormed = true := by
  simp [streamNow, and_assoc]

/-- Where a stream word executes now, its frame runs its operation. -/
theorem runStream_now {i : Instr} (op : State → Nat → Block → SeqCtx → State) {s : State} {blk : Nat} {b : Block} {c : SeqCtx}
    (h : streamNow s blk b c i = true) : runStream i op s = .next (op s blk b c) := by
  obtain ⟨h1, h2, h3, h4⟩ := (streamNow_iff s blk b c i).mp h
  simp [runStream, h1, h2, h3, h4]

/-! ## Following a next state -/

/-- A step that follows an outcome answers a next state just where the outcome is one. -/
theorem andThen_eq_next {o : Host.Outcome State Fault Refusal} {f : State → State} {t : State} :
    andThen o f = .next t ↔ ∃ s, o = .next s ∧ f s = t := by
  cases o <;> simp [andThen]

end Sys2Proof.Machine
end

