-- ==== Sys2Proof/Laws/Memory.lean ====
section
/-! SUPPORT. What the operations over memory do: a read after a write, and that every operation keeps memory's canonical form. -/
namespace Sys2Proof.Machine

/-- Writing a byte keeps the form. -/
theorem setMemByte_wf {m : List Host.Cell} (k : Nat) (b : Byte) (h : Memory.wf m = true) : Memory.wf (setMemByte m k b) = true :=
  Tbl.canonical_setCell k b h

/-- Writing bytes keeps the form. -/
theorem setMemBytes_wf {m : List Host.Cell} (k : Nat) (bs : List Byte) (h : Memory.wf m = true) : Memory.wf (setMemBytes m k bs) = true := by
  induction bs generalizing m k with
  | nil => exact h
  | cons b t ih => exact ih (k + 1) (setMemByte_wf k b h)

/-- Clearing part of memory keeps the form. -/
theorem keepMem_wf {m : List Host.Cell} (p : Nat → Byte → Bool) (h : Memory.wf m = true) : Memory.wf (Tbl.keep p m) = true :=
  Tbl.canonical_keep p h

/-- Copying bytes to other places keeps the form. -/
theorem copyMem_wf {m : List Host.Cell} (src : List Host.Cell) (f : Host.Cell → Nat) (h : Memory.wf m = true) :
    Memory.wf (src.foldl (fun m c => setMemByte m (f c) c.2) m) = true := by
  induction src generalizing m with
  | nil => exact h
  | cons c t ih => exact ih (setMemByte_wf _ _ h)

/-- A write to memory keeps the invariant. -/
theorem writeMem_inv {s : State} (k : Nat) (bs : List Byte) (h : s.Inv) : (writeMem s k bs).Inv := setMemBytes_wf k bs h

/-- Poisoning sectors keeps the invariant. -/
theorem poisonSectors_inv {s : State} (js : List Nat) (h : s.Inv) : (poisonSectors s js).Inv := h

theorem setMemBytes_above (m : List Host.Cell) (k : Nat) (bs : List Byte) (a : Nat) (h : a < k) :
    Tbl.cell 0 (setMemBytes m k bs) a = Tbl.cell 0 m a := by
  induction bs generalizing m k with
  | nil => rfl
  | cons b t ih =>
    rw [setMemBytes, ih _ _ (by omega)]
    exact Tbl.cell_setCell_ne 0 m b (by omega)

/-- What a byte reads after bytes are written: the byte written there, or what it read before. -/
theorem setMemBytes_cell (m : List Host.Cell) (k : Nat) (bs : List Byte) (a : Nat) :
    Tbl.cell 0 (setMemBytes m k bs) a = if k ≤ a ∧ a < k + bs.length then bs.getD (a - k) 0 else Tbl.cell 0 m a := by
  induction bs generalizing m k with
  | nil =>
    have h : ¬ (k ≤ a ∧ a < k + ([] : List Byte).length) := by simp only [List.length_nil]; omega
    rw [if_neg h]; rfl
  | cons b t ih =>
    by_cases h : a = k
    · subst h
      rw [setMemBytes, setMemBytes_above _ _ _ _ (by omega)]
      simp [setMemByte]
    · rw [setMemBytes, ih]
      by_cases h1 : k + 1 ≤ a ∧ a < k + 1 + t.length
      · rw [if_pos h1, if_pos (by simp only [List.length_cons]; omega)]
        have h2 : a - k = (a - (k + 1)) + 1 := by omega
        rw [h2, List.getD_cons_succ]
      · rw [if_neg h1, if_neg (by simp only [List.length_cons]; omega)]
        exact Tbl.cell_setCell_ne 0 m b h

/-- What a byte reads after a write to memory. -/
theorem memByte_writeMem (s : State) (k : Nat) (bs : List Byte) (a : Nat) :
    memByte (writeMem s k bs) a = if k ≤ a ∧ a < k + bs.length then bs.getD (a - k) 0 else memByte s a :=
  setMemBytes_cell s.mem k bs a

end Sys2Proof.Machine
end

