-- ==== Sys2Proof/Laws/PerInstr.lean ====
section
/-! SUPPORT. For every instruction as syntax: how many words it has. A wave instruction has one word and at most one literal (R187), a
stream word has exactly one (R188, R309), and an event has none. -/
namespace Sys2Proof

theorem withLit_length (w : Word) (l : Option Word) : (withLit w l).length ≤ 2 ∧ 1 ≤ (withLit w l).length := by
  cases l <;> simp [withLit]

/-- An instruction has at most two words, a stream word exactly one, and a stream word is no wave instruction. -/
def Laws.WordCount.Statement (i : Instr) : Prop :=
  (encode i).length ≤ 2 ∧ (i.isStream = true → (encode i).length = 1)

theorem Laws.WordCount.nop (o : VaFields) : Laws.WordCount.Statement (.nop o) := ⟨(withLit_length _ _).1, nofun⟩
theorem Laws.WordCount.mov (o : VaFields) : Laws.WordCount.Statement (.mov o) := ⟨(withLit_length _ _).1, nofun⟩
theorem Laws.WordCount.iadd (o : VaFields) : Laws.WordCount.Statement (.iadd o) := ⟨(withLit_length _ _).1, nofun⟩
theorem Laws.WordCount.isub (o : VaFields) : Laws.WordCount.Statement (.isub o) := ⟨(withLit_length _ _).1, nofun⟩
theorem Laws.WordCount.imul (o : VaFields) : Laws.WordCount.Statement (.imul o) := ⟨(withLit_length _ _).1, nofun⟩
theorem Laws.WordCount.imulh (o : VaFields) : Laws.WordCount.Statement (.imulh o) := ⟨(withLit_length _ _).1, nofun⟩
theorem Laws.WordCount.imad (o : VaFields) : Laws.WordCount.Statement (.imad o) := ⟨(withLit_length _ _).1, nofun⟩
theorem Laws.WordCount.imulw (o : VaFields) : Laws.WordCount.Statement (.imulw o) := ⟨(withLit_length _ _).1, nofun⟩
theorem Laws.WordCount.imadw (o : VaFields) : Laws.WordCount.Statement (.imadw o) := ⟨(withLit_length _ _).1, nofun⟩
theorem Laws.WordCount.iadd64 (o : VaFields) : Laws.WordCount.Statement (.iadd64 o) := ⟨(withLit_length _ _).1, nofun⟩
theorem Laws.WordCount.isub64 (o : VaFields) : Laws.WordCount.Statement (.isub64 o) := ⟨(withLit_length _ _).1, nofun⟩
theorem Laws.WordCount.lea (o : VaFields) : Laws.WordCount.Statement (.lea o) := ⟨(withLit_length _ _).1, nofun⟩
theorem Laws.WordCount.imin (o : VaFields) : Laws.WordCount.Statement (.imin o) := ⟨(withLit_length _ _).1, nofun⟩
theorem Laws.WordCount.imax (o : VaFields) : Laws.WordCount.Statement (.imax o) := ⟨(withLit_length _ _).1, nofun⟩
theorem Laws.WordCount.iabs (o : VaFields) : Laws.WordCount.Statement (.iabs o) := ⟨(withLit_length _ _).1, nofun⟩
theorem Laws.WordCount.idiv (o : VaFields) : Laws.WordCount.Statement (.idiv o) := ⟨(withLit_length _ _).1, nofun⟩
theorem Laws.WordCount.irem (o : VaFields) : Laws.WordCount.Statement (.irem o) := ⟨(withLit_length _ _).1, nofun⟩
theorem Laws.WordCount.and (o : VaFields) : Laws.WordCount.Statement (.and o) := ⟨(withLit_length _ _).1, nofun⟩
theorem Laws.WordCount.or (o : VaFields) : Laws.WordCount.Statement (.or o) := ⟨(withLit_length _ _).1, nofun⟩
theorem Laws.WordCount.xor (o : VaFields) : Laws.WordCount.Statement (.xor o) := ⟨(withLit_length _ _).1, nofun⟩
theorem Laws.WordCount.andn (o : VaFields) : Laws.WordCount.Statement (.andn o) := ⟨(withLit_length _ _).1, nofun⟩
theorem Laws.WordCount.lop3 (o : VaFields) : Laws.WordCount.Statement (.lop3 o) := ⟨(withLit_length _ _).1, nofun⟩
theorem Laws.WordCount.shl (o : VaFields) : Laws.WordCount.Statement (.shl o) := ⟨(withLit_length _ _).1, nofun⟩
theorem Laws.WordCount.shrl (o : VaFields) : Laws.WordCount.Statement (.shrl o) := ⟨(withLit_length _ _).1, nofun⟩
theorem Laws.WordCount.shra (o : VaFields) : Laws.WordCount.Statement (.shra o) := ⟨(withLit_length _ _).1, nofun⟩
theorem Laws.WordCount.rotl (o : VaFields) : Laws.WordCount.Statement (.rotl o) := ⟨(withLit_length _ _).1, nofun⟩
theorem Laws.WordCount.funnel (o : VaFields) : Laws.WordCount.Statement (.funnel o) := ⟨(withLit_length _ _).1, nofun⟩
theorem Laws.WordCount.bfx (o : VaFields) : Laws.WordCount.Statement (.bfx o) := ⟨(withLit_length _ _).1, nofun⟩
theorem Laws.WordCount.bfi (o : VaFields) : Laws.WordCount.Statement (.bfi o) := ⟨(withLit_length _ _).1, nofun⟩
theorem Laws.WordCount.popc (o : VaFields) : Laws.WordCount.Statement (.popc o) := ⟨(withLit_length _ _).1, nofun⟩
theorem Laws.WordCount.clz (o : VaFields) : Laws.WordCount.Statement (.clz o) := ⟨(withLit_length _ _).1, nofun⟩
theorem Laws.WordCount.brev (o : VaFields) : Laws.WordCount.Statement (.brev o) := ⟨(withLit_length _ _).1, nofun⟩
theorem Laws.WordCount.ffs (o : VaFields) : Laws.WordCount.Statement (.ffs o) := ⟨(withLit_length _ _).1, nofun⟩
theorem Laws.WordCount.permb (o : VaFields) : Laws.WordCount.Statement (.permb o) := ⟨(withLit_length _ _).1, nofun⟩
theorem Laws.WordCount.fadd (o : VaFields) : Laws.WordCount.Statement (.fadd o) := ⟨(withLit_length _ _).1, nofun⟩
theorem Laws.WordCount.fsub (o : VaFields) : Laws.WordCount.Statement (.fsub o) := ⟨(withLit_length _ _).1, nofun⟩
theorem Laws.WordCount.fmul (o : VaFields) : Laws.WordCount.Statement (.fmul o) := ⟨(withLit_length _ _).1, nofun⟩
theorem Laws.WordCount.fma (o : VaFields) : Laws.WordCount.Statement (.fma o) := ⟨(withLit_length _ _).1, nofun⟩
theorem Laws.WordCount.fmin (o : VaFields) : Laws.WordCount.Statement (.fmin o) := ⟨(withLit_length _ _).1, nofun⟩
theorem Laws.WordCount.fmax (o : VaFields) : Laws.WordCount.Statement (.fmax o) := ⟨(withLit_length _ _).1, nofun⟩
theorem Laws.WordCount.fneg (o : VaFields) : Laws.WordCount.Statement (.fneg o) := ⟨(withLit_length _ _).1, nofun⟩
theorem Laws.WordCount.fabs (o : VaFields) : Laws.WordCount.Statement (.fabs o) := ⟨(withLit_length _ _).1, nofun⟩
theorem Laws.WordCount.frnd (o : VaFields) : Laws.WordCount.Statement (.frnd o) := ⟨(withLit_length _ _).1, nofun⟩
theorem Laws.WordCount.frcp (o : VaFields) : Laws.WordCount.Statement (.frcp o) := ⟨(withLit_length _ _).1, nofun⟩
theorem Laws.WordCount.fsqrt (o : VaFields) : Laws.WordCount.Statement (.fsqrt o) := ⟨(withLit_length _ _).1, nofun⟩
theorem Laws.WordCount.frsq (o : VaFields) : Laws.WordCount.Statement (.frsq o) := ⟨(withLit_length _ _).1, nofun⟩
theorem Laws.WordCount.fdiv (o : VaFields) : Laws.WordCount.Statement (.fdiv o) := ⟨(withLit_length _ _).1, nofun⟩
theorem Laws.WordCount.fexp2 (o : VaFields) : Laws.WordCount.Statement (.fexp2 o) := ⟨(withLit_length _ _).1, nofun⟩
theorem Laws.WordCount.flog2 (o : VaFields) : Laws.WordCount.Statement (.flog2 o) := ⟨(withLit_length _ _).1, nofun⟩
theorem Laws.WordCount.fsinpi (o : VaFields) : Laws.WordCount.Statement (.fsinpi o) := ⟨(withLit_length _ _).1, nofun⟩
theorem Laws.WordCount.fcospi (o : VaFields) : Laws.WordCount.Statement (.fcospi o) := ⟨(withLit_length _ _).1, nofun⟩
theorem Laws.WordCount.fclass (o : VaFields) : Laws.WordCount.Statement (.fclass o) := ⟨(withLit_length _ _).1, nofun⟩
theorem Laws.WordCount.cvt (o : VaFields) : Laws.WordCount.Statement (.cvt o) := ⟨(withLit_length _ _).1, nofun⟩
theorem Laws.WordCount.pack (o : VaFields) : Laws.WordCount.Statement (.pack o) := ⟨(withLit_length _ _).1, nofun⟩
theorem Laws.WordCount.dot4 (o : VaFields) : Laws.WordCount.Statement (.dot4 o) := ⟨(withLit_length _ _).1, nofun⟩
theorem Laws.WordCount.dot2f (o : VaFields) : Laws.WordCount.Statement (.dot2f o) := ⟨(withLit_length _ _).1, nofun⟩
theorem Laws.WordCount.icmp (o : VcFields) : Laws.WordCount.Statement (.icmp o) := ⟨(withLit_length _ _).1, nofun⟩
theorem Laws.WordCount.fcmp (o : VcFields) : Laws.WordCount.Statement (.fcmp o) := ⟨(withLit_length _ _).1, nofun⟩
theorem Laws.WordCount.plop (o : VaFields) : Laws.WordCount.Statement (.plop o) := ⟨(withLit_length _ _).1, nofun⟩
theorem Laws.WordCount.sel (o : VaFields) : Laws.WordCount.Statement (.sel o) := ⟨(withLit_length _ _).1, nofun⟩
theorem Laws.WordCount.pmovToreg (o : VaFields) : Laws.WordCount.Statement (.pmovToreg o) := ⟨(withLit_length _ _).1, nofun⟩
theorem Laws.WordCount.pmovFromreg (o : VaFields) : Laws.WordCount.Statement (.pmovFromreg o) := ⟨(withLit_length _ _).1, nofun⟩
theorem Laws.WordCount.voteAny (o : VaFields) : Laws.WordCount.Statement (.voteAny o) := ⟨(withLit_length _ _).1, nofun⟩
theorem Laws.WordCount.voteAll (o : VaFields) : Laws.WordCount.Statement (.voteAll o) := ⟨(withLit_length _ _).1, nofun⟩
theorem Laws.WordCount.voteBallot (o : VaFields) : Laws.WordCount.Statement (.voteBallot o) := ⟨(withLit_length _ _).1, nofun⟩
theorem Laws.WordCount.matchLanes (o : VaFields) : Laws.WordCount.Statement (.matchLanes o) := ⟨(withLit_length _ _).1, nofun⟩
theorem Laws.WordCount.shfl (o : VaFields) : Laws.WordCount.Statement (.shfl o) := ⟨(withLit_length _ _).1, nofun⟩
theorem Laws.WordCount.scan (o : VaFields) : Laws.WordCount.Statement (.scan o) := ⟨(withLit_length _ _).1, nofun⟩
theorem Laws.WordCount.reduce (o : VaFields) : Laws.WordCount.Statement (.reduce o) := ⟨(withLit_length _ _).1, nofun⟩
theorem Laws.WordCount.elect (o : VaFields) : Laws.WordCount.Statement (.elect o) := ⟨(withLit_length _ _).1, nofun⟩
theorem Laws.WordCount.movxRd (o : VaFields) : Laws.WordCount.Statement (.movxRd o) := ⟨(withLit_length _ _).1, nofun⟩
theorem Laws.WordCount.movxWr (o : VaFields) : Laws.WordCount.Statement (.movxWr o) := ⟨(withLit_length _ _).1, nofun⟩
theorem Laws.WordCount.sreg (o : VaFields) : Laws.WordCount.Statement (.sreg o) := ⟨(withLit_length _ _).1, nofun⟩
theorem Laws.WordCount.v2sFirst (o : VaFields) : Laws.WordCount.Statement (.v2sFirst o) := ⟨(withLit_length _ _).1, nofun⟩
theorem Laws.WordCount.v2sLane (o : VaFields) : Laws.WordCount.Statement (.v2sLane o) := ⟨(withLit_length _ _).1, nofun⟩
theorem Laws.WordCount.ldS8 (o : MmFields) : Laws.WordCount.Statement (.ldS8 o) := ⟨(withLit_length _ _).1, nofun⟩
theorem Laws.WordCount.ldB8 (o : MmFields) : Laws.WordCount.Statement (.ldB8 o) := ⟨(withLit_length _ _).1, nofun⟩
theorem Laws.WordCount.ldS16 (o : MmFields) : Laws.WordCount.Statement (.ldS16 o) := ⟨(withLit_length _ _).1, nofun⟩
theorem Laws.WordCount.ldB16 (o : MmFields) : Laws.WordCount.Statement (.ldB16 o) := ⟨(withLit_length _ _).1, nofun⟩
theorem Laws.WordCount.ld32 (o : MmFields) : Laws.WordCount.Statement (.ld32 o) := ⟨(withLit_length _ _).1, nofun⟩
theorem Laws.WordCount.ld64 (o : MmFields) : Laws.WordCount.Statement (.ld64 o) := ⟨(withLit_length _ _).1, nofun⟩
theorem Laws.WordCount.ld128 (o : MmFields) : Laws.WordCount.Statement (.ld128 o) := ⟨(withLit_length _ _).1, nofun⟩
theorem Laws.WordCount.st8 (o : MmFields) : Laws.WordCount.Statement (.st8 o) := ⟨(withLit_length _ _).1, nofun⟩
theorem Laws.WordCount.st16 (o : MmFields) : Laws.WordCount.Statement (.st16 o) := ⟨(withLit_length _ _).1, nofun⟩
theorem Laws.WordCount.st32 (o : MmFields) : Laws.WordCount.Statement (.st32 o) := ⟨(withLit_length _ _).1, nofun⟩
theorem Laws.WordCount.st64 (o : MmFields) : Laws.WordCount.Statement (.st64 o) := ⟨(withLit_length _ _).1, nofun⟩
theorem Laws.WordCount.st128 (o : MmFields) : Laws.WordCount.Statement (.st128 o) := ⟨(withLit_length _ _).1, nofun⟩
theorem Laws.WordCount.ldc (o : MmFields) : Laws.WordCount.Statement (.ldc o) := ⟨(withLit_length _ _).1, nofun⟩
theorem Laws.WordCount.atomAdd (o : MmFields) : Laws.WordCount.Statement (.atomAdd o) := ⟨(withLit_length _ _).1, nofun⟩
theorem Laws.WordCount.atomSmin (o : MmFields) : Laws.WordCount.Statement (.atomSmin o) := ⟨(withLit_length _ _).1, nofun⟩
theorem Laws.WordCount.atomSmax (o : MmFields) : Laws.WordCount.Statement (.atomSmax o) := ⟨(withLit_length _ _).1, nofun⟩
theorem Laws.WordCount.atomBmin (o : MmFields) : Laws.WordCount.Statement (.atomBmin o) := ⟨(withLit_length _ _).1, nofun⟩
theorem Laws.WordCount.atomBmax (o : MmFields) : Laws.WordCount.Statement (.atomBmax o) := ⟨(withLit_length _ _).1, nofun⟩
theorem Laws.WordCount.atomAnd (o : MmFields) : Laws.WordCount.Statement (.atomAnd o) := ⟨(withLit_length _ _).1, nofun⟩
theorem Laws.WordCount.atomOr (o : MmFields) : Laws.WordCount.Statement (.atomOr o) := ⟨(withLit_length _ _).1, nofun⟩
theorem Laws.WordCount.atomXor (o : MmFields) : Laws.WordCount.Statement (.atomXor o) := ⟨(withLit_length _ _).1, nofun⟩
theorem Laws.WordCount.atomXchg (o : MmFields) : Laws.WordCount.Statement (.atomXchg o) := ⟨(withLit_length _ _).1, nofun⟩
theorem Laws.WordCount.atomCas (o : MmFields) : Laws.WordCount.Statement (.atomCas o) := ⟨(withLit_length _ _).1, nofun⟩
theorem Laws.WordCount.atomFadd (o : MmFields) : Laws.WordCount.Statement (.atomFadd o) := ⟨(withLit_length _ _).1, nofun⟩
theorem Laws.WordCount.atomAdd64 (o : MmFields) : Laws.WordCount.Statement (.atomAdd64 o) := ⟨(withLit_length _ _).1, nofun⟩
theorem Laws.WordCount.atomCas64 (o : MmFields) : Laws.WordCount.Statement (.atomCas64 o) := ⟨(withLit_length _ _).1, nofun⟩
theorem Laws.WordCount.stmap (o : MmFields) : Laws.WordCount.Statement (.stmap o) := ⟨(withLit_length _ _).1, nofun⟩
theorem Laws.WordCount.stunmap (o : MmFields) : Laws.WordCount.Statement (.stunmap o) := ⟨(withLit_length _ _).1, nofun⟩
theorem Laws.WordCount.stwb (o : MmFields) : Laws.WordCount.Statement (.stwb o) := ⟨(withLit_length _ _).1, nofun⟩
theorem Laws.WordCount.stdrop (o : MmFields) : Laws.WordCount.Statement (.stdrop o) := ⟨(withLit_length _ _).1, nofun⟩
theorem Laws.WordCount.prefetch (o : MmFields) : Laws.WordCount.Statement (.prefetch o) := ⟨(withLit_length _ _).1, nofun⟩
theorem Laws.WordCount.fence (o : MmFields) : Laws.WordCount.Statement (.fence o) := ⟨(withLit_length _ _).1, nofun⟩
theorem Laws.WordCount.cntadd (o : MmFields) : Laws.WordCount.Statement (.cntadd o) := ⟨(withLit_length _ _).1, nofun⟩
theorem Laws.WordCount.bra (o : BrFields) : Laws.WordCount.Statement (.bra o) := ⟨Nat.le_succ 1, nofun⟩
theorem Laws.WordCount.brx (o : VaFields) : Laws.WordCount.Statement (.brx o) := ⟨(withLit_length _ _).1, nofun⟩
theorem Laws.WordCount.rcv (o : VaFields) : Laws.WordCount.Statement (.rcv o) := ⟨(withLit_length _ _).1, nofun⟩
theorem Laws.WordCount.join (o : VaFields) : Laws.WordCount.Statement (.join o) := ⟨(withLit_length _ _).1, nofun⟩
theorem Laws.WordCount.call (o : ClFields) : Laws.WordCount.Statement (.call o) := ⟨Nat.le_succ 1, nofun⟩
theorem Laws.WordCount.callx (o : VaFields) : Laws.WordCount.Statement (.callx o) := ⟨(withLit_length _ _).1, nofun⟩
theorem Laws.WordCount.callxTail (o : VaFields) : Laws.WordCount.Statement (.callxTail o) := ⟨(withLit_length _ _).1, nofun⟩
theorem Laws.WordCount.ret (o : VaFields) : Laws.WordCount.Statement (.ret o) := ⟨(withLit_length _ _).1, nofun⟩
theorem Laws.WordCount.exit (o : VaFields) : Laws.WordCount.Statement (.exit o) := ⟨(withLit_length _ _).1, nofun⟩
theorem Laws.WordCount.barArrive (o : VaFields) : Laws.WordCount.Statement (.barArrive o) := ⟨(withLit_length _ _).1, nofun⟩
theorem Laws.WordCount.barWait (o : VaFields) : Laws.WordCount.Statement (.barWait o) := ⟨(withLit_length _ _).1, nofun⟩
theorem Laws.WordCount.barSync (o : VaFields) : Laws.WordCount.Statement (.barSync o) := ⟨(withLit_length _ _).1, nofun⟩
theorem Laws.WordCount.barInit (o : VaFields) : Laws.WordCount.Statement (.barInit o) := ⟨(withLit_length _ _).1, nofun⟩
theorem Laws.WordCount.barexp (o : VaFields) : Laws.WordCount.Statement (.barexp o) := ⟨(withLit_length _ _).1, nofun⟩
theorem Laws.WordCount.cbarArrive (o : VaFields) : Laws.WordCount.Statement (.cbarArrive o) := ⟨(withLit_length _ _).1, nofun⟩
theorem Laws.WordCount.cbarWait (o : VaFields) : Laws.WordCount.Statement (.cbarWait o) := ⟨(withLit_length _ _).1, nofun⟩
theorem Laws.WordCount.cbarSync (o : VaFields) : Laws.WordCount.Statement (.cbarSync o) := ⟨(withLit_length _ _).1, nofun⟩
theorem Laws.WordCount.waitge (o : VaFields) : Laws.WordCount.Statement (.waitge o) := ⟨(withLit_length _ _).1, nofun⟩
theorem Laws.WordCount.mwait (o : VaFields) : Laws.WordCount.Statement (.mwait o) := ⟨(withLit_length _ _).1, nofun⟩
theorem Laws.WordCount.yield (o : VaFields) : Laws.WordCount.Statement (.yield o) := ⟨(withLit_length _ _).1, nofun⟩
theorem Laws.WordCount.sleep (o : VaFields) : Laws.WordCount.Statement (.sleep o) := ⟨(withLit_length _ _).1, nofun⟩
theorem Laws.WordCount.forkSuspend (o : VaFields) : Laws.WordCount.Statement (.forkSuspend o) := ⟨(withLit_length _ _).1, nofun⟩
theorem Laws.WordCount.forkDetach (o : VaFields) : Laws.WordCount.Statement (.forkDetach o) := ⟨(withLit_length _ _).1, nofun⟩
theorem Laws.WordCount.tspawn (o : VaFields) : Laws.WordCount.Statement (.tspawn o) := ⟨(withLit_length _ _).1, nofun⟩
theorem Laws.WordCount.tend (o : VaFields) : Laws.WordCount.Statement (.tend o) := ⟨(withLit_length _ _).1, nofun⟩
theorem Laws.WordCount.tabort (o : VaFields) : Laws.WordCount.Statement (.tabort o) := ⟨(withLit_length _ _).1, nofun⟩
theorem Laws.WordCount.tirrev (o : VaFields) : Laws.WordCount.Statement (.tirrev o) := ⟨(withLit_length _ _).1, nofun⟩
theorem Laws.WordCount.trap (o : VaFields) : Laws.WordCount.Statement (.trap o) := ⟨(withLit_length _ _).1, nofun⟩
theorem Laws.WordCount.bkpt (o : VaFields) : Laws.WordCount.Statement (.bkpt o) := ⟨(withLit_length _ _).1, nofun⟩
theorem Laws.WordCount.cpy (o : AsFields) : Laws.WordCount.Statement (.cpy o) := ⟨(withLit_length _ _).1, nofun⟩
theorem Laws.WordCount.tcopy (o : AsFields) : Laws.WordCount.Statement (.tcopy o) := ⟨(withLit_length _ _).1, nofun⟩
theorem Laws.WordCount.tstore (o : AsFields) : Laws.WordCount.Statement (.tstore o) := ⟨(withLit_length _ _).1, nofun⟩
theorem Laws.WordCount.tgather (o : AsFields) : Laws.WordCount.Statement (.tgather o) := ⟨(withLit_length _ _).1, nofun⟩
theorem Laws.WordCount.ccopy (o : AsFields) : Laws.WordCount.Statement (.ccopy o) := ⟨(withLit_length _ _).1, nofun⟩
theorem Laws.WordCount.codewr (o : AsFields) : Laws.WordCount.Statement (.codewr o) := ⟨(withLit_length _ _).1, nofun⟩
theorem Laws.WordCount.codeswap (o : AsFields) : Laws.WordCount.Statement (.codeswap o) := ⟨(withLit_length _ _).1, nofun⟩
theorem Laws.WordCount.rgive (o : AsFields) : Laws.WordCount.Statement (.rgive o) := ⟨(withLit_length _ _).1, nofun⟩
theorem Laws.WordCount.rtake (o : AsFields) : Laws.WordCount.Statement (.rtake o) := ⟨(withLit_length _ _).1, nofun⟩
theorem Laws.WordCount.encpost (o : AsFields) : Laws.WordCount.Statement (.encpost o) := ⟨(withLit_length _ _).1, nofun⟩
theorem Laws.WordCount.encframeOpen (o : AsFields) : Laws.WordCount.Statement (.encframeOpen o) := ⟨(withLit_length _ _).1, nofun⟩
theorem Laws.WordCount.encframeClose (o : AsFields) : Laws.WordCount.Statement (.encframeClose o) := ⟨(withLit_length _ _).1, nofun⟩
theorem Laws.WordCount.covbegin (o : VaFields) : Laws.WordCount.Statement (.covbegin o) := ⟨(withLit_length _ _).1, nofun⟩
theorem Laws.WordCount.covline (o : VaFields) : Laws.WordCount.Statement (.covline o) := ⟨(withLit_length _ _).1, nofun⟩
theorem Laws.WordCount.covquad (o : VaFields) : Laws.WordCount.Statement (.covquad o) := ⟨(withLit_length _ _).1, nofun⟩
theorem Laws.WordCount.covcube (o : VaFields) : Laws.WordCount.Statement (.covcube o) := ⟨(withLit_length _ _).1, nofun⟩
theorem Laws.WordCount.covtri (o : VaFields) : Laws.WordCount.Statement (.covtri o) := ⟨(withLit_length _ _).1, nofun⟩
theorem Laws.WordCount.covres (o : VaFields) : Laws.WordCount.Statement (.covres o) := ⟨(withLit_length _ _).1, nofun⟩
theorem Laws.WordCount.covend (o : VaFields) : Laws.WordCount.Statement (.covend o) := ⟨(withLit_length _ _).1, nofun⟩
theorem Laws.WordCount.covpop (o : VaFields) : Laws.WordCount.Statement (.covpop o) := ⟨(withLit_length _ _).1, nofun⟩
theorem Laws.WordCount.ddx (o : VaFields) : Laws.WordCount.Statement (.ddx o) := ⟨(withLit_length _ _).1, nofun⟩
theorem Laws.WordCount.ddy (o : VaFields) : Laws.WordCount.Statement (.ddy o) := ⟨(withLit_length _ _).1, nofun⟩
theorem Laws.WordCount.mxrd (o : MxFields) : Laws.WordCount.Statement (.mxrd o) := ⟨Nat.le_succ 1, nofun⟩
theorem Laws.WordCount.mxwr (o : MxFields) : Laws.WordCount.Statement (.mxwr o) := ⟨Nat.le_succ 1, nofun⟩
theorem Laws.WordCount.mxstat (o : MxFields) : Laws.WordCount.Statement (.mxstat o) := ⟨Nat.le_succ 1, nofun⟩
theorem Laws.WordCount.resumelRetry (o : VaFields) : Laws.WordCount.Statement (.resumelRetry o) := ⟨(withLit_length _ _).1, nofun⟩
theorem Laws.WordCount.resumelSkip (o : VaFields) : Laws.WordCount.Statement (.resumelSkip o) := ⟨(withLit_length _ _).1, nofun⟩
theorem Laws.WordCount.killl (o : VaFields) : Laws.WordCount.Statement (.killl o) := ⟨(withLit_length _ _).1, nofun⟩
theorem Laws.WordCount.originTag (o : VaFields) : Laws.WordCount.Statement (.originTag o) := ⟨(withLit_length _ _).1, nofun⟩
theorem Laws.WordCount.originAddr (o : VaFields) : Laws.WordCount.Statement (.originAddr o) := ⟨(withLit_length _ _).1, nofun⟩
theorem Laws.WordCount.originReg (o : VaFields) : Laws.WordCount.Statement (.originReg o) := ⟨(withLit_length _ _).1, nofun⟩
theorem Laws.WordCount.rth (o : VaFields) : Laws.WordCount.Statement (.rth o) := ⟨(withLit_length _ _).1, nofun⟩
theorem Laws.WordCount.sset (o : VaFields) : Laws.WordCount.Statement (.sset o) := ⟨(withLit_length _ _).1, nofun⟩
theorem Laws.WordCount.ckpt (o : VaFields) : Laws.WordCount.Statement (.ckpt o) := ⟨(withLit_length _ _).1, nofun⟩
theorem Laws.WordCount.mnop (rest : BitVec 26) : Laws.WordCount.Statement (.mnop rest) := ⟨Nat.le_succ 1, fun _ => rfl⟩
theorem Laws.WordCount.mteam (mode tm1 : BitVec 2) (first hreg : BitVec 4) (z : BitVec 14) : Laws.WordCount.Statement (.mteam mode tm1 first hreg z) := ⟨Nat.le_succ 1, fun _ => rfl⟩
theorem Laws.WordCount.mdesc (slot : BitVec 3) (mreg : BitVec 4) (z : BitVec 1) (off : BitVec 18) : Laws.WordCount.Statement (.mdesc slot mreg z off) := ⟨Nat.le_succ 1, fun _ => rfl⟩
theorem Laws.WordCount.mzero (kind : BitVec 1) (z : BitVec 25) : Laws.WordCount.Statement (.mzero kind z) := ⟨Nat.le_succ 1, fun _ => rfl⟩
theorem Laws.WordCount.mma (da db : BitVec 3) (ovw : BitVec 1) (z : BitVec 19) : Laws.WordCount.Statement (.mma da db ovw z) := ⟨Nat.le_succ 1, fun _ => rfl⟩
theorem Laws.WordCount.mmas (da db : BitVec 3) (ovw : BitVec 1) (z : BitVec 19) : Laws.WordCount.Statement (.mmas da db ovw z) := ⟨Nat.le_succ 1, fun _ => rfl⟩
theorem Laws.WordCount.mloop (span : BitVec 10) (count : BitVec 15) : Laws.WordCount.Statement (.mloop span count) := ⟨Nat.le_succ 1, fun _ => rfl⟩
theorem Laws.WordCount.mloopMreg (span : BitVec 10) (z : BitVec 11) (mreg : BitVec 4) : Laws.WordCount.Statement (.mloopMreg span z mreg) := ⟨Nat.le_succ 1, fun _ => rfl⟩
theorem Laws.WordCount.mendl (rest : BitVec 26) : Laws.WordCount.Statement (.mendl rest) := ⟨Nat.le_succ 1, fun _ => rfl⟩
theorem Laws.WordCount.mbarw (bar mreg : BitVec 4) (inc : BitVec 1) (z : BitVec 17) : Laws.WordCount.Statement (.mbarw bar mreg inc z) := ⟨Nat.le_succ 1, fun _ => rfl⟩
theorem Laws.WordCount.mbara (bar : BitVec 4) (lag : BitVec 2) (z : BitVec 20) : Laws.WordCount.Statement (.mbara bar lag z) := ⟨Nat.le_succ 1, fun _ => rfl⟩
theorem Laws.WordCount.mset (mreg : BitVec 4) (imm : BitVec 22) : Laws.WordCount.Statement (.mset mreg imm) := ⟨Nat.le_succ 1, fun _ => rfl⟩
theorem Laws.WordCount.madd (mreg : BitVec 4) (imm : BitVec 22) : Laws.WordCount.Statement (.madd mreg imm) := ⟨Nat.le_succ 1, fun _ => rfl⟩
theorem Laws.WordCount.mbuf (slots : BitVec 8) (z : BitVec 18) : Laws.WordCount.Statement (.mbuf slots z) := ⟨Nat.le_succ 1, fun _ => rfl⟩
theorem Laws.WordCount.mfence (rest : BitVec 26) : Laws.WordCount.Statement (.mfence rest) := ⟨Nat.le_succ 1, fun _ => rfl⟩
theorem Laws.WordCount.mend (rest : BitVec 26) : Laws.WordCount.Statement (.mend rest) := ⟨Nat.le_succ 1, fun _ => rfl⟩
theorem Laws.WordCount.kstepRetire (core : Nat) : Laws.WordCount.Statement (.kstepRetire core) := ⟨Nat.zero_le 2, nofun⟩
theorem Laws.WordCount.teamClaim (blk : Nat) : Laws.WordCount.Statement (.teamClaim blk) := ⟨Nat.zero_le 2, nofun⟩
theorem Laws.WordCount.generationScrub (core vd : Nat) : Laws.WordCount.Statement (.generationScrub core vd) := ⟨Nat.zero_le 2, nofun⟩
theorem Laws.WordCount.handlerLaunch (glen job core : Nat) : Laws.WordCount.Statement (.handlerLaunch glen job core) := ⟨Nat.zero_le 2, nofun⟩
theorem Laws.WordCount.watchdogExpiry (wave : Nat) : Laws.WordCount.Statement (.watchdogExpiry wave) := ⟨Nat.zero_le 2, nofun⟩
theorem Laws.WordCount.sleepWake (wave : Nat) : Laws.WordCount.Statement (.sleepWake wave) := ⟨Nat.zero_le 2, nofun⟩
theorem Laws.WordCount.monitorWake (wave : Nat) : Laws.WordCount.Statement (.monitorWake wave) := ⟨Nat.zero_le 2, nofun⟩
theorem Laws.WordCount.commandAccept (wave : Nat) : Laws.WordCount.Statement (.commandAccept wave) := ⟨Nat.zero_le 2, nofun⟩
theorem Laws.WordCount.copySectorWritten (core cmd : Nat) : Laws.WordCount.Statement (.copySectorWritten core cmd) := ⟨Nat.zero_le 2, nofun⟩
theorem Laws.WordCount.commandRetire (unit : EngineUnit) (cmd : Nat) : Laws.WordCount.Statement (.commandRetire unit cmd) := ⟨Nat.zero_le 2, nofun⟩
theorem Laws.WordCount.covCommandRetire (glen cmd : Nat) : Laws.WordCount.Statement (.covCommandRetire glen cmd) := ⟨Nat.zero_le 2, nofun⟩
theorem Laws.WordCount.bandEncoded (glen frame : Nat) : Laws.WordCount.Statement (.bandEncoded glen frame) := ⟨Nat.zero_le 2, nofun⟩
theorem Laws.WordCount.fetchCard (vale vd queue : Nat) : Laws.WordCount.Statement (.fetchCard vale vd queue) := ⟨Nat.zero_le 2, nofun⟩
theorem Laws.WordCount.pluginInvocation (vale vd queue : Nat) (answer : PluginAnswer) : Laws.WordCount.Statement (.pluginInvocation vale vd queue answer) := ⟨Nat.zero_le 2, nofun⟩
theorem Laws.WordCount.cardReady (vale vd queue : Nat) : Laws.WordCount.Statement (.cardReady vale vd queue) := ⟨Nat.zero_le 2, nofun⟩
theorem Laws.WordCount.prologueStart (vale vd queue : Nat) : Laws.WordCount.Statement (.prologueStart vale vd queue) := ⟨Nat.zero_le 2, nofun⟩
theorem Laws.WordCount.dealChunk (job glen : Nat) : Laws.WordCount.Statement (.dealChunk job glen) := ⟨Nat.zero_le 2, nofun⟩
theorem Laws.WordCount.placeRound (job slot : Nat) : Laws.WordCount.Statement (.placeRound job slot) := ⟨Nat.zero_le 2, nofun⟩
theorem Laws.WordCount.jobRetire (job : Nat) : Laws.WordCount.Statement (.jobRetire job) := ⟨Nat.zero_le 2, nofun⟩
theorem Laws.WordCount.suspendWake (blk : Nat) : Laws.WordCount.Statement (.suspendWake blk) := ⟨Nat.zero_le 2, nofun⟩
theorem Laws.WordCount.blockSaveDone (blk : Nat) : Laws.WordCount.Statement (.blockSaveDone blk) := ⟨Nat.zero_le 2, nofun⟩
theorem Laws.WordCount.blockResume (blk core : Nat) : Laws.WordCount.Statement (.blockResume blk core) := ⟨Nat.zero_le 2, nofun⟩
theorem Laws.WordCount.carveConversion (core : Nat) : Laws.WordCount.Statement (.carveConversion core) := ⟨Nat.zero_le 2, nofun⟩
theorem Laws.WordCount.periodBoundary (vale vd : Nat) : Laws.WordCount.Statement (.periodBoundary vale vd) := ⟨Nat.zero_le 2, nofun⟩
theorem Laws.WordCount.switchoutCutTimeout (vale vd : Nat) : Laws.WordCount.Statement (.switchoutCutTimeout vale vd) := ⟨Nat.zero_le 2, nofun⟩
theorem Laws.WordCount.accountingWindow (channel : Nat) : Laws.WordCount.Statement (.accountingWindow channel) := ⟨Nat.zero_le 2, nofun⟩
theorem Laws.WordCount.checkpointCut (vale vd : Nat) : Laws.WordCount.Statement (.checkpointCut vale vd) := ⟨Nat.zero_le 2, nofun⟩
theorem Laws.WordCount.cutComplete (vale vd : Nat) : Laws.WordCount.Statement (.cutComplete vale vd) := ⟨Nat.zero_le 2, nofun⟩
theorem Laws.WordCount.rollbackDone (vale vd : Nat) : Laws.WordCount.Statement (.rollbackDone vale vd) := ⟨Nat.zero_le 2, nofun⟩
theorem Laws.WordCount.taskAdmit (job glen : Nat) : Laws.WordCount.Statement (.taskAdmit job glen) := ⟨Nat.zero_le 2, nofun⟩
theorem Laws.WordCount.taskPlace (job core : Nat) : Laws.WordCount.Statement (.taskPlace job core) := ⟨Nat.zero_le 2, nofun⟩
theorem Laws.WordCount.taskCommit (job : Nat) : Laws.WordCount.Statement (.taskCommit job) := ⟨Nat.zero_le 2, nofun⟩
theorem Laws.WordCount.saddleUpdateApply (die seq : Nat) : Laws.WordCount.Statement (.saddleUpdateApply die seq) := ⟨Nat.zero_le 2, nofun⟩
theorem Laws.WordCount.invalidationComplete (idx : Nat) : Laws.WordCount.Statement (.invalidationComplete idx) := ⟨Nat.zero_le 2, nofun⟩
theorem Laws.WordCount.migrationDone (idx : Nat) : Laws.WordCount.Statement (.migrationDone idx) := ⟨Nat.zero_le 2, nofun⟩
theorem Laws.WordCount.leaseStart (idx : Nat) : Laws.WordCount.Statement (.leaseStart idx) := ⟨Nat.zero_le 2, nofun⟩
theorem Laws.WordCount.leaseEnd (idx : Nat) : Laws.WordCount.Statement (.leaseEnd idx) := ⟨Nat.zero_le 2, nofun⟩
theorem Laws.WordCount.saveDrainTimeout (blk : Nat) : Laws.WordCount.Statement (.saveDrainTimeout blk) := ⟨Nat.zero_le 2, nofun⟩
theorem Laws.WordCount.cutTimeout (vale vd : Nat) : Laws.WordCount.Statement (.cutTimeout vale vd) := ⟨Nat.zero_le 2, nofun⟩
theorem Laws.WordCount.commandTimeout (unit : EngineUnit) (cmd : Nat) : Laws.WordCount.Statement (.commandTimeout unit cmd) := ⟨Nat.zero_le 2, nofun⟩
theorem Laws.WordCount.colWatchdogTimeout (glen : Option Nat) : Laws.WordCount.Statement (.colWatchdogTimeout glen) := ⟨Nat.zero_le 2, nofun⟩
theorem Laws.WordCount.vdStopTimeout (vale vd : Nat) : Laws.WordCount.Statement (.vdStopTimeout vale vd) := ⟨Nat.zero_le 2, nofun⟩
theorem Laws.WordCount.glenScrubComplete (glen : Nat) (ok : Bool) : Laws.WordCount.Statement (.glenScrubComplete glen ok) := ⟨Nat.zero_le 2, nofun⟩
theorem Laws.WordCount.glenFailure (glen : Nat) : Laws.WordCount.Statement (.glenFailure glen) := ⟨Nat.zero_le 2, nofun⟩
theorem Laws.WordCount.memError (err : SoftError) : Laws.WordCount.Statement (.memError err) := ⟨Nat.zero_le 2, nofun⟩
theorem Laws.WordCount.patrolScrub (sector : Nat) (corrected : Bool) : Laws.WordCount.Statement (.patrolScrub sector corrected) := ⟨Nat.zero_le 2, nofun⟩
theorem Laws.WordCount.linkCrcFail (link : LinkRef) : Laws.WordCount.Statement (.linkCrcFail link) := ⟨Nat.zero_le 2, nofun⟩
theorem Laws.WordCount.linkRetrainTimeout (link : LinkRef) : Laws.WordCount.Statement (.linkRetrainTimeout link) := ⟨Nat.zero_le 2, nofun⟩
theorem Laws.WordCount.passLinkDown (link : Nat) : Laws.WordCount.Statement (.passLinkDown link) := ⟨Nat.zero_le 2, nofun⟩
theorem Laws.WordCount.fabricRead (req : FabricReq) : Laws.WordCount.Statement (.fabricRead req) := ⟨Nat.zero_le 2, nofun⟩
theorem Laws.WordCount.fabricPostedWrite (req : FabricReq) : Laws.WordCount.Statement (.fabricPostedWrite req) := ⟨Nat.zero_le 2, nofun⟩
theorem Laws.WordCount.fabricAtomic (req : FabricReq) : Laws.WordCount.Statement (.fabricAtomic req) := ⟨Nat.zero_le 2, nofun⟩
theorem Laws.WordCount.fabricPostedAtomic (req : FabricReq) : Laws.WordCount.Statement (.fabricPostedAtomic req) := ⟨Nat.zero_le 2, nofun⟩
theorem Laws.WordCount.fabricResponse (idx : Nat) (resp : FabricResp) : Laws.WordCount.Statement (.fabricResponse idx resp) := ⟨Nat.zero_le 2, nofun⟩
theorem Laws.WordCount.fabricResponseTimeout (idx : Nat) : Laws.WordCount.Statement (.fabricResponseTimeout idx) := ⟨Nat.zero_le 2, nofun⟩
theorem Laws.WordCount.fabricRekey (peer : Nat) : Laws.WordCount.Statement (.fabricRekey peer) := ⟨Nat.zero_le 2, nofun⟩
theorem Laws.WordCount.timeSyncMessage (count : DWord) (own : Bool) : Laws.WordCount.Statement (.timeSyncMessage count own) := ⟨Nat.zero_le 2, nofun⟩
theorem Laws.WordCount.timeMasterTimeout : Laws.WordCount.Statement (.timeMasterTimeout) := ⟨Nat.zero_le 2, nofun⟩
theorem Laws.WordCount.holdoverExpiry : Laws.WordCount.Statement (.holdoverExpiry) := ⟨Nat.zero_le 2, nofun⟩
theorem Laws.WordCount.reset : Laws.WordCount.Statement (.reset) := ⟨Nat.zero_le 2, nofun⟩
theorem Laws.WordCount.bringUpStepDone (out : BringUpResult) : Laws.WordCount.Statement (.bringUpStepDone out) := ⟨Nat.zero_le 2, nofun⟩
theorem Laws.WordCount.clockControl (t : Telemetry) : Laws.WordCount.Statement (.clockControl t) := ⟨Nat.zero_le 2, nofun⟩
theorem Laws.WordCount.thermalTrip (die : Nat) (temp : BitVec 16) : Laws.WordCount.Statement (.thermalTrip die temp) := ⟨Nat.zero_le 2, nofun⟩
theorem Laws.WordCount.lcReq (target : BitVec 3) (token : DWord) : Laws.WordCount.Statement (.lcReq target token) := ⟨Nat.zero_le 2, nofun⟩
theorem Laws.WordCount.limitWrite (current : Bool) (value : BitVec 16) : Laws.WordCount.Statement (.limitWrite current value) := ⟨Nat.zero_le 2, nofun⟩
theorem Laws.WordCount.alarmClear (ones : BitVec 4) : Laws.WordCount.Statement (.alarmClear ones) := ⟨Nat.zero_le 2, nofun⟩
theorem Laws.WordCount.registerWrite (path : HostPath) (reg : HostReg) (value : DWord) : Laws.WordCount.Statement (.registerWrite path reg value) := ⟨Nat.zero_le 2, nofun⟩
theorem Laws.WordCount.vdcWrite (path : HostPath) (vale vd off : Nat) (value : Word) : Laws.WordCount.Statement (.vdcWrite path vale vd off value) := ⟨Nat.zero_le 2, nofun⟩
theorem Laws.WordCount.vdcEnSet (path : HostPath) (vale vd off : Nat) (value : Word) : Laws.WordCount.Statement (.vdcEnSet path vale vd off value) := ⟨Nat.zero_le 2, nofun⟩
theorem Laws.WordCount.vdcEnClear (path : HostPath) (vale vd off : Nat) (value : Word) : Laws.WordCount.Statement (.vdcEnClear path vale vd off value) := ⟨Nat.zero_le 2, nofun⟩
theorem Laws.WordCount.hostPostWrite (path : HostPath) (vale off bytes : Nat) (value : DWord) : Laws.WordCount.Statement (.hostPostWrite path vale off bytes value) := ⟨Nat.zero_le 2, nofun⟩
theorem Laws.WordCount.apertureWrite (path : HostPath) (vale off : Nat) (data : List Byte) : Laws.WordCount.Statement (.apertureWrite path vale off data) := ⟨Nat.zero_le 2, nofun⟩
theorem Laws.WordCount.apertureRead (path : HostPath) (vale off n : Nat) : Laws.WordCount.Statement (.apertureRead path vale off n) := ⟨Nat.zero_le 2, nofun⟩
theorem Laws.WordCount.s1inv (vale vd : Nat) (a : CmdArgs) : Laws.WordCount.Statement (.s1inv vale vd a) := ⟨Nat.zero_le 2, nofun⟩
theorem Laws.WordCount.migrate (vale vd : Nat) (a : CmdArgs) : Laws.WordCount.Statement (.migrate vale vd a) := ⟨Nat.zero_le 2, nofun⟩
theorem Laws.WordCount.cut (vale vd : Nat) (a : CmdArgs) : Laws.WordCount.Statement (.cut vale vd a) := ⟨Nat.zero_le 2, nofun⟩
theorem Laws.WordCount.rollback (vale vd : Nat) (a : CmdArgs) : Laws.WordCount.Statement (.rollback vale vd a) := ⟨Nat.zero_le 2, nofun⟩
theorem Laws.WordCount.switchout (vale vd : Nat) (a : CmdArgs) : Laws.WordCount.Statement (.switchout vale vd a) := ⟨Nat.zero_le 2, nofun⟩
theorem Laws.WordCount.statclr (vale vd : Nat) (a : CmdArgs) : Laws.WordCount.Statement (.statclr vale vd a) := ⟨Nat.zero_le 2, nofun⟩
theorem Laws.WordCount.qcbwr (vale vd : Nat) (a : CmdArgs) : Laws.WordCount.Statement (.qcbwr vale vd a) := ⟨Nat.zero_le 2, nofun⟩
theorem Laws.WordCount.fwwave (vale vd : Nat) (a : CmdArgs) : Laws.WordCount.Statement (.fwwave vale vd a) := ⟨Nat.zero_le 2, nofun⟩
theorem Laws.WordCount.plugin (vale vd : Nat) (a : CmdArgs) : Laws.WordCount.Statement (.plugin vale vd a) := ⟨Nat.zero_le 2, nofun⟩
theorem Laws.WordCount.create (a : CmdArgs) : Laws.WordCount.Statement (.create a) := ⟨Nat.zero_le 2, nofun⟩
theorem Laws.WordCount.fuse (a : CmdArgs) : Laws.WordCount.Statement (.fuse a) := ⟨Nat.zero_le 2, nofun⟩
theorem Laws.WordCount.split (a : CmdArgs) : Laws.WordCount.Statement (.split a) := ⟨Nat.zero_le 2, nofun⟩
theorem Laws.WordCount.s2root (a : CmdArgs) : Laws.WordCount.Statement (.s2root a) := ⟨Nat.zero_le 2, nofun⟩
theorem Laws.WordCount.s2inv (a : CmdArgs) : Laws.WordCount.Statement (.s2inv a) := ⟨Nat.zero_le 2, nofun⟩
theorem Laws.WordCount.lease (a : CmdArgs) : Laws.WordCount.Statement (.lease a) := ⟨Nat.zero_le 2, nofun⟩
theorem Laws.WordCount.revoke (a : CmdArgs) : Laws.WordCount.Statement (.revoke a) := ⟨Nat.zero_le 2, nofun⟩
theorem Laws.WordCount.importEntry (a : CmdArgs) : Laws.WordCount.Statement (.importEntry a) := ⟨Nat.zero_le 2, nofun⟩
theorem Laws.WordCount.dirtyStart (a : CmdArgs) : Laws.WordCount.Statement (.dirtyStart a) := ⟨Nat.zero_le 2, nofun⟩
theorem Laws.WordCount.dirtySwap (a : CmdArgs) : Laws.WordCount.Statement (.dirtySwap a) := ⟨Nat.zero_le 2, nofun⟩
theorem Laws.WordCount.dirtyStop (a : CmdArgs) : Laws.WordCount.Statement (.dirtyStop a) := ⟨Nat.zero_le 2, nofun⟩
theorem Laws.WordCount.vdStop (a : CmdArgs) : Laws.WordCount.Statement (.vdStop a) := ⟨Nat.zero_le 2, nofun⟩
theorem Laws.WordCount.vdExport (a : CmdArgs) : Laws.WordCount.Statement (.vdExport a) := ⟨Nat.zero_le 2, nofun⟩
theorem Laws.WordCount.vdImport (a : CmdArgs) : Laws.WordCount.Statement (.vdImport a) := ⟨Nat.zero_le 2, nofun⟩
theorem Laws.WordCount.vdResume (a : CmdArgs) : Laws.WordCount.Statement (.vdResume a) := ⟨Nat.zero_le 2, nofun⟩
theorem Laws.WordCount.pageCopy (a : CmdArgs) : Laws.WordCount.Statement (.pageCopy a) := ⟨Nat.zero_le 2, nofun⟩
theorem Laws.WordCount.perValeReset (vale : Nat) : Laws.WordCount.Statement (.perValeReset vale) := ⟨Nat.zero_le 2, nofun⟩
theorem Laws.WordCount.valeResetComplete (vale : Nat) : Laws.WordCount.Statement (.valeResetComplete vale) := ⟨Nat.zero_le 2, nofun⟩
theorem Laws.WordCount.getVersion : Laws.WordCount.Statement (.getVersion) := ⟨Nat.zero_le 2, nofun⟩
theorem Laws.WordCount.getCapabilities : Laws.WordCount.Statement (.getCapabilities) := ⟨Nat.zero_le 2, nofun⟩
theorem Laws.WordCount.negotiateAlgorithms (offer : AlgorithmOffer) : Laws.WordCount.Statement (.negotiateAlgorithms offer) := ⟨Nat.zero_le 2, nofun⟩
theorem Laws.WordCount.getDigests : Laws.WordCount.Statement (.getDigests) := ⟨Nat.zero_le 2, nofun⟩
theorem Laws.WordCount.getCertificate (slot : Nat) : Laws.WordCount.Statement (.getCertificate slot) := ⟨Nat.zero_le 2, nofun⟩
theorem Laws.WordCount.challenge (slot : Nat) (nonce : BitVec 256) : Laws.WordCount.Statement (.challenge slot nonce) := ⟨Nat.zero_le 2, nofun⟩
theorem Laws.WordCount.getMeasurements (index : Nat) : Laws.WordCount.Statement (.getMeasurements index) := ⟨Nat.zero_le 2, nofun⟩
theorem Laws.WordCount.keyExchange (slot : Nat) (share : BitVec 512) : Laws.WordCount.Statement (.keyExchange slot share) := ⟨Nat.zero_le 2, nofun⟩
theorem Laws.WordCount.finish (verifies : Bool) : Laws.WordCount.Statement (.finish verifies) := ⟨Nat.zero_le 2, nofun⟩
theorem Laws.WordCount.heartbeat (session : Nat) : Laws.WordCount.Statement (.heartbeat session) := ⟨Nat.zero_le 2, nofun⟩
theorem Laws.WordCount.heartbeatTimeout (session : Nat) : Laws.WordCount.Statement (.heartbeatTimeout session) := ⟨Nat.zero_le 2, nofun⟩
theorem Laws.WordCount.keyUpdate (session : Nat) : Laws.WordCount.Statement (.keyUpdate session) := ⟨Nat.zero_le 2, nofun⟩
theorem Laws.WordCount.endSession (session : Nat) : Laws.WordCount.Statement (.endSession session) := ⟨Nat.zero_le 2, nofun⟩
theorem Laws.WordCount.ideKm (session : Nat) (op : IdeOp) : Laws.WordCount.Statement (.ideKm session op) := ⟨Nat.zero_le 2, nofun⟩
theorem Laws.WordCount.ideStreamFault (stream : Nat) : Laws.WordCount.Statement (.ideStreamFault stream) := ⟨Nat.zero_le 2, nofun⟩
theorem Laws.WordCount.lockInterfaceRequest (session vale stream : Nat) : Laws.WordCount.Statement (.lockInterfaceRequest session vale stream) := ⟨Nat.zero_le 2, nofun⟩
theorem Laws.WordCount.startInterfaceRequest (session vale : Nat) (nonce : BitVec 256) : Laws.WordCount.Statement (.startInterfaceRequest session vale nonce) := ⟨Nat.zero_le 2, nofun⟩
theorem Laws.WordCount.stopInterfaceRequest (session vale : Nat) : Laws.WordCount.Statement (.stopInterfaceRequest session vale) := ⟨Nat.zero_le 2, nofun⟩
theorem Laws.WordCount.tdiWipeComplete (vale : Nat) : Laws.WordCount.Statement (.tdiWipeComplete vale) := ⟨Nat.zero_le 2, nofun⟩
theorem Laws.WordCount.getDeviceInterfaceState (session vale : Nat) : Laws.WordCount.Statement (.getDeviceInterfaceState session vale) := ⟨Nat.zero_le 2, nofun⟩
theorem Laws.WordCount.getDeviceInterfaceReport (session vale : Nat) : Laws.WordCount.Statement (.getDeviceInterfaceReport session vale) := ⟨Nat.zero_le 2, nofun⟩
theorem Laws.WordCount.configWrite (vale : Nat) (w : ConfigWrite) : Laws.WordCount.Statement (.configWrite vale w) := ⟨Nat.zero_le 2, nofun⟩
theorem Laws.WordCount.accessPerformed (acc : Nat) : Laws.WordCount.Statement (.accessPerformed acc) := ⟨Nat.zero_le 2, nofun⟩
theorem Laws.WordCount.loadComplete (wave load : Nat) (lanes : Mask) : Laws.WordCount.Statement (.loadComplete wave load lanes) := ⟨Nat.zero_le 2, nofun⟩
theorem Laws.WordCount.appliedNotice (die seq : Nat) : Laws.WordCount.Statement (.appliedNotice die seq) := ⟨Nat.zero_le 2, nofun⟩
theorem Laws.WordCount.retrainComplete (link : LinkRef) : Laws.WordCount.Statement (.retrainComplete link) := ⟨Nat.zero_le 2, nofun⟩
theorem Laws.WordCount.wakeBoostEnd (vale vd : Nat) : Laws.WordCount.Statement (.wakeBoostEnd vale vd) := ⟨Nat.zero_le 2, nofun⟩
theorem Laws.WordCount.parkuntilExpiry (vale vd queue : Nat) : Laws.WordCount.Statement (.parkuntilExpiry vale vd queue) := ⟨Nat.zero_le 2, nofun⟩

end Sys2Proof
end

