-- ==== Sys2Proof/Laws/Tags.lean ====
section
/-! SUPPORT. The tags of register blocks and stash rows (R119, R120): a stale entry reads zero, the first write to one leaves the rest of it
zero, and a bump moves the tags of live entries to the new generation. -/
namespace Sys2Proof.Machine

/-- The numbers of natsFrom. -/
theorem mem_natsFrom {lo n k : Nat} : k ∈ natsFrom lo n ↔ lo ≤ k ∧ k < lo + n := by
  induction n generalizing lo with
  | zero => simp [natsFrom]
  | succ n ih => simp [natsFrom, ih]; omega

/-- R119: a read of a stale register block returns zero. -/
theorem stale_block_reads_zero {s : State} {w : Wave} {j r l : Nat} (h : regTag s w j = none) (hr : r / 8 = j) (hl : l < 16) : w.rdV r l = 0 := by
  unfold regTag at h
  split at h
  · next h0 =>
    have := List.all_eq_true.mp h0 (vCell r l) (mem_natsFrom.mpr (by unfold vCell; omega))
    simpa [Wave.rdV] using this
  · cases h

/-- R119: a read of a stale row returns zero. -/
theorem stale_row_reads_zero {s : State} {b : Block} {row k : Nat} (h : rowTag s b row = none) (hk : k / 128 = row) : Tbl.cell 0 b.stash k = 0 := by
  unfold rowTag at h
  split at h
  · next h0 =>
    have := List.all_eq_true.mp h0 k (mem_natsFrom.mpr (by omega))
    simpa using this
  · cases h

/-- R119: a write to a stale register block leaves every other word of it zero. -/
theorem write_to_stale_block {s : State} {w : Wave} {j r l q m : Nat} (x : Word) (h : regTag s w j = none) (hq : q / 8 = j) (hm : m < 16)
    (hne : vCell q m ≠ vCell r l) : (w.wrV r l x).rdV q m = 0 := by
  have := stale_block_reads_zero h hq hm
  simp only [Wave.rdV, Wave.wrV] at *
  rwa [Tbl.cell_setCell_ne 0 w.v x hne]

/-- R120: the tag of a live register block is its VD and that VD's current generation, whatever bumps have come before. -/
theorem live_tag_is_current {s : State} {w : Wave} {j : Nat} {t : Nat × BitVec 4} (h : regTag s w j = some t) :
    t = (w.vd, generation s w.core w.vale w.vd) := by
  unfold regTag at h
  split at h
  · cases h
  · exact (Option.some.inj h).symm

end Sys2Proof.Machine
end

