-- ==== Sys2Proof/Tests/Slice0.lean ====
section
/-! SUPPORT. Tests of the model, each a named theorem: ill-formed terms that WellFormed refuses, words of the encoding tables that
decode to their instructions, the spec's worked examples, and for each statement with hypotheses a state and operands that meet
them. Expected results come from the spec's tables and examples, never from a run. -/
open Sys2Proof Sys2Proof.Machine

namespace Sys2Proof.Tests

set_option Elab.async false

/-! ## Helpers -/

/-- An instruction's words as one number. -/
def wordsOf (i : Instr) : Nat :=
  match encode i with
  | [a] => a.toNat
  | a :: b :: _ => a.toNat + 2 ^ 32 * b.toNat
  | [] => 0

/-- The state after reset with one wave about to run the instruction (wave 1 of block 2 of job 3), or its block's stream. -/
def at_ (i : Instr) : State := fetchPlace State.reset (wordsOf i) i.isStream

/-- The wave of at_. -/
def wave1 (s : State) : Wave := (Tbl.get s.waves 1).getD (freshWave .ordinary 0 0 0 0 0 0 0 0 12 0)

/-- The block of at_. -/
def block2 (s : State) : Option Block := Tbl.get s.blocks 2

/-- Register fields d, a, b and a modifier. -/
def va (d a b : RegField) (m : BitVec 2) : VaFields := ⟨d, a, b, m, none⟩

/-- The same as an X-form with a literal. -/
def vx (m : BitVec 2) (lit : Word) : VaFields := ⟨1, 2, 3, m, some lit⟩

/-- The instruction runs now in a plain wave. -/
def ready (i : Instr) : Bool := runsNow (at_ i) 1 (wave1 (at_ i)) i && plainWave (at_ i) (wave1 (at_ i))

/-! ## Well-formedness: each check refuses an ill-formed term -/

/-- A reserved modifier, a field that must be zero, a literal on a one-source form, a reserved space, order or scope, and a stream
word's reserved bits (R189). -/
theorem test_fields_refused : [Instr.iadd (va 1 2 3 3), .imul (va 1 2 3 1), .nop (va 0 0 1 0), .icmp ⟨1, 6, 2, 3, 0, none⟩, .icmp ⟨1, 0, 2, 3, 3, none⟩,
    .fcmp ⟨1, 8, 2, 3, 0, none⟩, .popc ⟨1, 2, 0, 0, some 0⟩, .lop3 (va 1 2 3 0), .ld32 ⟨1, 2, 0, 2, 0, none⟩, .ld32 ⟨1, 2, 0, 0, 7, none⟩, .bra ⟨0, 1, 0, 4⟩,
    .fence ⟨0, 0, 0, 0, 3, some 0x160⟩, .covbegin (va 0 96 3 0), .sreg (va 1 0 19 0), .rgive ⟨1, 1, 0, 0, 0, none⟩, .mloop 1 1, .mnop 1, .mset 0 0].map
    Instr.wellFormed = [false, false, false, false, false, false, false, false, false, false, false, false, false, false, false, false, false, true] := by
  decide +kernel

/-- A pair that is not even, a group across the register files (R174), and a scalar destination of a vector source (R485). -/
theorem test_registers_refused : (Instr.iadd64 (va 3 4 6 0)).wellFormed = false ∧ (Instr.iadd64 (va 2 4 6 0)).wellFormed = true ∧
    ((Instr.iadd (va 96 2 97 0)).fieldsOk && (Instr.iadd (va 96 2 97 0)).regs.all RegUse.shapeOk && !(Instr.iadd (va 96 2 97 0)).mixOk) = true ∧
    (Instr.iadd (va 96 97 98 0)).wellFormed = true ∧ ((Instr.iadd64 (va 2 3 6 0)).fieldsOk && !(Instr.iadd64 (va 2 3 6 0)).regs.all RegUse.shapeOk) = true := by
  decide +kernel

/-! ## Words of the encoding tables -/

/-- Well-formed instructions of both kinds, and a word with the literal that it asks for: the premises of the encoding statements. -/
theorem test_encoding_premises : (Instr.ld32 ⟨1, 2, 3, 0, 0, some 0x160⟩).wellFormed = true ∧ (Instr.ld32 ⟨1, 2, 3, 0, 0, some 0x160⟩).isStream = false ∧
    encode (.ld32 ⟨1, 2, 3, 0, 0, some 0x160⟩) ≠ [] ∧ (Instr.mset 15 0x3FFFFF).wellFormed = true ∧ (Instr.mset 15 0x3FFFFF).isStream = true ∧
    (some (5 : Word)).isSome = hasLiteral 0x020A1804 ∧ (none : Option Word).isSome = hasLiteral 0x020A1838 ∧
    decodeWord 0x020A1804 (some 5) = .ok (.iadd ⟨5, 6, 0, 0, some 5⟩) := ⟨by decide, rfl, by decide, by decide, rfl, rfl, rfl, rfl⟩

/-- The words of encodings that the rules write out (R187, R239, R292, R348): NOP, ICMP.NE, CPY.G2S and DDX. -/
theorem test_spec_words : encode (.nop (va 0 0 0 0)) = [0x00000000] ∧ encode (.icmp ⟨1, 1, 5, 6, 0, none⟩) = [0x38221430] ∧
    encode (.cpy ⟨8, 12, 2, 1, 0, none⟩) = [0x90103084] ∧ encode (.ddx (va 30 20 0 0)) = [0xA83C5000] := by decide

/-! ## The step -/

theorem test_step_runs : (let s := at_ (.iadd (va 1 2 3 0))
    s.agenda = [.issue 1 false] ∧ (match ranked { s with agenda := [] } 1 [] with
      | some v => !waveSpent v 1 && (match turnWave (State.modWave (spendWave v 1) 1 (fun x => { x with yielded := false })) 1 false with
        | .run u i => decide (i = .iadd (va 1 2 3 0)) && !unitSpent u 1 i
        | _ => false)
      | none => false) = true ∧ s.waves.all (fun e => decide (e.1 = 1)) = true) ∧
    (let s := at_ (.iadd (va 1 2 3 0))
     canIssue s (wave1 s) = true ∧ (wave1 s).trap = none ∧ (wave1 s).late = [] ∧ (wave1 s).wait = none ∧ lookaheadHolds (wave1 s) = false ∧
     queueHeld s (wave1 s) = false ∧ (wave1 s).reread = false ∧ (wave1 s).kind ≠ .prologue ∧
     fetchWaits { s with defer := false } 0 0 0 (wave1 s).pos.pc = false ∧
     (wave1 s).pos.clause.isSome = true ∧ (fetchWord { s with defer := false } 0 0 0 (wave1 s).pos.pc).2.toOption = some 0x02020818 ∧
     opAssigned 2 = true ∧ (wave1 s).pos.clause.map (fun c => c.cls) = some (opClass 2)) := by decide +kernel

/-- R36 and R396: of two ready waves of a track the one that has waited longer issues, and a wave issues once in a clock. -/
theorem test_step_ranks : (let s := at_ (.iadd (va 1 2 3 0))
    let s := { s with waves := Tbl.set s.waves 5 { wave1 s with slot := 4 } }
    let t := s.modWave 1 (fun x => { x with lastIssue := 7 })
    (ranked t 1 []).isNone && (ranked t 5 []).isSome && (ranked t 1 [5]).isSome && (ranked s 1 []).isSome &&
      waveSpent (spendWave (beginClock s) 1) 1 && !waveSpent (spendWave (beginClock s) 1) 5 &&
      unitSpent (spendUnit (beginClock s) 1 (.iadd (va 1 2 3 0))) 5 (.iadd (va 1 2 3 0))) = true := by decide +kernel

theorem test_stream_step : (let s := at_ (.mset 1 5)
    s.agenda = [.sequence 2] ∧ (match block2 s with
      | some b => (match b.seqCtx with
        | some c => canSequence { s with agenda := [] } b c && decide ((fetchWord { s with agenda := [] } b.core b.vale b.vd c.spc).2.toOption = some 0x28400005)
        | none => false)
      | none => false) = true) ∧ encode Instr.reset = [] := by decide +kernel

theorem test_steps_of_reset : State.reset.Inv ∧ completes (step { State.reset with agenda := [.tick] }) := ⟨rfl, _, rfl⟩

theorem test_register_premises : (∀ l ∈ [0, 15], l < 16) ∧ isScalar (95 : RegField) = false ∧ isScalar (96 : RegField) = true := by decide

theorem test_rounding_premises : fp32 ∈ [fp32, fp16, bf16] ∧ 0x7F7FFFFF < 2 ^ (1 + fp32.ew + fp32.fw) ∧ (valOf fp32 0x7F7FFFFF).isNan = false ∧
    (valOf bf16 0).isNan = false := by decide +kernel

theorem test_sreg_premises : (15 : Nat) < 16 ∧ (wave1 (at_ (.sreg (va 1 0 18 0)))).kind = .ordinary := by decide +kernel

theorem test_movx_premises : (let s := at_ (.movxRd ⟨1, 0, 0, 0, some 95⟩)
    (∀ l ∈ lanesOf (wave1 s).part, (0 : Nat) + 95 < 8 * (wave1 s).held) ∧ 8 * (wave1 s).held ≤ 96 ∧ ready (.movxRd ⟨1, 0, 0, 0, some 96⟩) = true) := by
  decide +kernel

/-! ## Worked examples of the rules -/

/-- The wave after one instruction. -/
def ran (i : Instr) (f : Wave → Wave) : Wave :=
  match exec i ((at_ i).modWave 1 f) with
  | .next t => wave1 t
  | _ => freshWave .prologue 0 0 0 0 0 0 0 0 0 0

/-- R222: IDIV.S32 of -7 by 2 is -3 and IREM.S32 is -1; IDIV.B32 of 5 by 0 is all ones and IREM.B32 is 5. -/
theorem test_division : (ran (.idiv ⟨1, 2, 0, 0, some 2⟩) (fun w => w.wrV 2 0 (-7))).rd 1 0 = -3 ∧
    (ran (.irem ⟨1, 2, 0, 0, some 2⟩) (fun w => w.wrV 2 0 (-7))).rd 1 0 = -1 ∧
    (ran (.idiv ⟨1, 2, 0, 1, some 0⟩) (fun w => w.wrV 2 0 5)).rd 1 0 = 0xFFFFFFFF ∧
    (ran (.irem ⟨1, 2, 0, 1, some 0⟩) (fun w => w.wrV 2 0 5)).rd 1 0 = 5 := by decide +kernel

/-- R221: IABS of the most negative number wraps or saturates. -/
theorem test_iabs : (ran (.iabs (va 1 2 0 0)) (fun w => w.wrV 2 0 0x80000000)).rd 1 0 = 0x80000000 ∧
    (ran (.iabs (va 1 2 0 1)) (fun w => w.wrV 2 0 0x80000000)).rd 1 0 = 0x7FFFFFFF := by decide +kernel

/-- R224: IMM8 0x80 is a AND b AND c, 0x96 is a XOR b XOR c. -/
theorem test_lop3 : lop3W 0x80 0xF0F0 0xFF00 0xAAAA = 0xA000 ∧ lop3W 0x96 0xF0F0 0xFF00 0xAAAA = 0xA55A := by decide

/-- R229: 0x3210 returns a, 0x0123 reverses its bytes, 0x8880 sign-extends byte 0. -/
theorem test_permb : permbW 0x11223384 0x55667788 0x3210 = 0x11223384 ∧ permbW 0x11223384 0x55667788 0x0123 = 0x84332211 ∧
    permbW 0x11223384 0x55667788 0x8880 = 0xFFFFFF84 := by decide

/-- R225: a shift of 32 or more saturates; ROTL takes the amount modulo 32. -/
theorem test_shifts : (ran (.shra ⟨1, 2, 0, 0, some 40⟩) (fun w => w.wrV 2 15 0x80000000)).rd 1 15 = 0xFFFFFFFF ∧
    (ran (.shl ⟨1, 2, 0, 0, some 32⟩) (fun w => w.wrV 2 15 1)).rd 1 15 = 0 ∧ (ran (.rotl ⟨1, 2, 0, 0, some 33⟩) (fun w => w.wrV 2 15 0x80000001)).rd 1 15 = 3 := by
  decide +kernel

/-- R217: IADD64 wraps across its pair and saturates. -/
theorem test_iadd64 : (ran (.iadd64 ⟨2, 4, 0, 0, some 1⟩) (fun w => (w.wrV 4 0 0xFFFFFFFF).wrV 5 0 6)).rd64 2 0 = 0x700000000 ∧
    (ran (.iadd64 ⟨2, 4, 0, 1, some 1⟩) (fun w => (w.wrV 4 0 0xFFFFFFFF).wrV 5 0 0x7FFFFFFF)).rd64 2 0 = 0x7FFFFFFFFFFFFFFF := by decide +kernel

/-- R231, R84: 1.5 plus 2.25 in FP32 is 3.75; the sum of infinity and its negative is a quiet NaN. -/
theorem test_fadd : fp2 0 addV 0x3FC00000 0x40100000 = 0x40700000 ∧ fp2 0 addV 0x7F800000 0xFF800000 = 0x7FC00000 := by decide +kernel

/-- The VEC words of the encoding tables, registers 5, 6, 7 (8 for T) where they name registers. -/
theorem test_decode_vec_1 :
    decodeWord 0x00000000 none = .ok (.nop ⟨0, 0, 0, 0, none⟩) ∧
    decodeWord 0x010A1800 none = .ok (.mov ⟨5, 6, 0, 0, none⟩) ∧
    decodeWord 0x020A1838 none = .ok (.iadd ⟨5, 6, 7, 0, none⟩) ∧
    decodeWord 0x030A1838 none = .ok (.isub ⟨5, 6, 7, 0, none⟩) ∧
    decodeWord 0x040A1838 none = .ok (.imul ⟨5, 6, 7, 0, none⟩) ∧
    decodeWord 0x050A1838 none = .ok (.imulh ⟨5, 6, 7, 0, none⟩) ∧
    decodeWord 0x060A1838 none = .ok (.imad ⟨5, 6, 7, 0, none⟩) ∧
    decodeWord 0x070A1838 none = .ok (.imulw ⟨5, 6, 7, 0, none⟩) ∧
    decodeWord 0x080A1838 none = .ok (.imadw ⟨5, 6, 7, 0, none⟩) ∧
    decodeWord 0x090A1838 none = .ok (.iadd64 ⟨5, 6, 7, 0, none⟩) ∧
    decodeWord 0x0A0A1838 none = .ok (.isub64 ⟨5, 6, 7, 0, none⟩) ∧
    decodeWord 0x0B0A1838 none = .ok (.lea ⟨5, 6, 7, 0, none⟩) ∧
    decodeWord 0x0C0A1838 none = .ok (.imin ⟨5, 6, 7, 0, none⟩) ∧
    decodeWord 0x0D0A1838 none = .ok (.imax ⟨5, 6, 7, 0, none⟩) ∧
    decodeWord 0x0E0A1800 none = .ok (.iabs ⟨5, 6, 0, 0, none⟩) ∧
    decodeWord 0x0F0A1838 none = .ok (.idiv ⟨5, 6, 7, 0, none⟩) ∧
    decodeWord 0x100A1838 none = .ok (.irem ⟨5, 6, 7, 0, none⟩) ∧
    decodeWord 0x110A1838 none = .ok (.and ⟨5, 6, 7, 0, none⟩) ∧
    decodeWord 0x120A1838 none = .ok (.or ⟨5, 6, 7, 0, none⟩) ∧
    decodeWord 0x130A1838 none = .ok (.xor ⟨5, 6, 7, 0, none⟩) ∧
    decodeWord 0x140A1838 none = .ok (.andn ⟨5, 6, 7, 0, none⟩) ∧
    decodeWord 0x160A1838 none = .ok (.shl ⟨5, 6, 7, 0, none⟩) ∧
    decodeWord 0x170A1838 none = .ok (.shrl ⟨5, 6, 7, 0, none⟩) ∧
    decodeWord 0x180A1838 none = .ok (.shra ⟨5, 6, 7, 0, none⟩) :=
  ⟨rfl, rfl, rfl, rfl, rfl, rfl, rfl, rfl, rfl, rfl, rfl, rfl, rfl, rfl, rfl, rfl, rfl, rfl, rfl, rfl, rfl, rfl, rfl, rfl⟩

/-- The VEC words of the encoding tables, registers 5, 6, 7 (8 for T) where they name registers. -/
theorem test_decode_vec_2 :
    decodeWord 0x190A1838 none = .ok (.rotl ⟨5, 6, 7, 0, none⟩) ∧
    decodeWord 0x1B0A1838 none = .ok (.bfx ⟨5, 6, 7, 0, none⟩) ∧
    decodeWord 0x1D0A1800 none = .ok (.popc ⟨5, 6, 0, 0, none⟩) ∧
    decodeWord 0x1E0A1800 none = .ok (.clz ⟨5, 6, 0, 0, none⟩) ∧
    decodeWord 0x1F0A1800 none = .ok (.brev ⟨5, 6, 0, 0, none⟩) ∧
    decodeWord 0x200A1800 none = .ok (.ffs ⟨5, 6, 0, 0, none⟩) ∧
    decodeWord 0x220A1838 none = .ok (.fadd ⟨5, 6, 7, 0, none⟩) ∧
    decodeWord 0x230A1838 none = .ok (.fsub ⟨5, 6, 7, 0, none⟩) ∧
    decodeWord 0x240A1838 none = .ok (.fmul ⟨5, 6, 7, 0, none⟩) ∧
    decodeWord 0x250A1838 none = .ok (.fma ⟨5, 6, 7, 0, none⟩) ∧
    decodeWord 0x260A1838 none = .ok (.fmin ⟨5, 6, 7, 0, none⟩) ∧
    decodeWord 0x270A1838 none = .ok (.fmax ⟨5, 6, 7, 0, none⟩) ∧
    decodeWord 0x280A1800 none = .ok (.fneg ⟨5, 6, 0, 0, none⟩) ∧
    decodeWord 0x290A1800 none = .ok (.fabs ⟨5, 6, 0, 0, none⟩) ∧
    decodeWord 0x2A0A1800 none = .ok (.frnd ⟨5, 6, 0, 0, none⟩) ∧
    decodeWord 0x2B0A1800 none = .ok (.frcp ⟨5, 6, 0, 0, none⟩) ∧
    decodeWord 0x2C0A1800 none = .ok (.fsqrt ⟨5, 6, 0, 0, none⟩) ∧
    decodeWord 0x2D0A1800 none = .ok (.frsq ⟨5, 6, 0, 0, none⟩) ∧
    decodeWord 0x2E0A1838 none = .ok (.fdiv ⟨5, 6, 7, 0, none⟩) ∧
    decodeWord 0x2F0A1800 none = .ok (.fexp2 ⟨5, 6, 0, 0, none⟩) ∧
    decodeWord 0x300A1800 none = .ok (.flog2 ⟨5, 6, 0, 0, none⟩) ∧
    decodeWord 0x310A1800 none = .ok (.fsinpi ⟨5, 6, 0, 0, none⟩) ∧
    decodeWord 0x320A1800 none = .ok (.fcospi ⟨5, 6, 0, 0, none⟩) ∧
    decodeWord 0x330A1800 none = .ok (.fclass ⟨5, 6, 0, 0, none⟩) :=
  ⟨rfl, rfl, rfl, rfl, rfl, rfl, rfl, rfl, rfl, rfl, rfl, rfl, rfl, rfl, rfl, rfl, rfl, rfl, rfl, rfl, rfl, rfl, rfl, rfl⟩

/-- The VEC words of the encoding tables, registers 5, 6, 7 (8 for T) where they name registers. -/
theorem test_decode_vec_3 :
    decodeWord 0x340A1868 none = .ok (.cvt ⟨5, 6, 13, 0, none⟩) ∧
    decodeWord 0x350A1838 none = .ok (.pack ⟨5, 6, 7, 0, none⟩) ∧
    decodeWord 0x360A1838 none = .ok (.dot4 ⟨5, 6, 7, 0, none⟩) ∧
    decodeWord 0x370A1838 none = .ok (.dot2f ⟨5, 6, 7, 0, none⟩) ∧
    decodeWord 0x38361838 none = .ok (.icmp ⟨1, 11, 6, 7, 0, none⟩) ∧
    decodeWord 0x39361838 none = .ok (.fcmp ⟨1, 11, 6, 7, 0, none⟩) ∧
    decodeWord 0x3A0A3878 none = .ok (.plop ⟨5, 14, 15, 0, none⟩) ∧
    decodeWord 0x3C0A0000 none = .ok (.pmovToreg ⟨5, 0, 0, 0, none⟩) ∧
    decodeWord 0x3C001801 none = .ok (.pmovFromreg ⟨0, 6, 0, 1, none⟩) ∧
    decodeWord 0x3D0A3800 none = .ok (.voteAny ⟨5, 14, 0, 0, none⟩) ∧
    decodeWord 0x3D0A3801 none = .ok (.voteAll ⟨5, 14, 0, 1, none⟩) ∧
    decodeWord 0x3D0A3802 none = .ok (.voteBallot ⟨5, 14, 0, 2, none⟩) ∧
    decodeWord 0x3E0A1800 none = .ok (.matchLanes ⟨5, 6, 0, 0, none⟩) ∧
    decodeWord 0x3F0A1838 none = .ok (.shfl ⟨5, 6, 7, 0, none⟩) ∧
    decodeWord 0x400A1808 none = .ok (.scan ⟨5, 6, 1, 0, none⟩) ∧
    decodeWord 0x410A1800 none = .ok (.reduce ⟨5, 6, 0, 0, none⟩) ∧
    decodeWord 0x420A0000 none = .ok (.elect ⟨5, 0, 0, 0, none⟩) ∧
    decodeWord 0x430A1838 none = .ok (.movxRd ⟨5, 6, 7, 0, none⟩) ∧
    decodeWord 0x430A1839 none = .ok (.movxWr ⟨5, 6, 7, 1, none⟩) ∧
    decodeWord 0x440A0058 none = .ok (.sreg ⟨5, 0, 11, 0, none⟩) ∧
    decodeWord 0x450A1800 none = .ok (.v2sFirst ⟨5, 6, 0, 0, none⟩) ∧
    decodeWord 0x450A1839 none = .ok (.v2sLane ⟨5, 6, 7, 1, none⟩) :=
  ⟨rfl, rfl, rfl, rfl, rfl, rfl, rfl, rfl, rfl, rfl, rfl, rfl, rfl, rfl, rfl, rfl, rfl, rfl, rfl, rfl, rfl, rfl⟩

/-- The MEM words of the encoding tables, registers 5, 6, 7 (8 for T) where they name registers. -/
theorem test_decode_mem_1 :
    decodeWord 0x501018F2 none = .ok (.ldS8 ⟨8, 6, 3, 3, 1, none⟩) ∧
    decodeWord 0x511018F2 none = .ok (.ldB8 ⟨8, 6, 3, 3, 1, none⟩) ∧
    decodeWord 0x521018F2 none = .ok (.ldS16 ⟨8, 6, 3, 3, 1, none⟩) ∧
    decodeWord 0x531018F2 none = .ok (.ldB16 ⟨8, 6, 3, 3, 1, none⟩) ∧
    decodeWord 0x541018F2 none = .ok (.ld32 ⟨8, 6, 3, 3, 1, none⟩) ∧
    decodeWord 0x551018F2 none = .ok (.ld64 ⟨8, 6, 3, 3, 1, none⟩) ∧
    decodeWord 0x561018F2 none = .ok (.ld128 ⟨8, 6, 3, 3, 1, none⟩) ∧
    decodeWord 0x571018F2 none = .ok (.st8 ⟨8, 6, 3, 3, 1, none⟩) ∧
    decodeWord 0x581018F2 none = .ok (.st16 ⟨8, 6, 3, 3, 1, none⟩) ∧
    decodeWord 0x591018F2 none = .ok (.st32 ⟨8, 6, 3, 3, 1, none⟩) ∧
    decodeWord 0x5A1018F2 none = .ok (.st64 ⟨8, 6, 3, 3, 1, none⟩) ∧
    decodeWord 0x5B1018F2 none = .ok (.st128 ⟨8, 6, 3, 3, 1, none⟩) ∧
    decodeWord 0x5C1018E0 none = .ok (.ldc ⟨8, 6, 3, 2, 0, none⟩) ∧
    decodeWord 0x5D1018F2 none = .ok (.atomAdd ⟨8, 6, 3, 3, 1, none⟩) ∧
    decodeWord 0x5E1018F2 none = .ok (.atomSmin ⟨8, 6, 3, 3, 1, none⟩) ∧
    decodeWord 0x5F1018F2 none = .ok (.atomSmax ⟨8, 6, 3, 3, 1, none⟩) ∧
    decodeWord 0x601018F2 none = .ok (.atomBmin ⟨8, 6, 3, 3, 1, none⟩) ∧
    decodeWord 0x611018F2 none = .ok (.atomBmax ⟨8, 6, 3, 3, 1, none⟩) ∧
    decodeWord 0x621018F2 none = .ok (.atomAnd ⟨8, 6, 3, 3, 1, none⟩) ∧
    decodeWord 0x631018F2 none = .ok (.atomOr ⟨8, 6, 3, 3, 1, none⟩) ∧
    decodeWord 0x641018F2 none = .ok (.atomXor ⟨8, 6, 3, 3, 1, none⟩) ∧
    decodeWord 0x651018F2 none = .ok (.atomXchg ⟨8, 6, 3, 3, 1, none⟩) ∧
    decodeWord 0x661018F2 none = .ok (.atomCas ⟨8, 6, 3, 3, 1, none⟩) ∧
    decodeWord 0x671018F2 none = .ok (.atomFadd ⟨8, 6, 3, 3, 1, none⟩) :=
  ⟨rfl, rfl, rfl, rfl, rfl, rfl, rfl, rfl, rfl, rfl, rfl, rfl, rfl, rfl, rfl, rfl, rfl, rfl, rfl, rfl, rfl, rfl, rfl, rfl⟩

/-- The MEM words of the encoding tables, registers 5, 6, 7 (8 for T) where they name registers. -/
theorem test_decode_mem_2 :
    decodeWord 0x681018F2 none = .ok (.atomAdd64 ⟨8, 6, 3, 3, 1, none⟩) ∧
    decodeWord 0x691018F2 none = .ok (.atomCas64 ⟨8, 6, 3, 3, 1, none⟩) ∧
    decodeWord 0x6B1018D0 none = .ok (.stmap ⟨8, 6, 3, 1, 0, none⟩) ∧
    decodeWord 0x6C0018D0 none = .ok (.stunmap ⟨0, 6, 3, 1, 0, none⟩) ∧
    decodeWord 0x6D0018D0 none = .ok (.stwb ⟨0, 6, 3, 1, 0, none⟩) ∧
    decodeWord 0x6E0018D0 none = .ok (.stdrop ⟨0, 6, 3, 1, 0, none⟩) ∧
    decodeWord 0x6F0018C0 none = .ok (.prefetch ⟨0, 6, 3, 0, 0, none⟩) ∧
    decodeWord 0x700000CA none = .ok (.fence ⟨0, 0, 3, 0, 5, none⟩) ∧
    decodeWord 0x711018C6 none = .ok (.cntadd ⟨8, 6, 3, 0, 3, none⟩) :=
  ⟨rfl, rfl, rfl, rfl, rfl, rfl, rfl, rfl, rfl⟩

/-- The CTRL words of the encoding tables, registers 5, 6, 7 (8 for T) where they name registers. -/
theorem test_decode_ctrl_1 :
    decodeWord 0x78B8000F none = .ok (.bra ⟨1, 3, 1, 15⟩) ∧
    decodeWord 0x79001800 none = .ok (.brx ⟨0, 6, 0, 0, none⟩) ∧
    decodeWord 0x7A000048 none = .ok (.rcv ⟨0, 0, 9, 0, none⟩) ∧
    decodeWord 0x7B000000 none = .ok (.join ⟨0, 0, 0, 0, none⟩) ∧
    decodeWord 0x7C06000B none = .ok (.call ⟨3, 11⟩) ∧
    decodeWord 0x7D0A1800 none = .ok (.callx ⟨5, 6, 0, 0, none⟩) ∧
    decodeWord 0x7D001801 none = .ok (.callxTail ⟨0, 6, 0, 1, none⟩) ∧
    decodeWord 0x7E001800 none = .ok (.ret ⟨0, 6, 0, 0, none⟩) ∧
    decodeWord 0x7F000000 none = .ok (.exit ⟨0, 0, 0, 0, none⟩) ∧
    decodeWord 0x800A0268 none = .ok (.barArrive ⟨5, 0, 77, 0, none⟩) ∧
    decodeWord 0x80001859 none = .ok (.barWait ⟨0, 6, 11, 1, none⟩) ∧
    decodeWord 0x8000004A none = .ok (.barSync ⟨0, 0, 9, 2, none⟩) ∧
    decodeWord 0x8000185B none = .ok (.barInit ⟨0, 6, 11, 3, none⟩) ∧
    decodeWord 0x81001858 none = .ok (.barexp ⟨0, 6, 11, 0, none⟩) ∧
    decodeWord 0x820A0208 none = .ok (.cbarArrive ⟨5, 0, 65, 0, none⟩) ∧
    decodeWord 0x82001819 none = .ok (.cbarWait ⟨0, 6, 3, 1, none⟩) ∧
    decodeWord 0x8200000A none = .ok (.cbarSync ⟨0, 0, 1, 2, none⟩) ∧
    decodeWord 0x83021838 none = .ok (.waitge ⟨1, 6, 7, 0, none⟩) ∧
    decodeWord 0x84021838 none = .ok (.mwait ⟨1, 6, 7, 0, none⟩) ∧
    decodeWord 0x85000000 none = .ok (.yield ⟨0, 0, 0, 0, none⟩) ∧
    decodeWord 0x86001800 none = .ok (.sleep ⟨0, 6, 0, 0, none⟩) ∧
    decodeWord 0x87021838 none = .ok (.forkSuspend ⟨1, 6, 7, 0, none⟩) ∧
    decodeWord 0x87021801 none = .ok (.forkDetach ⟨1, 6, 0, 1, none⟩) ∧
    decodeWord 0x88001838 none = .ok (.tspawn ⟨0, 6, 7, 0, none⟩) :=
  ⟨rfl, rfl, rfl, rfl, rfl, rfl, rfl, rfl, rfl, rfl, rfl, rfl, rfl, rfl, rfl, rfl, rfl, rfl, rfl, rfl, rfl, rfl, rfl, rfl⟩

/-- The CTRL words of the encoding tables, registers 5, 6, 7 (8 for T) where they name registers. -/
theorem test_decode_ctrl_2 :
    decodeWord 0x89000000 none = .ok (.tend ⟨0, 0, 0, 0, none⟩) ∧
    decodeWord 0x8A000000 none = .ok (.tabort ⟨0, 0, 0, 0, none⟩) ∧
    decodeWord 0x8B000000 none = .ok (.tirrev ⟨0, 0, 0, 0, none⟩) ∧
    decodeWord 0x8C000048 none = .ok (.trap ⟨0, 0, 9, 0, none⟩) ∧
    decodeWord 0x8D000048 none = .ok (.bkpt ⟨0, 0, 9, 0, none⟩) :=
  ⟨rfl, rfl, rfl, rfl, rfl⟩

/-- The ASYNC words of the encoding tables, registers 5, 6, 7 (8 for T) where they name registers. -/
theorem test_decode_async :
    decodeWord 0x900C1CFC none = .ok (.cpy ⟨6, 7, 3, 15, 0, none⟩) ∧
    decodeWord 0x910C1CFC none = .ok (.tcopy ⟨6, 7, 3, 15, 0, none⟩) ∧
    decodeWord 0x920C1CFC none = .ok (.tstore ⟨6, 7, 3, 15, 0, none⟩) ∧
    decodeWord 0x930C1CFC none = .ok (.tgather ⟨6, 7, 3, 15, 0, none⟩) ∧
    decodeWord 0x940C1CFC none = .ok (.ccopy ⟨6, 7, 3, 15, 0, none⟩) ∧
    decodeWord 0x950C00C0 none = .ok (.codewr ⟨6, 0, 3, 0, 0, none⟩) ∧
    decodeWord 0x960000C0 none = .ok (.codeswap ⟨0, 0, 3, 0, 0, none⟩) ∧
    decodeWord 0x97120000 none = .ok (.rgive ⟨9, 0, 0, 0, 0, none⟩) ∧
    decodeWord 0x981200C0 none = .ok (.rtake ⟨9, 0, 3, 0, 0, none⟩) ∧
    decodeWord 0x990C1CC0 none = .ok (.encpost ⟨6, 7, 3, 0, 0, none⟩) ∧
    decodeWord 0x9A0C00C0 none = .ok (.encframeOpen ⟨6, 0, 3, 0, 0, none⟩) :=
  ⟨rfl, rfl, rfl, rfl, rfl, rfl, rfl, rfl, rfl, rfl, rfl⟩

/-- The COV words of the encoding tables, registers 5, 6, 7 (8 for T) where they name registers. -/
theorem test_decode_cov :
    decodeWord 0xA0001838 none = .ok (.covbegin ⟨0, 6, 7, 0, none⟩) ∧
    decodeWord 0xA1001801 none = .ok (.covline ⟨0, 6, 0, 1, none⟩) ∧
    decodeWord 0xA2001801 none = .ok (.covquad ⟨0, 6, 0, 1, none⟩) ∧
    decodeWord 0xA3001801 none = .ok (.covcube ⟨0, 6, 0, 1, none⟩) ∧
    decodeWord 0xA4001839 none = .ok (.covtri ⟨0, 6, 7, 1, none⟩) ∧
    decodeWord 0xA5000001 none = .ok (.covres ⟨0, 0, 0, 1, none⟩) ∧
    decodeWord 0xA6000000 none = .ok (.covend ⟨0, 0, 0, 0, none⟩) ∧
    decodeWord 0xA70A0C00 none = .ok (.covpop ⟨5, 3, 0, 0, none⟩) ∧
    decodeWord 0xA80A1800 none = .ok (.ddx ⟨5, 6, 0, 0, none⟩) ∧
    decodeWord 0xA90A1800 none = .ok (.ddy ⟨5, 6, 0, 0, none⟩) :=
  ⟨rfl, rfl, rfl, rfl, rfl, rfl, rfl, rfl, rfl, rfl⟩

/-- The MXS words of the encoding tables, registers 5, 6, 7 (8 for T) where they name registers. -/
theorem test_decode_mxs :
    decodeWord 0xB00A18CF none = .ok (.mxrd ⟨5, 6, 3, 15⟩) ∧
    decodeWord 0xB10A1827 none = .ok (.mxwr ⟨5, 6, 0, 39⟩) ∧
    decodeWord 0xB20A1800 none = .ok (.mxstat ⟨5, 6, 0, 0⟩) :=
  ⟨rfl, rfl, rfl⟩

/-- The SYS words of the encoding tables, registers 5, 6, 7 (8 for T) where they name registers. -/
theorem test_decode_sys :
    decodeWord 0xC0000000 none = .ok (.resumelRetry ⟨0, 0, 0, 0, none⟩) ∧
    decodeWord 0xC0000001 none = .ok (.resumelSkip ⟨0, 0, 0, 1, none⟩) ∧
    decodeWord 0xC1000000 none = .ok (.killl ⟨0, 0, 0, 0, none⟩) ∧
    decodeWord 0xC20A0000 none = .ok (.originTag ⟨5, 0, 0, 0, none⟩) ∧
    decodeWord 0xC20A0001 none = .ok (.originAddr ⟨5, 0, 0, 1, none⟩) ∧
    decodeWord 0xC20A1802 none = .ok (.originReg ⟨5, 6, 0, 2, none⟩) ∧
    decodeWord 0xC3000000 none = .ok (.rth ⟨0, 0, 0, 0, none⟩) ∧
    decodeWord 0xC4001838 none = .ok (.sset ⟨0, 6, 7, 0, none⟩) ∧
    decodeWord 0xC5021800 none = .ok (.ckpt ⟨1, 6, 0, 0, none⟩) :=
  ⟨rfl, rfl, rfl, rfl, rfl, rfl, rfl, rfl, rfl⟩

/-- The words of the matrix stream (R188, R309). -/
theorem test_decode_stream :
    decodeStream 0x00000000 = .ok (.mnop 0) ∧
    decodeStream 0x042F4000 = .ok (.mteam 0 0 11 13 0) ∧
    decodeStream 0x08D8000D = .ok (.mdesc 1 11 0 13) ∧
    decodeStream 0x0E000000 = .ok (.mzero 1 0) ∧
    decodeStream 0x13780000 = .ok (.mma 6 7 1 0) ∧
    decodeStream 0x17780000 = .ok (.mmas 6 7 1 0) ∧
    decodeStream 0x1809000B = .ok (.mloop 9 11) ∧
    decodeStream 0x1809800B = .ok (.mloopMreg 9 0 11) ∧
    decodeStream 0x1C000000 = .ok (.mendl 0) ∧
    decodeStream 0x21EE0000 = .ok (.mbarw 7 11 1 0) ∧
    decodeStream 0x25F00000 = .ok (.mbara 7 3 0) ∧
    decodeStream 0x2A40000B = .ok (.mset 9 11) ∧
    decodeStream 0x2E40000B = .ok (.madd 9 11) ∧
    decodeStream 0x30240000 = .ok (.mbuf 9 0) ∧
    decodeStream 0x34000000 = .ok (.mfence 0) ∧
    decodeStream 0x38000000 = .ok (.mend 0) :=
  ⟨rfl, rfl, rfl, rfl, rfl, rfl, rfl, rfl, rfl, rfl, rfl, rfl, rfl, rfl, rfl, rfl⟩

/-- The X-forms with their literal word (R178), its C, IMM8, XP and XPN read from it, and ENCFRAME.CLOSE by KIND 1. -/
theorem test_decode_xforms :
    decodeWord 0x150A183C (some 0x112CE000) = .ok (.lop3 ⟨5, 6, 7, 0, some 0x112CE000⟩) ∧
    decodeWord 0x1A0A183C (some 0x112CE000) = .ok (.funnel ⟨5, 6, 7, 0, some 0x112CE000⟩) ∧
    decodeWord 0x1C0A183C (some 0x112CE000) = .ok (.bfi ⟨5, 6, 7, 0, some 0x112CE000⟩) ∧
    decodeWord 0x210A183C (some 0x112CE000) = .ok (.permb ⟨5, 6, 7, 0, some 0x112CE000⟩) ∧
    decodeWord 0x3B0A183C (some 0x112CE000) = .ok (.sel ⟨5, 6, 7, 0, some 0x112CE000⟩) ∧
    decodeWord 0x9A0A00C1 (some 0x00008001) = .ok (.encframeClose ⟨5, 0, 3, 0, 0, some 0x00008001⟩) ∧
    (VaFields.xc ⟨5, 6, 7, 0, some 0x112CE000⟩, VaFields.ximm ⟨5, 6, 7, 0, some 0x112CE000⟩, VaFields.xp ⟨5, 6, 7, 0, some 0x112CE000⟩,
      VaFields.xpn ⟨5, 6, 7, 0, some 0x112CE000⟩) = (8, 0x96, 3, true) :=
  ⟨rfl, rfl, rfl, rfl, rfl, rfl, rfl⟩

/-! ## Witnesses: register instructions -/

theorem test_ready_integer : [Instr.iadd (va 1 2 3 0), .iadd (va 1 2 3 1), .iadd (va 1 2 3 2), .isub (va 1 2 3 0), .iadd64 (va 2 4 6 0),
    .isub64 (va 2 4 6 2), .imul (va 1 2 3 0), .imulh (va 1 2 3 1), .imad (va 1 2 3 0), .imulw (va 2 4 6 0), .imadw (va 2 4 6 1), .lea (va 2 4 6 3),
    .imin (va 1 2 3 0), .imax (va 1 2 3 1), .iabs (va 1 2 0 1), .idiv (va 1 2 3 0), .irem (va 1 2 3 1)].all ready = true := by decide +kernel

theorem test_ready_logic : [Instr.and (va 1 2 3 0), .or (va 1 2 3 0), .xor (va 96 97 98 0), .andn (va 1 2 3 0), .lop3 (vx 0 0x09000000)].all ready = true := by
  decide +kernel

theorem test_ready_shifts : [Instr.shl (va 1 2 3 0), .shrl (va 1 2 3 0), .shra (va 1 2 3 0), .rotl (va 1 2 3 0), .funnel (vx 1 0x08000000)].all ready = true := by
  decide +kernel

theorem test_ready_bitfields : [Instr.bfx (va 1 2 3 1), .bfi (vx 0 0x08000000), .popc (va 1 2 0 0), .clz (va 1 2 0 0), .brev (va 1 2 0 0),
    .ffs (va 1 2 0 0), .permb (vx 0 0x08000000)].all ready = true := by decide +kernel

theorem test_ready_moves : [Instr.nop (va 0 0 0 0), .mov (va 1 2 0 0), .mov (va 2 4 0 1), .sel (vx 0 0x00004000), .pmovToreg (va 1 0 0 0),
    .pmovFromreg (va 0 2 0 1), .sreg (va 1 0 4 0), .movxRd (va 1 0 3 0), .movxWr (va 1 0 3 1)].all ready = true := by decide +kernel

theorem test_ready_float : [Instr.fadd (va 1 2 3 0), .fsub (va 1 2 3 1), .fmul (va 1 2 3 2), .fma (va 1 2 3 0), .fmin (va 1 2 3 0), .fmax (va 1 2 3 0),
    .fdiv (va 1 2 3 0), .pack (va 1 2 3 0), .dot4 (va 1 2 3 0), .dot2f (va 1 2 3 0), .fneg (va 1 2 0 0), .fabs (va 1 2 0 0), .frnd (va 1 2 0 3),
    .frcp (va 1 2 0 0), .fsqrt (va 1 2 0 0), .frsq (va 1 2 0 0), .fexp2 (va 1 2 0 0), .flog2 (va 1 2 0 0), .fsinpi (va 1 2 0 0), .fcospi (va 1 2 0 0),
    .fclass (va 1 2 0 0), .cvt (va 2 4 0 0)].all ready = true := by decide +kernel

theorem test_ready_predicates : [Instr.icmp ⟨1, 13, 2, 3, 0, none⟩, .fcmp ⟨1, 7, 2, 3, 2, none⟩, .plop (va 1 2 3 2), .voteAny (va 1 2 0 0), .voteAll (va 1 2 0 1),
    .voteBallot (va 1 2 0 2), .elect (va 1 0 0 0), .matchLanes (va 1 2 0 0), .shfl (va 1 2 3 3), .scan (va 1 2 1 0), .scan (va 1 2 0 0), .reduce (va 1 2 0 0),
    .v2sFirst (va 96 2 0 0), .v2sLane (va 96 2 97 1), .ddx (va 1 2 0 0), .ddy (va 1 2 0 2)].all ready = true := by decide +kernel

/-! ## Witnesses: memory -/

/-- at_ with the wave changed. -/
def atW (i : Instr) (f : Wave → Wave) : State := (at_ i).modWave 1 f

/-- The wave's pair s0:s1 holds an address in the mapped page, s2 to s6 operands. -/
def addressed (i : Instr) : State := atW i (fun w => ((((w.wrS 0 0x10100).wrS 2 7).wrS 3 8).wrS 4 0x10200).wrS 6 9)

/-- The instruction runs now in a plain wave of a state. -/
def readyIn (s : State) (i : Instr) : Bool := runsNow s 1 (wave1 s) i && plainWave s (wave1 s)

/-- Fields of a global access to s0:s1, data from s4. -/
def mm : MmFields := ⟨100, 96, 0, 0, 0, none⟩

/-- The same without return. -/
def mmNr : MmFields := ⟨100, 96, 0, 0, 0, some 0x00000064⟩

/-- A counter add, relaxed. -/
def mmCnt : MmFields := ⟨100, 96, 0, 0, 1, none⟩

/-- The same of constant bank 0. -/
def mmC : MmFields := ⟨100, 97, 0, 2, 0, none⟩

/-- The premises of LoadsAndAtomicsIssue for an access of n bytes. -/
def issues (i : Instr) (o : MmFields) (n : Nat) (k : AccKind) : Bool :=
  let s := addressed i
  let w := wave1 s
  let r := resolveLanes s w o n k false (accLanes i w.part)
  readyIn s i && decide (w.helper = 0) && r.2.bad.isEmpty && !r.2.oks.isEmpty && !crossingHeld s 1 w && !walksWait s w o k (accLanes i w.part) && !placesHeld r.1 w false n k r.2.oks

theorem test_loads_issue : issues (.ldS8 mm) mm 1 .load && issues (.ldB8 mm) mm 1 .load && issues (.ldS16 mm) mm 2 .load && issues (.ldB16 mm) mm 2 .load &&
    issues (.ld32 mm) mm 4 .load && issues (.ld64 mm) mm 8 .load && issues (.ld128 mm) mm 16 .load = true := by decide +kernel

theorem test_ldc_issue : issues (.ldc mmC) mmC 4 .load = true := by decide +kernel

theorem test_atomics_issue : [(Instr.atomAdd mm, 4), (.atomSmin mm, 4), (.atomSmax mm, 4), (.atomBmin mm, 4), (.atomBmax mm, 4), (.atomAnd mm, 4),
    (.atomOr mm, 4), (.atomXor mm, 4), (.atomXchg mm, 4), (.atomCas mm, 4), (.atomFadd mm, 4), (.atomAdd64 mm, 8), (.atomCas64 mm, 8)].all
    (fun p => !mm.nr && issues p.1 mm p.2 .atomic) = true := by decide +kernel

/-- The premises of StoresIssue and of StoreFrame. -/
def stores (i : Instr) (o : MmFields) (n : Nat) (k : AccKind) : Bool :=
  let s := addressed i
  let w := wave1 s
  let r := resolveLanes s w o n k false (accLanes i w.live)
  readyIn s i && r.2.bad.isEmpty && !r.2.oks.isEmpty && !crossingHeld s 1 w && !walksWait s w o k (accLanes i w.live) &&
    !placesHeld r.1 w false n k r.2.oks && decide (s.poison = []) && s.blocks.all (fun e => decide (e.2.rows = []) && decide (e.2.task = none)) &&
    (match s.vd? w.vale w.vd with
      | some d => decide (d.ckseq = 0) && decide (d.dirty = none)
      | none => false) &&
    r.2.oks.all (fun x => match x.2.1.target with
      | .mem _ => true
      | _ => false)

theorem test_stores_issue : stores (.st8 mm) mm 1 .store && stores (.st16 mm) mm 2 .store && stores (.st32 mm) mm 4 .store && stores (.st64 mm) mm 8 .store &&
    stores (.st128 mm) mm 16 .store && stores (.cntadd mmCnt) mmCnt 8 .count = true := by decide +kernel

theorem test_atomics_without_return : [(Instr.atomAdd mmNr, 4), (.atomSmin mmNr, 4), (.atomSmax mmNr, 4), (.atomBmin mmNr, 4), (.atomBmax mmNr, 4),
    (.atomAnd mmNr, 4), (.atomOr mmNr, 4), (.atomXor mmNr, 4), (.atomXchg mmNr, 4), (.atomCas mmNr, 4), (.atomFadd mmNr, 4), (.atomAdd64 mmNr, 8),
    (.atomCas64 mmNr, 8)].all (fun p => mmNr.nr && stores p.1 mmNr p.2 .atomic) = true := by decide +kernel

theorem test_prefetch_fence : ready (.prefetch ⟨0, 96, 0, 0, 0, none⟩) && ready (.fence ⟨0, 0, 0, 0, 3, some 0x60⟩) &&
    !crossingHeld (addressed (.prefetch mm)) 1 (wave1 (addressed (.prefetch mm))) && !walksWait (addressed (.prefetch mm)) (wave1 (addressed (.prefetch mm))) mm .load (accLanes (.prefetch mm) 0xFFFF) && !readWaits (addressed (.prefetch mm)) 0 (.mem 0) 128 = true := by decide +kernel

/-- The state after an instruction whose outcome is a next state. -/
def after (s : State) (i : Instr) : State :=
  match exec i s with
  | .next t => t
  | _ => s

/-- A load of s0:s1 that has issued and waits for its data. -/
def loading : State := after { addressed (.ld32 { mm with l := 3 }) with defer := true } (.ld32 { mm with l := 3 })

theorem test_load_delivers : (match (wave1 loading).outst with
    | [⟨lid, _, .load op⟩] => match op.lanes with
      | [r] => reqReady loading 1 lid (wave1 loading) op r && decide (op.atom = none) && decide (loading.taskOf (wave1 loading) = none) &&
          loading.blocks.all (fun e => decide (e.2.rows = [])) && (match r.target with
            | .mem k => (readMemLoad (mergeKnown loading (dieOfCore 0) (dieOfKey k)) (wave1 loading) k op.size op.ord op.scope op.hint r.page).2.2 == false
            | _ => false)
      | _ => false
    | _ => false) = true := by decide +kernel

theorem test_load_value : isScalar (98 : RegField) = true ∧ isScalar (94 : RegField) = false ∧ (94 : RegField).toNat < 95 ∧ (94 : RegField).toNat + 2 ≤ 96 := by
  decide

/-- An access by wave 1 with an operation at key 64. -/
def accessAt (op : AccOp) : Access :=
  { wave := 1, blk := 2, job := 3, vale := 0, vd := 0, core := 0, pos := ⟨0, none⟩, lane := 0, target := .mem 64, va := 0, op := op, ord := 0, scope := 3
    ipa := none, lg := 16, isCnt := false, sent := false, nc := false, dev := false, hint := 0 }

theorem test_performs_at_home : [AccOp.store [1, 2, 3, 4], .atom .add 5 0, .add 7].all (fun op =>
    decide ((accApply (accessAt op).op (memBytes State.reset 64 (accessAt op).op.size)).length = (accessAt op).op.size) &&
      decide ((State.reset.vd? 0 0).isNone)) = true := by decide +kernel

/-- at_ with 4 KiB of stash, s1 naming row 2 of it and s2:s3 a mapped line; row 2 bound for all but STMAP. -/
def atRow (i : Instr) (bound : Bool) : State :=
  let s := (atW i (fun w => (w.wrS 1 0x100).wrS 2 0x10400)).modBlock 2 (fun b => { b with stashKib := 4 })
  if bound then bindRow s 2 2 0x400 0 else s

/-- Fields of a row operation. -/
def mr (t : RegField) : MmFields := ⟨t, 97, 0, 1, 0, none⟩

/-- The premises of RowsPrefetchFence for STUNMAP, STWB and STDROP. -/
def rowReady (i : Instr) (o : MmFields) (writes : Bool) : Bool :=
  let s := atRow i true
  let r := resolveLanes s (wave1 s) o 1 (if writes then .stmap else .row) false (accLanes i (wave1 s).live)
  readyIn s i && r.2.bad.isEmpty && !r.2.oks.isEmpty && !crossingHeld s 1 (wave1 s) && r.2.oks.all (fun x => match x.2.1.target with
    | .stash b off => !rowWaits r.1 1 (wave1 s) b (off / 128) writes && (rowAt s b (off / 128)).isSome
    | _ => false)

theorem test_rows : rowReady (.stunmap (mr 0)) (mr 0) true && rowReady (.stwb (mr 0)) (mr 0) true && rowReady (.stdrop (mr 0)) (mr 0) false = true := by
  decide +kernel

theorem test_stmap : (let s := atRow (.stmap (mr 98)) false
    readyIn s (.stmap (mr 98)) && !crossingHeld s 1 (wave1 s) &&
      !(accLanes (.stmap (mr 98)) (wave1 s).live).any (fun l => laneWalks s (wave1 s) .global ((wave1 s).rd64 98 (l % 16)).toNat .stmap) && (match accLanes (.stmap (mr 98)) (wave1 s).live with
      | [l] => match mapLane s (wave1 s) (mr 98) (l % 16) with
        | (t, .ok x) => !rowWaits t 1 (wave1 s) x.1 x.2.1 true
        | _ => false
      | _ => false)) = true := by decide +kernel

theorem test_alignment : (0x10101 : DWord).toNat % 4 ≠ 0 ∧ (0x1000 : DWord).toNat % 4 = 0 ∧ stashTarget (at_ (.nop (va 0 0 0 0))) 2 0x1000 4 = none ∧
    stashTarget (atRow (.nop (va 0 0 0 0)) false) 2 0xFFC 4 ≠ none := by decide +kernel

/-! ## Witnesses: checks and control -/

theorem test_static_checks : staticCause (wave1 (at_ (.nop (va 0 0 0 0)))) (.rth (va 0 0 0 0)) = some cPriv ∧
    staticCause (wave1 (at_ (.rth (va 0 0 0 0)))) (.tend (va 0 0 0 0)) = some cPriv ∧ slotForbidden (.tend (va 0 0 0 0)) = true ∧
    staticCause (wave1 (at_ (.nop (va 0 0 0 0)))) (.iadd (va 1 2 3 3)) = some cField ∧ (wave1 (at_ (.nop (va 0 0 0 0)))).held = 12 ∧
    staticCause { wave1 (at_ (.nop (va 0 0 0 0))) with held := 1 } (.iadd (va 8 2 3 0)) = some cRange ∧
    staticCause { wave1 (at_ (.nop (va 0 0 0 0))) with held := 1 } (.iadd (va 7 2 3 0)) = none := by decide +kernel

theorem test_no_lane : (wave1 (atW (.nop (va 0 0 0 0)) (fun w => { w with active := 0 }))).part = 0 := by decide +kernel

/-- A branch predicated on p1. -/
def braP : BrFields := ⟨1, 1, 0, 5⟩

/-- The premises of Branch's four cases: p1 false, true, mixed, and mixed with a full stack. -/
def braCase (p : Mask) (n : Nat) : Bool :=
  let s := atW (.bra braP) (fun w => { w with p := Tbl.setCell 0 w.p 1 p, stack := List.replicate n ⟨.path, 0, 1, 0⟩ })
  runsNow s 1 (wave1 s) (.bra braP) && decide ((wave1 s).stack.length = n) && decide ((wave1 s).part &&& (wave1 s).pred 1 = p)

theorem test_branch : braCase 0 0 && braCase 0xFFFF 0 && braCase 0x00FF 63 && braCase 0x00FF 64 = true := by decide +kernel

theorem test_indirect : (let s := atW (.callx (va 4 2 0 0)) (fun w => w.wrV 2 15 0x20000)
    runsNow s 1 (wave1 s) (.callx (va 4 2 0 0)) && decide ((wave1 s).poison = []) && decide ((wave1 s).depth ≠ 255) &&
      (lanesOf (wave1 s).part).all (fun l => decide (((wave1 s).rd64 2 l).toNat % 4 = 0)) &&
      decide ((wave1 s).stack.length + 1 + transferPushes (wave1 s) (lanesOf (wave1 s).part) (fun l => (wave1 s).rd64 2 l) ≤ 64)) = true ∧
    [Instr.brx (va 0 2 0 0), .callxTail (va 0 2 0 1), .call ⟨4, 0x1FFFF⟩].all ready = true := by decide +kernel

/-- A misaligned target in lane 15 alone, and a stack with no room for the second target. -/
theorem test_indirect_faults : [Instr.brx (va 0 2 0 0), .callxTail (va 0 2 0 1), .callx (va 4 2 0 0)].all (fun i => [0, 64].all (fun n =>
    let s := atW i (fun w => { w.wrV 2 15 0x20002 with stack := List.replicate n ⟨.path, 0, 1, 0⟩ })
    let w := wave1 s
    runsNow s 1 w i && decide (w.poison = []) && (lanesOf w.part).filter (fun l => decide ((w.rd64 2 l).toNat % 4 ≠ 0)) == [15] &&
      decide (transferPushes w (lanesOf w.part) (fun l => w.rd64 2 l) = 1) && decide (w.stack.length = n))) = true := by decide +kernel

theorem test_reconvergence : [Instr.rcv (va 0 0 9 0), .join (va 0 0 0 0), .exit (va 0 0 0 0), .ret (va 0 2 0 0)].all ready = true ∧
    (let s := atW (.join (va 0 0 0 0)) (fun w => { w with replay := some ⟨1, w.pos, [], none⟩ })
     runsNow s 1 (wave1 s) (.join (va 0 0 0 0)) = true ∧ (wave1 s).active &&& ~~~(wave1 s).part ≠ 0) ∧
    (let w := wave1 (at_ (.join (va 0 0 0 0)))
     w.active &&& ~~~w.part = 0 ∧ joinForeign w.pos.pc (w.exited ||| w.returned) w.stack = false) ∧
    (let s := atW (.ret (va 0 2 0 0)) (fun w => { w with stack := [⟨.call, 0, 0xFFFF, 0⟩] })
     runsNow s 1 (wave1 s) (.ret (va 0 2 0 0)) = true ∧ (wave1 s).stack.any (fun e => decide (e.kind = .call)) = true) := by decide +kernel

/-- A wave for the pop, lane 0 of which has exited. -/
def popWave : Wave := { freshWave .ordinary 0 0 0 0 0 0 0 0 12 0 with exited := 1 }

theorem test_pop : (2 : Mask) &&& ~~~(popWave.exited ||| popWave.returned) ≠ 0 ∧ (1 : Mask) &&& ~~~(popWave.exited ||| popWave.returned) = 0 ∧
    (3 : Mask) &&& ~~~popWave.exited ≠ 0 := by decide

theorem test_barriers_ready : [Instr.barArrive (va 1 0 0x4F 0), .barArrive (va 0 0 0 0), .barWait (va 0 96 0 1), .barSync (va 0 0 0 2), .barInit (va 0 96 0 3), .barexp (va 0 96 0 0),
    .cbarArrive (va 96 0 0x43 0), .cbarWait (va 0 96 0 1), .cbarSync (va 0 0 0 2)].all ready = true ∧
    (let s := at_ (.barArrive (va 0 0 0 0))
     releaseWaits s 1 (wave1 s) s.nextId 1 false = false ∧ releaseWaits s 1 (wave1 s) s.nextId 2 false = false ∧ initBad s (wave1 s) 0 5 = false ∧ initBad s (wave1 s) 0 127 = false ∧
     (barrierOf s (wave1 s) 0).expSect + (wave1 s |>.rd 96 0).toNat < 2 ^ 24) := by decide +kernel

/-- A barrier all of whose arrivals are in. -/
def fullBar : Barrier := { Barrier.fresh with count := true, expect := 2, arrived := 2, phase := 0xFFFFFFFF }

theorem test_barrier_phase : (let s := (at_ (.nop (va 0 0 0 0))).modBlock 2 (fun b => { b with bars := [(3, fullBar)] })
    match block2 s with
    | some b => decide (Tbl.get b.bars 3 = some fullBar) && decide (fullBar.arrived = barrierNeed s b fullBar) && decide (0 < barrierNeed s b fullBar) &&
        decide (fullBar.sect = fullBar.expSect)
    | none => false) = true := by decide +kernel

theorem test_waits_ready : [Instr.waitge (va 3 96 98 0), .mwait (va 3 96 98 0), .yield (va 0 0 0 0), .sleep (va 0 96 0 0)].all ready = true ∧
    (wave1 (at_ (.sleep (va 0 96 0 0)))).rd 96 0 = 0 ∧ (wave1 (addressed (.sleep (va 0 96 0 0)))).rd 96 0 ≠ 0 := by decide +kernel

theorem test_wait_passes : (let s := addressed (.waitge (va 3 96 98 0))
    (match pollWait s 1 (wave1 s) 0x10100 8 2 3 with
      | (_, .value v) => v.ule v
      | _ => false) &&
    (match pollWait s 1 (wave1 s) 0x10100 4 1 3 with
      | (_, .value _) => true
      | _ => false)) = true := by decide +kernel

theorem test_traps_ready : [Instr.trap (va 0 1 2 0), .bkpt (va 0 0 3 0)].all ready = true ∧
    (let s := (at_ (.trap (va 0 1 2 0))).modJob 3 (fun j => { j with card := List.replicate 32 8 })
     (wave1 s).kind = .ordinary ∧ s.speculative (wave1 s) = false ∧ trapPc (s.cardOf (wave1 s).job) ≠ 0 ∧ selfRecorded (laneFault 15 cSwtrap 258 0) = false) ∧
    (wave1 (at_ (.rth (va 0 0 0 0)))).kind = .handler := by decide +kernel

/-- A trap of an instruction whose lane 0 has been resolved. -/
def resolvedTrap (r : Resolution) : Trap :=
  { at_ := ⟨16, none⟩, next := ⟨20, none⟩, kind := .instr, part := none, deferred := false, tod := 0
    lanes := [{ laneFault 0 cSwtrap 0 0 with choice := some r, resolved := true }] }

theorem test_trap_return : (let w := wave1 (at_ (.nop (va 0 0 0 0)))
    (resolvedTrap .retry).kind = .instr ∧ w.active &&& ~~~(chosen (resolvedTrap .retry) .kill) ≠ 0 ∧
    chosen (resolvedTrap .retry) .retry &&& (w.active &&& ~~~(chosen (resolvedTrap .retry) .kill)) ≠ 0 ∧
    w.active &&& ~~~(chosen (resolvedTrap .kill) .kill) ≠ 0 ∧
    chosen (resolvedTrap .kill) .retry &&& (w.active &&& ~~~(chosen (resolvedTrap .kill) .kill)) = 0) := by decide +kernel

theorem test_poison_consumed : (let i : Instr := .xor ⟨1, 2, 0, 0, some 5⟩
    let s := atW i (fun w => { w with poison := [vCell 2 3] })
    runsNow s 1 (wave1 s) i = true ∧ rollbackArmed s 0 0 = false ∧ (lanesOf (wave1 s).part).filter (fun l => (wave1 s).rdPoison 2 l) = [3]) := by
  decide +kernel

/-- The premises of PoisonConsumed: lane 3 of a vector instruction reads a poisoned v2, and a uniform one a poisoned s2. -/
def poisoned (i : Instr) (cell : Nat) : Bool :=
  let s := atW i (fun w => { w with poison := [cell] })
  runsNow s 1 (wave1 s) i && !rollbackArmed s 0 0 && !s.speculative (wave1 s)

theorem test_poison_families : [Instr.iadd (va 1 2 3 0), .iabs (va 1 2 0 0), .imad (va 1 2 3 0), .iadd64 (va 4 2 6 0), .imulw (va 4 2 3 0), .imadw (va 4 2 6 0),
    .mov (va 1 2 0 0), .sel (vx 0 0x00004000), .pmovFromreg (va 0 2 0 1), .matchLanes (va 1 2 0 0), .shfl (va 1 2 3 0), .scan (va 1 2 0 0), .ddx (va 1 2 0 0)].all
      (poisoned · (vCell 2 3)) && (wave1 (atW (.iadd (va 1 2 3 0)) (fun w => { w with poison := [vCell 2 3] }))).rdPoison 2 3 &&
    [Instr.lop3 (vx 0 0x09000000), .icmp ⟨1, 0, 2, 3, 0, none⟩, .iadd (va 97 98 99 0)].all (poisoned · (vCell 2 3)) &&
    (wave1 (atW (.iadd (va 97 98 99 0)) (fun w => { w with poison := [1536 + 2] }))).rdPoison 98 0 = true := by decide +kernel

theorem test_poison_access : (let s := (addressed (.ld32 mm)).modWave 1 (fun w => { w with poison := [1536 + 0] })
    let t := (addressed (.st32 mm)).modWave 1 (fun w => { w with poison := [1536 + 4] })
    runsNow s 1 (wave1 s) (.ld32 mm) && decide ((wave1 s).helper = 0) && !crossingHeld s 1 (wave1 s) && (wave1 s).rdPoison 96 0 && !s.speculative (wave1 s) &&
      runsNow t 1 (wave1 t) (.st32 mm) && !crossingHeld t 1 (wave1 t) && (wave1 t).rdPoison 100 0) = true := by decide +kernel

theorem test_fork_ready : [Instr.forkSuspend (va 3 96 100 0), .forkDetach (va 3 96 0 1)].all (fun i =>
    let s := (atW i (fun w => w.wrS 0 0x10100)).modJob 3 (fun j => { j with card := List.replicate 32 0x40 })
    readyIn s i && (forkState s (wave1 s) true).isNone && (forkState s (wave1 s) false).isNone && !releaseWaits s 1 (wave1 s) s.nextId 3 false && !forkHeld s 0 0 &&
      (match forkCard s 1 (wave1 s) ((wave1 s).rd64 96 0) with
        | (_, .ok _) => true
        | _ => false)) = true := by decide +kernel

/-! ## Witnesses: tasks and engines -/

/-- The wave's block runs a task of an ORDERED job, the frontier. -/
def inTask (i : Instr) (irrev : Bool) : State :=
  let t : Task := { freshTask 4 none 0 0x10000 [] with st := .running 2, irrev := irrev }
  (((atW i (fun w => (w.wrS 0 0x10100).wrS 2 5)).modBlock 2 (fun b => { b with task := some 0, stashKib := 4 })).modJob 3 (fun j => { j with
    ord := some { seqNext := 1, rootNext := 0, rootTs := 0, tasks := [(0, t)], stuck := false } }))

/-- The premises of TaskInstructions but for its own of each clause. -/
def taskReady (i : Instr) (irrev : Bool) : Bool :=
  let s := inTask i irrev
  runsNow s 1 (wave1 s) i && decide ((wave1 s).poison = []) && (match s.taskOf (wave1 s) with
    | some (q, t) => decide (q = 0) && (t.irrev == irrev)
    | none => false)

theorem test_tasks_ready : [Instr.tend (va 0 0 0 0), .tabort (va 0 0 0 0), .tirrev (va 0 0 0 0), .tspawn (va 0 96 100 0)].all
    (fun i => taskReady i true && taskReady i false && ready i && decide (((at_ i).taskOf (wave1 (at_ i))).isNone)) = true := by decide +kernel

theorem test_task_clauses : (let s := inTask (.tirrev (va 0 0 0 0)) false
    allComplete (wave1 s) = true ∧ isFrontier s (wave1 s).job 0 = true ∧ lockReady s (wave1 s).job 0 = true ∧
    isFrontier (s.modJob 3 (fun j => { j with ord := j.ord.map (fun o => { o with tasks := (0, freshTask 4 none 0 0 []) :: [(1, freshTask 5 none 0 0 [])] }) })) 3 1 = false) := by
  decide +kernel

theorem test_tspawn : (let i : Instr := .tspawn (va 0 96 100 0)
    let s := inTask i true
    let w := wave1 s
    let ls := (lanesOf (lowestLane w.live)).map (fun l => 16 + l)
    let r := spawnLanes 1 w (va 0 96 100 0) 0 ls s
    ls.all (fun l => (spawnFault s (va 0 96 100 0) w (freshTask 4 none 0 0 []) (l % 16)).isNone) &&
      !spawnHeld s 1 w (va 0 96 100 0) ls && decide (r.2.failed = []) && decide (r.2.poisoned = []) && decide (r.2.left = []) &&
      decide (Tbl.get r.1.waves 1 = some w) && !(readStash s w.blk (w.rd 100 0).toNat 64).2.2 && entryFree (readStash s w.blk (w.rd 100 0).toNat 64).1 w.vale) = true := by decide +kernel

/-- Fields of an engine command, its group at s0. -/
def asy (b : RegField) (lit : Option Word) : AsFields := ⟨96, b, 0, 0, 0, lit⟩

theorem test_commands_ready : [Instr.cpy (asy 0 none), .ccopy (asy 0 none), .tcopy (asy 0 none), .tgather (asy 0 none), .tstore (asy 0 none), .codewr (asy 0 none),
    .codeswap ⟨0, 0, 0, 0, 0, none⟩, .encpost (asy 0 none), .encframeOpen (asy 0 none), .encframeClose (asy 0 (some 1)), .rgive ⟨1, 0, 0, 0, 0, none⟩,
    .rtake ⟨1, 0, 2, 0, 0, none⟩].all ready = true := by decide +kernel

theorem test_command_queue : (let s := { at_ (.cpy (asy 0 none)) with defer := true }
    s.defer = true ∧ (waitingCmds (wave1 s)).length + (lanesOf (wave1 s).live).length = 16 ∧ [(⟨(wave1 s).pos, .cpy (asy 0 none), 31, [], []⟩ : WaitCmd)] ≠ [] ∧ (inTask (.cpy (asy 0 none)) false).speculative (wave1 s) = true) := by
  decide +kernel

theorem test_lending : (let s := (at_ (.rgive ⟨11, 0, 0, 0, 0, none⟩)).modJob 3 (fun j => { j with card := List.replicate 32 0xFFFFFFFF })
    11 < (wave1 s).held ∧ outstWrites (wave1 s) (8 * ((wave1 s).held - 11)) = false ∧
    (wave1 s).held + pendingTakes (wave1 s) + 1 ≤ cardMax (s.cardOf 3) 0 ∧ cardMax (s.cardOf 3) 0 < (wave1 s).held + pendingTakes (wave1 s) + 11) := by
  decide +kernel

/-- The block has an open session: of triangles, or of segments. -/
def inSession (i : Instr) (tri : Bool) : State :=
  (at_ i).modBlock 2 (fun b => { b with cov := some (freshSession (if tri then 4 else 0) [0, 0, 0, 0]), stashKib := 64 })

/-- The premises of CoverageCommands inside a session. -/
def covReady (i : Instr) (tri : Bool) : Bool :=
  let s := inSession i tri
  readyIn s i && (match block2 s with
    | some b => (match openSession s (wave1 s) b with
      | some c => c.tri == tri && !covHolds s 1 (wave1 s) (covRanges i c).length && !covHolds s 1 (wave1 s) 2
      | none => false)
    | none => false)

theorem test_coverage_ready : [(Instr.covline (va 0 2 0 0), false), (.covquad (va 0 2 0 0), false), (.covcube (va 0 2 0 1), false), (.covtri (va 0 2 8 0), true),
    (.covres (va 0 0 0 1), false), (.covend (va 0 0 0 0), true), (.covpop (va 8 1 0 0), true)].all (fun p => covReady p.1 p.2 && ready p.1) = true ∧
    (wave1 (inSession (.covpop (va 8 1 0 0)) true)).part = 0xFFFF ∧ popBefore (inSession (.covpop (va 8 1 0 0)) true) 1 2 ((inSession (.covpop (va 8 1 0 0)) true).turns + 1) = false := by decide +kernel

theorem test_covbegin_ready : (let i : Instr := .covbegin (va 0 96 0 0)
    let s := (atW i (fun w => (((w.wrS 0 0x00100010).wrS 1 0).wrS 2 0x4000).wrS 3 0)).modBlock 2 (fun b => { b with stashKib := 64 })
    let c := freshSession 0 ((natsFrom 0 4).map (fun j => (wave1 s).rdN 96 j 0))
    readyIn s i && (match block2 s with
      | some b => (openSession s (wave1 s) b).isNone && !sessionBad c (b.stashKib * 1024) && !ending s b 2 && decide (sessionsIn s (glenOfCore (wave1 s).core) < 64) && !covHolds s 1 (wave1 s) 0
      | none => false) && sessionBad (freshSession 0 [0, 0, 0, 0]) 0) = true := by decide +kernel

/-- A sequencer context whose team is the engine of core 0. -/
def teamCtx : SeqCtx :=
  { spc := 0x10000, st := 0, m := [], d := [], loaded := 0, ri := [], loops := [], team := some ⟨0, 0, 0, [0]⟩, claim := none, saAddr := 0x40000, sbAddr := 0x40000
    steps := [], wantBar := none, restore := [] }

/-- A wave of a block whose stream holds a team. -/
def withTeam (i : Instr) : State :=
  ((at_ i).modBlock 2 (fun b => { b with seqCtx := some teamCtx })).modCore 0 (fun c => { c with engine := { c.engine with holder := some 2 } })

theorem test_matrix_access : (let i : Instr := .mxrd ⟨1, 2, 3, 0⟩
    let j : Instr := .mxwr ⟨1, 2, 0, 0⟩
    let k : Instr := .mxstat ⟨1, 2, 0, 0⟩
    (match teamHeld (withTeam i) (wave1 (withTeam i)) with
      | some t => (accLanes i (wave1 (withTeam i)).part).all (fun l => !selBad t (mxFormat 0).1 (mxSpan 0) ((wave1 (withTeam i)).rd 2 (l % 16))) &&
          !selBad t 1 (mxSpan 0) 0
      | none => false) && !mxwrHeld (withTeam j) 1 (wave1 (withTeam j)) && readyIn (withTeam i) i && readyIn (withTeam j) j && ready k && ready i && ready j && (teamHeld (at_ i) (wave1 (at_ i))).isNone) = true := by
  decide +kernel

/-! ## Witnesses: the stream -/

/-- at_ with the stream's context changed. -/
def atC (i : Instr) (f : SeqCtx → SeqCtx) : State := (at_ i).modBlock 2 (fun b => { b with seqCtx := b.seqCtx.map f })

/-- The stream word executes now. -/
def streams (s : State) (i : Instr) : Bool :=
  match block2 s with
  | some b => (match b.seqCtx with
    | some c => streamNow s 2 b c i
    | none => false)
  | none => false

theorem test_streams_ready : [Instr.mnop 0, .mfence 0, .mend 0, .mendl 0, .mset 1 5, .madd 15 0x3FFFFF, .mbuf 0 0, .mbuf 255 0, .mbarw 1 2 1 0, .mbara 1 3 0,
    .mloop 2 5, .mloopMreg 1023 0 3, .mteam 0 0 0 0 0, .mdesc 7 1 0 32, .mzero 0 0, .mma 1 2 1 0, .mmas 1 2 0 0].all
    (fun i => streams (at_ i) i) = true := by decide +kernel

theorem test_stream_clauses : streams (atC (.mendl 0) (fun c => { c with loops := [⟨0x10000, 2⟩] })) (.mendl 0) = true ∧
    streams (atC (.mfence 0) (fun c => { c with steps := [9] })) (.mfence 0) = true ∧
    Instr.wellFormed (.mloop 1 5) = false ∧ Instr.isStream (.mloop 1 5) = true ∧
    (let s := at_ (.mloop 2 5)
     fetchWaits s 0 0 0 0x10008 = false ∧ (fetchWord s 0 0 0 0x10004).2.toOption = some 0 ∧
     (fetchWord (writeMem s 0x10008 [0, 0, 0, 0x1C]) 0 0 0 0x10008).2.toOption.map (fun x => x.extractLsb' 26 6) = some 7) ∧
    tokenPassed (Barrier.fresh.phase) 0xFFFFFFFF = true ∧ tokenPassed Barrier.fresh.phase 0 = false := by decide +kernel

/-- A descriptor of a slab of one row of FP8 at 0. -/
def oneDesc : List Word := [0, 0, 0, 0, 0, 0, 0, 0]

theorem test_stream_matrix : (let s := withTeam (.mzero 0 0)
    (match (block2 s).bind (fun b => b.seqCtx) with
      | some c => decide (c.team = some ⟨0, 0, 0, [0]⟩) && queuesFree s ⟨0, 0, 0, [0]⟩
      | none => false) = true ∧
    streams { withTeam (.mzero 0 0) with cur := .seq 2 } (.mzero 0 0) = true ∧
    targetWaits s (.stash 2 32) 32 false = false ∧ (32 : Nat) % 32 = 0 ∧ ((block2 s).bind (fun b => teamOf s b teamCtx 0 0 0 0)).isSome = true ∧
    isIntFormat (descOf oneDesc).format = isIntFormat (descOf oneDesc).format ∧ kindAfter (memberEngine s ⟨0, 0, 0, [0]⟩ 0) = isIntFormat (descOf oneDesc).format) := by decide +kernel

/-! ## Witnesses: handlers -/

theorem test_handlers_ready : [Instr.resumelRetry (va 0 0 0 0), .resumelSkip (va 0 0 0 1), .killl (va 0 0 0 0), .originTag (va 4 0 0 0), .originAddr (va 4 0 0 1),
    .originReg (va 4 2 0 2), .sset (va 0 2 3 0), .rth (va 0 0 0 0), .ckpt (va 3 96 0 0)].all
    (fun i => runsNow (at_ i) 1 (wave1 (at_ i)) i && !releaseWaits (at_ i) 1 (wave1 (at_ i)) (at_ i).nextId 3 false) = true ∧
    (let s := at_ (.originReg (va 4 2 0 2))
     badCodes s 1 (wave1 s) 2 = [] ∨ badCodes s 1 (wave1 s) 2 = lanesOf (wave1 s).part) := by decide +kernel

/-- A handler wave whose lane 0 has an origin and a code that names a register of it, with a poisoned word there; its other lanes have none. -/
def handling (i : Instr) : State :=
  let s := at_ i
  let o := { wave1 s with kind := .ordinary, poison := [vCell 5 3], trap := some { at_ := ⟨16, none⟩, next := ⟨20, none⟩, kind := .instr, part := none, deferred := false, tod := 0, lanes := [{ laneFault 3 cSwtrap 0 0 with handler := some 1 }] } }
  { s.modWave 1 (fun w => w.wrV 2 0 5) with waves := Tbl.set (s.modWave 1 (fun w => w.wrV 2 0 5)).waves 9 o }

theorem test_origin_codes : [Instr.originReg (va 4 2 0 2), .sset (va 0 2 3 0)].all (fun i =>
    let s := handling i
    runsNow s 1 (wave1 s) i && badCodes s 1 (wave1 s) 2 == (lanesOf (wave1 s).part).filter (fun l => decide (l ≠ 0)) && originPoisoned s 1 5 0 &&
      decide ((originLane s 1 0).map (fun p => (p.1, p.2.lane)) = some (9, 3))) = true := by decide +kernel


/-! ## Witnesses: events -/

/-- A state with one vale of one glen, its VD 0 enabled, one block and one wave. -/
def base : State := at_ (.nop (va 0 0 0 0))

/-- An update of one byte on its way within die 0. -/
def update (applied : Bool) : Update :=
  { origin := 0, seq := 1, home := 0, vc := [], access := 9, key := 64, data := [1], op := .store [1], applied := applied }

theorem test_wave_events : (match (wave1 loading).outst with
      | [⟨_, _, .load _⟩] => true
      | _ => false) = true ∧
    (let s := { base with updates := [update false], inflight := [(9, accessAt (.store [1]))] }
     updateReady s (update false) && decide (unitsOf 128 (update false).key (update false).op.size = [0]) && !lineHeldBut s 9 0 && !lineLocked s 0 &&
        !recallWaits s 0 noRow noRow && !routeStalled s 0 0 && !updateHeld s (update false) 0 && decide (Tbl.get s.inflight 9 = some (accessAt (.store [1])))) = true ∧
    (update true).applied = true ∧ (accessAt (.store [1])).target = .mem 64 ∧ ({ accessAt (.store [1]) with target := .control 0 }).target = .control 0 ∧
    (let s := atW (.nop (va 0 0 0 0)) (fun w => { w with wait := some (.sleep 0) })
     (wave1 s).wait = some (.sleep 0) ∧ (wave1 s).standing = true ∧ (0 : DWord).toNat ≤ s.tod.toNat ∧ s.tod.toNat < (1 : DWord).toNat ∧ canIssue s (wave1 s) = true ∧ (wave1 s).trap = none) ∧
    (let s := atW (.nop (va 0 0 0 0)) (fun w => { w with wdog := [(15, watchdogLimit)] })
     stalledLanes (wave1 s) = [15] ∧ (wave1 s).ended = false ∧ (wave1 s).trap = none ∧ (wave1 s).late = [] ∧ allComplete (wave1 s) = true ∧ canIssue s (wave1 s) = true ∧
       (standsAt s (wave1 s)).isSome = true ∧ (standsAt s { wave1 s with pos := ⟨0x7000000000000000, none⟩ }).isNone = true) := by
  decide +kernel

theorem test_wave_event_clauses : (let s := atW (.nop (va 0 0 0 0)) (fun w => { w with wdog := [(15, watchdogLimit)], wait := some (.bar 3 0 false) })
     (wave1 s).wait = some (.bar 3 0 false) ∧ (wave1 s).standing = true ∧ stalledLanes (wave1 s) = [15] ∧ canIssue s (wave1 s) = true) ∧
    (let a := { accessAt (.store [1]) with target := .control 0x808 }
     accReady { base with inflight := [(9, a)] } 9 a = true) := by decide +kernel

/-- A wave whose lane 3 has faulted, in a job with a handler. -/
def faulted : State :=
  (atW (.trap (va 0 0 0 0)) (fun w => { w with trap := some { at_ := w.pos, next := w.pos, kind := .soft, part := none, deferred := false, tod := 0, lanes := [laneFault 3 cSwtrap 0 0] } })).modJob 3
    (fun j => { j with card := List.replicate 32 0x40 })

theorem test_handler_launch : deliverable faulted 1 (wave1 faulted) = true ∧
    (faultedLanes faulted (fun x f => decide (x.job = 3) && f.handler.isNone && !f.resolved)).length = 1 ∧ trapPc (faulted.cardOf 3) ≠ 0 ∧
    (faulted.core? 0).handler = none ∧ vdIssues faulted 0 0 = true ∧ (Tbl.get faulted.jobs 3).isSome = true := by decide +kernel

/-- A copy of 16 bytes from s0:s1 within global memory, accepted by the engine of core 0. -/
def copying : State :=
  after (atW (.cpy ⟨96, 104, 0, 0, 0, some 0x000080C2⟩) (fun w => (((w.wrS 0 0x10200).wrS 2 0x10100).wrS 8 16))) (.cpy ⟨96, 104, 0, 0, 0, some 0x000080C2⟩)

theorem test_copy_events : (match (copying.core? 0).cmds with
    | [(id, c)] => (startFault copying c).isNone && decide (c.done < c.total) && !tableWaits (copying.core? 0) id c && decide (c.posted = []) && decide (c.kind = .cpy) &&
        !copying.halted && (match copySector copying 0 id c with
          | (_, .ok _) => true
          | _ => false) &&
        (let d := { c with done := c.total }
         (startFault copying d).isNone && decide (d.total ≤ d.done) && !d.ordered && d.ctr.isNone) &&
        (startFault copying { c with b := [7] }).isSome
    | _ => false) = true := by decide +kernel

/-- Lease 0: of the engine of core 0, to start and to stop at tick 0. -/
def lease (st : BitVec 2) : Lease :=
  { handle := 0, lender := 0, borrower := 1, glen := 0, cores := 1, start := 0, stop := 0, rate := 0, meter := 0, st := st, full := true, revoked := false }

/-- A K-step of two one-row slabs, and an MZERO. -/
def kstep (z : Option (BitVec 1)) : KStep :=
  { id := 7, blk := 2, zero := z, sparse := false, ovw := false, aBase := 0, bBase := 0, da := oneDesc, db := oneDesc, bands := [0], lease := none
    read := [], readBad := false }

theorem test_engine_events : (lease 1).st = 1 ∧ (lease 1).start.toNat ≤ base.tod.toNat ∧ (lease 2).stop.toNat ≤ base.tod.toNat ∧
    leaseBusy { base with leases := [(0, lease 2)] } 0 (lease 2) = false ∧ rowGone base 2 0 128 = none ∧ (block2 base).isSome = true ∧
    (match block2 base with
      | some b => !slabsWait base b (kstep none) && (kstep none).slabs.all (fun r => decide (invalidRows b r.1 r.2 = []) && !slabPoisoned b r.1 r.2)
      | none => false) = true := by decide +kernel

/-- A frame of glen 0 of one band, its post at the head of the lane's queue, its samples in no row. -/
def encoding (out : Option (List Byte × Nat × Bool)) : State :=
  match (copying.core? 0).cmds with
  | [(_, c)] =>
    let f : Frame := { own := c, desc := 0, words := List.replicate 16 0, posted := [0], encoded := 0, bytes := 0, full := false, failed := false, closed := some 1, out := out }
    copying.modGlen 0 (fun g => { g with frames := [(6, f)], encq := [(8, { c with kind := .encpost, bank := some 6, total := 0 })] })
  | _ => copying

theorem test_band_events : (let s := encoding none
    match nextBand s 0, postOf s 0 6 0 with
    | some (k, f), some (id, c) => decide (k = 6) && decide (id = 8) && f.out.isNone && !s.halted && (match readBand s 0 id c (bandRows f.words 0) with
        | (_, .ok samples) => decide (samples = [])
        | _ => false) && (match writeSome s 0 id c 0x10100 [] with
          | (_, n, .ok ()) => decide (n = 0)
          | _ => false)
    | _, _ => false) = true ∧ (nextBand (encoding (some ([1], 0, false))) 0).map (fun x => x.2.out.isSome) = some true := by decide +kernel

/-- A coverage command at the head of glen 0's queue. -/
def covering (i : Instr) (tri : Bool) : State :=
  (inSession i tri).modGlen 0 (fun g => { g with covq := [(5, { blk := 2, wave := 1, core := 0, pc := 0, op := i, prims := [], quads := [], count := false, accepted := 0 })] })

theorem test_coverage_events : (let s := covering (.covres (va 0 0 0 1)) false
    ((Tbl.get (s.glen? 0).covq 5).isSome && ((block2 s).bind (fun b => b.cov)).isSome && !s.halted &&
      (s.glen? 0).covq.all (fun e => decide (5 ≤ e.1)) && (match Tbl.get (s.glen? 0).covq 5, (block2 s).bind (fun b => b.cov) with
        | some m, some c => !covWaits s m c
        | _, _ => false)) = true) := by decide +kernel

/-- Queue 3 of VD 0 with a card at a stage. -/
def queued (card : List Word) (st : CardStage) : State := base.modQueue 0 0 3 (fun x => { x with card := card, stage := st })

theorem test_queue_events : (queued [] (.fetched none)).queue? 0 0 3 ≠ Queue.fresh ∧ vdIssues (queued [] (.fetched none)) 0 0 = true ∧
    ((queued [] .none).vd? 0 0).isSome = true ∧ qParkUntil (queued [] .none) 0 0 3 ≤ (queued [] .none).tod.toNat ∧
    cardFlag [0x00100000] 4 = true ∧ cardFlag [0] 4 = false ∧ (queued [0x00100000] (.ready none)).waves.all (fun e => decide (e.2.kind ≠ .prologue)) = true ∧
    (base.vale? 0).map (fun v => glenFenced base v.first) = some false ∧
    mayStart (queued [0x00100000] (.fetched (some .limit))) ((queued [0x00100000] (.fetched (some .limit))).queue? 0 0 3) [0x00100000] = true ∧
    visitWaits (queued [] .none) 0 0 3 = false ∧ qcbWaits (queued [] .none) 0 0 3 = false ∧ colWaits (queued [] (.ready none)) 0 0 3 0 = false ∧
    (wave1 (atW (.nop (va 0 0 0 0)) (fun w => { w with ended := true }))).ended = true := by decide +kernel

theorem test_job_events : (let s := base.modCore 0 (fun c => { c with convert := some 128 })
    (s.core? 0).convert = some 128 ∧ (s.core? 0).stashKib < 128 ∧ waysBusy s 0 (l1Ways (s.core? 0)) = false ∧ savedFits base 3 0 = false ∧ s.jobs.all (fun e => e.2.ord.isNone) = true ∧ (blocksOn s 0).all (fun e => decide (cardField (s.cardOf e.2.job) 0x70 2 0 = 0)) = true) ∧
    (match base.vd? 0 0 with
      | some d => d.en && decide (d.nextBoundary ≤ base.tod.toNat) && d.cut.isNone && !d.stopped && !d.rolling
      | none => false) = true ∧
    (let s := { base with blocks := [], waves := [] }
     (match Tbl.get s.jobs 3 with
       | some j => jobOver s 3 j && !colWaits s j.vale j.vd j.queue j.number && !s.halted && decide ((gateAcquire base j [0]).cores.map (fun e => e.1) = base.cores.map (fun e => e.1)) && !rootWaits base j 0 && !walkWaits base none 0 0 (rootVa j 0) .load && vdServed base 0 0 &&
         fitsCore s 0 0 0 j.card && decide (readSets s 0 < 2048)
       | none => false) = true) := by decide +kernel

theorem test_task_events : (let s := inTask (.tend (va 0 0 0 0)) true
    isFrontier s 3 0 && lockReady s 3 0 && taskDone s { freshTask 4 none 0 0x10000 [] with st := .finished } && !taskDone s (freshTask 4 none 0 0x10000 []) && (match orderedOf s 3 with
      | some o => decide (earliestTask o.tasks = some 0) && !frontierSaved o && decide (o.rootNext < 1 + cardRecords (s.cardOf 3)) && entryFree s 0 && !o.stuck
      | none => false)) = true := by decide +kernel

theorem test_save_events : (let s := base.modBlock 2 (fun b => { b with st := .saving false })
    (match block2 s with
      | some b => decide ((saveGroup s 2 b).length = 1) && (frontierOf s b).isNone && !epochOwed s 0 0 && s.clock.isNone && vdServed s 0 0 && (saveGroup s 2 b).all (fun e => saveDrained s e.1 e.2 && !saveHeld s e.2 && decide (liveWaves s e.2 ≠ []) &&
          (liveWaves s e.2).all (fun x => !faultDue x.2))
      | none => false) = true) ∧
    (let s := { base with tod := 600000 }
     (block2 s).map (fun b => decide (b.stopTod + 600000 ≤ s.tod.toNat)) = some true) ∧
    (let s := base.modVd 0 0 (fun d => { d with cut := some { count := 0, switchOut := false, halted := true, start := 0, moved := 0 } })
     cutDrained s 0 0 = true ∧ rowsWait s 0 0 = false ∧ s.halted = false ∧ frontierDue s 0 0 = none ∧ readHeld s 0 0 11 = false ∧ (coreBlocks s 0 0).all (fun e => !rowsBackWait s e.2) = true ∧ (coreBlocks s 0 0).all (fun e => (liveWaves s e.2).all (fun x => !faultDue x.2)) = true) ∧
    (0 : Nat) ≤ base.tod.toNat ∧ base.tod.toNat < 1 ∧ base.migrations = [] := by decide +kernel

theorem test_error_premises : (Tbl.get base.blocks 2).isSome = true ∧ (Tbl.get base.waves 1).isSome = true ∧ orderedOf (inTask (.tend (va 0 0 0 0)) true) 3 ≠ none ∧
    (let s := setLink base (.saddle 0) { Link.fresh with replays := List.replicate 16 0 }
     ((linkOf s (.saddle 0)).replays.filter (fun t => decide (s.tod.toNat ≤ t + 600))).length = 16 ∧ (linkOf s (.saddle 0)).up = true) ∧
    (let s := setLink base (.pass 0) { Link.fresh with retraining := true, replays := [0] }
     (linkOf s (.pass 0)).retraining = true ∧ (linkOf s (.pass 0)).up = true) := by decide +kernel

theorem test_error_events : (State.reset.poison.contains 5) = false ∧ (poisonSectors State.reset [5]).poison.contains 5 = true ∧ glenVale base 0 = some 0 ∧
    linkExists (.saddle 0) = true ∧ linkExists (.pass 35) = true ∧ linkExists (.pass 36) = false ∧ (linkOf base (.saddle 0)).up = true ∧
    (linkOf base (.saddle 0)).replays.length < 16 ∧ (linkOf base (.saddle 0)).retraining = false ∧ base.passUp.getLsbD 35 = true ∧ (State.reset.glen? 255).st = 2 ∧ (base.glen? 0).st ≠ 3 ∧
    (match (copying.core? 0).cmds with
      | [(id, _)] => (acceptedCmd { copying with tod := 60000000 } (.copy 0) id).map (fun p => decide (p.2.at_ + 60000000 ≤ 60000000) && !p.2.faulting)
      | _ => none) = some true := by decide +kernel

/-- An inbound request of one byte. -/
def inbound (enc good : Bool) : FabricReq :=
  { src := 1, vale := 0, enc := enc, seq := 3, addr := 0x40, size := 1, data := [7], op := .add, tagGood := good }

theorem test_fabric_events : (match judge base (inbound true false) 42 with
      | .badTag => true
      | _ => false) = true ∧ (match judge base (inbound false true) 42 with
      | .refused => true
      | _ => false) = true ∧
    (let s := { base with imports := [(0, (0, 0))], outReqs := [(4, { vale := 0, vd := 0, die := 0, pc := 0, pkg := 1, link := 0, seq := 0, pa := 0, access := none, load := none, eng := none, sentAt := 0 })] }
     (linkOf s (.pass 0)).retraining = false ∧ (Tbl.get s.outReqs 4).map (fun r => reqBehind s 4 r) = some false ∧ (0 : Nat) + 64 ≤ ({ s with tod := 64 } : State).tod.toNat ∧ ({ s with tod := 63 } : State).tod.toNat < 0 + 64 ∧
       (Tbl.get s.outReqs 4).map (fun r => r.link) ≠ some 36) ∧
    (inbound true false).tagGood = false ∧ base.imports = [] ∧ base.inSeen = [] := by decide +kernel

theorem test_part_events : State.reset.bootStat = 0 ∧ State.reset.halted = false ∧ State.reset.bootStep = 1 ∧ lcAllowed 0 1 = true ∧ lcAllowed 1 3 = false ∧
    State.reset.tsync = 0 ∧ (1840 : BitVec 16).toInt = 1840 ∧ (1839 : BitVec 16).toInt < 1840 ∧
    (let s := { State.reset with bootStep := 6, trayRead := true, pkgId := 5, tod := 600 }
     s.bootStat = 0 ∧ s.bootStep = 6 ∧ s.trayRead = true ∧ s.passUp ≠ 0 ∧ s.pkgId ≠ 0 ∧ s.tod.toNat % 600 = 0 ∧ s.compared < s.tod.toNat ∧ s.bootStat ≠ 2 ∧
     s.plimit.toNat < 15001 ∧ 1200 < s.clkNow.toNat ∧ ({ s with clkNow := 2300 } : State).clkNow.toNat < 2400) ∧
    4 ≤ ({ base with bootStep := 6 } : State).bootStep ∧ base.bootStat ≠ 2 ∧ ({ base with bootStat := 2 } : State).bootStat = 2 ∧ State.reset.bootStep < 4 ∧ (keyOf base 0).isSome = true ∧ tripped { power := 0, current := 0, temps := [0, 1840] } = [1] := by decide +kernel

theorem test_register_reads : managementWord State.reset 0x30 = 15000 ∧ managementWord State.reset 0x38 = 2400 ∧ managementWord State.reset 0x20 = 0 ∧
    (match base.vale? 0 with
      | some v => decide (windowWord base 0 v 0x840 = 0x101) && decide (windowWord base 0 v 0x2200 = 0)
      | none => false) = true := by decide +kernel

/-- A 64 MiB stage-2 leaf for intermediate addresses from 0, and aperture 0 enabled there. -/
def staged : State :=
  let put (s : State) (pa x : Nat) : State := writeMem s ((keyOf s pa).getD 0) (bytesLE 8 x)
  put (put (base.modVale 0 (fun v => { v with root := 0x80000, stage := [(0, 1)] })) 0x80000 0x100003) 0x100000 5

/-- R12: a write of the upper half of a 64-bit register leaves the lower half. -/
theorem test_register_halves : (regStore { base with lcToken := 0x1122334455667788 } 256 0x2C (bytesLE 4 0xAABBCCDD)).lcToken = 0xAABBCCDD55667788 ∧
    (regStore { base with lcToken := 0x1122334455667788 } 256 0x28 (bytesLE 4 0xAABBCCDD)).lcToken = 0x11223344AABBCCDD := by decide +kernel

theorem test_host_premises : base.vale? 5 = none ∧ hostWrites base 0 = [] ∧ (base.vale? 0).map (fun v => v.hostPosts) = some [] ∧ State.reset.vales = [] ∧
    BitVec.ofNat 64 ((0x10000 : DWord).toNat / 2 ^ 16 * 2 ^ 16) ≠ vfBar base 0 0 ∧
    (base.modVale 0 (fun v => { v with tdi := { v.tdi with st := .locked } }) |>.vale? 0).map (fun v => decide (v.tdi.st = .unlocked)) = some false := by decide +kernel

theorem test_host_accesses : 4 ≤ ({ base with bootStep := 6 } : State).bootStep ∧
    (let s := staged
     hostAccess s .plain 0 true 4 0x80100 5 = (s, true) ∧ hostAccess s .plain 0 false 4 0x80100 0 = (s, true) ∧ (match s.vale? 0 with
      | some v => decide (apertureIpa v 0x80100 = some 0x80100) && (match aperturePieces s v 0x80100 4 true with
        | some ps => decide (ps = [(.mem ((keyOf s 0x80100).getD 0), 4)]) && !apertureWaits s v ps &&
          (match apertureGather v 0 0 ps s with
            | (_, .ok _) => true
            | _ => false)
        | none => false)
      | none => false) = true) ∧ hostAccess base .plain 0 true 0 0x810 0 = (base, true) ∧ hostAccess base .plain 0 true 2 0x18 5 = (base, true) ∧
    (match base.vale? 0 with
      | some v => decide (v.resetting = false) && decide (v.tdi.st = .unlocked) && !v.tdi.wiping && !v.cmd.busy && !v.stopped
      | none => false) = true := by decide +kernel

theorem test_vale_commands : hostAccess base .plain 0 true 0 0x900 (3 + 256 * 0) = (base, true) ∧
    (match base.vd? 0 0 with
      | some d => decide (d.en = true) && decide (d.stopReq = none) && !d.vdStopped && decide (d.cut = none)
      | none => false) = true ∧ base.tod.toNat + 64 ≤ (64 : DWord).toNat ∧ (63 : DWord).toNat < base.tod.toNat + 64 := by decide +kernel

theorem test_pf_requests : base.pf.busy = false ∧ base.halted = false ∧ base.bootStat = 1 ∧ State.reset.bootStat ≠ 1 ∧ State.reset.lifecycle = 2 ∧
    State.reset.vale? 5 = none ∧ (natsFrom 254 2).all (fun g => decide ((({ State.reset with glens := (natsFrom 254 2).map (fun g => (g, { Glen.fresh with st := 0 })) }).glen? g).st = 0)) = true := by
  decide +kernel

theorem test_spdm_messages : 4 ≤ ({ State.reset with bootStep := 4 } : State).bootStep ∧ State.reset.spdm.algs = false ∧ slotFull State.reset 0 = true ∧ State.reset.spdm.sessions.all (fun e => e.2.established) = true ∧
    (let s := { State.reset with spdm := { version := true, caps := true, algs := true, sessions := [(0, ⟨true, 0, 0⟩), (1, ⟨false, 0, 0⟩)] } }
     sessionLive s 0 = true ∧ sessionLive s 1 = false ∧ (Tbl.first (fun _ (x : Session) => !x.established) s.spdm.sessions).isSome = true) := by decide +kernel

theorem test_tdisp_messages : (let s := { base with
      spdm := { version := true, caps := true, algs := true, sessions := [(0, ⟨true, 0, 0⟩)] }, ide := [(7, ⟨0, true, some 1, 0⟩)] }
    sessionLive s 0 && (match s.vale? 0, Tbl.get s.ide 7 with
      | some v, some x => decide (v.tdi.st = .unlocked) && !v.tdi.wiping && !v.resetting && !pfNames s 0 && x.secure && decide (x.vf = some 1)
      | _, _ => false)) = true := by decide +kernel

end Sys2Proof.Tests
end

namespace Sys2Proof.Machine

/-! PROOF. What the registers of the windows read as (R12, R210, R383, R417, R443), and what a host read or a load answers with. -/

/-! ## What registers read as -/

theorem windowWord_vdc (s : State) (vale : Nat) (v : Vale) {n j : Nat} (hn : n < 16) (hj : j < 32) :
    windowWord s vale v (128 * n + 4 * j) = (Tbl.get v.vds n).elim 0 (fun d => Tbl.cell 0 d.vdc j) := by
  have hvd : (128 * n + 4 * j) / 128 = n := by omega
  have hword : (128 * n + 4 * j) % 128 / 4 = j := by omega
  rw [windowWord, if_pos (by omega), hvd, hword]

theorem windowWord_caps (s : State) (vale : Nat) (v : Vale) {k : Nat} (hk : k < 7) :
    windowWord s vale v (0x840 + 4 * k) = capsWord k := by
  have hword : (0x840 + 4 * k - 0x840) / 4 = k := by omega
  simp only [windowWord, Bool.and_eq_true, decide_eq_true_eq]
  simp (disch := omega) only [if_pos, if_neg, hword]

/-- The lower word of an aligned 64-bit register. -/
theorem halfOf_lo (x : DWord) {off : Nat} (h : off % 8 < 4) : halfOf x off = loWord x := if_pos h

/-- The upper word of an aligned 64-bit register. -/
theorem halfOf_hi (x : DWord) {off : Nat} (h : 4 ≤ off % 8) : halfOf x off = hiWord x := if_neg (by omega)

theorem windowWord_stage (s : State) (vale : Nat) (v : Vale) {off : Nat} (h0 : 0x880 ≤ off) (h1 : off < 0x900) :
    windowWord s vale v off = halfOf (Tbl.cell 0 v.stage ((off - 0x880) / 8)) off := by
  simp only [windowWord, Bool.and_eq_true, decide_eq_true_eq]
  simp (disch := omega) only [if_pos, if_neg]

theorem windowWord_reserved (s : State) (vale : Nat) (v : Vale) {off : Nat} (h : 0x820 ≤ off ∧ off < 0x840 ∨ 0x2200 ≤ off) :
    windowWord s vale v off = 0 := by
  simp only [windowWord, Bool.and_eq_true, decide_eq_true_eq]
  simp (disch := omega) only [if_neg]

theorem managementWord_temp (s : State) {d : Nat} (hd : d < 8) :
    managementWord s (0x48 + 4 * d) = (Tbl.cell (0 : BitVec 16) s.temps d).setWidth 32 := by
  have hdie : (0x48 + 4 * d - 0x48) / 4 = d := by omega
  simp only [managementWord, Bool.and_eq_true, decide_eq_true_eq]
  simp (disch := omega) only [if_pos, if_neg, hdie]

theorem managementWord_reserved (s : State) {off : Nat} (h : 0x940 ≤ off) : managementWord s off = 0 := by
  simp only [managementWord, Bool.and_eq_true, decide_eq_true_eq]
  simp (disch := omega) only [if_neg]

theorem natsFrom_eq_range' (lo n : Nat) : natsFrom lo n = List.range' lo n := by
  induction n generalizing lo with
  | zero => rfl
  | succ n ih => rw [natsFrom, ih, List.range'_succ]

/-- R415: a byte of a post page below its reserved part is one of its post word. -/
theorem postBytes_getD (s : State) {vale : Nat} {v : Vale} (hv : s.vale? vale = some v) {off n i : Nat} (hi : i < n) (ho : (off + i) % 4096 < 512) :
    (postBytes s vale off n).2.getD i 0 = (Tbl.cell 0 v.posts (postWordOf (off + i))).extractLsb' (8 * ((off + i) % 8)) 8 := by
  simp [postBytes, hv, natsFrom_eq_range', List.getD_eq_getElem?_getD, hi, ho]

/-! ## Host reads -/

/-- R433: the check of an access that the interface lets through changes nothing. -/
theorem hostAccess_granted {s t : State} {p : HostPath} {vale bar off x : Nat} {w : Bool} (h : hostAccess s p vale w bar off x = (t, true)) :
    t = s := by
  unfold hostAccess at h
  split at h
  · cases h
  · dsimp only at h
    split at h
    · cases h
    · split at h
      · cases h; rfl
      · split at h <;> cases h; rfl
      · split at h <;> cases h; rfl
      · cases h

theorem hostRead_registers {s t : State} {p : HostPath} {vale off : Nat} {v : Vale} (n : Nat) (ha : hostAccess s p vale false 0 off 0 = (t, true))
    (hv : t.vale? vale = some v) : hostRead s p vale 0 off n =
      { t with reply := .bytes ((natsFrom off n).map (fun o => (windowWord t vale v (o / 4 * 4)).extractLsb' (8 * (o % 4)) 8)) } := by
  cases hostAccess_granted ha
  simp [hostRead, ha, hv]

theorem hostRead_posts {s t : State} {p : HostPath} {vale off : Nat} {v : Vale} (n : Nat) (ha : hostAccess s p vale false 2 off 0 = (t, true))
    (hv : t.vale? vale = some v) : hostRead s p vale 2 off n = { (postBytes t vale off n).1 with reply := .bytes (postBytes t vale off n).2 } := by
  cases hostAccess_granted ha
  simp [hostRead, ha, hv]

/-! ## Loads of the control window -/

/-- R97: a load of the control window returns the words there, and a speculative task's read set takes their sectors (R360). -/
theorem readReq_control (s : State) (w : Wave) (op : LoadOp) {q : LaneReq} {off : Nat} (hq : q.target = .control off) :
    readReq s w op q =
      (noteRead s w (2 ^ 63 + off) op.size, controlBytes (noteRead s w (2 ^ 63 + off) op.size) off op.size, false) := by
  simp [readReq, hq, elseKey, elseBytes]

theorem noteRead_noTask {s : State} {w : Wave} (k n : Nat) (h : s.taskOf w = none) : noteRead s w k n = s := by
  simp [noteRead, h]

/-! ## Settling O56 -/

/-- Settles O56: each clause is the equation of its register above, at its place. -/
theorem registerReads : Obligations.RegisterReads := by
  refine ⟨fun s vale v => ⟨fun n j => windowWord_vdc s vale v, fun k => windowWord_caps s vale v, fun k hk => ?stage, rfl, rfl, rfl, rfl, rfl,
      fun off h0 h1 => windowWord_reserved s vale v (.inl ⟨h0, h1⟩), fun off h => windowWord_reserved s vale v (.inr h)⟩,
    fun s => ⟨rfl, rfl, rfl, rfl, rfl, rfl, rfl, rfl, rfl, fun d => managementWord_temp s, fun off => managementWord_reserved s⟩,
    fun s off n => rfl,
    fun s t p vale off n v hv => ⟨fun ha => hostRead_registers n ha hv, fun ha => hostRead_posts n ha hv, fun i => postBytes_getD t hv⟩,
    fun s w op q off hq => ⟨readReq_control s w op hq, fun htask => ?plain⟩⟩
  case stage =>
    have hword : (0x880 + 8 * k - 0x880) / 8 = k ∧ (0x884 + 8 * k - 0x880) / 8 = k := by omega
    constructor
    · rw [windowWord_stage s vale v (by omega) (by omega), halfOf_lo _ (by omega), hword.1]
    · rw [windowWord_stage s vale v (by omega) (by omega), halfOf_hi _ (by omega), hword.2]
  case plain => rw [readReq_control s w op hq, noteRead_noTask _ _ htask]

end Sys2Proof.Machine

namespace Sys2Proof.Machine

/-! SUPPORT. What writes to memory, error records and containment leave alone. -/

/-- The state of the part that no write to memory, no error record and no containment touches: its time, its bring-up, its BARs and the
management window's settings. -/
structure Standing where
  tod : DWord
  bootStat : BitVec 2
  bootStep : Nat
  lifecycle : BitVec 3
  tsync : BitVec 2
  pfBar : DWord
  bars : Tbl DWord
  vfBars : Tbl DWord
  plimit : BitVec 16
  ilimit : BitVec 16
  halted : Bool

/-- What of a state stands through writes to memory, records and containment. -/
def State.standing (s : State) : Standing :=
  ⟨s.tod, s.bootStat, s.bootStep, s.lifecycle, s.tsync, s.pfBar, s.bars, s.vfBars, s.plimit, s.ilimit, s.halted⟩

/-- A fold keeps what each of its steps keeps. -/
@[simp] theorem foldl_standing {α : Type} (l : List α) {f : State → α → State} (h : ∀ s a, (f s a).standing = s.standing) (s : State) :
    (l.foldl f s).standing = s.standing :=
  List.foldlRecOn (motive := fun t => t.standing = s.standing) l f rfl (fun t ht a _ => (h t a).trans ht)

@[simp] theorem writeMem_standing (s : State) (k : Nat) (bs : List Byte) : (writeMem s k bs).standing = s.standing := rfl

@[simp] theorem poisonSectors_standing (s : State) (js : List Nat) : (poisonSectors s js).standing = s.standing := rfl

@[simp] theorem State.modBlock_standing (s : State) (b : Nat) (f : Block → Block) : (s.modBlock b f).standing = s.standing := rfl

@[simp] theorem State.modVale_standing (s : State) (v : Nat) (f : Vale → Vale) : (s.modVale v f).standing = s.standing := rfl

@[simp] theorem State.modVd_standing (s : State) (v d : Nat) (f : Vd → Vd) : (s.modVd v d f).standing = s.standing := rfl

@[simp] theorem sendMsix_standing (s : State) (fn n : Nat) : (sendMsix s fn n).standing = s.standing := rfl

@[simp] theorem crossNow_standing (s : State) (die k : Nat) (rel : Bool) : (crossNow s die k rel).standing = s.standing := by
  unfold crossNow
  split <;> rfl

/-! ### The undo log and the home slices -/

@[simp] theorem giveUp_standing (s : State) (line : Nat) : (giveUp s line).standing = s.standing := by
  refine foldl_standing _ (fun s e => foldl_standing _ (fun s r => ?_) s) s
  split
  · rfl
  · simp [apply_ite State.standing]

@[simp] theorem writeLog_standing (s : State) (k : Nat) (bs : List Byte) : (writeLog s k bs).standing = s.standing := by
  simp [writeLog]

@[simp] theorem writeLogs_standing (s : State) (ps : List (Nat × Nat)) (bs : List Byte) : (writeLogs s ps bs).standing = s.standing := by
  induction ps generalizing s bs with
  | nil => rfl
  | cons p ps ih => rw [writeLogs, ih, writeLog_standing]

theorem undoPut_standing (s : State) (v : Vale) (ipa : Nat) (bs : List Byte) (bad : Bool) :
    ((undoPut s v ipa bs bad).getD s).standing = s.standing := by
  unfold undoPut
  split
  · rfl
  · simp [apply_ite State.standing]

@[simp] theorem logLine_standing (s : State) (vale vd line : Nat) : (logLine s vale vd line).standing = s.standing := by
  unfold logLine
  split
  · split
    · rfl
    · simp [apply_ite State.standing, undoPut_standing]
  · rfl

@[simp] theorem markDirty_standing (s : State) (vale vd : Nat) (ipa : Option Nat) : (markDirty s vale vd ipa).standing = s.standing := by
  unfold markDirty
  split
  · split
    · rfl
    · dsimp only
      split
      · rfl
      · rw [writeLog_standing]
  · rfl

@[simp] theorem l2Use_standing (s : State) (r : L2Req) (line : Nat) (sectors : BitVec 4) (old : List Byte) :
    (l2Use s r line sectors old).standing = s.standing := by
  unfold l2Use
  dsimp only
  split
  · split
    · rfl
    · split <;> rfl
  · split <;> rfl

@[simp] theorem l2Write_standing (s : State) (vale vd k : Nat) (bs : List Byte) (hint : BitVec 2) (nc dev : Bool) :
    (l2Write s vale vd k bs hint nc dev).standing = s.standing := by
  unfold l2Write
  split
  · rfl
  · exact (foldl_standing _ (fun t j => l2Use_standing t _ j _ _) _).trans rfl

@[simp] theorem vdStore_standing (s : State) (vale vd : Nat) (ipa : Option Nat) (k : Nat) (bs : List Byte) (hint : BitVec 2) (nc dev : Bool) :
    (vdStore s vale vd ipa k bs hint nc dev).standing = s.standing := by
  unfold vdStore
  refine (l2Write_standing _ vale vd k bs hint nc dev).trans ((markDirty_standing _ vale vd ipa).trans ?_)
  rw [apply_ite State.standing, foldl_standing _ (fun t j => logLine_standing t vale vd j), ite_self]

/-! ### Rows given up -/

@[simp] theorem sectorBack_standing (s : State) (b : Block) (row : Nat) (r : Row) (j : Nat) : (sectorBack s b row r j).standing = s.standing := by
  unfold sectorBack
  dsimp only
  split
  · rfl
  · split
    · rfl
    · simp [apply_ite State.standing, vdWrite]

@[simp] theorem writeRowBack_standing (s : State) (blk row : Nat) : (writeRowBack s blk row).standing = s.standing := by
  unfold writeRowBack
  split
  · rfl
  · split
    · rfl
    · split
      · simp [apply_ite State.standing]
      · rfl

@[simp] theorem recallRows_standing (s : State) (line blk row : Nat) (p : Block → Bool) : (recallRows s line blk row p).standing = s.standing := by
  simp [recallRows, apply_ite State.standing]

@[simp] theorem recallBytes_standing (s : State) (k n : Nat) : (recallBytes s k n).standing = s.standing := by
  simp [recallBytes, recallLine]

@[simp] theorem partWrite_standing (s : State) (k : Nat) (bs : List Byte) : (partWrite s k bs).standing = s.standing := by
  simp [partWrite]

/-! ### Records and containment -/

@[simp] theorem recordVale_standing (s : State) (vale : Nat) (bs : List Byte) : (recordVale s vale bs).1.standing = s.standing := by
  unfold recordVale
  split
  · rfl
  · dsimp only
    split
    · rfl
    · split <;> simp

@[simp] theorem recordPackage_standing (s : State) (bs : List Byte) : (recordPackage s bs).1.standing = s.standing := by
  unfold recordPackage
  dsimp only
  split
  · rfl
  · rw [sendMsix_standing]
    split
    · exact partWrite_standing s _ bs
    · rfl

@[simp] theorem record_standing (s : State) (r : ErrRec) : (record s r).standing = s.standing := by
  unfold record
  dsimp only
  split <;> split <;> simp

@[simp] theorem unrolled_standing (s : State) (vale vd : Nat) : (unrolled s vale vd).standing = s.standing := by
  unfold unrolled
  split <;> simp

@[simp] theorem cancelCommands_standing (s : State) (vale vd : Nat) : (cancelCommands s vale vd).standing = s.standing := rfl

@[simp] theorem dropSteps_standing (s : State) (vale vd : Nat) : (dropSteps s vale vd).standing = s.standing := rfl

@[simp] theorem dropHandlers_standing (s : State) (vale vd : Nat) : (dropHandlers s vale vd).standing = s.standing := rfl

@[simp] theorem stopVd_standing (s : State) (vale vd : Nat) : (stopVd s vale vd).standing = s.standing := by
  simp [stopVd]

@[simp] theorem enterError_standing (s : State) (vale stream : Nat) : (enterError s vale stream).standing = s.standing :=
  foldl_standing _ (fun t d => stopVd_standing t vale d) s

@[simp] theorem tdiViolation_standing (s : State) (vale kind off addr value : Nat) :
    (tdiViolation s vale kind off addr value).standing = s.standing := by
  unfold tdiViolation
  split
  · rfl
  · split <;> simp

end Sys2Proof.Machine

namespace Sys2Proof.Machine

/-! SUPPORT. What a write of a register, or of half of one, leaves in a window (R12). -/

/-! ## Byte strings -/

theorem natsFrom_add (lo m n : Nat) : natsFrom lo (m + n) = natsFrom lo m ++ natsFrom (lo + m) n := by
  simp [natsFrom_eq_range', List.range'_append_1]

@[simp] theorem bytesLE_length (n x : Nat) : (bytesLE n x).length = n := by
  induction n generalizing x with
  | zero => rfl
  | succ n ih => simp [bytesLE, ih]

theorem natLE_bytesLE (n x : Nat) : natLE (bytesLE n x) = x % 256 ^ n := by
  induction n generalizing x with
  | zero => simp [bytesLE, natLE, Nat.mod_one]
  | succ n ih =>
    rw [bytesLE, natLE, ih, BitVec.toNat_ofNat, pow_succ' 256 n, Nat.mod_mul]

theorem natLE_append (a b : List Byte) : natLE (a ++ b) = natLE a + 256 ^ a.length * natLE b := by
  induction a with
  | nil => simp [natLE]
  | cons x a ih => rw [List.cons_append, natLE, ih, natLE, List.length_cons, Nat.pow_succ']; ring

/-- The 64-bit value of two words' bytes, the lower word first (R7). -/
theorem ofNat_natLE_words (lo hi : Nat) :
    BitVec.ofNat 64 (natLE (bytesLE 4 lo ++ bytesLE 4 hi)) = BitVec.ofNat 32 hi ++ BitVec.ofNat 32 lo := by
  rw [natLE_append, natLE_bytesLE, natLE_bytesLE, bytesLE_length]
  apply BitVec.eq_of_toNat_eq
  rw [BitVec.toNat_append, ← Nat.shiftLeft_add_eq_or_of_lt (BitVec.isLt _), Nat.shiftLeft_eq]
  simp only [BitVec.toNat_ofNat]
  omega

theorem ofNat_natLE_lower (x : DWord) (w : Word) : BitVec.ofNat 64 (natLE (bytesLE 4 x.toNat ++ bytesLE 4 w.toNat)) = w ++ loWord x := by
  rw [ofNat_natLE_words, BitVec.ofNat_toNat, BitVec.ofNat_toNat, BitVec.setWidth_eq, loWord]

theorem ofNat_natLE_upper (w : Word) (x : DWord) : BitVec.ofNat 64 (natLE (bytesLE 4 w.toNat ++ bytesLE 4 x.toNat)) = loWord x ++ w := by
  rw [ofNat_natLE_words, BitVec.ofNat_toNat, BitVec.ofNat_toNat, BitVec.setWidth_eq, loWord]

/-- The bytes of an aligned word, one by one. -/
theorem word_bytes (f : Nat → Word) {u : Nat} (hu : u % 4 = 0) :
    (natsFrom u 4).map (fun i => (f (i / 4 * 4)).extractLsb' (8 * (i % 4)) 8) = bytesLE 4 (f u).toNat := by
  have hplace : ∀ j < 4, (u + j) / 4 * 4 = u ∧ (u + j) % 4 = j := by omega
  have hbase : u / 4 * 4 = u := Nat.div_mul_cancel (Nat.dvd_of_mod_eq_zero hu)
  simp [natsFrom, bytesLE, Nat.add_assoc, hplace, hbase, hu, BitVec.extractLsb', Nat.shiftRight_eq_div_pow, Nat.div_div_eq_div_mul]

/-! ## Writes of whole registers and of halves -/

/-- Byte i of a window once some bytes from an offset are written: one of these, or of the word there. -/
def mergedByte (s : State) (win off : Nat) (bs : List Byte) (i : Nat) : Byte :=
  if off ≤ i ∧ i < off + bs.length then bs.getD (i - off) 0 else (regWord s win (i / 4 * 4)).extractLsb' (8 * (i % 4)) 8

/-- But for ALARM, a merged register is made of merged bytes. -/
theorem mergeReg_eq (s : State) {win at_ : Nat} (off : Nat) (bs : List Byte) (n : Nat) (h : ¬ (win = 256 ∧ at_ = 0x80)) :
    mergeReg s win off bs at_ n = (natsFrom at_ n).map (mergedByte s win off bs) := by
  simp [mergeReg, mergedByte, h]

theorem mergedByte_written (s : State) (win off : Nat) (bs : List Byte) : (natsFrom off bs.length).map (mergedByte s win off bs) = bs := by
  apply List.ext_getElem
  · simp [natsFrom_eq_range']
  · intro i h1 h2
    simp [natsFrom_eq_range', mergedByte, h2]

theorem mergedByte_kept (s : State) (win : Nat) {off u : Nat} {bs : List Byte} (hu : u % 4 = 0) (h : u + 4 ≤ off ∨ off + bs.length ≤ u) :
    (natsFrom u 4).map (mergedByte s win off bs) = bytesLE 4 (regWord s win u).toNat := by
  rw [← word_bytes (regWord s win) hu]
  refine List.map_congr_left (fun i hi => if_neg ?_)
  have := mem_natsFrom.mp hi
  omega

theorem mergeReg_lower (s : State) {win off : Nat} {bs : List Byte} (ho : off % 8 = 0) (hl : bs.length = 4) (h : ¬ (win = 256 ∧ off = 0x80)) :
    mergeReg s win off bs off 8 = bs ++ bytesLE 4 (regWord s win (off + 4)).toNat := by
  have hlow := mergedByte_written s win off bs
  rw [hl] at hlow
  rw [mergeReg_eq s off bs 8 h, natsFrom_add off 4 4, List.map_append, hlow, mergedByte_kept s win (by omega) (by omega)]

theorem mergeReg_upper (s : State) {win off : Nat} {bs : List Byte} (ho : off % 8 = 0) (hl : bs.length = 4) (h : ¬ (win = 256 ∧ off = 0x80)) :
    mergeReg s win (off + 4) bs off 8 = bytesLE 4 (regWord s win off).toNat ++ bs := by
  have hup := mergedByte_written s win (off + 4) bs
  rw [hl] at hup
  rw [mergeReg_eq s (off + 4) bs 8 h, natsFrom_add off 4 4, List.map_append, hup, mergedByte_kept s win (by omega) (by omega)]

theorem mergeReg_whole (s : State) {win off : Nat} {bs : List Byte} (hl : bs.length = 8) (h : ¬ (win = 256 ∧ off = 0x80)) :
    mergeReg s win off bs off 8 = bs := by
  have hall := mergedByte_written s win off bs
  rwa [hl, ← mergeReg_eq s off bs 8 h] at hall

/-- The words that a write of an aligned word covers. -/
theorem wordsOf_word {off : Nat} (h : off % 4 = 0) : (unitsOf 4 off 4).map (fun u => 4 * u) = [off] := by
  have hn : (off + 4 - 1) / 4 + 1 - off / 4 = 1 := by omega
  rw [unitsOf, hn]
  simp [natsFrom, Nat.mul_div_cancel' (Nat.dvd_of_mod_eq_zero h)]

/-- The words that a write of an aligned pair of words covers. -/
theorem wordsOf_pair {off : Nat} (h : off % 8 = 0) : (unitsOf 4 off 8).map (fun u => 4 * u) = [off, off + 4] := by
  have hn : (off + 8 - 1) / 4 + 1 - off / 4 = 2 := by omega
  have hu : 4 * (off / 4) = off := by omega
  rw [unitsOf, hn]
  simp [natsFrom, hu, Nat.mul_add]

/-- R12: a write of the lower word of a 64-bit register keeps its upper word. -/
theorem regStore_lower (s : State) {win off : Nat} (x : DWord) (ho : off % 8 = 0) (hw : wideReg win off = true) (h : ¬ (win = 256 ∧ off = 0x80)) :
    regStore s win off (bytesLE 4 x.toNat) =
      if win = 256 then managementPut s off (regWord s win (off + 4) ++ loWord x) else windowPut s win off (regWord s win (off + 4) ++ loWord x) := by
  have hodd : ¬ (off % 8 = 4) := by omega
  simp [regStore, wordsOf_word (off := off) (by omega), hodd, hw, controlPut, mergeReg_lower s ho (bytesLE_length 4 x.toNat) h, ofNat_natLE_lower]

/-- R12: a write of the upper word of a 64-bit register keeps its lower word. -/
theorem regStore_upper (s : State) {win off : Nat} (x : DWord) (ho : off % 8 = 0) (hw : wideReg win off = true) (h : ¬ (win = 256 ∧ off = 0x80)) :
    regStore s win (off + 4) (bytesLE 4 x.toNat) =
      if win = 256 then managementPut s off (loWord x ++ regWord s win off) else windowPut s win off (loWord x ++ regWord s win off) := by
  have hodd : (off + 4) % 8 = 4 := by omega
  simp [regStore, wordsOf_word (off := off + 4) (by omega), hodd, hw, controlPut, mergeReg_upper s ho (bytesLE_length 4 x.toNat) h,
    ofNat_natLE_upper]

/-- R12: a write of a whole 64-bit register. -/
theorem regStore_whole (s : State) {win off : Nat} (x : DWord) (ho : off % 8 = 0) (hw : wideReg win off = true) (h : ¬ (win = 256 ∧ off = 0x80)) :
    regStore s win off (bytesLE 8 x.toNat) = if win = 256 then managementPut s off x else windowPut s win off x := by
  have hodd : ¬ (off % 8 = 4) ∧ (off + 4) % 8 = 4 := by omega
  have hx : BitVec.ofNat 64 (natLE (bytesLE 8 x.toNat)) = x := by
    rw [natLE_bytesLE, Nat.mod_eq_of_lt (show x.toNat < 256 ^ 8 from x.isLt), BitVec.ofNat_toNat, BitVec.setWidth_eq]
  simp [regStore, wordsOf_pair ho, hodd, hw, controlPut, mergeReg_whole s (bytesLE_length 8 x.toNat) h, hx]

end Sys2Proof.Machine

namespace Sys2Proof.Machine

/-! SUPPORT. What the host's accesses do once a vale's interface lets them through (R384, R415 to R417, R443). -/

/-! ## Registers of the windows -/

theorem State.modVale_congr {s : State} {vale : Nat} {v : Vale} (hv : s.vale? vale = some v) {f g : Vale → Vale} (h : f v = g v) :
    s.modVale vale f = s.modVale vale g := by
  rw [State.vale?] at hv
  simp only [State.modVale, Tbl.modify, hv, h]

theorem windowPut_stage (s : State) (vale : Nat) (x : DWord) {k : Nat} (hk : k < 16) :
    windowPut s vale (0x880 + 8 * k) x = s.modVale vale (fun v => { v with stage := Tbl.setCell 0 v.stage k (x &&& stageMask) }) := by
  have hslot : (0x880 + 8 * k - 0x880) / 8 = k := by omega
  simp only [windowPut, Bool.and_eq_true, decide_eq_true_eq]
  simp (disch := omega) only [if_pos, if_neg, hslot]

theorem wideReg_stage {vale k : Nat} (hvale : vale < 256) (hk : k < 16) : wideReg vale (0x880 + 8 * k) = true := by
  simp [wideReg, hvale.ne]
  omega

theorem regWord_stage {s : State} {vale : Nat} {v : Vale} (hv : s.vale? vale = some v) (hvale : vale < 256) {off : Nat} (h0 : 0x880 ≤ off)
    (h1 : off < 0x900) : regWord s vale off = halfOf (Tbl.cell 0 v.stage ((off - 0x880) / 8)) off := by
  simp [regWord, hvale.ne, hv, windowWord_stage s vale v h0 h1]

/-- R12, R417: a write of the lower word of STAGE_k keeps its upper word. -/
theorem regStore_stage_lower {s : State} {vale : Nat} {v : Vale} (hv : s.vale? vale = some v) (hvale : vale < 256) {k : Nat} (hk : k < 16) (x : DWord) :
    regStore s vale (0x880 + 8 * k) (bytesLE 4 x.toNat) = s.modVale vale (fun v => { v with
      stage := Tbl.setCell 0 v.stage k ((hiWord (Tbl.cell 0 v.stage k) ++ loWord x) &&& stageMask) }) := by
  have hslot : (0x880 + 8 * k + 4 - 0x880) / 8 = k := by omega
  rw [regStore_lower s x (by omega) (wideReg_stage hvale hk) (by omega), if_neg hvale.ne, regWord_stage hv hvale (by omega) (by omega),
    halfOf_hi _ (by omega), hslot, windowPut_stage s vale _ hk]
  exact State.modVale_congr hv rfl

/-- R12, R417: a write of the upper word of STAGE_k keeps its lower word. -/
theorem regStore_stage_upper {s : State} {vale : Nat} {v : Vale} (hv : s.vale? vale = some v) (hvale : vale < 256) {k : Nat} (hk : k < 16) (x : DWord) :
    regStore s vale (0x884 + 8 * k) (bytesLE 4 x.toNat) = s.modVale vale (fun v => { v with
      stage := Tbl.setCell 0 v.stage k ((loWord x ++ loWord (Tbl.cell 0 v.stage k)) &&& stageMask) }) := by
  have hoff : 0x884 + 8 * k = 0x880 + 8 * k + 4 := by omega
  have hslot : (0x880 + 8 * k - 0x880) / 8 = k := by omega
  rw [hoff, regStore_upper s x (by omega) (wideReg_stage hvale hk) (by omega), if_neg hvale.ne, regWord_stage hv hvale (by omega) (by omega),
    halfOf_lo _ (by omega), hslot, windowPut_stage s vale _ hk]
  exact State.modVale_congr hv rfl

/-- R443: LCTOKEN is written whole. -/
theorem regStore_lcToken (s : State) (x : DWord) : regStore s 256 0x28 (bytesLE 8 x.toNat) = { s with lcToken := x } :=
  regStore_whole s x rfl rfl (by decide)

/-- R12, R443: a write of the upper word of LCTOKEN keeps its lower word. -/
theorem regStore_lcToken_upper (s : State) (x : DWord) :
    regStore s 256 0x2C (bytesLE 4 x.toNat) = { s with lcToken := loWord x ++ loWord s.lcToken } :=
  regStore_upper (off := 0x28) s x rfl rfl (by decide)

/-! ## Writes of registers and VD control blocks -/

theorem registerWrite_window_granted {p : HostPath} {vale off : Nat} {x : DWord} {s t : State} (wide : Bool)
    (h : hostAccess s p vale true 0 off x.toNat = (t, true)) :
    exec (.registerWrite p (.valeWindow vale off wide) x) s = .next (regStore t vale off (bytesLE (if wide then 8 else 4) x.toNat)) := by
  change execRegisterWrite p (.valeWindow vale off wide) x s = _
  simp [execRegisterWrite, h]

theorem registerWrite_window_refused {p : HostPath} {vale off : Nat} {x : DWord} {s t : State} (wide : Bool)
    (h : hostAccess s p vale true 0 off x.toNat = (t, false)) : exec (.registerWrite p (.valeWindow vale off wide) x) s = .next t := by
  change execRegisterWrite p (.valeWindow vale off wide) x s = _
  simp [execRegisterWrite, h]

theorem mmioOpen_iff (s : State) : mmioOpen s = true ↔ 4 ≤ s.bootStep ∧ s.bootStat ≠ 2 := by
  simp [mmioOpen, linkAnswers]

theorem registerWrite_management (p : HostPath) (off : Nat) (wide : Bool) (x : DWord) (s : State) :
    exec (.registerWrite p (.management off wide) x) s =
      .next (if mmioOpen s then regStore s 256 off (bytesLE (if wide then 8 else 4) x.toNat) else s) := rfl

/-- R433: a host write of a word of VDC_n that the interface lets through. -/
theorem hostVdc_granted {s t : State} {p : HostPath} {vale vd off : Nat} {y : Word} (h : hostAccess s p vale true 0 (128 * vd + off) y.toNat = (t, true)) :
    hostVdc s p vale vd off y = vdcPut t vale vd off y := by
  simp [hostVdc, h]

/-! ## Posts -/

theorem Tbl.get_mapVals {α : Type} (f : Nat → α → α) (t : Tbl α) (k : Nat) : Tbl.get (Tbl.mapVals f t) k = (Tbl.get t k).map (f k) := by
  induction t with
  | nil => rfl
  | cons e t ih =>
    obtain ⟨j, w⟩ := e
    by_cases h : j = k <;> simp [Tbl.mapVals, Tbl.get, h, ih]

theorem vale?_modVale (s : State) (vale : Nat) (f : Vale → Vale) : (s.modVale vale f).vale? vale = (s.vale? vale).map f :=
  Tbl.get_modify_same s.vales vale f

theorem vale?_tryPosts (s : State) (vale : Nat) :
    (tryPosts s).vale? vale = (s.vale? vale).map (fun v => if v.hostPosts = [] then v else settlePosts s.inflight v v.hostPosts) :=
  Tbl.get_mapVals _ s.vales vale

/-- R415: a post that no post and no write of the host goes before sets its word at once. -/
theorem hostPost_settles {s : State} {vale : Nat} {v : Vale} (i : Nat) (x : DWord) (hv : s.vale? vale = some v) (hposts : v.hostPosts = [])
    (hwrites : hostWrites s vale = []) : (hostPost s vale i x).vale? vale = some { v with posts := Tbl.setCell 0 v.posts i x } := by
  rw [hostPost, vale?_tryPosts, vale?_modVale, hv]
  simp [hposts, hwrites, settlePosts]

theorem hostPostWrite_granted {p : HostPath} {vale n q : Nat} {x : DWord} {s t : State} (hn : n < 16) (hq : q < 63)
    (h : hostAccess s p vale true 2 (4096 * n + 8 * q) x.toNat = (t, true)) :
    exec (.hostPostWrite p vale (4096 * n + 8 * q) 8 x) s = .next (hostPost t vale (64 * n + q) x) := by
  have hpage : (4096 * n + 8 * q) / 4096 = n := by omega
  have hplace : (4096 * n + 8 * q) % 4096 = 8 * q := by omega
  have hq' : ¬ (0x200 ≤ 8 * q) ∧ ¬ q = 63 ∧ ¬ 16 ≤ n := by omega
  change execHostPostWrite p vale (4096 * n + 8 * q) 8 x s = _
  simp [execHostPostWrite, h, hpage, hplace, hq']

/-! ## Apertures -/

/-- R416: a write through an aperture enters the pipeline piece by piece. -/
theorem apertureWrite_granted {p : HostPath} {vale off : Nat} {data : List Byte} {s t : State} {v : Vale} {ps : List (Target × Nat)} {ipa : Nat}
    (hv : t.vale? vale = some v) (hn : off / 2 ^ 20 < 16) (h : hostAccess s p vale true 4 off (natLE (data.take 8)) = (t, true))
    (hps : aperturePieces t v off data.length true = some ps) (hipa : apertureIpa v off = some ipa) :
    exec (.apertureWrite p vale off data) s = .next (ps.foldl (fun (x : State × List Byte × Nat) p =>
      (aperturePut x.1 v vale (off / 2 ^ 20) x.2.2 p.1 (x.2.1.take p.2), x.2.1.drop p.2, x.2.2 + p.2)) (markIpas t v ipa data.length true, data, ipa)).1 := by
  change execApertureWrite p vale off data s = _
  simp only [execApertureWrite, h, hv, if_neg (Nat.not_le.mpr hn), hps, hipa]

/-- R416: a read through an aperture that need not wait answers what its pieces gave. -/
theorem apertureRead_granted {p : HostPath} {vale off n : Nat} {s t u : State} {v : Vale} {ps : List (Target × Nat)} {ipa : Nat} {bs : List Byte}
    {bad : Bool} (hv : t.vale? vale = some v) (hn : off / 2 ^ 20 < 16) (h : hostAccess s p vale false 4 off 0 = (t, true))
    (hps : aperturePieces t v off n false = some ps) (hipa : apertureIpa v off = some ipa) (hwait : apertureWaits t v ps = false)
    (hgot : apertureGather v vale (off / 2 ^ 20) ps (markIpas t v ipa n false) = (u, .ok (bs, bad))) :
    exec (.apertureRead p vale off n) s = .next { engForget u (scalarCore u vale) (apertureTag (off / 2 ^ 20)) with
      reply := if bad then .poisoned bs else .bytes bs } := by
  change execApertureRead p vale off n s = _
  simp only [execApertureRead, h, hv, if_neg (Nat.not_le.mpr hn), hps, hwait, hipa, Option.getD_some, hgot, Bool.false_eq_true, if_false]

end Sys2Proof.Machine

namespace Sys2Proof.Machine

/-! PROOF. Configuration writes (R414), the checks of a vale's interface (R433), and the host's accesses together. -/

/-! ## BARs and configuration writes -/

/-- The BARs of a VF by index, with their sizes (R414). -/
def vfBarSizes : List (Nat × Nat) := [(0, 2 ^ 16), (2, 2 ^ 16), (4, 2 ^ 24)]

theorem barSize_vf {b : Nat × Nat} (h : b ∈ vfBarSizes) : ∃ pre, barSize 1 b.1 = some (b.2, pre) := by
  simp only [vfBarSizes, List.mem_cons, List.not_mem_nil, or_false] at h
  rcases h with rfl | rfl | rfl <;> exact ⟨_, rfl⟩

theorem vfBarSize_dvd {b : Nat × Nat} (h : b ∈ vfBarSizes) : b.2 ∣ 2 ^ 64 := by
  simp only [vfBarSizes, List.mem_cons, List.not_mem_nil, or_false] at h
  rcases h with rfl | rfl | rfl <;> exact Nat.pow_dvd_pow 2 (by decide)

theorem barTake_vf {b : Nat × Nat} (h : b ∈ vfBarSizes) (a : DWord) : barTake 1 b.1 a = BitVec.ofNat 64 (a.toNat / b.2 * b.2) := by
  obtain ⟨pre, hsize⟩ := barSize_vf h
  rw [barTake, hsize]

/-- A multiple of a BAR's size is an address of the BAR, and so stands as it is written. -/
theorem barTake_multiple {b : Nat × Nat} (h : b ∈ vfBarSizes) (m : Nat) : barTake 1 b.1 (BitVec.ofNat 64 (m * b.2)) = BitVec.ofNat 64 (m * b.2) := by
  rw [barTake_vf h, BitVec.toNat_ofNat, Nat.div_mul_cancel ((Nat.dvd_mod_iff (vfBarSize_dvd h)).mpr (Nat.dvd_mul_left b.2 m))]
  exact BitVec.eq_of_toNat_eq (by simp)

/-- A write of a BAR whose TDI is unlocked. -/
theorem barPut_unlocked {s : State} {vale : Nat} {b : Nat × Nat} (h : b ∈ vfBarSizes) (hs : tdiOf s vale = .unlocked) (a : DWord) :
    barPut s vale b.1 a = if barTake 1 b.1 a = vfBar s vale b.1 then s
      else { s with bars := Tbl.setCell 0 s.bars (8 * valeFunction vale + b.1) (barTake 1 b.1 a) } := by
  obtain ⟨pre, hsize⟩ := barSize_vf h
  simp [barPut, hsize, hs]

theorem barPut_frozen {s : State} {vale : Nat} {b : Nat × Nat} (h : b ∈ vfBarSizes) (hs : tdiOf s vale ≠ .unlocked) {a : DWord}
    (ha : barTake 1 b.1 a ≠ vfBar s vale b.1) : barPut s vale b.1 a = tdiViolation s vale 7 0 0 0 := by
  obtain ⟨pre, hsize⟩ := barSize_vf h
  simp [barPut, hsize, hs, ha]

theorem vfBar_barPut_same {s : State} {vale : Nat} {b : Nat × Nat} (h : b ∈ vfBarSizes) (hs : tdiOf s vale = .unlocked) (a : DWord) :
    vfBar (barPut s vale b.1 a) vale b.1 = barTake 1 b.1 a := by
  rw [barPut_unlocked h hs]
  split
  · exact Eq.symm ‹_›
  · exact Tbl.cell_setCell_same ..

theorem vfBar_barPut_ne {s : State} {vale w : Nat} {b : Nat × Nat} (h : b ∈ vfBarSizes) (hs : tdiOf s vale = .unlocked) (a : DWord) (hw : w ≠ vale) :
    vfBar (barPut s vale b.1 a) w b.1 = vfBar s w b.1 := by
  rw [barPut_unlocked h hs]
  split
  · rfl
  · exact Tbl.cell_setCell_ne _ _ _ (by simp only [valeFunction]; omega)

theorem barPut_vales {s : State} {vale : Nat} {b : Nat × Nat} (h : b ∈ vfBarSizes) (hs : tdiOf s vale = .unlocked) (a : DWord) :
    (barPut s vale b.1 a).vales = s.vales := by
  rw [barPut_unlocked h hs]
  split <;> rfl

/-- No write of a VF's BAR reaches the SR-IOV VF BAR registers. -/
theorem barPut_vfBars (s : State) (vale i : Nat) (a : DWord) : (barPut s vale i a).vfBars = s.vfBars := by
  unfold barPut
  dsimp only
  split
  · rfl
  · split
    · exact congrArg Standing.vfBars (tdiViolation_standing s vale 7 0 0 0)
    · rfl

theorem tdiOf_some {s : State} {vale : Nat} {v : Vale} (h : s.vale? vale = some v) : tdiOf s vale = v.tdi.st := by
  simp [tdiOf, h]

theorem tdiOf_none {s : State} {vale : Nat} (h : s.vale? vale = none) : tdiOf s vale = .unlocked := by
  simp [tdiOf, h]

theorem vale?_of_vales_nil {s : State} (h : s.vales = []) (vale : Nat) : s.vale? vale = none := by
  rw [State.vale?, h]; rfl

/-- The address that VF number `vale + 1` has in the row of BARs from `x` on (R414). -/
def rowBar (x : DWord) (n vale : Nat) : DWord := x + BitVec.ofNat 64 (n * vale)

theorem barTake_rowBar {b : Nat × Nat} (h : b ∈ vfBarSizes) (a : DWord) (vale : Nat) :
    barTake 1 b.1 (rowBar (barTake 1 b.1 a) b.2 vale) = rowBar (barTake 1 b.1 a) b.2 vale := by
  have hrow : rowBar (barTake 1 b.1 a) b.2 vale = BitVec.ofNat 64 ((a.toNat / b.2 + vale) * b.2) := by
    rw [rowBar, barTake_vf h, ← BitVec.ofNat_add, Nat.add_mul, Nat.mul_comm b.2 vale]
  rw [hrow, barTake_multiple h]

/-- BAR writes of a part without vales create none. -/
theorem foldl_barPut_vales {s : State} {b : Nat × Nat} (hb : b ∈ vfBarSizes) (hs : s.vales = []) (f : Nat → DWord) (l : List Nat) :
    (l.foldl (fun s vale => barPut s vale b.1 (f vale)) s).vales = [] := by
  refine List.foldlRecOn (motive := fun t : State => t.vales = []) l _ hs (fun t ht vale _ => ?_)
  rw [barPut_vales hb (tdiOf_none (vale?_of_vales_nil ht vale)), ht]

/-- In a part without vales each VF's BAR reads as what was written to it. -/
theorem foldl_barPut_vfBar {s : State} {b : Nat × Nat} (hb : b ∈ vfBarSizes)
    (hs : s.vales = []) (f : Nat → DWord) (l : List Nat) {w : Nat} (hw : w ∈ l) :
    vfBar (l.foldl (fun s vale => barPut s vale b.1 (f vale)) s) w b.1 = barTake 1 b.1 (f w) := by
  induction l using List.reverseRecOn with
  | nil => cases hw
  | append_singleton l vale ih =>
    have hopen := tdiOf_none (vale?_of_vales_nil (foldl_barPut_vales hb hs f l) vale)
    rw [List.foldl_append, List.foldl_cons, List.foldl_nil]
    by_cases h : w = vale
    · subst h; exact vfBar_barPut_same hb hopen _
    · rw [vfBar_barPut_ne hb hopen _ h]
      exact ih ((List.mem_append.mp hw).resolve_right (by simpa using h))

theorem vfBarsPut_eq (s : State) {b : Nat × Nat} (hb : b ∈ vfBarSizes) (a : DWord) :
    vfBarsPut s b.1 a = (natsFrom 0 256).foldl (fun s vale => barPut s vale b.1 (rowBar (barTake 1 b.1 a) b.2 vale))
      { s with vfBars := Tbl.setCell 0 s.vfBars b.1 (barTake 1 b.1 a) } := by
  obtain ⟨pre, hsize⟩ := barSize_vf hb
  rw [vfBarsPut, hsize]
  rfl

/-- R414: a VF BAR register of the PF's SR-IOV capability takes what is written. -/
theorem vfBarsPut_register (s : State) {b : Nat × Nat} (hb : b ∈ vfBarSizes) (a : DWord) :
    Tbl.cell 0 (vfBarsPut s b.1 a).vfBars b.1 = barTake 1 b.1 a := by
  have hkeep : (vfBarsPut s b.1 a).vfBars = Tbl.setCell 0 s.vfBars b.1 (barTake 1 b.1 a) := by
    rw [vfBarsPut_eq s hb]
    exact List.foldlRecOn (motive := fun t : State => t.vfBars = Tbl.setCell 0 s.vfBars b.1 (barTake 1 b.1 a)) _ _ rfl
      (fun t ht vale _ => (barPut_vfBars t vale b.1 _).trans ht)
  rw [hkeep, Tbl.cell_setCell_same]

/-- R414: in a part without vales the row of VF BARs follows the register. -/
theorem vfBarsPut_row {s : State} {b : Nat × Nat} (hb : b ∈ vfBarSizes) (a : DWord) (hs : s.vales = []) {w : Nat} (hw : w < 256) :
    vfBar (vfBarsPut s b.1 a) w b.1 = rowBar (barTake 1 b.1 a) b.2 w := by
  rw [vfBarsPut_eq s hb, foldl_barPut_vfBar hb (by exact hs) _ _ (mem_natsFrom.mpr (by omega)), barTake_rowBar hb]

theorem configWrite_pfBar {s : State} (vale : Nat) (a : DWord) (h : 4 ≤ s.bootStep) :
    exec (.configWrite vale (.pfBar a)) s = .next { s with pfBar := BitVec.ofNat 64 (a.toNat / 2 ^ 20 * 2 ^ 20) } := by
  change execConfigWrite vale (.pfBar a) s = _
  simp [execConfigWrite, linkAnswers, h, barTake, barSize]

theorem configWrite_vfBar {s : State} (vale i : Nat) (a : DWord) (h : 4 ≤ s.bootStep) :
    exec (.configWrite vale (.vfBar i a)) s = .next (vfBarsPut s i a) := by
  change execConfigWrite vale (.vfBar i a) s = _
  simp [execConfigWrite, linkAnswers, h]

theorem configWrite_bar {s : State} {vale : Nat} (i : Nat) (a : DWord) (h : 4 ≤ s.bootStep) (hvale : vale < 256)
    (hreset : ∀ v, s.vale? vale = some v → v.resetting = false) : exec (.configWrite vale (.bar i a)) s = .next (barPut s vale i a) := by
  change execConfigWrite vale (.bar i a) s = _
  cases hv : s.vale? vale with
  | none => simp [execConfigWrite, linkAnswers, h, hvale, hv]
  | some v => simp [execConfigWrite, linkAnswers, h, hvale, hv, hreset v hv]

theorem configWrite_memEnable {s : State} {vale : Nat} {v : Vale} (on : Bool) (h : 4 ≤ s.bootStep) (hv : s.vale? vale = some v)
    (hreset : v.resetting = false) : exec (.configWrite vale (.memEnable on)) s = .next (memEnablePut s vale v on) := by
  change execConfigWrite vale (.memEnable on) s = _
  simp [execConfigWrite, linkAnswers, h, hv, hreset]

/-! ## What the interface lets through -/

section
variable {s : State} {vale : Nat} {v : Vale} (hv : s.vale? vale = some v) (hreset : v.resetting = false) (hwipe : v.tdi.wiping = false)
  (hhalt : s.halted = false) (p : HostPath) (w : Bool) (bar off x : Nat)
include hv hreset hwipe hhalt

theorem hostAccess_unlocked (hst : v.tdi.st = .unlocked) : hostAccess s p vale w bar off x = (s, true) := by
  simp [hostAccess, hv, hreset, hwipe, hhalt, hst]

theorem hostAccess_error (hst : v.tdi.st = .error) : hostAccess s p vale w bar off x = (s, false) := by
  simp [hostAccess, hv, hreset, hwipe, hhalt, hst]

theorem hostAccess_run_own (hst : v.tdi.st = .run) (hp : p = .tee v.tdi.stream) : hostAccess s p vale w bar off x = (s, true) := by
  simp [hostAccess, hv, hreset, hwipe, hhalt, hst, hp]

end

/-! ## Settling O55 -/

/-- Settles O55: each clause is the lemma above about its access, once the interface has let it through. -/
theorem hostAccesses : Obligations.HostAccesses := by
  refine ⟨fun p vale off wide x s t => ⟨registerWrite_window_granted wide, registerWrite_window_refused wide, fun hstep hstat => ?open_,
      fun hclosed => ?closed⟩,
    fun s x vale k => ⟨fun v hv hvale hk => ⟨regStore_stage_lower hv hvale hk x, regStore_stage_upper hv hvale hk x⟩, regStore_lcToken s x,
      regStore_lcToken_upper s x, rfl, rfl, rfl, rfl, rfl, rfl, rfl, rfl, windowPut_stage s vale x, rfl, rfl⟩,
    fun p vale vd off x y s t => ⟨fun h => congrArg _ (hostVdc_granted h), ?set, ?clear⟩,
    fun p vale n q x s t => hostPostWrite_granted,
    fun s vale i x v => hostPost_settles i x,
    fun p vale off n data s t v hv hn => ⟨fun ps ipa => apertureWrite_granted hv hn, fun ps ipa u bs bad => apertureRead_granted hv hn, fun k => rfl⟩,
    fun s vale a hstep => ⟨configWrite_pfBar vale a hstep, fun hvale hv b hb => ?spare, fun b hb => ?row⟩,
    fun vale s v hv hreset hstep => ?interface⟩
  case open_ => rw [registerWrite_management, if_pos ((mmioOpen_iff s).mpr ⟨hstep, hstat⟩)]
  case closed =>
    have hshut : ¬ mmioOpen s = true := by rwa [mmioOpen_iff, not_and_or, not_le, not_not]
    rw [registerWrite_management, if_neg hshut]
  case set => rintro rfl h; exact congrArg _ (hostVdc_granted h)
  case clear => rintro rfl h; exact congrArg _ (hostVdc_granted h)
  case spare =>
    rw [configWrite_bar b.1 a hstep hvale (by simp [hv]), barPut_unlocked hb (tdiOf_none hv), barTake_vf hb]
  case row =>
    refine ⟨_, configWrite_vfBar vale b.1 a hstep, ?_, fun hs f hf => ?_⟩
    · rw [vfBarsPut_register s hb, barTake_vf hb]
    · rw [vfBarsPut_row hb a hs hf, rowBar, barTake_vf hb]
  case interface =>
    have hkept : ∀ u, s.vale? vale = some u → u.resetting = false := by rintro u hu; cases hv.symm.trans hu; exact hreset
    have hst := tdiOf_some hv
    refine ⟨fun hopen => ⟨fun on => ?_, fun hvale b hb a => ?_⟩, fun hfrozen hvale b hb a hmove => ?_, fun hfrozen hon => ?_,
      fun hwipe hhalt p w bar off x => ⟨hostAccess_unlocked hv hreset hwipe hhalt p w bar off x,
        hostAccess_error hv hreset hwipe hhalt p w bar off x, hostAccess_run_own hv hreset hwipe hhalt p w bar off x⟩⟩
    · rw [configWrite_memEnable on hstep hv hreset, memEnablePut, if_pos hopen]
    · refine ⟨_, configWrite_bar b.1 a hstep hvale hkept, ?_, barPut_vales hb (hst.trans hopen) a⟩
      rw [vfBar_barPut_same hb (hst.trans hopen), barTake_vf hb]
    · rw [configWrite_bar b.1 a hstep hvale hkept, barPut_frozen hb (hst ▸ hfrozen) (barTake_vf hb a ▸ hmove)]
    · rw [configWrite_memEnable false hstep hv hreset, memEnablePut, if_neg hfrozen, hon]
      rfl

end Sys2Proof.Machine

namespace Sys2Proof.Machine

/-! PROOF. FORK and register lending: what the frame runs once nothing holds the wave (R57 to R59, R63, R270, R301, R494). -/

theorem poison_of_plainWave {s : State} {wv : Wave} (h : plainWave s wv = true) : wv.poison = [] := by
  simp only [plainWave, Bool.and_eq_true, decide_eq_true_eq] at h
  exact h.2

theorem forkWaits_eq_false {s : State} {w : Nat} {wv : Wave} (hrel : releaseWaits s w wv s.nextId 3 false = false)
    (hheld : forkHeld s wv.vale wv.vd = false) : forkWaits s w wv = false := by
  rw [forkWaits, hrel, hheld, Bool.or_self]

/-- Settles O35: nothing holds the FORK, so its operation goes past the check of its job and the wait for earlier accesses. -/
theorem fork : Obligations.Fork := by
  refine fun o => ⟨fun s w wv hrun hplain hopen => ?suspend, fun s w wv hrun hplain hopen => ?detach⟩
  case suspend =>
    simp only [Bool.and_eq_true, Bool.not_eq_true', Option.isNone_iff_eq_none] at hopen
    obtain ⟨⟨hstate, hrel⟩, hheld⟩ := hopen
    change execForkSuspend o s = _
    rw [execForkSuspend, runOnce_clean _ _ hrun (poison_of_plainWave hplain), hstate]
    simp only [forkWaits_eq_false hrel hheld, Bool.false_eq_true, if_false, Wave.scal64]
  case detach =>
    simp only [Bool.and_eq_true, Bool.not_eq_true', Option.isNone_iff_eq_none] at hopen
    obtain ⟨⟨⟨hstate, hrel⟩, hheld⟩, hcard⟩ := hopen
    change execForkDetach o s = _
    rw [execForkDetach, runOnce_clean _ _ hrun (poison_of_plainWave hplain), hstate]
    simp only [forkWaits_eq_false hrel hheld, Bool.false_eq_true, if_false, Wave.scal64]
    rcases hread : forkCard s w wv (wv.rd64 o.a 0) with ⟨t, card | fault | ask⟩
    · rfl
    · simp [hread] at hcard
    · simp [hread] at hcard

/-- Settles O40: RGIVE and RTAKE each fault on a count they may not have, and otherwise give or queue. -/
theorem registerLending : Obligations.RegisterLending := by
  intro o
  refine ⟨fun s w wv hrun _ hgive => ?give, fun s w wv hrun _ hbad => ?giveFault, fun s w wv hrun _ htake => ?take,
    fun s w wv hrun _ hbad => ?takeFault⟩
  case give =>
    simp only [Bool.and_eq_true, Bool.not_eq_true', decide_eq_true_eq] at hgive
    obtain ⟨⟨⟨hzero, hmax⟩, hheld⟩, hwrites⟩ := hgive
    change execRgive o s = _
    rw [execRgive, runWave_runsNow _ hrun]
    simp [hzero, hmax.not_gt, hheld.not_ge, hwrites]
  case giveFault =>
    change execRgive o s = _
    rw [execRgive, runWave_runsNow _ hrun]
    exact congrArg _ (if_pos hbad)
  case take =>
    simp only [Bool.and_eq_true, decide_eq_true_eq] at htake
    obtain ⟨⟨hzero, hmax⟩, hroom⟩ := htake
    change execRtake o s = _
    rw [execRtake, runWave_runsNow _ hrun]
    simp [hzero, hmax.not_gt, hroom.not_gt, State.fresh]
  case takeFault =>
    change execRtake o s = _
    rw [execRtake, runWave_runsNow _ hrun]
    exact congrArg _ (if_pos hbad)

end Sys2Proof.Machine

namespace Sys2Proof.Machine

/-! PROOF. The events of queues and cards (R53, R381, R386, R389, R390, R530, R531). -/

/-- R390: where a card with a prologue gets its deadline, the visit ends. -/
theorem cardReady_fetched {vale vd q : Nat} {s : State} {d : Vd} {plug : Option PluginAnswer} (hissue : vdIssues s vale vd = true)
    (hvisit : visitWaits s vale vd q = false) (hcol : colWaits s vale vd q (s.queue? vale vd q).number = false)
    (hstage : (s.queue? vale vd q).stage = .fetched plug) (hd : s.vd? vale vd = some d) (hanswered : (plug.isSome || d.plugin.isNone) = true)
    (htod : qParkUntil s vale vd q ≤ s.tod.toNat) (hstart : mayStart s (s.queue? vale vd q) (s.queue? vale vd q).card = true)
    (hflag : cardFlag (s.queue? vale vd q).card 4 = true) : exec (.cardReady vale vd q) s = .next (fixDeadline s vale vd q) := by
  change execCardReady vale vd q s = _
  simp only [execCardReady, hissue, hvisit, hcol, hstage, hd, Option.map_some, Option.getD_some, hanswered, decide_eq_false htod.not_gt, hstart,
    hflag, Bool.not_true, Bool.or_false, Bool.false_eq_true, if_false, if_true]
  split <;> rfl

/-- Settles O48: each event's guards let it through, and what is left of it is its effect. -/
theorem queueEvents : Obligations.QueueEvents := by
  refine fun vale vd q s => ⟨fun t u avail h hq hissue hstage hvisit hro hraw hvalid hpost hcard hstart => ?fetch,
    fun d ans hd hstage hplug hissue hwait => ?plugin, fun hvd htod => ?expiry,
    fun dl hstage hflag hissue hfree hfence => ?prologue,
    fun hissue hvisit hcol => ⟨fun dl hstage hflag => ?ready,
      fun d plug hstage hd hasked htod hstart hflag => cardReady_fetched hissue hvisit hcol hstage hd (by simpa using hasked) htod hstart hflag,
      fun dl w wv hstage hw hended => ?ended⟩⟩
  case fetch =>
    change execFetchCard vale vd q s = _
    simp [execFetchCard, hq.not_ge, hissue, hstage, hvisit, hro, hraw, hvalid, hpost, hcard, hstart]
  case plugin =>
    change execPluginInvocation vale vd q ans s = _
    cases ans <;> simp [execPluginInvocation, hd, hstage, Option.isSome_iff_ne_none.mp hplug, hissue, hwait]
  case expiry =>
    change execParkuntilExpiry vale vd q s = _
    rw [execParkuntilExpiry, hvd, decide_eq_true htod]
    rfl
  case prologue =>
    have hidle : s.waves.any (fun e => decide (e.2.kind = .prologue) && decide (e.2.vale = vale)) = false := by simpa using hfree
    change execPrologueStart vale vd q s = _
    simp only [execPrologueStart, hstage, hflag, hidle, hfence, hissue, Option.getD_some]
    rfl
  case ready =>
    change execCardReady vale vd q s = _
    simp [execCardReady, hissue, hvisit, hcol, hstage, hflag]
  case ended =>
    change execCardReady vale vd q s = _
    simp [execCardReady, hissue, hvisit, hcol, hstage, hw, hended]

end Sys2Proof.Machine

namespace Sys2Proof.Machine

/-! PROOF. The events of jobs and tasks (R49 to R52, R55, R133, R353 to R356, R363, R391, R394, R398). -/

/-! ## Jobs and their tasks -/

theorem State.modJob_congr {s : State} {job : Nat} {f g : Job → Job} (h : ∀ j, Tbl.get s.jobs job = some j → f j = g j) :
    s.modJob job f = s.modJob job g := by
  simp only [State.modJob, Tbl.modify]
  split
  · rfl
  · rename_i j hj
    rw [h j hj]

theorem orderedOf_of_job {s : State} {job : Nat} {j : Job} {o : Ordered} (hj : Tbl.get s.jobs job = some j) (ho : j.ord = some o) :
    orderedOf s job = some o := by
  rw [orderedOf, hj]
  exact ho

theorem orderedOf_addTask (s : State) (job : Nat) (t : Task) :
    orderedOf (addTask s job t) job = (orderedOf s job).map (fun o => { o with tasks := Tbl.set o.tasks o.seqNext t, seqNext := o.seqNext + 1 }) := by
  simp only [orderedOf, addTask, State.modJob, Tbl.get_modify_same]
  cases Tbl.get s.jobs job <;> rfl

/-- R354: a task more leaves the number of the job's next root record. -/
theorem rootNext_addTask {s : State} {job : Nat} {t : Task} {o' : Ordered} (o : Ordered) (h : orderedOf (addTask s job t) job = some o') :
    ((orderedOf s job).getD o).rootNext = o'.rootNext := by
  rw [orderedOf_addTask] at h
  obtain ⟨old, hold, rfl⟩ := Option.map_eq_some_iff.mp h
  rw [hold]
  rfl

/-- R355: TASK_ADMIT with a free entry and an open gate comes to the admission of the root record it has read. -/
theorem taskAdmit_reads {s t : State} {job glen : Nat} {j : Job} {v : Vale} {o : Ordered} (hj : Tbl.get s.jobs job = some j)
    (hv : s.vale? j.vale = some v) (ho : j.ord = some o) (hlo : v.first ≤ glen) (hhi : glen < v.first + v.n)
    (hissue : vdIssues s j.vale j.vd = true) (hstuck : o.stuck = false) (hleft : o.rootNext < cardRecords j.card)
    (hwalk : walkWaits s none j.vale j.vd (rootVa j o.rootNext) .load = false) (hfree : entryFree (rootFetch s job j o false) j.vale = true)
    (hseq : o.seqNext < 4294967295) (hgate : gateOpen (rootFetch s job j o false) job o.rootNext = (t, true))
    (hroot : rootWaits t j o.rootNext = false) :
    let u := rootTouch (rootFetch t job j ((orderedOf t job).getD o) true) j o.rootNext
    exec (.taskAdmit job glen) s = .next (admitRoot u job j ((orderedOf u job).getD o)) := by
  change execTaskAdmit job glen s = _
  simp [execTaskAdmit, hj, hv, ho, hlo, hhi, hissue, hstuck, hleft.not_ge, hwalk, hfree, hseq.not_ge, hgate, hroot]

/-! ## Carve-outs -/

/-- R133: a conversion that nothing on the core holds up ends. -/
theorem endConversion_clear {s : State} {core k : Nat} (hk : (s.core? core).convert = some k)
    (hgrow : (s.core? core).stashKib < k → waysBusy s core (l1Ways (s.core? core)) = false)
    (hshrink : k < (s.core? core).stashKib → ∀ e ∈ blocksOn s core, e.2.stashBase + e.2.stashKib ≤ k)
    (hcarve : ∀ e ∈ blocksOn s core, cardField (s.cardOf e.2.job) 0x70 2 0 = 0) :
    endConversion s core = s.modCore core (fun c =>
      { c with stashKib := k, convert := none, l1 := c.l1.filter (fun e => decide (e.way < l1Ways (s.core? core))) }) := by
  simp only [endConversion, hk]
  refine (if_neg ?_).trans rfl
  simp only [Bool.or_eq_true, Bool.and_eq_true, decide_eq_true_eq, List.any_eq_true, Bool.not_eq_true', List.all_eq_false]
  rintro ((⟨e, he, hrequired⟩ | ⟨hlt, hbusy⟩) | ⟨hlt, e, he, hrow⟩)
  · exact hrequired (hcarve e he)
  · exact Bool.false_ne_true ((hgrow hlt).symm.trans hbusy)
  · exact hrow (hshrink hlt e he)

/-! ## Settling O49 -/

/-- Settles O49: each event's guards let it through; what TASK_ADMIT comes to is what its root record gave. -/
theorem jobEvents : Obligations.JobEvents := by
  refine ⟨fun job s j hj => ⟨fun glen t cores hissue hord hleft hgate hsaved hoffer hbest hslot => ?deal,
      fun slot c t hc hready hfirst hgates => ?round, fun d hd hstop hroll hcut hhalt hover hcol => ?retire⟩,
    fun core k s hk hgrow hshrink hcarve => congrArg Host.Outcome.next (endConversion_clear hk hgrow hshrink hcarve),
    fun vale vd s d hd => ⟨fun hen htod => ?period, fun hnot => ?early⟩, fun vale vd s => rfl, fun ch s => rfl,
    fun job s j v o hj hv ho => ⟨fun glen t hlo hhi hissue hstuck hleft hwalk hfree hseq hgate hroot => ?admission,
      fun core q t hq hcore hissue hfits hsets hsaved ht => ?place,
      fun q t hq ht hserved hfront hlock => ⟨fun hdone => ?commit, fun b hdone hst hfault => ?irrevocable⟩⟩⟩
  case deal =>
    change execDealChunk job glen s = _
    simp [execDealChunk, hj, hissue, hord, hleft.not_ge, hgate, hsaved, hoffer, hbest, hslot, State.fresh]
  case round =>
    have hturn : (c.round.isNone && (savedFits s job c.glen || decide (firstOffer s j.vale c.glen ≠ some job))) = false := by
      rcases hfirst with hround | ⟨hsaved, hoffer⟩
      · simp [hround]
      · simp [hsaved, hoffer]
    change execPlaceRound job slot s = _
    simp only [execPlaceRound, hj, hc, hready, hturn, hgates, State.fresh]
    rfl
  case retire =>
    change execJobRetire job s = _
    simp [execJobRetire, hj, hd, hstop, hroll, hcut, hhalt, hover, hcol]
  case period =>
    change execPeriodBoundary vale vd s = _
    simp [execPeriodBoundary, hd, hen, htod.not_gt]
  case early =>
    change execPeriodBoundary vale vd s = _
    simp only [execPeriodBoundary, hd]
    exact congrArg _ (if_pos (by simpa using hnot))
  case admission =>
    have hreads := taskAdmit_reads hj hv ho hlo hhi hissue hstuck hleft hwalk hfree hseq hgate hroot
    refine ⟨fun x hx => ?value, fun hlater => ?later, fun hfailed => ?failed⟩
    case value =>
      simp only [hreads, admitRoot, hx]
      refine congrArg _ (State.modJob_congr fun y hy => ?_)
      rcases hord : y.ord with _ | o'
      · rfl
      · rw [Option.map_some, Option.map_some, rootNext_addTask o (orderedOf_of_job hy hord)]
    case later => rw [hreads, admitRoot, hlater]
    case failed => rw [hreads, admitRoot, hfailed]
  case place =>
    have hfitsHere : taskFits s j core = true := by simp [taskFits, hfits, hsets]
    have hroom : (coresOf v).any (taskFits s j) = true := List.any_eq_true.mpr ⟨core, List.contains_iff_mem.mp hcore, hfitsHere⟩
    change execTaskPlace job core s = _
    simp only [execTaskPlace, hj, hv, ho, hq, hcore, hissue, hsaved, hroom, hfitsHere, orderedOf_of_job hj ho, ht, State.fresh, Option.bind_some,
      Bool.not_true, Bool.or_false, Bool.and_false, Bool.false_eq_true, if_false]
  case commit =>
    change execTaskCommit job s = _
    simp [execTaskCommit, orderedOf_of_job hj ho, hq, ht, hj, hserved, hfront, hlock, hdone]
  case irrevocable =>
    change execTaskCommit job s = _
    simp [execTaskCommit, orderedOf_of_job hj ho, hq, ht, hj, hserved, hfront, hlock, hdone, hst, hfault]

end Sys2Proof.Machine

namespace Sys2Proof.Machine

/-! PROOF. Where a saved block is placed again (R393), and the events of saves, cuts and rollbacks (R57, R371, R395, R399, R404 to R409, R534). -/

/-! ## Glens and cores of a vale -/

/-- A choice that keeps what it has or takes the element it looks at ends with an element of its list. -/
theorem mem_of_foldl_choice {α : Type} {f : Option α → α → Option α} (hf : ∀ b a, f b a = b ∨ f b a = some a) {l : List α} {b : Option α}
    {x : α} (h : l.foldl f b = some x) : b = some x ∨ x ∈ l := by
  induction l generalizing b with
  | nil => exact .inl h
  | cons a l ih =>
    rcases ih h with hx | hx
    · rcases hf b a with hkeep | htake
      · exact .inl (hkeep ▸ hx)
      · rw [htake] at hx
        cases hx
        exact .inr List.mem_cons_self
    · exact .inr (List.mem_cons_of_mem a hx)

theorem mem_of_pickCore {s : State} {cs : List Nat} {c : Nat} (h : pickCore s cs = some c) : c ∈ cs := by
  refine (mem_of_foldl_choice (fun b a => ?_) h).resolve_left (by simp)
  cases b with
  | none => exact .inr rfl
  | some x => exact (ite_eq_or_eq _ _ _).symm

/-- R393: the glen work goes to is one of its vale's. -/
theorem mem_of_bestGlen {s : State} {vale g : Nat} {v : Vale} {fits : Nat → Bool} (hv : s.vale? vale = some v)
    (h : bestGlen s vale fits = some g) : g ∈ natsFrom v.first v.n := by
  rw [bestGlen, hv] at h
  refine (List.mem_filter.mp ((mem_of_foldl_choice (fun b a => ?_) h).resolve_left (by simp))).1
  cases b with
  | none => exact .inr rfl
  | some x => exact (ite_eq_or_eq _ _ _).symm

/-- R393: the first of some saved blocks to be placed in a glen takes one of the glen's cores, so the core is no launch scalar unit. -/
theorem glenOfCore_of_membersFit {s : State} {ms : List (Nat × Block)} {core : Nat} {places : List (Nat × Nat)}
    (h : membersFit s ms (glenOfCore core) = some places) (hms : ms ≠ []) (hhead : (places.map (fun p => p.2)).headD core = core) :
    glenOfCore core = core / 16 := by
  cases ms with
  | nil => exact absurd rfl hms
  | cons e ms =>
    rw [membersFit] at h
    split at h
    · rw [assignCores] at h
      split at h
      · cases h
      · rename_i c hc
        obtain ⟨r, -, rfl⟩ := Option.map_eq_some_iff.mp h
        cases (show c = core from hhead)
        have hmem := mem_natsFrom.mp (List.mem_filter.mp (mem_of_pickCore hc)).1
        omega
    · cases h

/-- R393: saved blocks that are placed from a core of their vale on, in the glen best for them, fit a glen of the vale as it stood before
their gates were tested. Without saved blocks no gate is tested; with them the core's glen is the vale's. -/
theorem some_glen_fits {s t : State} {b : Block} {v : Vale} {core : Nat} {places : List (Nat × Nat)} (hv : s.vale? b.vale = some v)
    (hcore : (coresOf v).contains core = true) (hgates : gatesOpen b.job (savedGates s (savedMembers s b)) s = (t, true))
    (hfit : membersFit t (savedMembers s b) (glenOfCore core) = some places) (hhead : (places.map (fun p => p.2)).headD core = core)
    (hbest : bestGlen t b.vale (fun g => (membersFit t (savedMembers s b) g).isSome) = some (glenOfCore core)) :
    (natsFrom v.first v.n).any (fun g => (membersFit t (savedMembers s b) g).isSome) = true := by
  refine List.any_eq_true.mpr ⟨glenOfCore core, ?_, Option.isSome_of_eq_some hfit⟩
  by_cases hms : savedMembers s b = []
  · rw [hms] at hgates
    cases hgates
    exact mem_of_bestGlen hv hbest
  · have hrange := mem_natsFrom.mp (List.contains_iff_mem.mp hcore)
    rw [glenOfCore_of_membersFit hfit hms hhead, mem_natsFrom]
    omega

/-! ## Settling O50 -/

theorem find?_faultDue_eq_none {s : State} {bs : List (Nat × Block)} (h : ∀ e ∈ bs, ∀ x ∈ liveWaves s e.2, faultDue x.2 = false) :
    (bs.flatMap (fun e => liveWaves s e.2)).find? (fun e => faultDue e.2) = none := by
  refine List.find?_eq_none.mpr fun x hx => ?_
  obtain ⟨e, he, hlive⟩ := List.mem_flatMap.mp hx
  rw [h e he x hlive]
  exact Bool.false_ne_true

/-- R399: a group of blocks that have drained, each with a live wave, is saved. -/
theorem blockSaveDone_saves {blk : Nat} {s : State} {b : Block} {d : Vd} (hb : Tbl.get s.blocks blk = some b) (hd : s.vd? b.vale b.vd = some d)
    (hcut : d.cut = none) (hstop : d.stopped = false) (hroll : d.rolling = false) (hhalt : s.halted = false) (hms : saveGroup s blk b ≠ [])
    (hclock : s.clock = none) (hfront : frontierOf s b = none) (hdrained : ∀ e ∈ saveGroup s blk b, saveDrained s e.1 e.2 = true ∧
      rowsBackWait s e.2 = false ∧ saveHeld s e.2 = false ∧ liveWaves s e.2 ≠ [] ∧ ∀ x ∈ liveWaves s e.2, faultDue x.2 = false) :
    exec (.blockSaveDone blk) s = .next ((saveGroup s blk b).foldl (fun s e => finishSave s e.1) s) := by
  have hall : (saveGroup s blk b).all (fun e => saveDrained s e.1 e.2 && !rowsBackWait s e.2 && !saveHeld s e.2) = true := by
    refine List.all_eq_true.mpr fun e he => ?_
    obtain ⟨hdone, hrows, hplace, -, -⟩ := hdrained e he
    simp [hdone, hrows, hplace]
  have hdue : ∀ e ∈ saveGroup s blk b, ∀ x ∈ liveWaves s e.2, faultDue x.2 = false := by
    intro e he
    obtain ⟨-, -, -, -, hquiet⟩ := hdrained e he
    exact hquiet
  have hlive : (saveGroup s blk b).find? (fun e => decide (liveWaves s e.2 = [])) = none := by
    refine List.find?_eq_none.mpr fun e he => ?_
    obtain ⟨-, -, -, hlives, -⟩ := hdrained e he
    simp [hlives]
  change execBlockSaveDone blk s = _
  simp [execBlockSaveDone, hb, hms, hd, hcut, hstop, hroll, hhalt, hclock, hall, hfront, find?_faultDue_eq_none hdue, hlive]

/-- Settles O50: each event's guards let it through; a block that is placed again has a glen of its vale that fits. -/
theorem saveEvents : Obligations.SaveEvents := by
  refine ⟨fun blk s b hb => ⟨fun a ctr target v t hst hheld hread => ?wake,
      fun fork d _ hd hcut hstop hroll hhalt hms hclock hfront hdrained =>
        blockSaveDone_saves hb hd hcut hstop hroll hhalt hms hclock hfront hdrained, fun fork hst htime hserved => ?drain,
      fun core v t places j hv hslot hissue hcore hgates hfit hhead hoffer hbest hj => ?resume⟩,
    fun vale vd s v d hv hd => ⟨fun c hc => ⟨fun hhalted hcount hstop hroll => ?halt, fun hearly => ?early,
      fun hhalted hstop hhalt hdrained hrows hback hfront hdue => ?complete, fun hswitch hstop htime => ?late,
      fun hswitch htime => ?switch⟩, fun im t him hroll hstop hhalt howed hmoved hundo => ?rollback⟩⟩
  case wake =>
    change execSuspendWake blk s = _
    simp [execSuspendWake, hb, hst, hheld, hread]
  case drain =>
    change execSaveDrainTimeout blk s = _
    simp [execSaveDrainTimeout, hb, hst, htime.not_gt, hserved]
  case resume =>
    have hany := some_glen_fits hv hcore hgates hfit hhead hbest
    change execBlockResume blk core s = _
    simp only [execBlockResume, hb, hv, hslot, hissue, hcore, hgates, hany, hfit, hhead, hoffer, hbest, resumeOn, hj, ne_eq, not_true_eq_false,
      decide_false, Bool.not_true, Bool.or_self, Bool.false_eq_true, if_false]
  case halt =>
    change Host.Outcome.next (haltCut s vale vd) = _
    simp [haltCut, hd, cutDue, hc, hhalted, hcount, hstop, hroll]
  case early =>
    change Host.Outcome.next (haltCut s vale vd) = _
    simp [haltCut, hd, cutDue, hc, hearly.not_ge]
  case complete =>
    have hrowsBack : (coreBlocks s vale vd).any (fun e => rowsBackWait s e.2) = false := by simpa using hback
    change execCutComplete vale vd s = _
    simp [execCutComplete, hv, hd, hc, hhalted, hstop, hhalt, hdrained, hrows, hrowsBack, hfront, find?_faultDue_eq_none hdue]
  case late =>
    change execCutTimeout vale vd s = _
    simp [execCutTimeout, hd, hc, hswitch, hstop, htime.not_gt]
  case switch =>
    change execSwitchoutCutTimeout vale vd s = _
    simp [execSwitchoutCutTimeout, hd, hc, hswitch, htime.not_gt]
  case rollback =>
    have hmoving : s.migrations.any (fun m => decide (m.2.vale = vale) && decide (m.2.vd = vd)) = false := by simpa using hmoved
    change execRollbackDone vale vd s = _
    cases hrec : d.rollRec <;> simp [execRollbackDone, hv, hd, him, hroll, hstop, hmoving, hhalt, howed, hundo, hrec]

end Sys2Proof.Machine

namespace Sys2Proof.Machine

/-! PROOF. Rounding a value that a format represents (R75, R76, R84). The value of a finite pattern is n times 2 to some e, where n fills
the significand or e is the format's least; the unit of the last place that rounding chooses for it is 2 to that e, so nothing is cut off. -/

/-- An exact multiple of the denominator rounds to its quotient in every mode. -/
theorem roundNat_mul_self (neg : Bool) (n : Nat) {den : Nat} (hden : 0 < den) (mode : RMode) :
    roundNat neg (n * den) den mode = n := by
  cases mode <;> simp [roundNat, Nat.mul_div_cancel _ hden, hden.ne]

/-- Both branches of Val.scaled as one fraction: one of the two powers is 1. -/
theorem scaled_eq_fin (neg : Bool) (m : Nat) (e : Int) :
    Val.scaled neg m e = .fin neg (m * 2 ^ e.toNat) (2 ^ (-e).toNat) := by
  by_cases he : 0 ≤ e
  · simp [Val.scaled, he, Int.toNat_of_nonpos (Int.neg_nonpos_of_nonneg he)]
  · simp [Val.scaled, he, Int.toNat_of_nonpos (not_le.mp he).le]

theorem log2_mul_two_pow {n : Nat} (hn : n ≠ 0) (k : Nat) : (n * 2 ^ k).log2 = n.log2 + k := by
  induction k with
  | zero => simp
  | succ k ih => rw [Nat.pow_succ', Nat.mul_left_comm, Nat.log2_two_mul (by positivity), ih, Nat.add_assoc]

/-- The leading bit of n times 2 to the e stands e places above that of n. -/
theorem log2Frac_scaled {n : Nat} (hn : n ≠ 0) (e : Int) :
    log2Frac (n * 2 ^ e.toNat) (2 ^ (-e).toNat) = n.log2 + e := by
  have hlead : 2 ^ n.log2 ≤ n := Nat.log2_self_le hn
  have hnum : (n * 2 ^ e.toNat).log2 = n.log2 + e.toNat := log2_mul_two_pow hn _
  have hfloor : ((n.log2 + e.toNat : Nat) : Int) - ((-e).toNat : Nat) = n.log2 + e := by omega
  rw [log2Frac, hnum, Nat.log2_two_pow, hfloor]
  by_cases ha : 0 ≤ (n.log2 : Int) + e
  · have hle : 2 ^ (-e).toNat * 2 ^ ((n.log2 : Int) + e).toNat ≤ n * 2 ^ e.toNat := calc
      _ = 2 ^ n.log2 * 2 ^ e.toNat := by rw [← Nat.pow_add, ← Nat.pow_add]; congr 1; omega
      _ ≤ _ := Nat.mul_le_mul_right _ hlead
    simp [ha, hle]
  · have hle : 2 ^ (-e).toNat ≤ n * 2 ^ e.toNat * 2 ^ (-((n.log2 : Int) + e)).toNat := calc
      _ = 2 ^ n.log2 * 2 ^ e.toNat * 2 ^ (-((n.log2 : Int) + e)).toNat := by
        rw [← Nat.pow_add, ← Nat.pow_add]; congr 1; omega
      _ ≤ _ := Nat.mul_le_mul_right _ (Nat.mul_le_mul_right _ hlead)
    simp [ha, -neg_add_rev, hle]

/-- The binade t steps above the least exponent of f holds n units exactly: a full significand, or any in the lowest binade (R76). -/
theorem roundMag_scaled {f : Fmt} {n t : Nat} (hn : n ≠ 0) (hfit : n < 2 ^ (f.fw + 1)) (hfull : 2 ^ f.fw ≤ n ∨ t = 0)
    {e : Int} (he : e = t + 1 - f.bias - f.fw) (neg : Bool) (mode : RMode) :
    roundMag f neg (n * 2 ^ e.toNat) (2 ^ (-e).toNat) mode = t * 2 ^ f.fw + n := by
  have hbinade : (if (n.log2 : Int) + e < 1 - f.bias then 1 - (f.bias : Int) else n.log2 + e) = e + f.fw := by
    have hupper : n.log2 < f.fw + 1 := (Nat.log2_lt hn).mpr hfit
    rcases hfull with hfull | hlowest
    · have hlower : f.fw ≤ n.log2 := (Nat.le_log2 hn).mpr hfull
      split <;> omega
    · split <;> omega
  have hstep : (e + f.fw - (1 - (f.bias : Int))).toNat = t := by omega
  have hexact : (if 0 ≤ e then roundNat neg (n * 2 ^ e.toNat) (2 ^ (-e).toNat * 2 ^ e.toNat) mode
      else roundNat neg (n * 2 ^ e.toNat * 2 ^ (-e).toNat) (2 ^ (-e).toNat) mode) = n := by
    split
    case isTrue h =>
      rw [Int.toNat_of_nonpos (Int.neg_nonpos_of_nonneg h), Nat.pow_zero, Nat.one_mul]
      exact roundNat_mul_self neg n (Nat.two_pow_pos _) mode
    case isFalse h =>
      rw [Int.toNat_of_nonpos (not_le.mp h).le, Nat.pow_zero, Nat.mul_one]
      exact roundNat_mul_self neg n (Nat.two_pow_pos _) mode
  simp only [roundMag, log2Frac_scaled hn, hbinade, add_sub_cancel_right, hstep, hexact]

/-- A finite value with n units of a binade of f gives the pattern that counts them. -/
theorem rne_scaled {f : Fmt} {n t : Nat} (hfit : n < 2 ^ (f.fw + 1)) (hfull : 2 ^ f.fw ≤ n ∨ t = 0)
    (hmax : t * 2 ^ f.fw + n ≤ f.maxFin) {e : Int} (he : e = t + 1 - f.bias - f.fw) (neg : Bool) :
    rne f (Val.scaled neg n e) = (if neg then f.signBit else 0) + (t * 2 ^ f.fw + n) := by
  rw [scaled_eq_fin]
  by_cases hn : n = 0
  · have hpos : 0 < 2 ^ f.fw := Nat.two_pow_pos _
    have ht : t = 0 := hfull.resolve_left (by omega)
    simp [rne, convertF, hn, ht]
  · simp [rne, convertF, hn, roundMag_scaled hn hfit hfull he, hmax]

/-- The exponent field of a pattern (R75). -/
def Fmt.expField (f : Fmt) (p : Nat) : Nat := bitsOf p (f.ew + f.fw - 1) f.fw

/-- The formats of R75 that keep the top exponent for infinity and the NaNs, and whose overflow goes to infinity (R84). -/
structure Fmt.HasInf (f : Fmt) : Prop where
  wide : 2 < f.ew
  inf : f.infPat = some ((2 ^ f.ew - 1) * 2 ^ f.fw)
  maxFin : f.maxFin + 1 = (2 ^ f.ew - 1) * 2 ^ f.fw

/-- FP32, FP16 and BF16 are such formats (R75). -/
theorem hasInf_of_mem {f : Fmt} (hf : f ∈ [fp32, fp16, bf16]) : f.HasInf := by
  simp only [List.mem_cons, List.not_mem_nil, or_false] at hf
  rcases hf with rfl | rfl | rfl <;> exact ⟨by decide, by decide, by decide⟩

section
variable {f : Fmt} (hf : f.HasInf) (p : Nat)
include hf

theorem expField_eq : f.expField p = p / 2 ^ f.fw % 2 ^ f.ew := by
  have hwide := hf.wide
  rw [Fmt.expField, bitsOf, Nat.shiftRight_eq_div_pow]
  congr 2
  omega

theorem expField_le : f.expField p ≤ 2 ^ f.ew - 1 := by
  rw [expField_eq hf]
  exact Nat.le_sub_one_of_lt (Nat.mod_lt _ (Nat.two_pow_pos _))

variable {p}

/-- A pattern is its sign bit, its exponent field and its fraction put together. -/
theorem fields_recompose (hp : p < 2 ^ (1 + f.ew + f.fw)) :
    (if bitOf p (f.ew + f.fw) then f.signBit else 0) + (f.expField p * 2 ^ f.fw + p % 2 ^ f.fw) = p := by
  have hlow : f.expField p * 2 ^ f.fw + p % 2 ^ f.fw = p % 2 ^ (f.ew + f.fw) := by
    rw [expField_eq hf, Nat.add_comm f.ew, Nat.pow_add, Nat.mod_mul, Nat.mul_comm, Nat.add_comm]
  have htop : p / 2 ^ (f.ew + f.fw) < 2 := by
    rw [Nat.div_lt_iff_lt_mul (Nat.two_pow_pos _), ← Nat.pow_succ']
    convert hp using 2
    omega
  have hsign : (if bitOf p (f.ew + f.fw) then f.signBit else 0) = 2 ^ (f.ew + f.fw) * (p / 2 ^ (f.ew + f.fw)) := by
    rw [bitOf, Nat.shiftRight_eq_div_pow, Nat.mod_eq_of_lt htop, Fmt.signBit]
    generalize p / 2 ^ (f.ew + f.fw) = top at htop ⊢
    interval_cases top <;> simp
  rw [hlow, hsign, Nat.div_add_mod]

/-- The top exponent: an infinity, where the pattern is no NaN (R75). -/
theorem valOf_top (htop : f.expField p = 2 ^ f.ew - 1) (hnan : (valOf f p).isNan = false) :
    p % 2 ^ f.fw = 0 ∧ valOf f p = .inf (bitOf p (f.ew + f.fw)) := by
  by_cases hfrac : p % 2 ^ f.fw = 0
  · exact ⟨hfrac, by simp_all [valOf, Fmt.expField, hf.inf]⟩
  · simp_all [valOf, Fmt.expField, hf.inf, Val.isNan]

/-- Exponent field 0: a subnormal value or a zero (R76). -/
theorem valOf_subnormal (hzero : f.expField p = 0) :
    valOf f p = Val.scaled (bitOf p (f.ew + f.fw)) (p % 2 ^ f.fw) (1 - (f.bias : Int) - f.fw) := by
  have hwide := hf.wide
  have htop : 2 ^ f.ew - 1 ≠ 0 := Nat.sub_ne_zero_of_lt (Nat.one_lt_two_pow (by omega))
  unfold Fmt.expField at hzero
  simp [valOf, hf.inf, hzero, htop.symm]

/-- Any other exponent field below the top: a normal value (R76). -/
theorem valOf_normal (hzero : f.expField p ≠ 0) (htop : f.expField p ≠ 2 ^ f.ew - 1) :
    valOf f p = Val.scaled (bitOf p (f.ew + f.fw)) (p % 2 ^ f.fw + 2 ^ f.fw) ((f.expField p : Int) - f.bias - f.fw) := by
  unfold Fmt.expField at hzero htop ⊢
  simp [valOf, hf.inf, hzero, htop]

theorem rne_inf (neg : Bool) : rne f (.inf neg) = (if neg then f.signBit else 0) + (2 ^ f.ew - 1) * 2 ^ f.fw := by
  have hwide : f.ew ≠ 2 := hf.wide.ne'
  cases neg <;> simp [rne, convertF, hwide, hf.inf]

theorem finite_le_maxFin (htop : f.expField p ≠ 2 ^ f.ew - 1) : f.expField p * 2 ^ f.fw + p % 2 ^ f.fw ≤ f.maxFin := by
  have hfrac : p % 2 ^ f.fw < 2 ^ f.fw := Nat.mod_lt _ (Nat.two_pow_pos _)
  have hbelow : f.expField p + 1 ≤ 2 ^ f.ew - 1 := lt_of_le_of_ne (expField_le hf p) htop
  have hmax := hf.maxFin
  have hmul := Nat.mul_le_mul_right (2 ^ f.fw) hbelow
  rw [Nat.add_mul, Nat.one_mul] at hmul
  omega

/-- Rounding the value of a pattern that is no NaN puts its fields together again. -/
theorem rne_valOf (hnan : (valOf f p).isNan = false) :
    rne f (valOf f p) = (if bitOf p (f.ew + f.fw) then f.signBit else 0) + (f.expField p * 2 ^ f.fw + p % 2 ^ f.fw) := by
  have hfrac : p % 2 ^ f.fw < 2 ^ f.fw := Nat.mod_lt _ (Nat.two_pow_pos _)
  have hdouble : 2 ^ (f.fw + 1) = 2 * 2 ^ f.fw := Nat.pow_succ'
  by_cases htop : f.expField p = 2 ^ f.ew - 1
  · obtain ⟨hfrac0, hinf⟩ := valOf_top hf htop hnan
    rw [hinf, rne_inf hf, hfrac0, htop, Nat.add_zero]
  have hmax := finite_le_maxFin hf htop
  by_cases hzero : f.expField p = 0
  · rw [valOf_subnormal hf hzero]
    rw [hzero] at hmax ⊢
    exact rne_scaled (by omega) (.inr rfl) hmax (by simp) _
  · obtain ⟨t, ht⟩ := Nat.exists_eq_succ_of_ne_zero hzero
    have hcarry : f.expField p * 2 ^ f.fw + p % 2 ^ f.fw = t * 2 ^ f.fw + (p % 2 ^ f.fw + 2 ^ f.fw) := by rw [ht, Nat.succ_mul]; omega
    rw [hcarry] at hmax ⊢
    rw [valOf_normal hf hzero htop]
    exact rne_scaled (by omega) (.inl (by omega)) hmax (by omega) _

end

/-- Settles O15: the value's binade is the one its exponent field names, so rounding cuts nothing off and the fields come back. -/
theorem roundingIsExact : Obligations.RoundingIsExact := by
  intro f hmem p hp hnan
  have hf := hasInf_of_mem hmem
  rw [rne_valOf hf hnan, fields_recompose hf hp]

end Sys2Proof.Machine

namespace Sys2Proof.Machine

/-! ## Reset (R123, R438, R440) -/

/-- Settles O6: the state after reset lists no byte of memory. -/
theorem resetHasMemoryForm : Obligations.ResetHasMemoryForm := by
  unfold Obligations.ResetHasMemoryForm
  exact rfl

/-- Settles O54: each value is a field of the reset state as it is defined. -/
theorem resetValues : Obligations.ResetValues := by
  unfold Obligations.ResetValues
  exact ⟨fun _ => rfl, rfl, rfl, rfl, rfl, rfl, rfl, rfl, rfl, rfl, rfl, rfl, rfl, rfl, rfl, rfl, rfl, rfl, rfl, rfl, rfl, rfl, rfl, rfl, rfl,
    fun _ => ⟨rfl, rfl, rfl, rfl⟩⟩

/-- R440: a part that leaves reset in DECOMMISSIONED holds neither its root keys nor its certificates. -/
theorem resetMachine_decommissioned {s : State} (h : (resetMachine s).lifecycle = 4) :
    (resetMachine s).rootGone = true ∧ (resetMachine s).certSlots = 0 := by
  have hlc : nextLifecycle s = 4 := h
  simp [resetMachine, hlc]

/-- R427, R440: any other part keeps both, and the change from MANUFACTURE to PROVISIONED adds the identity certificate. -/
theorem resetMachine_keeps_keys {s : State} (h : (resetMachine s).lifecycle ≠ 4) :
    (resetMachine s).rootGone = s.rootGone ∧
      (resetMachine s).certSlots = (if s.lifecycle = 0 ∧ (resetMachine s).lifecycle = 1 then s.certSlots ||| 1 else s.certSlots) := by
  have hlc : nextLifecycle s ≠ 4#3 := h
  simp [resetMachine, hlc]

/-! ## Bring-up (R438) -/

/-- A fold of the glens changes no field that no change of one glen does. -/
theorem foldl_modGlen_keeps {β : Type} (field : State → β) (hfield : ∀ s g f, field (State.modGlen s g f) = field s) (l : List Nat)
    (f : Glen → Glen) (s : State) : field (l.foldl (fun s g => s.modGlen g f) s) = field s := by
  induction l generalizing s with
  | nil => rfl
  | cons g l ih => exact (ih _).trans (hfield s g f)

/-- Nor does the last step of bring-up, but for BOOTSTAT. -/
theorem bootReady_keeps {β : Type} (field : State → β) (hstat : ∀ s x, field { s with bootStat := x } = field s)
    (hfield : ∀ s g f, field (State.modGlen s g f) = field s) (s : State) : field (bootReady s) = field s := by
  rw [bootReady]
  exact (hstat _ _).trans (foldl_modGlen_keeps field hfield _ _ s)

theorem bootReady_mem (s : State) : (bootReady s).mem = s.mem := bootReady_keeps State.mem (fun _ _ => rfl) (fun _ _ _ => rfl) s

theorem bootReady_tod (s : State) : (bootReady s).tod = s.tod := bootReady_keeps State.tod (fun _ _ => rfl) (fun _ _ _ => rfl) s

theorem bootReady_bootStat (s : State) : (bootReady s).bootStat = 1 := by rw [bootReady]

theorem trainedOk_iff (width rate : BitVec 4) :
    trainedOk width rate = true ↔ width.toNat ∈ [1, 2, 4] ∧ 1 ≤ rate.toNat ∧ rate.toNat ≤ 6 := by
  simp [trainedOk, and_assoc]

/-- Training gives each pass link that it goes through its bit. -/
theorem get_foldl_trained (up : BitVec 36) {l : List Nat} {n : Nat} (h : n ∈ l) (t : Tbl Link) :
    ∃ x, Tbl.get (l.foldl (fun t n => Tbl.set t n { (Tbl.get t n).getD Link.fresh with up := up.getLsbD n }) t) n = some x ∧
      x.up = up.getLsbD n := by
  induction l using List.reverseRecOn with
  | nil => cases h
  | append_singleton l m ih =>
    rw [List.foldl_append, List.foldl_cons, List.foldl_nil]
    by_cases hm : n = m
    · subst hm
      exact ⟨_, Tbl.get_set_same _ _ _, rfl⟩
    · rw [Tbl.get_set_ne _ _ hm]
      exact ih ((List.mem_append.mp h).resolve_right (by simpa using hm))

theorem linkOf_trainLinks (s : State) (up : BitVec 36) {n : Nat} (h : n < 36) : (linkOf (trainLinks s up) (.pass n)).up = up.getLsbD n := by
  have hmem : n ∈ natsFrom 0 36 := mem_natsFrom.mpr (by omega)
  obtain ⟨x, hx, hup⟩ := get_foldl_trained up hmem s.passLinks
  simp only [linkOf, trainLinks, hx, Option.getD_some, hup]

section
variable {s : State} (hstat : s.bootStat = 0) (hhalt : s.halted = false)
include hstat hhalt

theorem bringUp_fail : exec (.bringUpStepDone .fail) s = .next { s with bootStat := 2, failStep := BitVec.ofNat 3 s.bootStep } := by
  change execBringUpStepDone .fail s = _
  simp [execBringUpStepDone, hstat, hhalt, bootFails]

theorem bringUp_rom (h : s.bootStep = 1) :
    exec (.bringUpStepDone .pass) s = .next { measure s 1 0 with identity := decide (s.lifecycle ≠ 4), bootStep := 2 } := by
  change execBringUpStepDone .pass s = _
  simp [execBringUpStepDone, hstat, hhalt, h, bootGoes, measure]

theorem bringUp_image_accepted (h : s.bootStep = 2) (hlc : s.lifecycle ≠ 4) (ha : imageAccepted s 1 = true) :
    exec (.bringUpStepDone .pass) s = .next { measure s 2 1 with bootStep := 3 } := by
  have hlc' : ¬ s.lifecycle = 4#3 := hlc
  change execBringUpStepDone .pass s = _
  simp [execBringUpStepDone, hstat, hhalt, h, hlc', ha, bootImages, bootGoes, measure]

theorem bringUp_image_refused (h : s.bootStep = 2) (hbad : s.lifecycle = 4 ∨ imageAccepted s 1 = false) :
    exec (.bringUpStepDone .pass) s = .next { s with bootStat := 2, failStep := 2 } := by
  have hfails : (if s.lifecycle = 4 then bootFails s else bootImages s [(1, 2)]) = bootFails s := by
    rcases hbad with hlc | ha
    · exact if_pos hlc
    · simp [bootImages, ha]
  change execBringUpStepDone .pass s = _
  simp only [execBringUpStepDone, hstat, hhalt, h, hfails]
  simp [bootFails, h, hhalt]

theorem bringUp_links (h : s.bootStep = 4) (up : BitVec 36) (width rate : BitVec 4) (fenced : List Nat) :
    exec (.bringUpStepDone (.links up width rate fenced)) s = .next (
      if width.toNat ∈ [1, 2, 4] ∧ 1 ≤ rate.toNat ∧ rate.toNat ≤ 6 then
        { fenced.foldl (fun s g => s.modGlen g (fun x => { x with st := 3 })) { trainLinks s up with hlWidth := width, hlRate := rate } with
          bootStep := 5 }
      else s) := by
  have hkeep := foldl_modGlen_keeps State.bootStep (fun _ _ _ => rfl) fenced (fun x => { x with st := 3 })
    { trainLinks s up with hlWidth := width, hlRate := rate }
  have hgoes (u : State) (hu : u.bootStep = 4) : bootGoes u = { u with bootStep := 5 } := by rw [bootGoes, hu]
  change execBringUpStepDone _ s = _
  rw [execBringUpStepDone, if_neg (by simp [hstat, hhalt]), if_neg (by simp)]
  simp only [← trainedOk_iff, ← hgoes _ (hkeep.trans h)]
  split <;> simp_all

theorem bringUp_tray (h : s.bootStep = 6) (id : BitVec 13) (hid : id.toNat < 4608) :
    exec (.bringUpStepDone (.tray id)) s = .next { s with pkgId := id, trayRead := true } := by
  change execBringUpStepDone _ s = _
  simp [execBringUpStepDone, hstat, hhalt, h, hid]

/-- R438: at step 6 the part becomes READY once the tray has been read and the time has been set. -/
theorem bringUp_last (h : s.bootStep = 6) :
    exec (.bringUpStepDone .pass) s = .next (if s.tsync = 0 ∨ s.trayRead = false then s else bootReady s) := by
  change execBringUpStepDone _ s = _
  unfold execBringUpStepDone
  rw [if_neg (by simp [hstat, hhalt]), if_neg (by simp), h]
  change Host.Outcome.next (if s.tsync = 0 || !s.trayRead then s else bootReady s) = _
  simp

end

theorem bringUp_halted {s : State} (h : s.halted = true) (r : BringUpResult) : exec (.bringUpStepDone r) s = .next s := by
  change execBringUpStepDone r s = _
  simp [execBringUpStepDone, h]

/-! ## Time (R439) -/

theorem ownMaster_iff (s : State) (own : Bool) : ownMaster s own = true ↔ own = true ∨ s.passUp = 0 ∨ s.pkgId = 0 := by
  simp [ownMaster, or_assoc]

theorem ownMaster_eq_false {s : State} {own : Bool} (ho : own = false) (hp : s.passUp ≠ 0) (hi : s.pkgId ≠ 0) : ownMaster s own = false := by
  rw [← Bool.not_eq_true, ownMaster_iff]
  simpa [ho] using And.intro hp hi

theorem timeSync_own {s : State} (n : DWord) {own : Bool} (ht : s.tsync = 0) (hs : s.bootStat = 0) (hb : s.bootStep = 6) (hr : s.trayRead = true)
    (ho : ownMaster s own = true) : exec (.timeSyncMessage n own) s = .next { s with tsync := 2 } := by
  change execTimeSyncMessage n own s = _
  simp [execTimeSyncMessage, ht, hs, hb, hr, ho]

theorem timeSync_steps {s : State} (n : DWord) {own : Bool} (ht : s.tsync = 0) (hs : s.bootStat = 0) (hb : s.bootStep = 6) (hr : s.trayRead = true)
    (ho : ownMaster s own = false) :
    exec (.timeSyncMessage n own) s = .next { s with tsync := 1, tod := n, timeMaster := n.toNat, compared := 0 } := by
  change execTimeSyncMessage n own s = _
  simp [execTimeSyncMessage, ht, hs, hb, hr, ho]

/-- An exchange after the first leaves the counter, and steers its rate where another package is the master. -/
theorem timeSync_later {s : State} (n : DWord) (own : Bool) (ht : s.tsync ≠ 0) : exec (.timeSyncMessage n own) s =
    .next (if s.tsync = 2 ∨ ownMaster s own = true then s else steered { s with tsync := 1, timeMaster := s.tod.toNat }) := by
  change execTimeSyncMessage n own s = _
  rw [execTimeSyncMessage, if_neg ht]
  simp

theorem steered_steer (s : State) : -50 ≤ (steered s).steer ∧ (steered s).steer ≤ 50 := by
  simp only [steered]
  omega

theorem timeMasterTimeout_holdover {s : State} (ht : s.tsync = 1) (hm : s.timeMaster + 600000000 ≤ s.tod.toNat) :
    exec .timeMasterTimeout s = .next { s with tsync := 3, timeMaster := s.tod.toNat } := by
  change execTimeMasterTimeout s = _
  simp [execTimeMasterTimeout, ht, hm.not_gt]

theorem holdoverExpiry_ends {s : State} (ht : s.tsync = 3) (hm : s.timeMaster + 6000000000 ≤ s.tod.toNat) :
    exec .holdoverExpiry s = .next { s with tsync := 2 } := by
  change execHoldoverExpiry s = _
  simp [execHoldoverExpiry, ht, hm]

/-! ## Lifecycle (R440) and limits (R443) -/

theorem lcAllowed_iff (a b : BitVec 3) :
    lcAllowed a b = true ↔ (a, b) ∈ [((0 : BitVec 3), (1 : BitVec 3)), (1, 2), (1, 4), (2, 3), (2, 4), (3, 1), (3, 4)] := by
  revert a b
  decide

theorem mmioOpen_eq_false {s : State} (h : s.bootStep < 4 ∨ s.bootStat = 2) : mmioOpen s = false := by
  rw [← Bool.not_eq_true, mmioOpen_iff]
  rcases h with h | h
  · exact fun hopen => absurd hopen.1 (by omega)
  · exact fun hopen => hopen.2 h

/-- R440: a request for a lifecycle change is recorded, and then refused for the first reason that applies, or accepted for the next reset. -/
theorem lcReq_open {s : State} (h : mmioOpen s = true) (x : BitVec 3) (tk : DWord) :
    let u := { s with lcToken := tk, lcReq := x, freeCount := s.freeCount + 1 }
    exec (.lcReq x tk) s = .next (
      if lcAllowed s.lifecycle x = false then { u with lcStat := 4 }
      else if s.vales ≠ [] then { u with lcStat := 3 }
      else if tokenGood { s with lcToken := tk } x = false then { u with lcStat := 2 }
      else { u with lcStat := 1, lcPending := some x }) := by
  change execLcReq x tk s = _
  simp [execLcReq, h, lcRequest]

theorem tokenGood_of_key {s : State} {k : Nat} (h : keyOf s s.lcToken.toNat = some k) (x : BitVec 3) : tokenGood s x =
    Config.tokenVerifies (if x = 4 then Config.publicKey deviceKey else Config.tokenKey) x (memBytes s k Config.tokenLength) := by
  simp [tokenGood, h]

theorem limitWrite_open {s : State} (h : mmioOpen s = true) (c : Bool) (v : BitVec 16) :
    exec (.limitWrite c v) s = .next (limitPut s c v) := by
  change execLimitWrite c v s = _
  simp [execLimitWrite, h]

theorem alarmClear_open {s : State} (h : mmioOpen s = true) (m : BitVec 4) :
    exec (.alarmClear m) s = .next { s with alarm := s.alarm &&& ~~~m } := by
  change execAlarmClear m s = _
  simp [execAlarmClear, h, alarmPut]

/-- R438: the host link takes no write before it has trained, nor once bring-up has failed. -/
theorem management_closed {s : State} (h : mmioOpen s = false) (x : BitVec 3) (tk : DWord) (v : BitVec 16) (m : BitVec 4) (c : Bool) :
    exec (.lcReq x tk) s = .next s ∧ exec (.limitWrite c v) s = .next s ∧ exec (.alarmClear m) s = .next s := by
  change execLcReq x tk s = _ ∧ execLimitWrite c v s = _ ∧ execAlarmClear m s = _
  simp [execLcReq, execLimitWrite, execAlarmClear, h]

/-! ## Temperature and the clock (R441, R442) -/

theorem thermalTrip_eq (s : State) (die : Nat) (x : BitVec 16) :
    exec (.thermalTrip die x) s = .next (if x.toInt < 1840 ∨ 8 ≤ die then s else tripDie s die x) := by
  change execThermalTrip die x s = _
  simp [execThermalTrip]

/-- Alarms, and the messages that tell of them, leave the clock. -/
theorem setAlarm_clkNow (s : State) (bits : BitVec 4) : (setAlarm s bits).clkNow = s.clkNow := by
  rw [setAlarm]
  exact List.foldlRecOn (motive := fun t : State => t.clkNow = s.clkNow) _ _ rfl fun _ ht _ _ => ht

theorem tripDie_eq (s : State) (die : Nat) (x : BitVec 16) :
    tripDie s die x = severity4 (setAlarm { s with temps := Tbl.setCell 0 s.temps die x } 8)
      (schedRec cThermal 4 none none 0 1 die 0 x.toNat s.clkNow.toNat) := by
  simp only [tripDie, setAlarm_clkNow]

theorem tripped_eq_nil {t : Telemetry} (h : ∀ d, d < 8 → (t.temps.getD d 0).toInt < 1840) : tripped t = [] := by
  simp only [tripped, List.filter_eq_nil_iff, decide_eq_true_eq]
  exact fun d hd => not_le.mpr (h d (by simpa using (mem_natsFrom.mp hd).2))

theorem tripped_eq_singleton {t : Telemetry} {d : Nat} (hd : d < 8) (hot : 1840 ≤ (t.temps.getD d 0).toInt)
    (hcool : ∀ e, e < 8 → e ≠ d → (t.temps.getD e 0).toInt < 1840) : tripped t = [d] := by
  have hsame : tripped t = (natsFrom 0 8).filter (fun e => decide (e = d)) := by
    refine List.filter_congr fun e he => ?_
    have he8 : e < 8 := by simpa using (mem_natsFrom.mp he).2
    by_cases h : e = d
    · simpa [h] using hot
    · simpa [h] using hcool e he8 h
  rw [hsame]
  interval_cases d <;> rfl

theorem getD_temp_le {l : List (BitVec 16)} {b : Int} (hb : 0 ≤ b) (h : ∀ x ∈ l, x.toInt ≤ b) (d : Nat) : (l.getD d 0).toInt ≤ b := by
  by_cases hd : d < l.length
  · rw [List.getD_eq_getElem _ _ hd]
    exact h _ (List.getElem_mem hd)
  · rw [List.getD_eq_default _ _ (by omega)]
    exact hb

theorem exists_temp_of_getD {l : List (BitVec 16)} {d : Nat} {b : Int} (hb : 0 ≤ b) (h : b < (l.getD d 0).toInt) : ∃ x ∈ l, b < x.toInt := by
  by_contra hno
  push Not at hno
  exact absurd (getD_temp_le hb hno d) (not_le.mpr h)

/-- The state in which PF firmware compares telemetry with its limits. -/
def compared (s : State) (t : Telemetry) : State :=
  { s with
    power := BitVec.ofNat 32 t.power, compared := s.tod.toNat
    temps := (natsFrom 0 8).foldl (fun m d => Tbl.setCell 0 m d (t.temps.getD d 0)) s.temps }

theorem throttle_compared {s : State} {t : Telemetry} (h : 1200 < s.clkNow.toNat) (bits : BitVec 4) :
    throttle (compared s t) bits = setAlarm (setClock (compared s t) (max 1200 (s.clkNow.toNat - 100))) bits :=
  if_neg (show ¬ s.clkNow.toNat ≤ 1200 from h.not_ge)

section
variable {s : State} {t : Telemetry} (hhalt : s.halted = false) (htick : s.tod.toNat % 600 = 0) (hnew : s.compared < s.tod.toNat)
  (hstep : s.bootStep = 6) (hstat : s.bootStat ≠ 2)
include hhalt htick hnew hstep hstat

/-- R441: nothing holds the comparison back. -/
theorem clockControl_due : ¬ (s.halted || decide (s.tod.toNat % 600 ≠ 0) || decide (s.tod.toNat ≤ s.compared) || decide (s.bootStep ≠ 6) ||
    decide (s.bootStat = 2)) = true := by
  simp only [hhalt, htick, hstep, hstat, hnew.not_ge]
  decide

/-- R441: too much power, current or heat throttles the part and trips the dies at 115 degrees. -/
theorem clockControl_throttles {power amps hot : Bool} (hpower : decide (s.plimit.toNat < t.power) = power)
    (hamps : decide (s.ilimit.toNat < t.current) = amps) (hhot : t.temps.any (fun x => decide (1680 < x.toInt)) = hot)
    (h : (power || amps || hot) = true) : exec (.clockControl t) s = .next
      ((tripped t).foldl (fun s d => tripDie s d (t.temps.getD d 0))
        (throttle (compared s t) (BitVec.ofNat 4 (bit1 power + 2 * bit1 amps + 4 * bit1 hot)))) := by
  subst hpower hamps hhot
  change execClockControl t s = _
  rw [execClockControl, if_neg (clockControl_due hhalt htick hnew hstep hstat)]
  exact congrArg _ (if_pos h)

theorem clockControl_speeds_up (hpower : 100 * t.power < 95 * s.plimit.toNat) (hamps : 100 * t.current < 95 * s.ilimit.toNat)
    (hcool : ∀ x ∈ t.temps, x.toInt < 1600) (hclk : s.clkNow.toNat < 2400) :
    exec (.clockControl t) s = .next (setClock (compared s t) (min 2400 (s.clkNow.toNat + 100))) := by
  have hhot : t.temps.any (fun x => decide (1680 < x.toInt)) = false := by
    simp only [List.any_eq_false, decide_eq_true_eq]
    exact fun x hx => by have := hcool x hx; omega
  have hall : t.temps.all (fun x => decide (x.toInt < 1600)) = true := by simpa [List.all_eq_true] using hcool
  have hp : ¬ s.plimit.toNat < t.power := by omega
  have ha : ¬ s.ilimit.toNat < t.current := by omega
  change execClockControl t s = _
  rw [execClockControl, if_neg (clockControl_due hhalt htick hnew hstep hstat)]
  refine congrArg _ ((if_neg ?_).trans (if_pos ?_))
  · simp [hp, ha, hhot]
  · simp [hpower, hamps, hall, hclk]

theorem clockControl_power (hpower : s.plimit.toNat < t.power) (hamps : t.current ≤ s.ilimit.toNat) (hcool : ∀ x ∈ t.temps, x.toInt ≤ 1680)
    (hclk : 1200 < s.clkNow.toNat) :
    exec (.clockControl t) s = .next (setAlarm (setClock (compared s t) (max 1200 (s.clkNow.toNat - 100))) 1) := by
  have hhot : t.temps.any (fun x => decide (1680 < x.toInt)) = false := by simpa [List.any_eq_false] using hcool
  have hnone : tripped t = [] := tripped_eq_nil fun d _ => (getD_temp_le (by omega) hcool d).trans_lt (by omega)
  rw [clockControl_throttles hhalt htick hnew hstep hstat (decide_eq_true hpower) (decide_eq_false hamps.not_gt) hhot rfl, hnone,
    throttle_compared hclk]
  rfl

theorem clockControl_heat {d : Nat} (hd : d < 8) (hot : 1840 ≤ (t.temps.getD d 0).toInt)
    (hcool : ∀ e, e < 8 → e ≠ d → (t.temps.getD e 0).toInt < 1840) (hpower : t.power ≤ s.plimit.toNat) (hamps : t.current ≤ s.ilimit.toNat)
    (hclk : 1200 < s.clkNow.toNat) : exec (.clockControl t) s = .next
      (tripDie (setAlarm (setClock (compared s t) (max 1200 (s.clkNow.toNat - 100))) 4) d (t.temps.getD d 0)) := by
  obtain ⟨x, hx, hx1839⟩ := exists_temp_of_getD (b := 1839) (by omega) (show 1839 < (t.temps.getD d 0).toInt by omega)
  have hhot : t.temps.any (fun x => decide (1680 < x.toInt)) = true := List.any_eq_true.mpr ⟨x, hx, decide_eq_true (by omega)⟩
  rw [clockControl_throttles hhalt htick hnew hstep hstat (decide_eq_false hpower.not_gt) (decide_eq_false hamps.not_gt) hhot rfl,
    tripped_eq_singleton hd hot hcool, throttle_compared hclk]
  rfl

end

/-! ## Settling O53 -/

/-- Settles O53: each clause is the lemma above about its event. -/
theorem partEvents : Obligations.PartEvents := by
  unfold Obligations.PartEvents
  refine ⟨fun s => ⟨resetMachine s, rfl, rfl, rfl, rfl, rfl, rfl, rfl, rfl, rfl, rfl, rfl, rfl, rfl, rfl, rfl, rfl, rfl, rfl,
      resetMachine_decommissioned, resetMachine_keeps_keys⟩,
    fun s hstat hhalt => ⟨bringUp_fail hstat hhalt, bringUp_rom hstat hhalt, bringUp_image_accepted hstat hhalt,
      bringUp_image_refused hstat hhalt, bringUp_links hstat hhalt, fun h => ⟨bringUp_tray hstat hhalt h,
        fun hw => (bringUp_last hstat hhalt h).trans (by rw [if_pos hw]),
        fun ht hr => ⟨bootReady s, (bringUp_last hstat hhalt h).trans (by rw [if_neg (not_or.mpr ⟨ht, by simp [hr]⟩)]),
          bootReady_bootStat s, bootReady_mem s, bootReady_tod s⟩⟩⟩,
    fun s _ hhalt => bringUp_halted hhalt, fun s up n h => ⟨rfl, linkOf_trainLinks s up h⟩, ?time, ?lifecycle, ?limits,
    fun s h x tk v m c => management_closed (mmioOpen_eq_false h) x tk v m c, ?trip, ?clock⟩
  case time =>
    refine fun s n own => ⟨fun ht hs hb hr => ⟨fun ho => timeSync_own n ht hs hb hr ((ownMaster_iff s own).mpr ho),
      fun ho hp hi => timeSync_steps n ht hs hb hr (ownMaster_eq_false ho hp hi)⟩, fun ht => ⟨_, timeSync_later n own ht, ?_⟩,
      fun ht ho hp hi => ⟨_, timeSync_later n own (by simp [ht]), ?_⟩, timeMasterTimeout_holdover, holdoverExpiry_ends⟩
    · split <;> rfl
    · rw [if_neg (by simp [ht, ownMaster_eq_false ho hp hi])]
      exact ⟨rfl, rfl, steered_steer _⟩
  case lifecycle =>
    exact fun s x tk hb hs => ⟨lcReq_open ((mmioOpen_iff s).mpr ⟨hb, hs⟩) x tk, fun k hk => tokenGood_of_key hk x, lcAllowed_iff _ _⟩
  case limits =>
    intro s v m hb hs
    have hopen : mmioOpen s = true := (mmioOpen_iff s).mpr ⟨hb, hs⟩
    exact ⟨by simp [limitWrite_open hopen, limitPut], by simp [limitWrite_open hopen, limitPut], alarmClear_open hopen m⟩
  case trip =>
    refine fun s die x => ⟨fun hx hd => ?_, fun hx => ?_⟩
    · rw [thermalTrip_eq, if_neg (by omega), tripDie_eq]
    · rw [thermalTrip_eq, if_pos (.inl hx)]
  case clock =>
    intro s t hhalt htick hnew hstep hstat u
    have hu : u = compared s t := rfl
    clear_value u
    subst hu
    exact ⟨clockControl_power hhalt htick hnew hstep hstat, clockControl_speeds_up hhalt htick hnew hstep hstat,
      fun d => clockControl_heat hhalt htick hnew hstep hstat⟩

end Sys2Proof.Machine

namespace Sys2Proof.Machine

/-! ## Row operations (R108, R285) -/

section
variable {s : State} {w : Nat} {wv : Wave}

/-- The stash rows that resolved lanes name. -/
def rowsOf (r : Resolved) : List (Nat × Nat) :=
  r.oks.filterMap (fun x => match x.2.1.target with
    | .stash b off => some (b, off / 128)
    | _ => none)

/-- A row operation of a plain wave acts on each bound row that its lanes name, where no lane faults and no row waits. -/
theorem runRow_plain {i : Instr} {o : MmFields} {writes : Bool} (f : State → Nat → Nat → State) (h : runsNow s w wv i = true)
    (hs : plainWave s wv = true) (hc : crossingHeld s w wv = false) {r : State × Resolved}
    (hr : resolveLanes s wv o 1 (if writes then .stmap else .row) false (accLanes i wv.live) = r) (hbad : r.2.bad = [])
    (hwait : (rowsOf r.2).any (fun x => rowWaits r.1 w wv x.1 x.2 writes) = false) :
    runRow i o writes f s =
      .next (finishMem i ((rowsOf r.2).foldl (fun s x => if (rowAt s x.1 x.2).isSome then f s x.1 x.2 else s) r.1) w []) := by
  rw [runRow, runMem_plain _ _ _ _ h hs hc, hr]
  change Host.Outcome.next (match (if (rowsOf r.2).any _ = true then _ else _ : Except State (State × List (Nat × AddrFault))) with
    | .error t => t
    | .ok (t, fs) => finishMem i t w fs) = _
  rw [if_neg (by rw [hwait]; exact Bool.false_ne_true), hbad]
  rfl

end

/-- Where such a row operation is what an instruction runs, that is the instruction's effect. -/
theorem waveStepIf_runRow {i : Instr} {o : MmFields} {writes : Bool} {f : State → Nat → Nat → State} (he : ∀ s, exec i s = runRow i o writes f s) :
    waveStepIf i
      (fun s w wv =>
        let r := resolveLanes s wv o 1 (if writes then .stmap else .row) false (accLanes i wv.live)
        r.2.bad.isEmpty && !crossingHeld s w wv && !(rowsOf r.2).any (fun x => rowWaits r.1 w wv x.1 x.2 writes))
      (fun s w wv =>
        let r := resolveLanes s wv o 1 (if writes then .stmap else .row) false (accLanes i wv.live)
        finishMem i ((rowsOf r.2).foldl (fun s x => if (rowAt s x.1 x.2).isSome then f s x.1 x.2 else s) r.1) w []) := by
  intro s w wv h hs hp
  simp only [Bool.and_eq_true, Bool.not_eq_true', List.isEmpty_iff] at hp
  obtain ⟨⟨hbad, hc⟩, hwait⟩ := hp
  rw [he]
  exact runRow_plain f h hs hc rfl hbad hwait

/-- One lane of STMAP: the rows mapped so far and the lanes that fault. -/
def mapOne (wv : Wave) (o : MmFields) (a : State × List (Nat × Nat × Nat × Nat) × List (Nat × AddrFault)) (l : Nat) :
    State × List (Nat × Nat × Nat × Nat) × List (Nat × AddrFault) :=
  match mapLane a.1 wv o (l % 16) with
  | (s, .ok x) => (s, a.2.1 ++ [x], a.2.2)
  | (s, .error f) => (s, a.2.1, a.2.2 ++ [(l, f)])

/-- The same, of the faults only whether there is one. -/
def mapOneFails (wv : Wave) (o : MmFields) (a : State × List (Nat × Nat × Nat × Nat) × Bool) (l : Nat) :
    State × List (Nat × Nat × Nat × Nat) × Bool :=
  match mapLane a.1 wv o (l % 16) with
  | (t, .ok x) => (t, a.2.1 ++ [x], a.2.2)
  | (t, .error _) => (t, a.2.1, true)

theorem foldl_mapOneFails (wv : Wave) (o : MmFields) (ls : List Nat) (a : State × List (Nat × Nat × Nat × Nat) × List (Nat × AddrFault)) :
    ls.foldl (mapOneFails wv o) (a.1, a.2.1, !a.2.2.isEmpty) =
      ((ls.foldl (mapOne wv o) a).1, (ls.foldl (mapOne wv o) a).2.1, !(ls.foldl (mapOne wv o) a).2.2.isEmpty) := by
  refine List.foldl_hom (fun a : State × List (Nat × Nat × Nat × Nat) × List (Nat × AddrFault) => (a.1, a.2.1, !a.2.2.isEmpty)) fun a l => ?_
  rcases hm : mapLane a.1 wv o (l % 16) with ⟨t, f | x⟩ <;> simp [mapOne, mapOneFails, hm]

/-- What STMAP does for its lanes. -/
def mapRows (o : MmFields) (s : State) (w : Nat) (wv : Wave) (ls : List Nat) : Except State (State × List (Nat × AddrFault)) :=
  if ls.any (fun l => laneWalks s wv .global (wv.rd64 o.t (l % 16)).toNat .stmap) then .error s
  else
    let r := ls.foldl (mapOne wv o) (s, [], [])
    if r.2.1.any (fun x => rowWaits r.1 w wv x.1 x.2.1 true) then .error s
    else .ok (r.2.1.foldl (fun s x => bindRow s x.1 x.2.1 x.2.2.1 x.2.2.2) r.1, r.2.2)

theorem execStmap_eq (o : MmFields) (s : State) : execStmap o s = runMem (.stmap o) [o.a, o.t, o.t + 1] true Wave.live (mapRows o) s := rfl

/-- STMAP by a plain wave binds the rows of its lanes, where no lane waits or faults and no row waits. -/
theorem stmap_waveStep (o : MmFields) : waveStepIf (.stmap o)
    (fun s w wv =>
      let r := (accLanes (.stmap o) wv.live).foldl (mapOneFails wv o) (s, [], false)
      !crossingHeld s w wv && !(accLanes (.stmap o) wv.live).any (fun l => laneWalks s wv .global (wv.rd64 o.t (l % 16)).toNat .stmap) &&
        !r.2.2 && !r.2.1.any (fun x => rowWaits r.1 w wv x.1 x.2.1 true))
    (fun s w wv =>
      let r := (accLanes (.stmap o) wv.live).foldl (mapOneFails wv o) (s, [], false)
      finishMem (.stmap o) (r.2.1.foldl (fun s x => bindRow s x.1 x.2.1 x.2.2.1 x.2.2.2) r.1) w []) := by
  intro s w wv h hs hp
  have hfold := foldl_mapOneFails wv o (accLanes (.stmap o) wv.live) (s, [], [])
  simp only [List.isEmpty_nil, Bool.not_true] at hfold
  simp only [hfold, Bool.and_eq_true, Bool.not_eq_true', Bool.not_eq_false', List.isEmpty_iff] at hp ⊢
  obtain ⟨⟨⟨hc, hwalks⟩, hbad⟩, hwait⟩ := hp
  change execStmap o s = _
  rw [execStmap_eq, runMem_plain _ _ _ _ h hs hc]
  simp only [mapRows, hwalks, hwait, hbad, Bool.false_eq_true, if_false]

/-! ## PREFETCH (R156, R286) -/

/-- One lane of PREFETCH: the lines to bring in so far. -/
def prefetchOne (wv : Wave) (o : MmFields) (a : State × List (Nat × PageKind)) (l : Nat) : State × List (Nat × PageKind) :=
  match translate a.1 (some wv.cacheCore) wv.vale wv.vd (effAddr wv o (l % 16)).toNat 1 .load with
  | (s, .error _) => (s, a.2)
  | (s, .ok x) =>
    match x.target with
    | .mem k => (s, a.2 ++ if x.dev then [] else [(k / 128, x.page)])
    | _ => (s, a.2)

theorem prefetchOne_eq (wv : Wave) (o : MmFields) (a : State × List (Nat × PageKind)) (l : Nat) :
    prefetchOne wv o a l = ((prefetchOf a.1 wv o l).1, a.2 ++ (prefetchOf a.1 wv o l).2.toList) := by
  rcases ht : translate a.1 (some wv.cacheCore) wv.vale wv.vd (effAddr wv o (l % 16)).toNat 1 .load with ⟨t, f | x⟩
  · simp [prefetchOne, prefetchOf, ht]
  · cases hx : x.target <;> cases hd : x.dev <;> simp [prefetchOne, prefetchOf, ht, hx, hd]

theorem prefetch_waveStep (o : MmFields) : waveStepIf (.prefetch o)
    (fun s w wv =>
      let r := (accLanes (.prefetch o) wv.part).foldl (prefetchOne wv o) (s, [])
      !crossingHeld s w wv && !walksWait s wv { o with space := 0 } .load (accLanes (.prefetch o) wv.part) &&
        !r.2.any (fun x => readWaits r.1 (dieOfCore wv.core) (.mem (128 * x.1)) 128))
    (fun s w wv =>
      let r := (accLanes (.prefetch o) wv.part).foldl (prefetchOne wv o) (s, [])
      finishMem (.prefetch o) (r.2.foldl (fun s x => fillL1 s wv x.1 o.hint x.2) r.1) w []) := by
  intro s w wv h hs hp
  simp only [Bool.and_eq_true, Bool.not_eq_true'] at hp
  obtain ⟨⟨hc, hwalks⟩, hwait⟩ := hp
  change execPrefetch o s = _
  rw [execPrefetch, runMem_plain _ _ _ _ h hs hc, hwalks]
  simp only [← prefetchOne_eq, Bool.false_eq_true, if_false, hwait]

/-! ## FENCE (R144, R287) -/

theorem fence_waveStep (o : MmFields) : waveStepIf (.fence o) (fun s w wv => !crossingHeld s w wv) (fun s w wv =>
    let id := s.nextId
    let s1 := State.modWave { s with nextId := id + 1 } w (fun x => { x with
      outst := x.outst ++ [⟨id, x.issued + 1 + o.l.toNat, .fence o.ord o.scope (decide (o.t = 1)) id⟩] })
    finishMem (.fence o) (if s.defer then s1 else performFence s1 w id wv o.ord o.scope (decide (o.t = 1))) w []) := by
  intro s w wv h hs hp
  have hc : crossingHeld s w wv = false := by simpa using hp
  have hspec : s.speculative wv = false := by
    simp only [plainWave, Bool.and_eq_true, Bool.not_eq_true'] at hs
    exact hs.1
  change execFence o s = _
  rw [execFence, runMem_plain _ _ _ _ h hs hc, hspec]
  rfl

/-! ## Settling O26 -/

/-- Settles O26: the row operations by what they share, and STMAP, PREFETCH and FENCE by the lemmas above. -/
theorem rowsPrefetchFence : Obligations.RowsPrefetchFence := by
  unfold Obligations.RowsPrefetchFence
  refine ⟨fun o => ⟨?_, ?_, ?_, stmap_waveStep o⟩, fun o => ⟨prefetch_waveStep o, fence_waveStep o⟩⟩
  · exact waveStepIf_runRow (i := .stunmap o) (o := o) (writes := true) (f := fun s b r => unbindRow s b r false) fun _ => rfl
  · exact waveStepIf_runRow (i := .stwb o) (o := o) (writes := true) (f := writeRowBack) fun _ => rfl
  · exact waveStepIf_runRow (i := .stdrop o) (o := o) (writes := false) (f := fun s b r => unbindRow s b r true) fun _ => rfl

end Sys2Proof.Machine

/-! # Every step keeps the form of memory

Memory changes in few places: bytes are written, copied or cleared, and each of these keeps the form. Every function of the model that
answers a state has one lemma here, `State.Inv.<function>`, in the order of the model: what it answers has the form where the state it
starts from has it. A function that only updates other fields keeps the form by that hypothesis itself; the others follow the branches of
the function and cite the lemmas of the functions it calls. What answers more than a state is read at its state: the parts of a pair,
`getD`, and the projections below. -/
namespace Sys2Proof.Machine

section
variable {s t : State} {α β : Type}

/-- The state an outcome leaves: the next one, or the one before where there is none. -/
def nextOr (s : State) : Host.Outcome State Fault Refusal → State
  | .next t => t
  | _ => s

/-- The state a memory instruction leaves for its lanes, held at issue or not. -/
def triedState : Except State (State × α) → State
  | .error t => t
  | .ok p => p.1

/-- The state an issue leaves. -/
def Issued.state : Issued → State
  | .done s | .idle s | .run s _ => s

/-- The state in which a segment has been looked for. -/
def Taken.state : Taken → State
  | .segment s _ | .empty s | .bad s _ => s

/-! ## What the form is carried through -/

theorem State.Inv.frame (h : s.Inv) (e : t.mem = s.mem) : t.Inv := by
  unfold State.Inv
  rw [e]
  exact h

theorem State.Inv.next (h : t.Inv) : (nextOr s (.next t)).Inv := h

theorem State.Inv.waits (h : t.Inv) : (triedState (α := α) (.error t)).Inv := h

theorem State.Inv.proceeds {a : α} (h : t.Inv) : (triedState (.ok (t, a))).Inv := h

theorem State.Inv.found (h : t.Inv) : ((some t).getD s).Inv := h

theorem State.Inv.pair {a : α} (h : t.Inv) : (t, a).1.Inv := h

theorem State.Inv.ite {c : Prop} {_ : Decidable c} (hs : s.Inv) (ht : t.Inv) : (if c then s else t).Inv := by
  split
  · exact hs
  · exact ht

theorem State.Inv.iteFst {c : Prop} {_ : Decidable c} {p q : State × α} (hp : p.1.Inv) (hq : q.1.Inv) : (if c then p else q).1.Inv := by
  split
  · exact hp
  · exact hq

/-- A further operation under a condition. -/
theorem State.Inv.when {c : Prop} {_ : Decidable c} (h : s.Inv) (ht : s.Inv → t.Inv) : (if c then t else s).Inv := .ite (ht h) h

/-- A further operation unless a condition holds. -/
theorem State.Inv.unless {c : Prop} {_ : Decidable c} (h : s.Inv) (ht : s.Inv → t.Inv) : (if c then s else t).Inv := .ite h (ht h)

theorem State.Inv.foldl {f : State → α → State} {l : List α} (h : s.Inv) (hf : ∀ s x, s.Inv → (f s x).Inv) : (l.foldl f s).Inv :=
  List.foldlRecOn l f h fun s hs x _ => hf s x hs

theorem State.Inv.foldlFst {f : State × β → α → State × β} {l : List α} {a : State × β} (h : a.1.Inv) (hf : ∀ a x, a.1.Inv → (f a x).1.Inv) :
    (l.foldl f a).1.Inv :=
  List.foldlRecOn (motive := fun a : State × β => a.1.Inv) l f h fun a ha x _ => hf a x ha

theorem State.Inv.getD {o : Option State} (hs : s.Inv) (ho : (o.getD t).Inv) : (o.getD s).Inv := by
  cases o with
  | none => exact hs
  | some u => exact ho

theorem State.Inv.rebase {o : Host.Outcome State Fault Refusal} (hs : s.Inv) (ho : (nextOr t o).Inv) : (nextOr s o).Inv := by
  cases o with
  | next u => exact ho
  | fault r => exact hs
  | refused r => exact hs

theorem State.Inv.andThen {o : Host.Outcome State Fault Refusal} {f : State → State} (hs : s.Inv) (ho : (nextOr t o).Inv)
    (hf : ∀ u, u.Inv → (f u).Inv) : (nextOr s (Machine.andThen o f)).Inv := by
  cases o with
  | next u => exact hf u ho
  | fault r => exact hs
  | refused r => exact hs

/-! ## Reading what a call has answered -/

theorem State.Inv.ofFst {p : State × α} {a : α} (e : p = (t, a)) (h : p.1.Inv) : t.Inv := by
  subst e
  exact h

theorem State.Inv.ofSnd {p : α × State} {a : α} (e : p = (a, t)) (h : p.2.Inv) : t.Inv := by
  subst e
  exact h

theorem State.Inv.ofSome {o : Option State} (e : o = some t) (h : (o.getD s).Inv) : t.Inv := by
  subst e
  exact h

theorem State.Inv.ofIssued {o p : Issued} (e : o = p) (h : o.state.Inv) : p.state.Inv := e ▸ h

theorem State.Inv.ofTaken {o p : Taken} (e : o = p) (h : o.state.Inv) : p.state.Inv := e ▸ h

theorem State.Inv.ofTried {o p : Except State (State × α)} (e : o = p) (h : (triedState o).Inv) : (triedState p).Inv := e ▸ h

/-! ## The functions of the model -/

/-! ### State -/

theorem State.Inv.fresh (h : s.Inv) : (Machine.State.fresh s).2.Inv := h

/-! ### Mem -/

theorem State.Inv.poisonSectors {js} (h : s.Inv) : (Machine.poisonSectors s js).Inv := h

theorem State.Inv.modVale {v f} (h : s.Inv) : (Machine.State.modVale s v f).Inv := h

theorem State.Inv.modVd {v d f} (h : s.Inv) : (Machine.State.modVd s v d f).Inv := h

theorem State.Inv.modCore {c f} (h : s.Inv) : (Machine.State.modCore s c f).Inv := h

theorem State.Inv.modGlen {g f} (h : s.Inv) : (Machine.State.modGlen s g f).Inv := h

theorem State.Inv.modWave {w f} (h : s.Inv) : (Machine.State.modWave s w f).Inv := h

theorem State.Inv.modBlock {b f} (h : s.Inv) : (Machine.State.modBlock s b f).Inv := h

theorem State.Inv.modJob {j f} (h : s.Inv) : (Machine.State.modJob s j f).Inv := h

theorem State.Inv.writeMem {k bs} (h : s.Inv) : (Machine.writeMem s k bs).Inv := writeMem_inv k bs h

theorem State.Inv.l2Use {r line sectors old} (h : s.Inv) : (Machine.l2Use s r line sectors old).Inv := by
  unfold Machine.l2Use
  dsimp only
  split
  · split
    · exact h
    · split <;> exact h
  · split <;> exact h

theorem State.Inv.l2Read {vale vd k n hint nc dev} (h : s.Inv) : (Machine.l2Read s vale vd k n hint nc dev).Inv :=
  .ite h (h.foldl fun _ _ h' => h'.l2Use)

theorem State.Inv.l2Write {vale vd k bs hint nc dev} (h : s.Inv) : (Machine.l2Write s vale vd k bs hint nc dev).Inv := by
  unfold Machine.l2Write
  split
  · exact h.writeMem
  · exact .foldl (setMemBytes_wf k bs h) fun _ _ h' => h'.l2Use

theorem State.Inv.setAD {l write} (h : s.Inv) : (Machine.setAD s l write).Inv := by
  unfold Machine.setAD
  exact h.unless fun h' => h'.writeMem

theorem State.Inv.writePieces {ps bs} (h : s.Inv) : (Machine.writePieces s ps bs).Inv := by
  induction ps generalizing s bs with
  | nil => exact h
  | cons p ps ih =>
    obtain ⟨k, n⟩ := p
    exact ih h.writeMem

theorem State.Inv.crossNow {die k rel} (h : s.Inv) : (Machine.crossNow s die k rel).Inv := .ite h h

theorem State.Inv.giveUp {line} (h : s.Inv) : (Machine.giveUp s line).Inv := by
  unfold Machine.giveUp
  refine h.foldl fun _ _ h1 => h1.foldl fun _ _ h2 => ?_
  split
  · exact h2
  · exact .modBlock (.unless (h2.foldl fun _ _ h3 => .ite (h3.writeMem.when fun h4 => h4.poisonSectors) h3) fun h3 => h3.crossNow)

theorem State.Inv.writeLog {k bs} (h : s.Inv) : (Machine.writeLog s k bs).Inv := .writeMem (h.foldl fun _ _ h' => h'.giveUp)

theorem State.Inv.writeLogs {ps bs} (h : s.Inv) : (Machine.writeLogs s ps bs).Inv := by
  induction ps generalizing s bs with
  | nil => exact h
  | cons p ps ih =>
    obtain ⟨k, n⟩ := p
    exact ih h.writeLog

theorem State.Inv.undoPut {v ipa bs bad} (h : s.Inv) : ((Machine.undoPut s v ipa bs bad).getD s).Inv := by
  unfold Machine.undoPut
  split
  · exact h
  · exact h.writeLogs.when fun h' => h'.poisonSectors

theorem State.Inv.logLine {vale vd line} (h : s.Inv) : (Machine.logLine s vale vd line).Inv := by
  unfold Machine.logLine
  split
  · split
    · exact h
    · exact .modVd (.foldl (h.undoPut.unless fun h1 => h1.undoPut) fun _ _ h1 => .ite (h1.undoPut.unless fun h2 => h2.undoPut) h1)
  · exact h

theorem State.Inv.markDirty {vale vd ipa} (h : s.Inv) : (Machine.markDirty s vale vd ipa).Inv := by
  unfold Machine.markDirty
  split
  · split
    · exact h
    · dsimp only
      split
      · exact h
      · exact h.writeLog
  · exact h

theorem State.Inv.vdStore {vale vd ipa k bs hint nc dev} (h : s.Inv) : (Machine.vdStore s vale vd ipa k bs hint nc dev).Inv :=
  .l2Write (.markDirty (.ite h (h.foldl fun _ _ h' => h'.logLine)))

theorem State.Inv.vdWrite {vale vd ipa k bs} (h : s.Inv) : (Machine.vdWrite s vale vd ipa k bs).Inv := h.vdStore

/-! ### Coher -/

theorem State.Inv.mergeKnown {to_ from_} (h : s.Inv) : (Machine.mergeKnown s to_ from_).Inv := .ite h h

theorem State.Inv.pushUpdate {id a k} (h : s.Inv) : (Machine.pushUpdate s id a k).Inv := .ite h h

theorem State.Inv.sectorBack {b row r j} (h : s.Inv) : (Machine.sectorBack s b row r j).Inv :=
  .ite h (.ite h (h.vdWrite.when fun h' => h'.poisonSectors))

theorem State.Inv.writeRowBack {blk row} (h : s.Inv) : (Machine.writeRowBack s blk row).Inv := by
  unfold Machine.writeRowBack
  split
  · exact h
  · split
    · exact h
    · split
      · exact .modBlock (.when (h.foldl fun _ _ h' => .ite h'.sectorBack h') fun h' => h'.crossNow)
      · exact h

theorem State.Inv.recallRows {line blk row p} (h : s.Inv) : (Machine.recallRows s line blk row p).Inv :=
  h.foldl fun _ _ h1 => .ite h1 (h1.foldl fun _ _ h2 => .ite h2.writeRowBack.modBlock h2)

theorem State.Inv.recallLine {line blk row} (h : s.Inv) : (Machine.recallLine s line blk row).Inv := h.recallRows

theorem State.Inv.recallBytes {k n} (h : s.Inv) : (Machine.recallBytes s k n).Inv := h.foldl fun _ _ h' => h'.recallLine

theorem State.Inv.recallKeys {ks} (h : s.Inv) : (Machine.recallKeys s ks).Inv := h.foldl fun _ _ h' => h'.recallLine

theorem State.Inv.sendUpdate {id a k} (h : s.Inv) : (Machine.sendUpdate s id a k).Inv := h.recallLine.pushUpdate

theorem State.Inv.homeRead {die vale vd k n hint nc dev} (h : s.Inv) : (Machine.homeRead s die vale vd k n hint nc dev).1.Inv :=
  h.recallLine.mergeKnown.l2Read

theorem State.Inv.markIpa {v ipa write} (h : s.Inv) : (Machine.markIpa s v ipa write).Inv := by
  unfold Machine.markIpa
  dsimp only
  split
  · exact h.recallKeys.setAD
  · exact h.recallKeys

theorem State.Inv.markIpas {v ipa n write} (h : s.Inv) : (Machine.markIpas s v ipa n write).Inv := h.foldl fun _ _ h' => h'.markIpa

theorem State.Inv.markRead {vale ipa n} (h : s.Inv) : (Machine.markRead s vale ipa n).Inv := by
  unfold Machine.markRead
  split
  · exact h.markIpas.foldl fun _ _ h' => h'.recallBytes.mergeKnown
  · exact h

theorem State.Inv.partPut {v vale vd log ipa k bs bad} (h : s.Inv) : (Machine.partPut s v vale vd log ipa k bs bad).Inv := by
  unfold Machine.partPut
  dsimp only
  split
  · exact .unless h fun h' => h'.sendUpdate
  · exact .when (.crossNow (.ite h.recallBytes.vdStore h.recallBytes.l2Write)) fun h' => h'.poisonSectors

theorem State.Inv.ipaPutBy {vale vd log ipa bs bad} (h : s.Inv) : ((Machine.ipaPutBy s vale vd log ipa bs bad).getD s).Inv := by
  unfold Machine.ipaPutBy
  split
  · exact h
  · split
    · exact h
    · exact h.markIpas.foldlFst fun _ _ h' => h'.partPut

theorem State.Inv.ipaPut {vale vd ipa bs bad} (h : s.Inv) : ((Machine.ipaPut s vale vd ipa bs bad).getD s).Inv := h.ipaPutBy

theorem State.Inv.ipaWrite {vale vd ipa bs} (h : s.Inv) : ((Machine.ipaWrite s vale vd ipa bs).getD s).Inv := h.ipaPut

theorem State.Inv.ipaWriteRaw {vale vd ipa bs} (h : s.Inv) : ((Machine.ipaWriteRaw s vale vd ipa bs).getD s).Inv := h.ipaPutBy

theorem State.Inv.partWrite {k bs} (h : s.Inv) : (Machine.partWrite s k bs).Inv := h.recallBytes.writeMem

/-! ### Translate -/

theorem State.Inv.readTables {vale vd ks} (h : s.Inv) : (Machine.readTables s vale vd ks).Inv := h.foldl fun _ _ h' => h'.recallLine.l2Read

theorem State.Inv.walkBoth {v d vale vd va write} (h : s.Inv) : (Machine.walkBoth s v d vale vd va write).1.Inv := by
  unfold Machine.walkBoth
  extract_lets w t bad
  have h1 : t.Inv := h.readTables.foldl fun _ _ h' => h'.setAD
  split
  · exact h1
  · extract_lets ipa w2 u
    have h2 : u.Inv := h1.readTables
    split
    · exact h2
    · dsimp only
      exact h2.setAD.setAD

theorem State.Inv.tlbFill {core level e} (h : s.Inv) : (Machine.tlbFill s core level e).Inv :=
  .unless (.unless (.ite h h) fun h' => h'.modGlen) fun h' => h'.frame rfl

theorem State.Inv.translate {core vale vd va size k} (h : s.Inv) : (Machine.translate s core vale vd va size k).1.Inv := by
  unfold Machine.translate
  split
  · exact h
  · split
    · split
      · dsimp only
        split
        · exact h.tlbFill
        · exact h
      · split
        · rename_i heq
          exact .ofFst heq h.walkBoth
        · rename_i heq
          have h' := State.Inv.ofFst heq h.walkBoth
          dsimp only
          split
          · exact h'.tlbFill
          · exact h'
    · exact h

/-! ### Records -/

theorem State.Inv.sendMsix {fn n} (h : s.Inv) : (Machine.sendMsix s fn n).Inv := h

theorem State.Inv.recordVale {vale bs} (h : s.Inv) : (Machine.recordVale s vale bs).1.Inv := by
  unfold Machine.recordVale
  split
  · exact h
  · dsimp only
    split
    · exact h
    · refine .sendMsix (.modVale ?_)
      split
      · exact h.partWrite
      · exact h

theorem State.Inv.recordPackage {bs} (h : s.Inv) : (Machine.recordPackage s bs).1.Inv := by
  unfold Machine.recordPackage
  dsimp only
  split
  · exact h
  · refine .sendMsix ?_
    split
    · exact h.partWrite
    · exact h

theorem State.Inv.record {r} (h : s.Inv) : (Machine.record s r).Inv := by
  unfold Machine.record
  refine .when ?_ fun h' => h'.recordPackage
  split
  · exact h.recordVale
  · exact h

theorem State.Inv.recordCe {r glen} (h : s.Inv) : (Machine.recordCe s r glen).Inv := by
  unfold Machine.recordCe
  dsimp only
  split
  · split
    · exact h
    · exact h.partWrite
  · split
    · refine .modVale ?_
      split
      · exact h.recordVale
      · exact h.recordPackage
    · split
      · exact h.recordVale
      · exact h.recordPackage

theorem State.Inv.leaseRecords {idx l reason} (h : s.Inv) : (Machine.leaseRecords s idx l reason).Inv := h.foldl fun _ _ h' => h'.recordCe

/-! ### Contain -/

theorem State.Inv.bumpGen {core vale vd} (h : s.Inv) : (Machine.bumpGen s core vale vd).Inv := h

/-- Dropping a dirty line keeps the form (R121). -/
theorem dropDirty_wf {m : List Host.Cell} (l : L2Line) (h : Memory.wf m = true) : Memory.wf (dropDirty m l) = true := by
  refine List.foldlRecOn (motive := fun m => Memory.wf m = true) _ _ h fun m hm j _ => ?_
  split
  · exact setMemBytes_wf _ _ hm
  · exact hm

theorem State.Inv.bumpEpoch {g vale vd} (h : s.Inv) : (Machine.bumpEpoch s g vale vd).Inv := by
  unfold Machine.bumpEpoch
  dsimp only
  split
  · exact h
  · exact List.foldlRecOn (motive := fun m => Memory.wf m = true) _ _ h fun m hm l _ => dropDirty_wf l hm

theorem State.Inv.bumpEpochs {vale vd} (h : s.Inv) : (Machine.bumpEpochs s vale vd).Inv := by
  unfold Machine.bumpEpochs
  split
  · exact h
  · exact h.foldl fun _ _ h' => h'.bumpEpoch

theorem State.Inv.times {f n} (h : s.Inv) (hf : ∀ s, s.Inv → (f s).Inv) : (Machine.times f n s).Inv := by
  induction n generalizing s with
  | zero => exact h
  | succ n ih => exact ih (hf s h)

theorem State.Inv.scrubDone {core vale vd} (h : s.Inv) : (Machine.scrubDone s core vale vd).Inv :=
  .times (.modGlen (.times h fun _ h' => h')) fun _ h' => h'.bumpEpoch

theorem State.Inv.dropTlbs {p} (h : s.Inv) : (Machine.dropTlbs s p).Inv := h

theorem State.Inv.cancelCommands {vale vd} (h : s.Inv) : (Machine.cancelCommands s vale vd).Inv := h

theorem State.Inv.freeHandlers {p} (h : s.Inv) : (Machine.freeHandlers s p).Inv := h

theorem State.Inv.dropHandlers {vale vd} (h : s.Inv) : (Machine.dropHandlers s vale vd).Inv := h

theorem State.Inv.dropSteps {vale vd} (h : s.Inv) : (Machine.dropSteps s vale vd).Inv := h

theorem State.Inv.unrolled {vale vd} (h : s.Inv) : (Machine.unrolled s vale vd).Inv := by
  unfold Machine.unrolled
  split
  · exact h.record
  · exact h

theorem State.Inv.stopVd {vale vd} (h : s.Inv) : (Machine.stopVd s vale vd).Inv := h.unrolled.cancelCommands.dropSteps.dropHandlers.modVd

theorem State.Inv.stopVale {vale} (h : s.Inv) : (Machine.stopVale s vale).Inv := by
  unfold Machine.stopVale
  split
  · exact h
  · exact .modVale (h.foldl fun _ _ h' => h'.stopVd)

theorem State.Inv.dropWork {vale vd} (h : s.Inv) : (Machine.dropWork s vale vd).Inv := h

theorem State.Inv.beginRollback {vale vd rec_} (h : s.Inv) : (Machine.beginRollback s vale vd rec_).Inv := by
  unfold Machine.beginRollback
  extract_lets t cores u v
  have h1 : u.Inv := h.cancelCommands.dropHandlers.foldl fun _ _ h' => h'.bumpGen
  have h2 : v.Inv := h1.dropWork.bumpEpochs
  exact h2.modVd

theorem State.Inv.severity2 {vale vd r} (h : s.Inv) : (Machine.severity2 s vale vd r).Inv := by
  unfold Machine.severity2
  split
  · exact h.record
  · refine h.record.unless fun h' => ?_
    split
    · exact .ite h'.stopVd (.ite h.record h.beginRollback)
    · exact h'.stopVd

theorem State.Inv.enterError {vale stream} (h : s.Inv) : (Machine.enterError s vale stream).Inv := .modVale (h.foldl fun _ _ h' => h'.stopVd)

theorem State.Inv.tdiViolation {vale kind off addr value} (h : s.Inv) : (Machine.tdiViolation s vale kind off addr value).Inv := by
  unfold Machine.tdiViolation
  split
  · exact h
  · exact .ite h.enterError.record h

theorem State.Inv.severity3 {vale r} (h : s.Inv) : (Machine.severity3 s vale r).Inv := h.record.stopVale.tdiViolation

theorem State.Inv.severity4 {r} (h : s.Inv) : (Machine.severity4 s r).Inv := h.record

/-! ### Qcb -/

theorem State.Inv.qcbPut {vale vd q off n x} (h : s.Inv) : (Machine.qcbPut s vale vd q off n x).Inv := by
  unfold Machine.qcbPut
  split
  · exact h.ipaWrite
  · exact h

theorem State.Inv.modQueue {vale vd q f} (h : s.Inv) : (Machine.State.modQueue s vale vd q f).Inv := h

theorem State.Inv.writeState {vale vd q mayStart} (h : s.Inv) : (Machine.writeState s vale vd q mayStart).Inv := h.qcbPut.qcbPut

theorem State.Inv.parkVd {vale vd} (h : s.Inv) : (Machine.parkVd s vale vd).Inv := .foldl h fun _ _ h' => h'.qcbPut.qcbPut

theorem State.Inv.queueFault {vale vd q reason v1 v2} (h : s.Inv) : (Machine.queueFault s vale vd q reason v1 v2).Inv := h.record

theorem State.Inv.openEpisode {vale vd q reason v1 v2} (h : s.Inv) : (Machine.openEpisode s vale vd q reason v1 v2).Inv :=
  .ite h h.queueFault.modQueue

theorem State.Inv.closeEpisode {vale vd q reason} (h : s.Inv) : (Machine.closeEpisode s vale vd q reason).Inv := .ite h h

theorem State.Inv.setEpisode {vale vd q reason on v1 v2} (h : s.Inv) : (Machine.setEpisode s vale vd q reason on v1 v2).Inv :=
  .ite h.openEpisode h.closeEpisode

/-! ### Home -/

theorem State.Inv.l1Put {core vale vd sec data first} (h : s.Inv) : (Machine.l1Put s core vale vd sec data first).Inv := by
  unfold Machine.l1Put
  dsimp only
  split
  · exact h
  · split <;> exact h

theorem State.Inv.l1Store {core vale vd k bs} (h : s.Inv) : (Machine.l1Store s core vale vd k bs).Inv := .ite h h

theorem State.Inv.dropL1 {core vale vd} (h : s.Inv) : (Machine.dropL1 s core vale vd).Inv := h

theorem State.Inv.acquireOn {cores vale vd} (h : s.Inv) : (Machine.acquireOn s cores vale vd).Inv := h.foldl fun _ _ h' => h'

theorem State.Inv.jobAcquire {v vale vd} (h : s.Inv) : (Machine.jobAcquire s v vale vd).Inv := h.acquireOn

/-! ### Regs -/

theorem State.Inv.freeBytes {n} (h : s.Inv) : (Machine.freeBytes s n).1.Inv := by
  induction n generalizing s with
  | zero => exact h
  | succ n ih => exact ih (s := { s with freeCount := s.freeCount + 1 }) h

theorem State.Inv.postBytes {vale off n} (h : s.Inv) : (Machine.postBytes s vale off n).1.Inv := h.freeBytes

theorem State.Inv.elseBytes {vale t n} (h : s.Inv) : (Machine.elseBytes s vale t n).1.Inv := by
  unfold Machine.elseBytes
  split
  · exact h.postBytes
  · exact h
  · exact h.freeBytes

/-! ### Ops -/

theorem State.Inv.setWave {w x} (h : s.Inv) : (Machine.State.setWave s w x).Inv := h

theorem State.Inv.modTask {job seq f} (h : s.Inv) : (Machine.State.modTask s job seq f).Inv := h

theorem State.Inv.fetchWord {core vale vd addr} (h : s.Inv) : (Machine.fetchWord s core vale vd addr).1.Inv := by
  unfold Machine.fetchWord
  split
  · exact h
  · split
    · rename_i heq
      exact .ofFst heq h.translate
    · rename_i heq
      have h1 := State.Inv.ofFst heq h.translate
      refine .unless ?_ fun h2 => h2.modCore
      split
      · exact h1.homeRead
      · exact h1.elseBytes

theorem State.Inv.recordCauses {w t why deferred fs} (h : s.Inv) : (Machine.recordCauses s w t why deferred fs).Inv :=
  h.foldl fun _ _ h' => h'.record

theorem State.Inv.freeSlot {w} (h : s.Inv) : (Machine.freeSlot s w).Inv := h

theorem State.Inv.releaseLanes {h0} (h : s.Inv) : (Machine.releaseLanes s h0).Inv := h

theorem State.Inv.recordUnresolved {h0} (h : s.Inv) : (Machine.recordUnresolved s h0).Inv := by
  unfold Machine.recordUnresolved
  refine h.foldl fun _ _ h' => ?_
  split
  · exact h'
  · exact h'.recordCauses

theorem State.Inv.endHandler {h0} (h : s.Inv) : (Machine.endHandler s h0).Inv := by
  unfold Machine.endHandler
  extract_lets t
  have h1 : t.Inv := h.recordUnresolved.releaseLanes.freeSlot
  exact h1.frame rfl

theorem State.Inv.endCommand {vale result} (h : s.Inv) : (Machine.endCommand s vale result).Inv := h

theorem State.Inv.endSlotWave {h0 w} (h : s.Inv) : (Machine.endSlotWave s h0 w).Inv := h.endHandler.when fun h' => h'.endCommand

theorem State.Inv.takeTrap {w wv t} (h : s.Inv) : (Machine.takeTrap s w wv t).Inv := by
  unfold Machine.takeTrap
  split
  · exact h
  · exact h.recordCauses.endSlotWave
  · exact h.recordCauses.endSlotWave
  · split
    · refine .setWave ?_
      split
      · exact .ite h h
      · exact h
    · dsimp only
      split
      · exact .setWave (.recordCauses (h.foldl fun _ _ h' => h'.record))
      · exact .setWave (h.foldl fun _ _ h' => h'.record)

theorem State.Inv.raiseAt {tod w wv at_ next after kind part fs} (h : s.Inv) : (Machine.raiseAt tod s w wv at_ next after kind part fs).Inv :=
  .takeTrap h

theorem State.Inv.raise {w wv at_ next kind part fs} (h : s.Inv) : (Machine.raise s w wv at_ next kind part fs).Inv := h.raiseAt

theorem State.Inv.raiseLanes {w wv len fs} (h : s.Inv) : (Machine.raiseLanes s w wv len fs).Inv := h.raise

theorem State.Inv.raiseOnce {w wv len cause detail addr} (h : s.Inv) : (Machine.raiseOnce s w wv len cause detail addr).Inv := h.raise

theorem State.Inv.raiseFetchAt {w wv at_ cause detail addr} (h : s.Inv) : (Machine.raiseFetchAt s w wv at_ cause detail addr).Inv := h.raiseAt

theorem State.Inv.raiseFetch {w wv cause detail addr} (h : s.Inv) : (Machine.raiseFetch s w wv cause detail addr).Inv := h.raiseFetchAt

theorem State.Inv.haltSeq {blk cause tag addr} (h : s.Inv) : (Machine.haltSeq s blk cause tag addr).Inv := by
  unfold Machine.haltSeq
  split
  · exact h
  · split
    · exact h
    · exact .modBlock (h.record.foldl fun _ _ h' => h')

theorem State.Inv.haltWaiter {blk n} (h : s.Inv) : (Machine.haltWaiter s blk n).Inv := by
  unfold Machine.haltWaiter
  split
  · exact .ite h.haltSeq h
  · exact h

theorem State.Inv.testOne {blk n} (h : s.Inv) : (Machine.testOne s blk n).Inv := by
  unfold Machine.testOne
  split
  · exact h
  · exact .ite (.haltWaiter h) (.ite h h)

theorem State.Inv.testBars {blk} (h : s.Inv) : (Machine.testBars s blk).Inv := by
  unfold Machine.testBars
  split
  · exact h
  · exact h.foldl fun _ _ h' => h'.testOne

theorem State.Inv.testHalted {before blk} (h : s.Inv) : (Machine.testHalted before s blk).Inv := .ite h.testBars h

theorem State.Inv.testBarrier {blk n} (h : s.Inv) : (Machine.testBarrier s blk n).Inv := by
  unfold Machine.testBarrier
  split
  · exact h
  · exact h.testOne.testHalted

theorem State.Inv.testLeft {blk} (h : s.Inv) : (Machine.testLeft s blk).Inv := by
  unfold Machine.testLeft
  split
  · exact h
  · exact h.foldl fun _ _ h' => h'.testBarrier

theorem State.Inv.modBarrier {blk n f} (h : s.Inv) : (Machine.modBarrier s blk n f).Inv := .testBarrier h

theorem State.Inv.countSector {blk n} (h : s.Inv) : (Machine.countSector s blk n).Inv := h.modBarrier

theorem State.Inv.breakBarrier {blk n} (h : s.Inv) : (Machine.breakBarrier s blk n).Inv := .testHalted (.haltWaiter h)

theorem State.Inv.testClusterNow {cl n} (h : s.Inv) : (Machine.testClusterNow s cl n).Inv := by
  unfold Machine.testClusterNow
  split
  · exact h
  · exact .ite h (.ite (.foldl h fun _ _ h' => .ite h' h') h)

theorem State.Inv.testCluster {cl n} (h : s.Inv) : (Machine.testCluster s cl n).Inv := by
  unfold Machine.testCluster
  split
  · exact h
  · exact h.testClusterNow

theorem State.Inv.bindFaults {c} (h : s.Inv) : (Machine.bindFaults s c).Inv := .ite h h

theorem State.Inv.testWait {w wv} (h : s.Inv) : (Machine.testWait s w wv).1.Inv := by
  unfold Machine.testWait
  dsimp only
  split
  · exact .iteFst h h
  · exact .iteFst h h
  · exact h

theorem State.Inv.endClock (h : s.Inv) : (Machine.endClock s).Inv := by
  unfold Machine.endClock
  split
  · exact h
  · exact .bindFaults (.foldl (.foldl h fun _ _ h' => h'.testBarrier) fun _ _ h' => h'.testCluster)

theorem State.Inv.testAll {blk} (h : s.Inv) : (Machine.testAll s blk).Inv := by
  unfold Machine.testAll
  split
  · exact h
  · exact .foldl (h.foldl fun _ _ h' => h'.testBarrier) fun _ _ h' => h'.testCluster

theorem State.Inv.serveTakes {blk track fuel} (h : s.Inv) : (Machine.serveTakes blk track fuel s).Inv := by
  induction fuel generalizing s with
  | zero => exact h
  | succ fuel ih =>
    unfold Machine.serveTakes
    split
    · exact .ite (ih (.frame h rfl)) h
    · exact h

theorem State.Inv.givePool {blk track n} (h : s.Inv) : (Machine.givePool s blk track n).Inv := .serveTakes h

theorem State.Inv.addStats {g vale vd c} (h : s.Inv) : (Machine.addStats s g vale vd c).Inv := h

theorem State.Inv.releaseTeam {blk} (h : s.Inv) : (Machine.releaseTeam s blk).Inv := h

theorem State.Inv.closeRetired {blk} (h : s.Inv) : (Machine.closeRetired s blk).Inv := by
  unfold Machine.closeRetired
  split
  · exact h
  · split
    · exact h
    · dsimp only
      split <;> exact h

theorem State.Inv.retireBlock {blk b} (h : s.Inv) : (Machine.retireBlock s blk b).Inv := by
  unfold Machine.retireBlock
  refine .closeRetired (.releaseTeam (.modBlock ?_))
  split
  · exact .when (.bumpGen (h.foldl fun _ _ h' => h'.writeRowBack)) fun h' => h'.modTask
  · exact .bumpGen (h.foldl fun _ _ h' => h'.writeRowBack)

theorem State.Inv.stopStream {blk} (h : s.Inv) : (Machine.stopStream s blk).Inv := h

theorem State.Inv.finishBlock {blk} (h : s.Inv) : (Machine.finishBlock s blk).Inv := by
  unfold Machine.finishBlock
  split
  · exact h
  · exact .unless h fun h' => h'.retireBlock

theorem State.Inv.releaseRetired {blk} (h : s.Inv) : (Machine.releaseRetired s blk).Inv := by
  unfold Machine.releaseRetired
  split
  · exact h
  · exact .ite h.finishBlock h.closeRetired

theorem State.Inv.retireWaiting (h : s.Inv) : (Machine.retireWaiting s).Inv := h.foldl fun _ _ h' => h'.releaseRetired

theorem State.Inv.endWave {w wv} (h : s.Inv) : (Machine.endWave s w wv).Inv := by
  unfold Machine.endWave
  split
  · exact .endSlotWave h
  · exact .endSlotWave h
  · exact h
  · dsimp only
    split
    · exact .givePool h
    · exact .ite (.testAll (.givePool h)) (.when (.testAll (.stopStream (.givePool h))) fun h' => h'.finishBlock)

theorem State.Inv.raiseLinks {w wv at_ d base fs} (h : s.Inv) : (Machine.raiseLinks s w wv at_ d base fs).Inv := by
  unfold Machine.raiseLinks
  split
  · exact .ite h.severity2 h.raise
  · exact h.raise

theorem State.Inv.keepBefore {old w} (h : s.Inv) : (Machine.keepBefore old s w).Inv := by
  unfold Machine.keepBefore
  split <;> exact h

theorem State.Inv.returnLanes {w wv at_} (h : s.Inv) : (Machine.returnLanes s w wv at_).Inv := by
  unfold Machine.returnLanes
  dsimp only
  split
  · split <;> exact h.raise
  · exact .ite h h.raiseLinks.keepBefore

theorem State.Inv.arriveJoin {w wv pc known} (h : s.Inv) : (Machine.arriveJoin s w wv pc known).Inv := by
  unfold Machine.arriveJoin
  split
  · rename_i heq
    exact (State.Inv.ofFst heq h.fetchWord).raise
  · rename_i heq
    have h' := State.Inv.ofFst heq h.fetchWord
    exact .ite h'.raise h'

theorem State.Inv.settle {w wv at_ joining} (h : s.Inv) : (Machine.settle s w wv at_ joining).Inv := by
  unfold Machine.settle
  split
  · exact h
  · exact h.endWave
  · exact h.arriveJoin
  · exact h.returnLanes

theorem State.Inv.resumeTrap {w wv t} (h : s.Inv) : (Machine.resumeTrap s w wv t).Inv := by
  unfold Machine.resumeTrap
  dsimp only
  split
  · exact .ite (.settle h) h
  · exact .ite (.settle h) h
  · exact .ite (.settle h) h
  · exact .ite (.settle h) (.arriveJoin h)
  · exact .ite (.settle h) h
  · exact .ite (.ite (.settle h) (.returnLanes h)) (.ite h (.raiseLinks h))

theorem State.Inv.raiseInstr {w wv i cause detail} (h : s.Inv) : (Machine.raiseInstr s w wv i cause detail).Inv := .ite h.raiseOnce h.raiseLanes

theorem State.Inv.runWave {i op} (h : s.Inv) (hop : ∀ s w wv, s.Inv → (op s w wv).Inv) : (nextOr s (Machine.runWave i op s)).Inv := by
  unfold Machine.runWave
  split
  · exact h
  · split
    · exact h.setWave
    · split
      · exact h.raiseInstr
      · exact hop _ _ _ h

theorem State.Inv.consumePoison {w pos lanes} (h : s.Inv) : (Machine.consumePoison s w pos lanes).Inv := by
  unfold Machine.consumePoison
  split
  · exact .ite h.severity2 h
  · exact h

theorem State.Inv.aluWaveBy {i reads dst f w wv} (h : s.Inv) : (Machine.aluWaveBy i reads dst f s w wv).Inv := .consumePoison h

theorem State.Inv.aluWave {i srcs dst f w wv} (h : s.Inv) : (Machine.aluWave i srcs dst f s w wv).Inv := h.aluWaveBy

theorem State.Inv.runAluBy {i reads dst f} (h : s.Inv) : (nextOr s (Machine.runAluBy i reads dst f s)).Inv := h.runWave fun _ _ _ h' => h'.aluWaveBy

theorem State.Inv.runAlu {i srcs dst f} (h : s.Inv) : (nextOr s (Machine.runAlu i srcs dst f s)).Inv := h.runWave fun _ _ _ h' => h'.aluWave

/-! ### Issue -/

theorem State.Inv.deliverLate {w wv f} (h : s.Inv) : (Machine.deliverLate s w wv f).Inv := by
  unfold Machine.deliverLate
  split
  · exact h
  · dsimp only
    split <;> exact h.raiseAt

theorem State.Inv.fetchLit {wv x} (h : s.Inv) : (Machine.fetchLit s wv x).1.Inv := by
  unfold Machine.fetchLit
  split
  · split
    all_goals
      rename_i heq
      exact .ofFst heq h.fetchWord
  · exact h

theorem State.Inv.chargeCore {core vale vd cost} (h : s.Inv) : (Machine.chargeCore s core vale vd cost).Inv := h

theorem State.Inv.chargeVd {vale vd cost} (h : s.Inv) : (Machine.chargeVd s vale vd cost).Inv := by
  unfold Machine.chargeVd
  dsimp only
  split
  · exact h
  · exact .when h fun h' => h'.parkVd

theorem State.Inv.unyield {w wv} (h : s.Inv) : (Machine.unyield s w wv).Inv := h

theorem State.Inv.issueIdle {w wv len} (h : s.Inv) : (Machine.issueIdle s w wv len).Inv := .chargeVd h

theorem State.Inv.issueWord {w wv c} (h : s.Inv) : (Machine.issueWord s w wv c).state.Inv := by
  unfold Machine.issueWord
  split
  · exact h.raise
  · split
    · exact h
    · split
      · rename_i heq
        exact (State.Inv.ofFst heq h.fetchWord).raiseFetch
      · rename_i heq
        have h1 := State.Inv.ofFst heq h.fetchWord
        dsimp only
        split
        · exact h1.raiseFetch
        · split
          · exact h1.raise
          · split
            · exact h1.raise
            · split
              · exact h1.issueIdle
              · split
                · split
                  · exact h1.raiseInstr
                  · exact h1.raise
                · split
                  · exact h1
                  · split
                    · rename_i heq
                      exact (State.Inv.ofFst heq h1.fetchLit).raiseFetch
                    · rename_i heq
                      have h2 := State.Inv.ofFst heq h1.fetchLit
                      split
                      · split
                        · exact h2.raiseInstr
                        · exact h2.raise
                      · exact h2

theorem State.Inv.issueHeader {w wv x} (h : s.Inv) : (Machine.issueHeader s w wv x).state.Inv := by
  unfold Machine.issueHeader
  split
  · exact h.raiseFetch
  · split
    · exact h
    · dsimp only
      split
      · exact h
      · exact .issueWord h

theorem State.Inv.readAgain {w wv c} (h : s.Inv) : (Machine.readAgain s w wv c).1.Inv := by
  unfold Machine.readAgain
  split
  · rename_i heq
    exact (State.Inv.ofFst heq h.fetchWord).raiseFetchAt
  · rename_i heq
    have h' := State.Inv.ofFst heq h.fetchWord
    split
    · exact h'.raiseFetchAt
    · exact h'

theorem State.Inv.issueNext {w wv} (h : s.Inv) : (Machine.issueNext s w wv).state.Inv := by
  unfold Machine.issueNext
  split
  · exact h.issueWord
  · split
    · exact h
    · split
      · rename_i heq
        exact (State.Inv.ofFst heq h.fetchWord).raiseFetch
      · rename_i heq
        exact (State.Inv.ofFst heq h.fetchWord).issueHeader

theorem State.Inv.issueWave {w defer} (h : s.Inv) : (Machine.issueWave s w defer).state.Inv := by
  unfold Machine.issueWave
  split
  · exact h
  · split
    · exact h
    · split
      · split
        · exact h
        · exact h.resumeTrap
      · split
        · exact h.deliverLate
        · dsimp only
          split
          · split
            · exact h
            · split
              · rename_i heq
                exact .ofFst heq h.readAgain
              · rename_i heq
                have h' := State.Inv.ofFst heq h.readAgain
                split
                · exact h'.testWait
                · exact .issueNext h'.testWait
          · split
            · exact h.testWait
            · exact .issueNext h.testWait

theorem State.Inv.countIssue {before w i} (h : s.Inv) : (Machine.countIssue before s w i).Inv := by
  unfold Machine.countIssue
  dsimp only
  split
  · exact h
  · exact .unless h fun h' => h'.unyield.modWave.chargeCore.chargeVd

/-! ### Access -/

theorem State.Inv.recordAccess {w bank off n} (h : s.Inv) : (Machine.recordAccess s w bank off n).1.Inv := by
  unfold Machine.recordAccess
  dsimp only
  split
  · exact h
  · split
    · rename_i heq
      have h' := State.Inv.ofFst heq h.translate
      split <;> exact h'
    · rename_i heq
      exact .ofFst heq h.translate

theorem State.Inv.laneAccess {w sp ea n k} (h : s.Inv) : (Machine.laneAccess s w sp ea n k).1.Inv := by
  unfold Machine.laneAccess
  split
  · exact h
  · split
    · exact h.translate
    · split
      · split <;> exact h
      · exact h
    · dsimp only
      split
      · exact .iteFst h.recordAccess h
      · exact h

theorem State.Inv.farRow {line} (h : s.Inv) : (Machine.farRow s line).1.Inv := h.recallLine

theorem State.Inv.fillRow {blk row hint} (h : s.Inv) : (Machine.fillRow s blk row hint).Inv := by
  unfold Machine.fillRow
  split
  · exact h
  · split
    · exact h
    · exact .ite h (.modBlock (.iteFst h.farRow h.homeRead))

theorem State.Inv.readStash {blk off n hint} (h : s.Inv) : (Machine.readStash s blk off n hint).1.Inv := by
  unfold Machine.readStash
  dsimp only
  split <;> exact h.foldl fun _ _ h' => h'.fillRow

theorem State.Inv.putStash {blk off bs} (h : s.Inv) : (Machine.putStash s blk off bs).Inv := h

theorem State.Inv.writeStash {blk off bs hint} (h : s.Inv) : (Machine.writeStash s blk off bs hint).Inv := h.fillRow.putStash.modBlock

theorem State.Inv.readMemLoad {w k n ord scope hint page} (h : s.Inv) : (Machine.readMemLoad s w k n ord scope hint page).1.Inv := by
  unfold Machine.readMemLoad
  dsimp only
  split
  · exact h
  · exact h.homeRead.when fun h' => h'.l1Put

theorem State.Inv.readConst {w bank off} (h : s.Inv) : (Machine.readConst s w bank off).1.Inv := by
  unfold Machine.readConst
  split
  · exact h
  · split
    · exact h
    · dsimp only
      split
      · exact h
      · split
        · exact h
        · split
          · rename_i heq
            exact .ofFst heq h.translate
          · rename_i heq
            have h' := State.Inv.ofFst heq h.translate
            split
            · exact .iteFst h'.homeRead (.iteFst h'.homeRead h'.homeRead.modCore)
            · exact h'.elseBytes

/-! ### TaskOps -/

theorem State.Inv.removeBlock {blk} (h : s.Inv) : (Machine.removeBlock s blk).Inv := by
  unfold Machine.removeBlock
  split
  · exact h
  · extract_lets t u
    have h1 : u.Inv := h.bumpGen.freeHandlers
    exact h1.frame rfl

theorem State.Inv.abortTask {job seq} (h : s.Inv) : (Machine.abortTask s job seq).Inv := by
  unfold Machine.abortTask
  split
  · exact h
  · exact .modJob (h.foldl fun _ _ h' => h'.removeBlock)

theorem State.Inv.abortReaders {job ts seq sectors} (h : s.Inv) : (Machine.abortReaders s job ts seq sectors).Inv := by
  unfold Machine.abortReaders
  split
  · exact h
  · exact h.foldl fun _ _ h' => h'.abortTask

theorem State.Inv.dropLines {vale lines} (h : s.Inv) : (Machine.dropLines s vale lines).Inv := h

theorem State.Inv.taskWrite {vale job ts q k n} (h : s.Inv) : (Machine.taskWrite s vale job ts q k n).Inv := .abortReaders h

theorem State.Inv.irrevWrite {blk k n} (h : s.Inv) : (Machine.irrevWrite s blk k n).Inv := by
  unfold Machine.irrevWrite
  split
  · exact h
  · split
    · exact h
    · split
      · exact h
      · exact h.taskWrite

theorem State.Inv.accessWrite {a k n} (h : s.Inv) : (Machine.accessWrite s a k n).Inv := by
  unfold Machine.accessWrite
  split
  · exact h.taskWrite
  · exact h.irrevWrite

theorem State.Inv.specTake {job core q line} (h : s.Inv) : (Machine.specTake s job core q line).Inv := by
  unfold Machine.specTake
  split
  · exact h
  · split
    · exact h
    · split <;> exact h

theorem State.Inv.specRead {w q t k n bs} (h : s.Inv) : (Machine.specRead s w q t k n bs).1.Inv := by
  unfold Machine.specRead
  dsimp only
  split <;> exact .ite h h

theorem State.Inv.specOp {w q k op page hint nc} (h : s.Inv) : (Machine.specOp s w q k op page hint nc).Inv := h.specTake.modTask

theorem State.Inv.groupPut {vale vd ipa k bs l} (h : s.Inv) : (Machine.groupPut s vale vd ipa k bs l).Inv := by
  unfold Machine.groupPut
  dsimp only
  split
  · exact h.vdStore.l2Write.dropLines
  · exact h.vdStore

theorem State.Inv.commitLine {job vale vd line own l} (h : s.Inv) : (Machine.commitLine s job vale vd line own l).Inv := by
  unfold Machine.commitLine
  split
  · exact h.foldl fun _ _ h' => h'
  · exact .foldl (h.recallLine.foldl fun _ _ h' => h'.markDirty) fun _ _ h' => h'.groupPut.crossNow

theorem State.Inv.commitGroup {job seq} (h : s.Inv) : (Machine.commitGroup s job seq).Inv := by
  unfold Machine.commitGroup
  split
  · exact h
  · split
    · exact h
    · exact .abortReaders (.modTask (.foldl h fun _ _ h' => h'.commitLine))

theorem State.Inv.deliverDeferred {w wv t} (h : s.Inv) : (Machine.deliverDeferred s w wv t).Inv := by
  unfold Machine.deliverDeferred
  split
  · exact .ite h.severity2 h.takeTrap
  · exact h.takeTrap

theorem State.Inv.makeIrrevocable {job seq} (h : s.Inv) : (Machine.makeIrrevocable s job seq).Inv := by
  unfold Machine.makeIrrevocable
  split
  · exact h
  · split
    · exact h
    · split
      · exact h
      · dsimp only
        split
        · exact h.commitGroup.modTask
        · refine h.commitGroup.modTask.foldl fun _ _ h' => ?_
          split
          · split
            · exact .ite h'.deliverDeferred h'
            · exact h'
          · exact h'

/-! ### Perform -/

theorem State.Inv.countFlit {peer} (h : s.Inv) : (Machine.countFlit s peer).Inv := h

theorem State.Inv.sendRequest {die vale vd pc pa access load} (h : s.Inv) : (Machine.sendRequest s die vale vd pc pa access load).Inv :=
  .when h fun h' => h'.countFlit

theorem State.Inv.lateFaults {w pos fs} (h : s.Inv) : (Machine.lateFaults s w pos fs).Inv := h

theorem State.Inv.acquireDone {a} (h : s.Inv) : (Machine.acquireDone s a).Inv := .ite h h

theorem State.Inv.agentPoison {a} (h : s.Inv) : (Machine.agentPoison s a).Inv := by
  unfold Machine.agentPoison
  dsimp only
  split
  · exact h.severity2
  · exact h.record

theorem State.Inv.performMem {a k} (h : s.Inv) : (Machine.performMem s a k).Inv := by
  unfold Machine.performMem
  dsimp only
  split
  · exact .ite h.recallRows.agentPoison h.recallRows.consumePoison
  · refine .acquireDone ?_
    split
    · refine .l1Store ?_
      split
      · exact h.recallRows.vdStore.accessWrite.poisonSectors
      · exact h.recallRows.vdStore.accessWrite
    · refine .unless ?_ fun h' => h'.l1Store
      split
      · exact h.recallRows.vdStore.accessWrite.poisonSectors
      · exact h.recallRows.vdStore.accessWrite

theorem State.Inv.putStashFor {blk core vale vd b off bs hint} (h : s.Inv) : (Machine.putStashFor s blk core vale vd b off bs hint).Inv := by
  unfold Machine.putStashFor
  dsimp only
  split
  · exact h.writeStash.l1Store.irrevWrite
  · exact h.writeStash

theorem State.Inv.freshenL1 {core vale vd b off bs bad} (h : s.Inv) : (Machine.freshenL1 s core vale vd b off bs bad).Inv := by
  unfold Machine.freshenL1
  split
  · exact h
  · exact .ite h h.l1Store

theorem State.Inv.performStash {a b off} (h : s.Inv) : (Machine.performStash s a b off).Inv :=
  .ite h.readStash.consumePoison h.readStash.putStashFor.acquireDone

theorem State.Inv.postStore {vale idx x} (h : s.Inv) : (Machine.postStore s vale idx x).Inv := .ite h.queueFault h

theorem State.Inv.tryPosts (h : s.Inv) : (Machine.tryPosts s).Inv := h

theorem State.Inv.dropAccess {id} (h : s.Inv) : (Machine.dropAccess s id).Inv := h

theorem State.Inv.performAccess {id} (h : s.Inv) : (Machine.performAccess s id).Inv := by
  unfold Machine.performAccess
  split
  · exact h
  · split
    · exact h
    · split
      · split
        · exact h.performMem.dropAccess
        · split
          · exact h
          · dsimp only
            split
            · exact h.sendUpdate.l1Store
            · exact h.sendUpdate
      · exact h.performStash.dropAccess
      · exact .ite h.recallLine (.sendRequest (.markDirty h))
      · exact h.postStore.irrevWrite.dropAccess
      · exact h
      · exact h

theorem State.Inv.issueAccess {a} (h : s.Inv) : (Machine.issueAccess s a).Inv := .unless h fun h' => h'.performAccess

theorem State.Inv.laterRegs {late words} (h : s.Inv) : (Machine.laterRegs s late words).1.Inv := .iteFst h h

theorem State.Inv.flushLoad {wid lid op lanes} (h : s.Inv) : (Machine.flushLoad s wid lid op lanes).Inv := .ite h h

theorem State.Inv.specReq {w op r q t k} (h : s.Inv) : (Machine.specReq s w op r q t k).1.Inv := by
  unfold Machine.specReq
  dsimp only
  split
  · exact h.readMemLoad.specRead
  · exact .iteFst h.readMemLoad.specRead h.readMemLoad.specRead.specOp

theorem State.Inv.readHome {w op r k} (h : s.Inv) : (Machine.readHome s w op r k).1.Inv := by
  unfold Machine.readHome
  split
  · exact h.readMemLoad
  · exact .iteFst h.recallLine.mergeKnown h.recallLine.mergeKnown.vdStore.irrevWrite.crossNow.l1Store

theorem State.Inv.noteRead {w k n} (h : s.Inv) : (Machine.noteRead s w k n).Inv := by
  unfold Machine.noteRead
  split
  · exact .ite h h
  · exact h

theorem State.Inv.readReq {w op r} (h : s.Inv) : (Machine.readReq s w op r).1.Inv := by
  unfold Machine.readReq
  split
  · split
    · exact .iteFst h.readHome h.specReq
    · exact h.readHome
  · dsimp only
    split
    · exact h.readStash.freshenL1
    · exact .iteFst h.readStash h.readStash.putStashFor
  · exact h.readConst
  · refine .elseBytes ?_
    split
    · exact h.noteRead
    · exact h

theorem State.Inv.loadLane {wid lid lane late} (h : s.Inv) : (Machine.loadLane wid lid lane s late).Inv := by
  unfold Machine.loadLane
  split
  · exact h
  · split
    · exact h
    · split
      · split
        · exact h
        · split
          · exact h
          · dsimp only
            split
            · exact .ite h (.ite h.recallLine (.sendRequest (.ite h.markDirty h.noteRead)))
            · exact .when (h.readReq.laterRegs.modWave.when fun h' => h'.dropL1) fun h' => h'.consumePoison
      · exact h

theorem State.Inv.dropOutst {wid id} (h : s.Inv) : (Machine.dropOutst s wid id).Inv := h

theorem State.Inv.performFence {wid id w kind scope sc} (h : s.Inv) : (Machine.performFence s wid id w kind scope sc).Inv :=
  .ite (.when h fun h' => h'.dropL1) h

theorem State.Inv.completeStores {wid id accs t lanes} (h : s.Inv) : (Machine.completeStores s wid id accs t lanes).Inv := by
  unfold Machine.completeStores
  dsimp only
  split
  · refine .dropOutst (h.foldl fun _ _ h' => ?_)
    split
    · exact h'.laterRegs
    · exact h'
  · refine .modWave (h.foldl fun _ _ h' => ?_)
    split
    · exact h'.laterRegs
    · exact h'

theorem State.Inv.completeLanes {wid lid op lanes late} (h : s.Inv) : (Machine.completeLanes s wid lid op lanes late).Inv :=
  h.flushLoad.foldl fun _ _ h' => h'.loadLane

theorem State.Inv.completeLoad {wid lid lanes late} (h : s.Inv) : (Machine.completeLoad s wid lid lanes late).Inv := by
  unfold Machine.completeLoad
  split
  · exact h
  · split
    · exact h
    · split
      · exact h.completeLanes
      · exact h.performFence
      · exact h.completeStores
      · exact h

theorem State.Inv.issueLoad {wid l op} (h : s.Inv) : (Machine.issueLoad s wid l op).Inv := .ite h (.unless h fun h' => h'.completeLoad)

/-! ### Agent -/

theorem State.Inv.engAsk {core tag vale vd pc ask} (h : s.Inv) : (Machine.engAsk s core tag vale vd pc ask).Inv := by
  unfold Machine.engAsk
  split
  · exact h
  · refine .ite h (.ite h.recallLine ?_)
    extract_lets t
    have h1 : t.Inv := h.sendRequest
    exact h1.frame rfl

theorem State.Inv.engForget {core tag} (h : s.Inv) : (Machine.engForget s core tag).Inv := .ite h h

theorem State.Inv.targetRead {core tag vale vd x n} (h : s.Inv) : (Machine.targetRead s core tag vale vd x n).1.Inv := by
  unfold Machine.targetRead
  split
  · exact .iteFst h h.homeRead
  · split
    · exact h
    · split <;> exact h
  · exact h.elseBytes

theorem State.Inv.engRead16 {core tag vale vd va n} (h : s.Inv) : (Machine.engRead16 s core tag vale vd va n).1.Inv := by
  unfold Machine.engRead16
  split
  · exact h
  · split
    · rename_i heq
      exact .ofFst heq h.translate
    · rename_i heq
      have h' := State.Inv.ofFst heq h.translate
      exact .iteFst h' h'.targetRead

theorem State.Inv.engRead {core tag vale vd va n} (h : s.Inv) : (Machine.engRead s core tag vale vd va n).1.Inv := by
  refine State.Inv.foldlFst h fun a p h' => ?_
  split
  · split
    · rename_i heq
      exact .ofFst heq h'.engRead16
    · exact h'.engRead16
  · exact h'

theorem State.Inv.partRead {tag vale vd pc addr} (h : s.Inv) : (Machine.partRead s tag vale vd pc addr).1.Inv := by
  unfold Machine.partRead
  split
  · exact h
  · split
    · rename_i heq
      exact .ofFst heq h.translate
    · rename_i heq
      have h1 := State.Inv.ofFst heq h.translate
      dsimp only
      split
      · rename_i heq
        exact (State.Inv.ofFst heq h1.targetRead).engForget
      · exact h1.engAsk
      · rename_i heq
        have h2 := State.Inv.ofFst heq h1.targetRead
        exact .iteFst h2 h2

/-! ### MemOps -/

theorem State.Inv.finishMem {i w fs} (h : s.Inv) : (Machine.finishMem i s w fs).Inv := by
  unfold Machine.finishMem
  split
  · exact h
  · exact h
  · exact .ite h.raise h.raiseLanes

theorem State.Inv.resolveLanes {w o n k spec ls} (h : s.Inv) : (Machine.resolveLanes s w o n k spec ls).1.Inv := by
  unfold Machine.resolveLanes
  refine h.foldlFst fun _ _ h1 => ?_
  dsimp only
  split
  · rename_i heq
    exact .ofFst heq h1.laneAccess
  · rename_i heq
    have h2 := State.Inv.ofFst heq h1.laneAccess
    exact .iteFst h2 h2

theorem State.Inv.stallTask {w wv} (h : s.Inv) : (Machine.stallTask s w wv).Inv := by
  unfold Machine.stallTask
  split
  · exact h
  · exact .ite h.makeIrrevocable h

theorem State.Inv.runMem {i srcs task lanes op} (h : s.Inv) (hop : ∀ s w wv ls, s.Inv → (triedState (op s w wv ls)).Inv) :
    (nextOr s (Machine.runMem i srcs task lanes op s)).Inv := by
  refine h.runWave fun s w wv h' => .ite h'.raiseInstr (.ite h' ?_)
  extract_lets ls bad
  split
  · rename_i heq
    exact State.Inv.ofTried heq (hop _ _ _ _ h')
  · rename_i heq
    exact .consumePoison (.finishMem (State.Inv.ofTried heq (hop _ _ _ _ h')))

theorem State.Inv.loadLanes {i o n words ext atom check w wv ls} (h : s.Inv) :
    (triedState (Machine.loadLanes i o n words ext atom check s w wv ls)).Inv := by
  unfold Machine.loadLanes
  extract_lets spec helper pois zero kind
  split
  · exact h.waits
  · split
    rename_i hr
    have h1 := State.Inv.ofFst hr h.resolveLanes
    extract_lets late oks bad zero' fits u
    have h2 : u.Inv := by
      dsimp only [u]
      split
      · exact h1.when fun h' => h'.foldl fun _ _ h'' => h''.specTake
      · exact h1
    split
    · exact h1.waits
    · split
      · exact h1.stallTask.waits
      · exact .proceeds (.issueLoad h2.modWave)

theorem State.Inv.runLoad {i o n words ext} (h : s.Inv) : (nextOr s (Machine.runLoad i o n words ext s)).Inv :=
  h.runMem fun _ _ _ _ h' => h'.loadLanes

theorem State.Inv.execLdc {o} (h : s.Inv) : (nextOr s (Machine.execLdc o s)).Inv := h.runMem fun _ _ _ _ h' => h'.loadLanes

theorem State.Inv.issueStores {w o as} (h : s.Inv) : (Machine.issueStores s w o as).Inv :=
  .when (h.foldlFst fun _ _ h1 => .unless h1 fun h2 => h2.performAccess) fun h1 => h1.fresh.modWave

theorem State.Inv.specStores {w wv q as} (h : s.Inv) : (Machine.specStores s w wv q as).Inv := by
  unfold Machine.specStores
  refine h.foldl fun _ _ h' => ?_
  split
  · exact h'
  · dsimp only
    split
    · split
      · exact h'
      · exact .ite h'.readMemLoad.specRead.consumePoison h'.readMemLoad.specRead.specOp
    · exact h'.specOp

theorem State.Inv.storeLanes {o n k ord cnt data w wv ls} (h : s.Inv) : (triedState (Machine.storeLanes o n k ord cnt data s w wv ls)).Inv := by
  unfold Machine.storeLanes
  dsimp only
  split
  · exact h.waits
  · split
    · exact h.resolveLanes.waits
    · split
      · split
        · exact h.resolveLanes.issueStores.proceeds
        · split
          · exact h.resolveLanes.specStores.proceeds
          · exact h.resolveLanes.stallTask.waits
      · exact h.resolveLanes.issueStores.proceeds

theorem State.Inv.runStore {i o n} (h : s.Inv) : (nextOr s (Machine.runStore i o n s)).Inv := h.runMem fun _ _ _ _ h' => h'.storeLanes

theorem State.Inv.runAtom {i o a} (h : s.Inv) : (nextOr s (Machine.runAtom i o a s)).Inv := by
  unfold Machine.runAtom
  dsimp only
  split
  · exact h.runMem fun _ _ _ _ h' => h'.storeLanes
  · exact h.runMem fun _ _ _ _ h' => h'.loadLanes

theorem State.Inv.execCntadd {o} (h : s.Inv) : (nextOr s (Machine.execCntadd o s)).Inv := h.runMem fun _ _ _ _ h' => h'.storeLanes

theorem State.Inv.unbindRow {blk row drop} (h : s.Inv) : (Machine.unbindRow s blk row drop).Inv := by
  unfold Machine.unbindRow
  refine .modBlock ?_
  split
  · exact .bumpGen (.ite h h.writeRowBack)
  · exact .ite h h.writeRowBack

theorem State.Inv.runRow {i o writes f} (h : s.Inv) (hf : ∀ s b r, s.Inv → (f s b r).Inv) : (nextOr s (Machine.runRow i o writes f s)).Inv := by
  refine h.runMem fun s w wv ls h' => ?_
  split
  rename_i heq
  have h1 := State.Inv.ofFst heq h'.resolveLanes
  extract_lets rows
  split
  · exact h1.waits
  · exact .proceeds (.foldl h1 fun _ _ h'' => h''.when (hf _ _ _))

theorem State.Inv.execStunmap {o} (h : s.Inv) : (nextOr s (Machine.execStunmap o s)).Inv := h.runRow fun _ _ _ h' => h'.unbindRow

theorem State.Inv.execStwb {o} (h : s.Inv) : (nextOr s (Machine.execStwb o s)).Inv := h.runRow fun _ _ _ h' => h'.writeRowBack

theorem State.Inv.execStdrop {o} (h : s.Inv) : (nextOr s (Machine.execStdrop o s)).Inv := h.runRow fun _ _ _ h' => h'.unbindRow

theorem State.Inv.bindRow {blk row line ipa} (h : s.Inv) : (Machine.bindRow s blk row line ipa).Inv := .modBlock (.ite h.unbindRow h)

theorem State.Inv.mapLane {wv o l} (h : s.Inv) : (Machine.mapLane s wv o l).1.Inv := by
  unfold Machine.mapLane
  split
  · rename_i heq
    exact .ofFst heq h.laneAccess
  · rename_i heq
    have h1 := State.Inv.ofFst heq h.laneAccess
    split
    · dsimp only
      split
      · rename_i heq
        exact .ofFst heq h1.laneAccess
      · rename_i heq
        have h2 := State.Inv.ofFst heq h1.laneAccess
        split <;> exact h2
    · exact h1

theorem State.Inv.execStmap {o} (h : s.Inv) : (nextOr s (Machine.execStmap o s)).Inv := by
  unfold Machine.execStmap
  refine h.runMem fun _ _ _ _ h1 => ?_
  split
  · exact h1.waits
  · dsimp only
    split
    · exact h1.waits
    · refine .proceeds (.foldl (h1.foldlFst fun _ _ h2 => ?_) fun _ _ h2 => h2.bindRow)
      split
      all_goals
        rename_i heq
        exact .ofFst heq h2.mapLane

theorem State.Inv.fillL1 {w line hint page} (h : s.Inv) : (Machine.fillL1 s w line hint page).Inv :=
  h.foldl fun _ _ h1 => .ite h1 (h1.homeRead.when fun h2 => h2.l1Put)

theorem State.Inv.prefetchOf {wv o l} (h : s.Inv) : (Machine.prefetchOf s wv o l).1.Inv := by
  unfold Machine.prefetchOf
  split
  · rename_i heq
    exact .ofFst heq h.translate
  · rename_i heq
    have h' := State.Inv.ofFst heq h.translate
    split <;> exact h'

theorem State.Inv.execPrefetch {o} (h : s.Inv) : (nextOr s (Machine.execPrefetch o s)).Inv := by
  unfold Machine.execPrefetch
  refine h.runMem fun _ _ _ _ h1 => ?_
  split
  · exact h1.waits
  · dsimp only
    split
    · exact .waits (h1.foldlFst fun _ _ h2 => h2.prefetchOf)
    · exact .proceeds (.foldl (h1.foldlFst fun _ _ h2 => h2.prefetchOf) fun _ _ h2 => h2.fillL1)

theorem State.Inv.execFence {o} (h : s.Inv) : (nextOr s (Machine.execFence o s)).Inv := by
  unfold Machine.execFence
  refine h.runMem fun _ _ _ _ h1 => ?_
  split
  · exact h1.proceeds
  · exact .proceeds (.unless h1 fun h2 => h2.performFence)

/-! ### Place -/

theorem State.Inv.placeBlock {core job cluster rank record entry task} (h : s.Inv) :
    (Machine.placeBlock s core job cluster rank record entry task).2.Inv :=
  .modCore (.foldlFst h fun _ _ h1 => h1.foldlFst fun _ _ h2 => h2)

/-! ### Sync -/

theorem State.Inv.runOnce {i srcs op} (h : s.Inv) (hop : ∀ s w wv, s.Inv → (op s w wv).Inv) : (nextOr s (Machine.runOnce i srcs op s)).Inv :=
  h.runWave fun s w wv h' => .ite (hop s w wv h') h'.setWave.consumePoison

theorem State.Inv.arriveCluster {wv n} (h : s.Inv) : (Machine.arriveCluster s wv n).Inv := by
  unfold Machine.arriveCluster
  split
  · exact h
  · exact .testCluster h

theorem State.Inv.execBarArrive {o} (h : s.Inv) : (nextOr s (Machine.execBarArrive o s)).Inv := h.runOnce fun _ _ _ h' => .ite h' (.modBarrier h')

theorem State.Inv.execBarWait {o} (h : s.Inv) : (nextOr s (Machine.execBarWait o s)).Inv := h.runOnce fun _ _ _ h' => .ite h' h'

theorem State.Inv.execBarSync {o} (h : s.Inv) : (nextOr s (Machine.execBarSync o s)).Inv := h.runOnce fun _ _ _ h' => .ite h' (.modBarrier h')

theorem State.Inv.execBarInit {o} (h : s.Inv) : (nextOr s (Machine.execBarInit o s)).Inv := h.runOnce fun _ _ _ h' => .ite h'.raiseOnce h'

theorem State.Inv.execBarexp {o} (h : s.Inv) : (nextOr s (Machine.execBarexp o s)).Inv :=
  h.runOnce fun _ _ _ h' => .ite h'.raiseOnce (.modBarrier h')

theorem State.Inv.execCbarArrive {o} (h : s.Inv) : (nextOr s (Machine.execCbarArrive o s)).Inv :=
  h.runOnce fun _ _ _ h' => .ite h' (.arriveCluster h')

theorem State.Inv.execCbarWait {o} (h : s.Inv) : (nextOr s (Machine.execCbarWait o s)).Inv := h.runOnce fun _ _ _ h' => .ite h' h'

theorem State.Inv.execCbarSync {o} (h : s.Inv) : (nextOr s (Machine.execCbarSync o s)).Inv := h.runOnce fun _ _ _ h' => .ite h' (.arriveCluster h')

theorem State.Inv.pollWait {w wv addr n ord scope} (h : s.Inv) : (Machine.pollWait s w wv addr n ord scope).1.Inv := by
  unfold Machine.pollWait
  split
  · exact h
  · split
    · rename_i heq
      exact .ofFst heq h.laneAccess
    · rename_i heq
      have h' := State.Inv.ofFst heq h.laneAccess
      split
      · exact h'
      · split
        · exact h'
        · split
          · exact h'.readMemLoad
          · exact .iteFst h' (.iteFst h'.recallLine h'.sendRequest)
          · exact h'.elseBytes

theorem State.Inv.passWait {w wv x} (h : s.Inv) : (Machine.passWait s w wv x).Inv := by
  unfold Machine.passWait
  dsimp only
  split
  · exact .when h fun h' => h'.dropL1
  · exact h

theorem State.Inv.pollOnce {w wv x} (h : s.Inv) : (Machine.pollOnce s w wv x).Inv := by
  unfold Machine.pollOnce
  dsimp only
  split
  · rename_i heq
    have h' := State.Inv.ofFst heq h.pollWait
    exact h'.raiseOnce
  · rename_i heq
    have h' := State.Inv.ofFst heq h.pollWait
    exact .consumePoison h'
  · rename_i heq
    have h' := State.Inv.ofFst heq h.pollWait
    exact .ite h'.passWait h'
  · rename_i heq
    have h' := State.Inv.ofFst heq h.pollWait
    exact h'

theorem State.Inv.runMemWait {i srcs f} (h : s.Inv) : (nextOr s (Machine.runMemWait i srcs f s)).Inv :=
  h.runOnce fun _ _ _ h' => .ite h'.raiseOnce h'.pollOnce

theorem State.Inv.execYield {o} (h : s.Inv) : (nextOr s (Machine.execYield o s)).Inv := h.runOnce fun _ _ _ h' => h'

theorem State.Inv.execSleep {o} (h : s.Inv) : (nextOr s (Machine.execSleep o s)).Inv := h.runOnce fun _ _ _ h' => .ite h' h'

theorem State.Inv.execMonitorWake {wave} (h : s.Inv) : (nextOr s (Machine.execMonitorWake wave s)).Inv := by
  unfold Machine.execMonitorWake
  refine .next ?_
  split
  · exact h
  · split
    · exact h
    · split
      · exact h.pollOnce
      · exact h.pollOnce
      · exact h

theorem State.Inv.execSleepWake {wave} (h : s.Inv) : (nextOr s (Machine.execSleepWake wave s)).Inv := by
  unfold Machine.execSleepWake
  refine .next ?_
  split
  · exact h
  · split
    · exact .ite h h
    · exact h

/-! ### Tasks -/

theorem State.Inv.holdRead {vale vd key} (h : s.Inv) : (Machine.holdRead s vale vd key).Inv := h

theorem State.Inv.releaseReads {vale vd p} (h : s.Inv) : (Machine.releaseReads s vale vd p).Inv := h

theorem State.Inv.gateOpen {job i} (h : s.Inv) : (Machine.gateOpen s job i).1.Inv := by
  unfold Machine.gateOpen
  split
  · exact h
  · dsimp only
    split
    · exact h
    · split
      · exact h
      · split
        · rename_i heq
          exact .ofFst heq h.partRead
        · rename_i heq
          have h' := State.Inv.ofFst heq h.partRead
          exact .modJob (.ite h' h'.engForget)
        · rename_i heq
          have h' := State.Inv.ofFst heq h.partRead
          exact .modJob (.holdRead (.ite h' h'.record))

theorem State.Inv.gateAcquire {j cores} (h : s.Inv) : (Machine.gateAcquire s j cores).Inv := .ite h h.acquireOn

theorem State.Inv.addTask {job t} (h : s.Inv) : (Machine.addTask s job t).Inv := h

theorem State.Inv.freeEntries {vale job q fuel} (h : s.Inv) : (Machine.freeEntries vale job q fuel s).Inv := by
  induction fuel generalizing s with
  | zero => exact h
  | succ fuel ih =>
    unfold Machine.freeEntries
    refine h.unless fun h' => ?_
    split
    · exact h
    · split
      · exact h
      · dsimp only
        split
        · exact h
        · exact ih h.abortTask

theorem State.Inv.runTask {i op} (h : s.Inv) (hop : ∀ s w wv q t, s.Inv → (op s w wv q t).Inv) : (nextOr s (Machine.runTask i op s)).Inv := by
  refine h.runWave fun s w wv h' => ?_
  split
  · exact h'.raiseInstr
  · exact hop _ _ _ _ _ h'

theorem State.Inv.spawnLanes {w wv o q ls} (h : s.Inv) : (Machine.spawnLanes w wv o q ls s).1.Inv := by
  induction ls generalizing s with
  | nil => exact h
  | cons l ls ih =>
    unfold Machine.spawnLanes
    extract_lets lane
    split
    · exact h
    · split
      · exact ih h
      · split
        rename_i heq
        have h1 := State.Inv.ofFst heq h.readStash
        split
        · exact ih h1
        · extract_lets u
          have h2 : u.Inv := h1.freeEntries
          split
          · exact ih h2.addTask
          · split
            · exact ih h2
            · exact h2

theorem State.Inv.execTspawn {o} (h : s.Inv) : (nextOr s (Machine.execTspawn o s)).Inv := by
  unfold Machine.execTspawn
  refine h.runTask fun _ _ _ _ _ h' => ?_
  extract_lets uni live ls pois ls' bad good r t pois' left fs u
  have h1 : t.Inv := h'.spawnLanes
  have h2 : u.Inv := by
    dsimp only [u]
    split
    · exact h1
    · exact h1.setWave
    · exact .ite h1.raiseOnce h1.raiseLanes
  exact .ite h' (.ite h1.modWave h2.consumePoison)

theorem State.Inv.execTend {o} (h : s.Inv) : (nextOr s (Machine.execTend o s)).Inv := h.runTask fun _ _ _ _ _ h' => .ite h'.endWave h'

theorem State.Inv.execTabort {o} (h : s.Inv) : (nextOr s (Machine.execTabort o s)).Inv :=
  h.runTask fun _ _ _ _ _ h' => .ite h'.raiseOnce h'.abortTask

theorem State.Inv.execTirrev {o} (h : s.Inv) : (nextOr s (Machine.execTirrev o s)).Inv :=
  h.runTask fun _ _ _ _ _ h' => .ite h' (.ite h'.makeIrrevocable.modWave h')

theorem State.Inv.rootTouch {j i} (h : s.Inv) : (Machine.rootTouch s j i).Inv := by
  unfold Machine.rootTouch
  split
  · rename_i heq
    have h' := State.Inv.ofFst heq h.translate
    split
    · exact h'.homeRead
    · exact h'
  · rename_i heq
    exact .ofFst heq h.translate

theorem State.Inv.rootFetch {job j o opened} (h : s.Inv) : (Machine.rootFetch s job j o opened).Inv := by
  unfold Machine.rootFetch
  extract_lets i known core tag put
  split
  · exact h
  · split
    · exact h
    · split
      · split
        · exact h.engAsk
        · rename_i heq
          exact (State.Inv.ofFst heq h.targetRead).engForget.modJob
        · rename_i heq
          exact (State.Inv.ofFst heq h.targetRead).engForget.modJob
      · exact h

theorem State.Inv.admitRoot {job j o} (h : s.Inv) : (Machine.admitRoot s job j o).Inv := by
  unfold Machine.admitRoot
  split
  · exact h
  · exact .severity2 h
  · exact h

theorem State.Inv.execTaskAdmit {job glen} (h : s.Inv) : (nextOr s (Machine.execTaskAdmit job glen s)).Inv := by
  unfold Machine.execTaskAdmit
  refine .next ?_
  split
  · exact h
  · split
    · split
      · exact h
      · refine h.rootFetch.unless fun h1 => ?_
        split
        · rename_i heq
          exact .ofFst heq h1.gateOpen
        · rename_i heq
          have h2 := State.Inv.ofFst heq h1.gateOpen
          exact .ite h2 h2.rootFetch.rootTouch.admitRoot
    · exact h

theorem State.Inv.makeRoom {job} (h : s.Inv) : (Machine.makeRoom s job).Inv := by
  unfold Machine.makeRoom
  split
  · exact h.abortTask
  · exact h

theorem State.Inv.execTaskPlace {job core} (h : s.Inv) : (nextOr s (Machine.execTaskPlace job core s)).Inv := by
  unfold Machine.execTaskPlace
  refine .next ?_
  split
  · exact h
  · split
    · split
      · exact h
      · split
        · exact h
        · extract_lets u
          have h1 : u.Inv := .ite h.makeRoom h
          split
          · exact h1
          · split
            · exact h1
            · extract_lets v
              have h2 : v.Inv := .ite h1.gateAcquire h1
              split
              rename_i hcl
              split
              rename_i hblk
              have h3 := State.Inv.ofSnd hblk (State.Inv.ofSnd hcl h2.fresh).placeBlock
              exact .modTask (h3.frame rfl)
    · exact h

theorem State.Inv.wakeTask {job blk} (h : s.Inv) : (Machine.wakeTask s job blk).Inv := h

theorem State.Inv.wakeSpawns {job} (h : s.Inv) : (Machine.wakeSpawns s job).Inv := h

theorem State.Inv.commitTask {job q} (h : s.Inv) : (Machine.commitTask s job q).Inv := h.commitGroup.modJob.wakeSpawns

theorem State.Inv.execTaskCommit {job} (h : s.Inv) : (nextOr s (Machine.execTaskCommit job s)).Inv := by
  unfold Machine.execTaskCommit
  refine .next ?_
  split
  · exact h
  · split
    · exact h
    · split
      · exact h
      · extract_lets stopped
        split
        · exact h
        · split
          · exact h.commitTask
          · split
            · exact .ite h.makeIrrevocable.wakeTask h
            · exact h

/-! ### CopyEngine -/

theorem State.Inv.engStash {id blk va n} (h : s.Inv) : (Machine.engStash s id blk va n).1.Inv := by
  unfold Machine.engStash
  split
  · exact h
  · split
    · exact h
    · exact .iteFst h h.readStash

theorem State.Inv.engPutStash {core id c va bs bad} (h : s.Inv) : (Machine.engPutStash s core id c va bs bad).1.Inv := by
  unfold Machine.engPutStash
  split
  · exact h
  · split
    · exact h
    · exact .iteFst h (h.putStashFor.when fun h' => h'.modBlock)

theorem State.Inv.engSend {core id a f} (h : s.Inv) (hf : ∀ s k, s.Inv → (f s k).Inv) : (Machine.engSend s core id a f).Inv :=
  .modGlen (.modCore (hf _ _ (.frame h rfl)))

theorem State.Inv.engPost {core id c pa va ipa op} (h : s.Inv) : (Machine.engPost s core id c pa va ipa op).Inv :=
  h.markDirty.engSend fun _ _ h' => h'.sendRequest

theorem State.Inv.engPut {core id c ord va k x op} (h : s.Inv) : (Machine.engPut s core id c ord va k x op).Inv := by
  unfold Machine.engPut
  dsimp only
  split
  · exact h.performMem
  · split
    · exact .l1Store (h.engSend fun _ _ h' => h'.sendUpdate)
    · exact h.engSend fun _ _ h' => h'.sendUpdate

theorem State.Inv.engWrite {core id c ord va n op} (h : s.Inv) : (Machine.engWrite s core id c ord va n op).1.Inv := by
  unfold Machine.engWrite
  split
  · exact h
  · split
    · rename_i heq
      exact .ofFst heq h.translate
    · rename_i heq
      have h1 := State.Inv.ofFst heq h.translate
      split
      · exact .iteFst h1 (.iteFst h1 h1.engPut)
      · exact .iteFst h1.recallLine h1.engPost
      · exact h1.postBytes.postStore
      · exact h1.engSend fun _ _ h2 => h2
      · exact h1

theorem State.Inv.modCmd {core id f} (h : s.Inv) : (Machine.modCmd s core id f).Inv := h

theorem State.Inv.dropCmd {core id} (h : s.Inv) : (Machine.dropCmd s core id).Inv := by
  unfold Machine.dropCmd
  extract_lets t
  have h1 : t.Inv := h.engForget.modCore
  exact h1.frame rfl

theorem State.Inv.breakFor {c} (h : s.Inv) : (Machine.breakFor s c).Inv := by
  unfold Machine.breakFor
  split
  · exact .ite h.breakBarrier h
  · exact h

theorem State.Inv.haltCopies {core id c} (h : s.Inv) : (Machine.haltCopies s core id c).Inv := by
  unfold Machine.haltCopies
  split
  · exact h
  · exact .foldl (.modBlock (h.breakFor.foldl fun _ _ h' => h'.dropCmd.breakFor)) fun _ _ h' => h'

theorem State.Inv.failCmd {core id c f} (h : s.Inv) : (Machine.failCmd s core id c f).Inv :=
  .ite h.dropCmd.haltCopies.severity2 h.dropCmd.haltCopies.record

theorem State.Inv.readContent {core c} (h : s.Inv) : (Machine.readContent s core c).1.Inv := by
  unfold Machine.readContent
  dsimp only
  split
  · split
    · exact h
    · split
      all_goals
        rename_i heq
        exact .ofFst heq h.engRead
  · split
    · exact h
    · split
      all_goals
        rename_i heq
        exact .ofFst heq h.engRead
  · split
    · exact h
    · split
      all_goals
        rename_i heq
        exact .ofFst heq h.engRead
  · split
    · exact h
    · split
      all_goals
        rename_i heq
        exact .ofFst heq h.engRead
  · exact h

theorem State.Inv.acceptCopy {core c} (h : s.Inv) : (Machine.acceptCopy s core c).1.Inv := by
  unfold Machine.acceptCopy
  split
  · exact h
  · split
    · exact h.breakFor
    · split
      · exact h.engAsk
      · exact h
      · rename_i heq
        have h' := State.Inv.ofFst heq h.readContent
        split
        rename_i id u hu
        have h1 : u.Inv := .ofSnd hu h'.engForget.fresh
        extract_lets c1 c2 ok lines c3 u2
        have h2 : u2.Inv := h1.foldl fun _ _ h'' => h''.recallLine
        split
        · exact h
        · split
          · exact .iteFst h h2.modCore.modCore
          · exact h2.modCore

theorem State.Inv.elemAt {core id c l v k} (h : s.Inv) : (Machine.elemAt s core id c l v k).1.Inv := by
  unfold Machine.elemAt
  split
  · exact h
  · split
    · exact h
    · dsimp only
      split
      all_goals
        rename_i heq
        exact .ofFst heq h.engRead

theorem State.Inv.slabByte {core id c l o} (h : s.Inv) : (Machine.slabByte s core id c l o).1.Inv := by
  unfold Machine.slabByte
  split
  · split
    all_goals
      rename_i heq
      exact .ofFst heq h.elemAt
  · refine h.foldlFst fun _ _ h' => ?_
    split
    · split
      all_goals
        rename_i heq
        exact .ofFst heq h'.elemAt
    · exact h'
  · dsimp only
    split
    · exact h
    · split
      · exact h
      · split
        all_goals
          rename_i heq
          exact .ofFst heq h.engRead

theorem State.Inv.slabSector {core id c l j} (h : s.Inv) : (Machine.slabSector s core id c l j).1.Inv := by
  unfold Machine.slabSector
  refine h.foldlFst fun _ _ h' => ?_
  split
  · split
    all_goals
      rename_i heq
      exact .ofFst heq h'.slabByte
  · exact h'

theorem State.Inv.copySector {core id c} (h : s.Inv) : (Machine.copySector s core id c).1.Inv := by
  unfold Machine.copySector
  dsimp only
  split
  · rename_i heq
    exact .ofFst heq (.iteFst h.engStash h.engRead)
  · rename_i heq
    exact .ofFst heq (.iteFst h.engStash h.engRead)
  · rename_i heq
    have h' := State.Inv.ofFst heq (.iteFst h.engStash h.engRead)
    exact .iteFst h'.engPutStash (.iteFst h'.engWrite (.iteFst h' h'.engWrite))

theorem State.Inv.storeSector {core id c} (h : s.Inv) : (Machine.storeSector s core id c).1.Inv := by
  unfold Machine.storeSector
  split
  · exact h
  · refine h.foldlFst fun _ _ h' => ?_
    split
    · split
      · rename_i heq
        exact (State.Inv.ofFst heq h'.engStash).engWrite
      · rename_i heq
        exact .ofFst heq h'.engStash
      · rename_i heq
        exact .ofFst heq h'.engStash
    · exact h'

theorem State.Inv.expandSector {core id c} (h : s.Inv) : (Machine.expandSector s core id c).1.Inv := by
  unfold Machine.expandSector
  split
  · rename_i heq
    exact .ofFst heq h.slabSector
  · rename_i heq
    exact .ofFst heq h.slabSector
  · rename_i heq
    have h1 := State.Inv.ofFst heq h.slabSector
    refine h1.foldlFst fun _ _ h2 => ?_
    split
    · exact h2.engPutStash
    · exact h2

theorem State.Inv.sectorDone {core id c} (h : s.Inv) : (Machine.sectorDone s core id c).Inv := by
  unfold Machine.sectorDone
  dsimp only
  split
  · refine .when (.modCmd (.engForget ?_)) fun h' => h'.countSector
    split
    · split
      · split <;> exact h
      · exact h
    · exact h
  · refine .modCmd (.engForget ?_)
    split
    · split
      · split <;> exact h
      · exact h
    · exact h

theorem State.Inv.loadIndices {core id c} (h : s.Inv) : (Machine.loadIndices s core id c).1.Inv := by
  unfold Machine.loadIndices
  split
  · refine h.foldlFst fun _ _ h1 => ?_
    split
    · split
      all_goals
        rename_i heq
        have h2 := State.Inv.ofFst heq h1.engStash
        exact h2
    · exact h1
  · exact h

theorem State.Inv.execCopySectorWritten {core cmd} (h : s.Inv) : (nextOr s (Machine.execCopySectorWritten core cmd s)).Inv := by
  unfold Machine.execCopySectorWritten
  refine .next ?_
  split
  · exact h
  · split
    · exact h.failCmd
    · refine .ite h (.ite (.ite h h.sectorDone) ?_)
      split
      · exact h
      · rename_i heq
        exact (State.Inv.ofFst heq h.loadIndices).failCmd
      · rename_i heq
        have h1 := State.Inv.ofFst heq h.loadIndices
        extract_lets r
        have hr : r.1.Inv := by
          dsimp only [r]
          split
          · exact h1.copySector
          · exact h1.copySector
          · exact h1.storeSector
          · exact h1.expandSector
        clear_value r
        split
        · exact h1.engAsk
        · exact State.Inv.failCmd hr
        · exact .ite (State.Inv.sectorDone hr) hr

theorem State.Inv.counterAdd {core c x addr} (h : s.Inv) : (Machine.counterAdd s core c x addr).Inv := h.issueAccess

theorem State.Inv.retireCmd {core id c} (h : s.Inv) : (Machine.retireCmd s core id c).Inv := by
  unfold Machine.retireCmd
  split
  · exact h.dropCmd
  · split
    · exact h.failCmd
    · split
      · exact h
      · split
        · rename_i heq
          exact (State.Inv.ofFst heq h.translate).failCmd
        · rename_i heq
          exact (State.Inv.ofFst heq h.translate).dropCmd.counterAdd

theorem State.Inv.retireCopy {core id} (h : s.Inv) : (Machine.retireCopy s core id).Inv := by
  unfold Machine.retireCopy
  split
  · exact h
  · dsimp only
    split
    · exact h.failCmd
    · split
      · exact h
      · split
        · exact .ite h (.retireCmd h)
        · split
          · exact h
          · split
            · exact h.engAsk
            · rename_i heq
              exact (State.Inv.ofFst heq h.engRead).failCmd
            · rename_i heq
              have h' := State.Inv.ofFst heq h.engRead
              exact .ite h'.failCmd (.retireCmd h')
        · exact h.retireCmd

/-! ### Encoder -/

theorem State.Inv.queueEnc {glen id c} (h : s.Inv) : (Machine.queueEnc s glen id c).Inv := h

theorem State.Inv.acceptEnc {glen c} (h : s.Inv) : (Machine.acceptEnc s glen c).1.Inv := by
  unfold Machine.acceptEnc
  dsimp only
  split
  · exact h
  · split
    · split
      · exact h
      · split
        · exact .queueEnc (.engForget h)
        · split
          · exact h.engAsk
          · exact .queueEnc (.engForget h)
          · rename_i heq
            have h' := State.Inv.ofFst heq (.engRead h)
            split
            · exact h'.engForget.queueEnc
            · split
              · exact h'.engForget.queueEnc
              · exact h'.engForget.modGlen.queueEnc
    · split
      · exact .queueEnc (.engForget h)
      · exact .iteFst (.queueEnc (.engForget h)) h
    · split
      · exact .queueEnc (.engForget h)
      · exact h

theorem State.Inv.readBand {core id c rows} (h : s.Inv) : (Machine.readBand s core id c rows).1.Inv := by
  unfold Machine.readBand
  refine h.foldlFst fun _ _ h1 => ?_
  split
  · split
    · rename_i heq
      have h2 := State.Inv.ofFst heq h1.engRead
      exact .iteFst h2 h2
    · rename_i heq
      exact .ofFst heq h1.engRead
    · rename_i heq
      exact .ofFst heq h1.engRead
  · exact h1

theorem State.Inv.writeOut {core id c ord va bs} (h : s.Inv) : (Machine.writeOut s core id c ord va bs).1.Inv := by
  unfold Machine.writeOut
  refine List.foldlRecOn (motive := fun a : (State × Got Unit) × List Byte => a.1.1.Inv) _ _ h fun a h' p _ => ?_
  split
  · exact h'.engWrite
  · exact h'

theorem State.Inv.writeSome {core id c va bs} (h : s.Inv) : (Machine.writeSome s core id c va bs).1.Inv := by
  unfold Machine.writeSome
  refine h.foldlFst fun _ _ h' => ?_
  split
  · split
    · rename_i heq
      exact .ofFst heq h'.engWrite
    · exact h'
    · rename_i heq
      exact .ofFst heq h'.engWrite
  · exact h'

theorem State.Inv.failFrame {glen k c f} (h : s.Inv) : (Machine.failFrame s glen k c f).Inv := .ite (.severity2 h) (.record h)

theorem State.Inv.writeBand {glen k f id c o} (h : s.Inv) : (Machine.writeBand s glen k f id c o).Inv := by
  unfold Machine.writeBand
  split
  · rename_i heq
    have h' := State.Inv.ofFst heq h.writeSome
    exact h'.failFrame
  · rename_i heq
    have h' := State.Inv.ofFst heq h.writeSome
    exact h'
  · rename_i heq
    have h' := State.Inv.ofFst heq h.writeSome
    exact h'

theorem State.Inv.execBandEncoded {glen frame} (h : s.Inv) : (nextOr s (Machine.execBandEncoded glen frame s)).Inv := by
  unfold Machine.execBandEncoded
  refine .next ?_
  split
  · exact h
  · split
    · exact h
    · split
      · exact h
      · dsimp only
        split
        · exact h.writeBand
        · split
          · exact h.engAsk
          · rename_i heq
            exact (State.Inv.ofFst heq h.readBand).failFrame
          · rename_i heq
            have h' := State.Inv.ofFst heq h.readBand
            exact .writeBand (.engForget h')

theorem State.Inv.dropEnc {glen id} (h : s.Inv) : (Machine.dropEnc s glen id).Inv := h.engForget.modGlen

theorem State.Inv.failEnc {glen id c f} (h : s.Inv) : (Machine.failEnc s glen id c f).Inv := .ite h.dropEnc.severity2 h.dropEnc.record

theorem State.Inv.finishEnc {glen id c} (h : s.Inv) : (Machine.finishEnc s glen id c).Inv := by
  unfold Machine.finishEnc
  split
  · exact h.dropEnc
  · split
    · exact h.failEnc
    · split
      · exact h
      · split
        · rename_i heq
          exact (State.Inv.ofFst heq h.translate).failEnc
        · rename_i heq
          exact (State.Inv.ofFst heq h.translate).dropEnc.counterAdd

theorem State.Inv.retireEnc {glen id} (h : s.Inv) : (Machine.retireEnc s glen id).Inv := by
  unfold Machine.retireEnc
  split
  · exact h
  · split
    · exact h.failEnc
    · split
      · exact h
      · split
        · exact h
        · refine h.finishEnc.unless fun h1 => ?_
          split
          · exact h.dropEnc
          · split
            · refine h.dropEnc.unless fun h2 => ?_
              split
              · exact .ite h h1
              · split
                · exact .ite h2 h
                · exact h
            · split
              · exact h
              · dsimp only
                split
                · exact h
                · rename_i heq
                  exact (State.Inv.ofFst heq h.writeOut).failEnc
                · rename_i heq
                  have h2 := State.Inv.ofFst heq h.writeOut
                  split
                  · exact .unless h2 fun h3 => h3.finishEnc
                  · exact h2

/-! ### Async -/

theorem State.Inv.acceptFrom {w oid cs} (h : s.Inv) : (Machine.acceptFrom w oid cs s).1.Inv := by
  induction cs generalizing s with
  | nil => exact h
  | cons c cs ih =>
    unfold Machine.acceptFrom
    split
    · exact h
    · extract_lets m
      refine .iteFst h ?_
      split
      · rename_i heq
        exact ih (.ofFst heq (.iteFst h.acceptEnc h.acceptCopy))
      · rename_i heq
        exact .ofFst heq (.iteFst h.acceptEnc h.acceptCopy)

theorem State.Inv.acceptCmds {w} (h : s.Inv) : (Machine.acceptCmds s w).Inv := by
  unfold Machine.acceptCmds
  split
  · exact h
  · split
    · exact h
    · split
      · exact .ite h.acceptFrom.dropOutst h.acceptFrom.modWave
      · exact h

theorem State.Inv.issueCmds {w l cs} (h : s.Inv) : (Machine.issueCmds s w l cs).Inv := .ite h (.unless h fun h' => h'.acceptCmds)

theorem State.Inv.runAsync {i o once} (h : s.Inv) : (nextOr s (Machine.runAsync i o once s)).Inv :=
  h.runWave fun _ _ _ h' => .ite h'.raiseInstr (.ite h' (.consumePoison (.issueCmds h')))

theorem State.Inv.execCommandAccept {wave} (h : s.Inv) : (nextOr s (Machine.execCommandAccept wave s)).Inv := by
  unfold Machine.execCommandAccept
  refine .next ?_
  split
  · exact .ite h.acceptCmds h
  · exact h

theorem State.Inv.execCommandRetire {unit cmd} (h : s.Inv) : (nextOr s (Machine.execCommandRetire unit cmd s)).Inv := by
  unfold Machine.execCommandRetire
  refine .next ?_
  split
  · exact h
  · split
    · exact h.retireCopy
    · exact h.retireEnc
    · exact h

theorem State.Inv.execRgive {o} (h : s.Inv) : (nextOr s (Machine.execRgive o s)).Inv :=
  h.runWave fun _ _ _ h' => .ite h'.raiseOnce (.ite h' (.givePool h'))

theorem State.Inv.execRtake {o} (h : s.Inv) : (nextOr s (Machine.execRtake o s)).Inv := h.runWave fun _ _ _ h' => .ite h'.raiseOnce (.serveTakes h')

/-! ### Stream -/

theorem State.Inv.modSeq {blk f} (h : s.Inv) : (Machine.modSeq s blk f).Inv := h

theorem State.Inv.seqDone {blk} (h : s.Inv) : (Machine.seqDone s blk).Inv := h

theorem State.Inv.seqHalt {blk addr} (h : s.Inv) : (Machine.seqHalt s blk addr).Inv := h.haltSeq.testLeft

theorem State.Inv.runStream {i op} (h : s.Inv) (hop : ∀ s blk b c, s.Inv → (op s blk b c).Inv) : (nextOr s (Machine.runStream i op s)).Inv := by
  unfold Machine.runStream
  split
  · split
    · exact h
    · split
      · exact h
      · exact .ite (hop _ _ _ _ h) h.seqHalt
  · exact h

theorem State.Inv.execMnop {rest} (h : s.Inv) : (nextOr s (Machine.execMnop rest s)).Inv := h.runStream fun _ _ _ _ h' => h'

theorem State.Inv.meterAdd {idx clocks} (h : s.Inv) : (Machine.meterAdd s idx clocks).Inv := by
  unfold Machine.meterAdd
  split
  · exact h
  · exact .ite h (.unless h fun h' => h'.leaseRecords)

theorem State.Inv.tryClaim {blk} (h : s.Inv) : (Machine.tryClaim s blk).Inv := by
  unfold Machine.tryClaim
  split
  · exact h
  · split
    · exact h
    · dsimp only
      split
      · exact .seqDone (.modSeq (h.foldl fun _ _ h' => h'))
      · exact .modSeq (.foldl (h.foldl fun _ _ h' => h') fun _ _ h' => h')

theorem State.Inv.execMteam {mode tm1 first hreg z} (h : s.Inv) : (nextOr s (Machine.execMteam mode tm1 first hreg z s)).Inv := by
  unfold Machine.execMteam
  refine h.runStream fun _ _ _ _ h' => ?_
  split
  · exact h'
  · split
    · exact h'.tryClaim
    · split
      · exact h'.seqHalt
      · exact .tryClaim h'

theorem State.Inv.countSeq {before blk} (h : s.Inv) : (Machine.countSeq before s blk).Inv := by
  unfold Machine.countSeq
  dsimp only
  split
  · exact .unless h fun h' => h'.chargeCore.chargeVd
  · exact h

theorem State.Inv.execMdesc {slot mreg z off} (h : s.Inv) : (nextOr s (Machine.execMdesc slot mreg z off s)).Inv := by
  unfold Machine.execMdesc
  refine h.runStream fun _ _ _ _ h' => ?_
  dsimp only
  split
  · exact h'.seqHalt
  · exact .ite h'.haltSeq.testLeft (.ite h' (.ite h'.readStash.seqHalt h'.readStash.modSeq.seqDone))

theorem State.Inv.queueStep {blk t f} (h : s.Inv) : (Machine.queueStep s blk t f).Inv := .ite h (.seqDone (.modSeq (.foldl h fun _ _ h' => h')))

theorem State.Inv.execMzero {kind z} (h : s.Inv) : (nextOr s (Machine.execMzero kind z s)).Inv := by
  unfold Machine.execMzero
  refine h.runStream fun _ _ _ _ h' => ?_
  split
  · exact h'.seqHalt
  · exact .ite h' h'.queueStep

theorem State.Inv.runMma {i da db ovw sparse} (h : s.Inv) : (nextOr s (Machine.runMma i da db ovw sparse s)).Inv := by
  unfold Machine.runMma
  refine h.runStream fun _ _ _ _ h1 => ?_
  split
  · exact h1.seqHalt
  · refine h1.seqHalt.unless fun h2 => ?_
    dsimp only
    split
    · exact h2
    · split
      · exact h1.seqHalt
      · split
        · exact h1.seqHalt
        · exact .ite h1 h1.queueStep.modSeq

theorem State.Inv.fillSlabs {b k} (h : s.Inv) : (Machine.fillSlabs s b k).Inv := h.foldl fun _ _ h1 => h1.foldl fun _ _ h2 => h2.fillRow

theorem State.Inv.readSlab {core word} (h : s.Inv) : (Machine.readSlab s core word).Inv := by
  unfold Machine.readSlab
  split
  · exact h
  · split
    · exact h
    · exact .ite h h.readStash.modCore

theorem State.Inv.execKstepRetire {core} (h : s.Inv) : (nextOr s (Machine.execKstepRetire core s)).Inv := by
  unfold Machine.execKstepRetire
  refine .next ?_
  split
  · exact h
  · split
    · exact h
    · split
      · exact h
      · refine .when (.releaseRetired (.unless ?_ fun h' => h'.modSeq)) fun h' => h'.severity2
        split
        · refine .meterAdd (.modVd (.modCore ?_))
          split
          · exact h.fillSlabs.unless fun h' => h'.haltSeq.testLeft
          · exact h.fillSlabs
        · refine .modVd (.modCore ?_)
          split
          · exact h.fillSlabs.unless fun h' => h'.haltSeq.testLeft
          · exact h.fillSlabs

theorem State.Inv.runLoop {i span n} (h : s.Inv) : (nextOr s (Machine.runLoop i span n s)).Inv := by
  unfold Machine.runLoop
  refine h.runStream fun _ _ _ _ h1 => ?_
  dsimp only
  split
  · exact h1.seqHalt
  · split
    · exact h1
    · split
      · rename_i heq
        exact (State.Inv.ofFst heq h1.fetchWord).haltSeq.testLeft
      · rename_i heq
        have h2 := State.Inv.ofFst heq h1.fetchWord
        exact h2.seqHalt.unless fun h3 => .ite h2 (.ite h3 h2)

theorem State.Inv.execMendl {rest} (h : s.Inv) : (nextOr s (Machine.execMendl rest s)).Inv := by
  unfold Machine.execMendl
  refine h.runStream fun _ _ _ _ h' => ?_
  split
  · exact h'.seqHalt
  · exact .ite h' h'

theorem State.Inv.execMset {mreg imm} (h : s.Inv) : (nextOr s (Machine.execMset mreg imm s)).Inv := h.runStream fun _ _ _ _ h' => h'

theorem State.Inv.execMadd {mreg imm} (h : s.Inv) : (nextOr s (Machine.execMadd mreg imm s)).Inv := h.runStream fun _ _ _ _ h' => h'

theorem State.Inv.execMbuf {slots z} (h : s.Inv) : (nextOr s (Machine.execMbuf slots z s)).Inv := h.runStream fun _ _ _ _ h' => .ite h'.seqHalt h'

theorem State.Inv.execMbarw {bar mreg inc z} (h : s.Inv) : (nextOr s (Machine.execMbarw bar mreg inc z s)).Inv :=
  h.runStream fun _ _ _ _ h' => .ite h' h'

theorem State.Inv.execMbara {bar lag z} (h : s.Inv) : (nextOr s (Machine.execMbara bar lag z s)).Inv :=
  h.runStream fun _ _ _ _ h' => .ite h'.seqHalt (.ite h' (.modBarrier h'))

theorem State.Inv.execMfence {rest} (h : s.Inv) : (nextOr s (Machine.execMfence rest s)).Inv := h.runStream fun _ _ _ _ h' => .ite h' h'

theorem State.Inv.execMend {rest} (h : s.Inv) : (nextOr s (Machine.execMend rest s)).Inv := h.runStream fun _ _ _ _ h' => .ite (.testLeft h') h'

theorem State.Inv.issueSeq {blk} (h : s.Inv) : (Machine.issueSeq s blk).state.Inv := by
  unfold Machine.issueSeq
  split
  · exact h
  · split
    · exact h
    · split
      · exact h
      · split
        · rename_i heq
          exact (State.Inv.ofFst heq h.fetchWord).haltSeq.testLeft
        · rename_i heq
          have h' := State.Inv.ofFst heq h.fetchWord
          split
          · exact h'.seqHalt
          · exact h'

/-! ### Mxs -/

theorem State.Inv.fillBands {blk r} (h : s.Inv) : (Machine.fillBands s blk r).Inv := by
  unfold Machine.fillBands
  refine h.foldl fun _ _ h' => ?_
  split
  · exact h'.fillRow
  · exact h'

theorem State.Inv.completeMx {wid id r lanes} (h : s.Inv) : (Machine.completeMx s wid id r lanes).Inv := by
  unfold Machine.completeMx
  split
  · exact h
  · split
    · exact h
    · split
      · exact h
      · dsimp only
        split
        · exact h.fillBands.setWave.consumePoison
        · exact h.fillBands.dropOutst

theorem State.Inv.runMx {i srcs bad needTeam o lanes held op} (h : s.Inv) (hop : ∀ s w wv ls, s.Inv → (op s w wv ls).Inv) :
    (nextOr s (Machine.runMx i srcs bad needTeam o lanes held op s)).Inv :=
  h.runWave fun _ _ _ h1 => .ite h1.raiseInstr (.ite h1 (.ite h1.raiseInstr
    (.consumePoison (.finishMem (.unless (hop _ _ _ _ h1) fun h2 => h2.modWave)))))

theorem State.Inv.execMxrd {o} (h : s.Inv) : (nextOr s (Machine.execMxrd o s)).Inv :=
  h.runMx fun _ _ _ _ h1 => .ite h1 (.unless h1 fun h2 => h2.completeMx)

theorem State.Inv.execMxwr {o} (h : s.Inv) : (nextOr s (Machine.execMxwr o s)).Inv :=
  h.runMx fun _ _ _ _ h1 => h1.foldl fun _ _ h2 => h2.foldl fun _ _ h3 => .ite h3 h3

theorem State.Inv.execMxstat {o} (h : s.Inv) : (nextOr s (Machine.execMxstat o s)).Inv := h.runMx fun _ _ _ _ h' => h'

theorem State.Inv.completeOutst {wid id lanes} (h : s.Inv) : (Machine.completeOutst s wid id lanes).Inv := by
  unfold Machine.completeOutst
  split
  · exact h
  · split
    · exact h
    · split
      · exact h.completeMx
      · exact h.completeLoad

theorem State.Inv.execSaddleUpdateApply {die seq} (h : s.Inv) : (nextOr s (Machine.execSaddleUpdateApply die seq s)).Inv := by
  unfold Machine.execSaddleUpdateApply
  refine .next ?_
  split
  · exact h
  · dsimp only
    split
    · exact h
    · split
      · exact h
      · exact .dropAccess (.performMem h)

theorem State.Inv.execAppliedNotice {die seq} (h : s.Inv) : (nextOr s (Machine.execAppliedNotice die seq s)).Inv := by
  unfold Machine.execAppliedNotice
  refine .next ?_
  split
  · exact h
  · exact .ite h h.mergeKnown

/-! ### Order -/

theorem State.Inv.passKey {j} (h : s.Inv) : (Machine.passKey s j).Inv := h

theorem State.Inv.gatesOpen {job gs} (h : s.Inv) : (Machine.gatesOpen job gs s).1.Inv := by
  induction gs generalizing s with
  | nil => exact h
  | cons i gs ih =>
    unfold Machine.gatesOpen
    split
    · rename_i heq
      exact .ofFst heq h.gateOpen
    · rename_i heq
      exact ih (.ofFst heq h.gateOpen)

/-! ### Carve -/

theorem State.Inv.endConversion {core} (h : s.Inv) : (Machine.endConversion s core).Inv := by
  unfold Machine.endConversion
  dsimp only
  split
  · exact h
  · exact .ite h h

theorem State.Inv.beginConversion {core k} (h : s.Inv) : (Machine.beginConversion s core k).Inv := .endConversion h

theorem State.Inv.start {x} (h : s.Inv) : (Machine.Need.start s x).Inv := by
  unfold Machine.Need.start
  split
  · exact h
  · split
    · exact h
    · refine h.foldl fun _ _ h' => ?_
      split
      · exact h'.beginConversion
      · exact h'

theorem State.Inv.startConversion {j} (h : s.Inv) : (Machine.startConversion s j).Inv := h.start

/-! ### ReadBack -/

theorem State.Inv.readWaves {ws bs bad} (h : s.Inv) : (Machine.readWaves ws bs bad s).Inv := by
  induction ws generalizing s bs bad with
  | nil => exact h
  | cons w ws ih => exact ih h.modWave

theorem State.Inv.readBack {blk size} (h : s.Inv) : (Machine.readBack s blk size).Inv := by
  unfold Machine.readBack
  split
  · exact h
  · split
    · split
      · exact h
      · extract_lets bad t u
        have h1 : t.Inv := h.markRead.modBlock
        exact .readWaves (h1.frame rfl)
    · exact h

/-! ### Save -/

theorem State.Inv.reserveSave {vale vd n card} (h : s.Inv) : (Machine.reserveSave s vale vd n card).1.Inv := by
  unfold Machine.reserveSave
  split
  · exact h
  · split
    · exact h
    · exact .modVd (.ite h h.record)

theorem State.Inv.freeSave {vale vd a} (h : s.Inv) : (Machine.freeSave s vale vd a).Inv := h

theorem State.Inv.stopForSave {blk fork at_} (h : s.Inv) : (Machine.stopForSave s blk fork at_).Inv := h

theorem State.Inv.stopTasks {job core} (h : s.Inv) : (Machine.stopTasks s job core).Inv := by
  unfold Machine.stopTasks
  split
  · exact h
  · exact h.foldl fun _ _ h' => .ite (.ite h'.makeIrrevocable h') h'.abortTask

theorem State.Inv.refuseSave {b ms} (h : s.Inv) : (Machine.refuseSave s b ms).Inv := h.reserveSave

theorem State.Inv.chooseSave {blk} (h : s.Inv) : (Machine.chooseSave s blk).Inv := by
  unfold Machine.chooseSave
  split
  · exact h
  · split
    · exact h
    · split
      · exact h.refuseSave
      · dsimp only
        split
        · exact .ite h.stopTasks h
        · refine .foldl (.ite h.stopTasks h) fun _ _ h1 => ?_
          split
          all_goals
            rename_i heq
            have h2 := State.Inv.ofFst heq h1.reserveSave
            exact h2

theorem State.Inv.settleFault {w wv} (h : s.Inv) : (Machine.settleFault s w wv).Inv := by
  unfold Machine.settleFault
  split
  · exact h.resumeTrap
  · split
    · exact h.deliverLate
    · exact h

theorem State.Inv.putBad {vale vd a p} (h : s.Inv) : (Machine.putBad s vale vd a p).Inv := h.foldl fun _ _ h' => h'.ipaPut

theorem State.Inv.putRecords {vale vd a ps} (h : s.Inv) : (Machine.putRecords s vale vd a ps).1.Inv := by
  induction ps generalizing s a with
  | nil => exact h
  | cons p ps ih =>
    unfold Machine.putRecords
    split
    · exact h
    · split
      · exact h
      · split
        · exact h
        · rename_i heq
          exact ih (State.Inv.ofSome heq h.ipaWrite).putBad

theorem State.Inv.flushRows {blk} (h : s.Inv) : (Machine.flushRows s blk).Inv := by
  unfold Machine.flushRows
  split
  · exact h
  · exact .modBlock (h.foldl fun _ _ h' => h'.writeRowBack)

theorem State.Inv.finishSave {blk} (h : s.Inv) : (Machine.finishSave s blk).Inv := by
  unfold Machine.finishSave
  split
  · exact h
  · split
    · extract_lets t
      have h1 : t.Inv := h.flushRows.foldl fun _ _ h' => h'.engForget
      split
      · exact h1
      · split
        · rename_i heq
          exact .severity2 (.ofFst heq h1.putRecords)
        · rename_i heq
          have h2 := State.Inv.ofFst heq h1.putRecords
          extract_lets es code u v w x
          have h3 : u.Inv := h2.releaseTeam
          have h4 : v.Inv := h3.frame rfl
          have h5 : w.Inv := h4.bumpGen
          have h6 : x.Inv := by
            dsimp only [x]
            split
            · exact h5.modTask
            · exact h5
          split
          exact h6.modBlock
    · exact h

theorem State.Inv.retireInstead {blk b} (h : s.Inv) : (Machine.retireInstead s blk b).Inv := .finishBlock h

theorem State.Inv.execBlockSaveDone {blk} (h : s.Inv) : (nextOr s (Machine.execBlockSaveDone blk s)).Inv := by
  unfold Machine.execBlockSaveDone
  refine .next ?_
  split
  · exact h
  · dsimp only
    split
    · exact h
    · split
      · exact .ite h.makeIrrevocable h
      · split
        · exact h.settleFault
        · split
          · exact h.retireInstead
          · exact h.foldl fun _ _ h' => h'.finishSave

theorem State.Inv.execSaveDrainTimeout {blk} (h : s.Inv) : (nextOr s (Machine.execSaveDrainTimeout blk s)).Inv := by
  unfold Machine.execSaveDrainTimeout
  refine .next ?_
  split
  · exact h
  · split
    · exact .ite h h.severity2
    · exact h

theorem State.Inv.putTables {core vale vd t} (h : s.Inv) : (Machine.putTables s core vale vd t).Inv := .ite h h

theorem State.Inv.loadTables {core b} (h : s.Inv) : (Machine.loadTables s core b).Inv := by
  unfold Machine.loadTables
  split
  · exact h
  · exact h.putTables

theorem State.Inv.reclaim {blk} (h : s.Inv) : (Machine.reclaim s blk).Inv := by
  unfold Machine.reclaim
  split
  · exact h
  · split
    · exact h
    · exact .ite h (.tryClaim h)

theorem State.Inv.wakeVd {vale vd} (h : s.Inv) : (Machine.wakeVd s vale vd).Inv := h

theorem State.Inv.settleResumed {w} (h : s.Inv) : (Machine.settleResumed s w).Inv := by
  unfold Machine.settleResumed
  split
  · exact .ite h.settleFault h
  · exact h

theorem State.Inv.placeSaved {blk core} (h : s.Inv) : (Machine.placeSaved s blk core).Inv := by
  unfold Machine.placeSaved
  extract_lets t
  have h1 : t.Inv := h.readBack
  split
  · exact h1
  · extract_lets card roles tracks base u v w deficit x y takes z z1 z2
    have hu : u.Inv := h1.foldl fun _ _ h' => h'.foldl fun _ _ h'' => h''.modWave
    have hx : x.Inv := hu.loadTables.wakeVd.freeSave.modBlock
    have hy : y.Inv := by
      dsimp only [y]
      split
      · exact hx.modTask
      · exact hx
    have hz : z.Inv := .dropL1 (hy.frame rfl)
    exact .foldl (.foldl hz.modCore fun _ _ h' => h'.serveTakes) fun _ _ h' => h'.settleResumed

theorem State.Inv.resumeOn {b places} (h : s.Inv) : (Machine.resumeOn s b places).Inv := by
  unfold Machine.resumeOn
  dsimp only
  split
  · exact .passKey (.gateAcquire (.foldl (h.foldl fun _ _ h' => h'.placeSaved) fun _ _ h' => h'.reclaim))
  · exact .foldl (h.foldl fun _ _ h' => h'.placeSaved) fun _ _ h' => h'.reclaim

theorem State.Inv.resumeRoom {b ms} (h : s.Inv) : (Machine.resumeRoom s b ms).Inv := .ite h.makeRoom h.start

theorem State.Inv.execBlockResume {blk core} (h : s.Inv) : (nextOr s (Machine.execBlockResume blk core s)).Inv := by
  unfold Machine.execBlockResume
  refine .next ?_
  split
  · exact h
  · split
    · exact h
    · dsimp only
      split
      · exact h
      · split
        · rename_i heq
          exact .ofFst heq h.gatesOpen
        · rename_i heq
          have h' := State.Inv.ofFst heq h.gatesOpen
          split
          · exact h'.resumeRoom
          · split
            · exact h'
            · exact .ite h' h'.resumeOn

/-! ### Queue -/

theorem State.Inv.fetchNat {vale ipa n} (h : s.Inv) : (Machine.fetchNat s vale ipa n).1.Inv := h.markRead

theorem State.Inv.writePost {vale vd q x} (h : s.Inv) : (Machine.writePost s vale vd q x).Inv := by
  unfold Machine.writePost
  dsimp only
  split
  · exact h
  · exact h.ipaWrite

theorem State.Inv.poolPop {vale vd q} (h : s.Inv) : (Machine.poolPop s vale vd q).state.Inv := by
  unfold Machine.poolPop
  dsimp only
  split
  · rename_i heq
    exact .ofFst heq h.fetchNat
  · rename_i heq
    exact .ofFst heq h.fetchNat
  · rename_i heq
    have h' := State.Inv.ofFst heq h.fetchNat
    split
    · split
      · rename_i heq
        exact .ofSome heq h'.markRead.ipaWrite
      · exact h'.markRead
    · exact h'.markRead

theorem State.Inv.linkSegment {vale vd q ipa seg} (h : s.Inv) : ((Machine.linkSegment s vale vd q ipa seg).getD s).Inv := by
  unfold Machine.linkSegment
  cases hw : Machine.ipaWrite s vale vd ipa (bytesLE 8 (seg + 1)) with
  | none => exact h
  | some t => exact (State.Inv.ofSome hw h.ipaWrite).qcbPut

theorem State.Inv.poolPush {vale vd q ipa seg} (h : s.Inv) : (Machine.poolPush s vale vd q ipa seg).Inv := by
  unfold Machine.poolPush
  dsimp only
  split
  · rename_i heq
    exact .ofFst heq h.fetchNat
  · rename_i heq
    exact (State.Inv.ofFst heq h.fetchNat).ipaWrite.ipaWrite.ipaWrite.qcbPut

theorem State.Inv.linkFails {vale vd q ipa} (h : s.Inv) : (Machine.linkFails s vale vd q ipa).Inv := h.openEpisode.modQueue

theorem State.Inv.linkGood {vale vd q} (h : s.Inv) : (Machine.linkGood s vale vd q).Inv := h.closeEpisode.closeEpisode.when fun h' => h'.modQueue

theorem State.Inv.segmentOf {vale vd q n} (h : s.Inv) : (Machine.segmentOf s vale vd q n).1.Inv := by
  unfold Machine.segmentOf
  split
  · exact h
  · dsimp only
    split
    · exact h.markRead.linkGood
    · exact h.markRead.linkFails
    · split
      · rename_i heq
        have h' := State.Inv.ofTaken heq h.markRead.poolPop
        split
        · rename_i heq
          exact (State.Inv.ofSome heq h'.linkSegment).linkGood
        · exact h'.linkFails
      · rename_i heq
        have h' := State.Inv.ofTaken heq h.markRead.poolPop
        exact .ite h' h'.openEpisode
      · rename_i heq
        exact (State.Inv.ofTaken heq h.markRead.poolPop).linkFails

theorem State.Inv.retireCard {vale vd q n} (h : s.Inv) : (Machine.retireCard s vale vd q n).Inv := by
  unfold Machine.retireCard
  refine .unless (h.qcbPut.when fun h1 => h1.qcbPut.modQueue) fun h1 => ?_
  dsimp only
  split
  · rename_i heq
    have h2 := State.Inv.ofFst heq h1.fetchNat
    exact .ite h2.poolPush h2
  · rename_i heq
    exact .ofFst heq h1.fetchNat

theorem State.Inv.cardDone {vale vd q n} (h : s.Inv) : (Machine.cardDone s vale vd q n).Inv := .ite h h.retireCard

theorem State.Inv.setRepeat {vale vd q on} (h : s.Inv) : (Machine.setRepeat s vale vd q on).Inv := h.qcbPut

theorem State.Inv.dropCard {vale vd q} (h : s.Inv) : (Machine.dropCard s vale vd q).Inv := .cardDone h

theorem State.Inv.rejectCard {vale vd q reason word} (h : s.Inv) : (Machine.rejectCard s vale vd q reason word).Inv := h.record.modQueue.dropCard

theorem State.Inv.completionAdd {job vale vd addr card} (h : s.Inv) : (Machine.completionAdd s job vale vd addr card).Inv := by
  unfold Machine.completionAdd
  dsimp only
  split
  · exact h
  · split
    · rename_i heq
      exact (State.Inv.ofFst heq h.translate).record
    · rename_i heq
      exact (State.Inv.ofFst heq h.translate).issueAccess

/-! ### Fork -/

theorem State.Inv.forkReserve {vale vd} (h : s.Inv) : (Machine.forkReserve s vale vd).1.Inv := by
  unfold Machine.forkReserve
  dsimp only
  split
  · exact h
  · split
    · split
      all_goals
        rename_i heq
        exact .ofFst heq h.segmentOf
    · split
      · exact h.openEpisode
      · exact h
      · split
        · rename_i heq
          exact .ofTaken heq h.poolPop
        · rename_i heq
          exact (State.Inv.ofTaken heq h.poolPop).openEpisode
        · rename_i heq
          have h1 := State.Inv.ofTaken heq h.poolPop
          split
          · exact h1.openEpisode
          · rename_i heq
            have h2 := State.Inv.ofSome heq h1.linkSegment
            split
            all_goals
              rename_i heq
              exact .ofFst heq h2.segmentOf

theorem State.Inv.forkWrite {vale vd job n seg card flag} (h : s.Inv) : ((Machine.forkWrite s vale vd job n seg card flag).getD s).Inv := by
  unfold Machine.forkWrite
  extract_lets w0 w1
  split
  · exact h
  · rename_i heq
    have h1 := State.Inv.ofSome heq h.ipaWrite
    exact .found (.modQueue (.qcbPut (.qcbPut h1.writePost)))

theorem State.Inv.forkCard {w wv a} (h : s.Inv) : (Machine.forkCard s w wv a).1.Inv := by
  unfold Machine.forkCard
  split
  · exact h
  · split
    · rename_i heq
      exact (State.Inv.ofFst heq h.engRead).engForget
    · exact h.engAsk
    · rename_i heq
      have h' := State.Inv.ofFst heq h.engRead
      exact .iteFst h'.engForget h'.engForget

theorem State.Inv.forkCtr {wv a} (h : s.Inv) : (Machine.forkCtr s wv a).1.Inv := by
  unfold Machine.forkCtr
  split
  · exact h
  · split
    · rename_i heq
      exact .ofFst heq h.translate
    · rename_i heq
      have h' := State.Inv.ofFst heq h.translate
      split <;> exact h'

theorem State.Inv.execForkDetach {o} (h : s.Inv) : (nextOr s (Machine.execForkDetach o s)).Inv := by
  unfold Machine.execForkDetach
  refine h.runOnce fun _ _ _ h1 => ?_
  split
  · exact h1.raiseInstr
  · split
    · exact h1
    · split
      · rename_i heq
        exact .ofFst heq h1.forkCard
      · rename_i heq
        exact (State.Inv.ofFst heq h1.forkCard).raiseOnce
      · rename_i heq
        have h2 := State.Inv.ofFst heq h1.forkCard
        refine .setWave ?_
        split
        · rename_i heq
          exact .ofFst heq h2.forkReserve
        · rename_i heq
          have h3 := State.Inv.ofFst heq h2.forkReserve
          split
          · rename_i heq
            exact .ofSome heq h3.forkWrite
          · exact h3.openEpisode

theorem State.Inv.execForkSuspend {o} (h : s.Inv) : (nextOr s (Machine.execForkSuspend o s)).Inv := by
  unfold Machine.execForkSuspend
  refine h.runOnce fun _ _ _ h' => ?_
  split
  · exact h'.raiseOnce
  · exact .ite h' h'

theorem State.Inv.passForks {blk status} (h : s.Inv) : (Machine.passForks s blk status).Inv := h

theorem State.Inv.forkSuspend {blk b card ptr ctr target} (h : s.Inv) : (Machine.forkSuspend s blk b card ptr ctr target).Inv := by
  unfold Machine.forkSuspend
  extract_lets here
  clear_value here
  split
  · rename_i heq
    exact (State.Inv.ofFst heq h.forkReserve).passForks
  · rename_i heq
    have h1 := State.Inv.ofFst heq h.forkReserve
    split
    rename_i u room heq
    have h2 : u.Inv := .ofFst heq (by
      split
      · exact h1
      · exact h1.reserveSave)
    split
    · exact h2.passForks
    · split
      · extract_lets v
        have h3 : v.Inv := .ite h2.freeSave h2
        exact h3.openEpisode.passForks
      · rename_i heq
        exact .stopForSave (.modBlock (.passForks (.ofSome heq h2.forkWrite)))

theorem State.Inv.forkTurn {blk} (h : s.Inv) : (Machine.forkTurn s blk).Inv := by
  unfold Machine.forkTurn
  split
  · exact h
  · extract_lets ws ready open_
    split
    · exact h
    · clear_value ws ready
      split
      · exact h
      · split
        · extract_lets off fail
          have hfail (t : State) (f : AddrFault) (h' : t.Inv) : (fail t f).Inv := h'.raiseOnce
          split
          · exact hfail _ _ h
          · split
            · rename_i heq
              exact .ofFst heq h.forkCard
            · rename_i heq
              exact hfail _ _ (.ofFst heq h.forkCard)
            · rename_i heq
              have h1 := State.Inv.ofFst heq h.forkCard
              split
              · rename_i heq
                exact hfail _ _ (.ofFst heq h1.forkCtr)
              · rename_i heq
                exact (State.Inv.ofFst heq h1.forkCtr).forkSuspend
        · exact h

theorem State.Inv.execSuspendWake {blk} (h : s.Inv) : (nextOr s (Machine.execSuspendWake blk s)).Inv := by
  unfold Machine.execSuspendWake
  refine .next ?_
  split
  · exact h
  · split
    · dsimp only
      split
      · exact h
      · split
        · rename_i heq
          exact .ofFst heq h.partRead
        · rename_i heq
          have h1 := State.Inv.ofFst heq h.partRead
          exact .holdRead (.modVd (.ite h1 h1.record))
        · rename_i heq
          have h1 := State.Inv.ofFst heq h.partRead
          exact h1.engForget.modVd.when fun h2 => h2.modBlock
    · exact h

/-! ### Cards -/

theorem State.Inv.refresh {vale vd q} (h : s.Inv) : (Machine.refresh s vale vd q).Inv := .ite h h.writeState

theorem State.Inv.postFail {vale vd q f} (h : s.Inv) : (Machine.postFail s vale vd q f).Inv := .ite h h.record.modQueue

theorem State.Inv.lookPost {vale vd q} (h : s.Inv) : (Machine.lookPost s vale vd q).1.Inv := by
  unfold Machine.lookPost
  extract_lets a t
  have h1 : t.Inv := .ite h.markRead h
  split
  · exact h1
  · split
    · exact .pair h1.postFail.holdRead
    · rename_i u seen _ _ _ _
      have h2 : u.Inv := h1.closeEpisode
      split
      rename_i heq
      have h3 := State.Inv.ofFst heq (by
        split
        · exact .pair h2.setEpisode
        · extract_lets v
          have h4 : v.Inv := h2.setEpisode
          exact .iteFst (.pair h4) (.pair h4.qcbPut))
      exact .pair h3.setEpisode

theorem State.Inv.fetchHead {vale addr rep} (h : s.Inv) : (Machine.fetchHead s vale addr rep).1.Inv := h.markRead

theorem State.Inv.nextCard {vale vd q avail} (h : s.Inv) : (Machine.nextCard s vale vd q avail).1.Inv := by
  unfold Machine.nextCard
  dsimp only
  split
  · split
    · exact h.fetchHead
    · exact h
  · split
    · exact h
    · split
      · rename_i heq
        exact .ofFst heq h.segmentOf
      · rename_i heq
        exact (State.Inv.ofFst heq h.segmentOf).fetchHead

theorem State.Inv.takeCard {vale vd q h0} (h : s.Inv) : (Machine.takeCard s vale vd q h0).Inv := by
  unfold Machine.takeCard
  dsimp only
  split
  · exact .rejectCard (.modQueue (.dropL1 (.ite h.setRepeat h.qcbPut.qcbPut)))
  · split
    · exact .rejectCard (.modQueue (.dropL1 (.ite h.setRepeat h.qcbPut.qcbPut)))
    · exact .modQueue (.dropL1 (.ite h.setRepeat h.qcbPut.qcbPut))

theorem State.Inv.execFetchCard {vale vd queue} (h : s.Inv) : (nextOr s (Machine.execFetchCard vale vd queue s)).Inv := by
  unfold Machine.execFetchCard
  refine .next ?_
  dsimp only
  split
  · exact h
  · split
    · exact h
    · split
      · exact h.openEpisode.refresh
      · split
        · rename_i heq
          exact (State.Inv.ofFst heq h.closeEpisode.lookPost).refresh
        · rename_i heq
          have h1 := State.Inv.ofFst heq h.closeEpisode.lookPost
          split
          · rename_i heq
            exact (State.Inv.ofFst heq h1.nextCard).refresh
          · rename_i heq
            have h2 := State.Inv.ofFst heq h1.nextCard
            exact .ite h2.takeCard.refresh h2.refresh

theorem State.Inv.execPluginInvocation {vale vd queue answer} (h : s.Inv) : (nextOr s (Machine.execPluginInvocation vale vd queue answer s)).Inv := by
  unfold Machine.execPluginInvocation
  refine .next ?_
  split
  · split
    · exact h
    · dsimp only
      split
      · exact .refresh (.qcbPut h)
      · exact h
  · exact h

theorem State.Inv.execParkuntilExpiry {vale vd queue} (h : s.Inv) : (nextOr s (Machine.execParkuntilExpiry vale vd queue s)).Inv :=
  .next (.ite h.refresh h)

theorem State.Inv.pluginDeadline {vale vd q x dl} (h : s.Inv) : (Machine.pluginDeadline s vale vd q x dl).1.Inv := by
  unfold Machine.pluginDeadline
  extract_lets bad
  have hbad (a b c : Nat) : (bad a b c).Inv := h.record
  clear_value bad
  rcases x.stage with _ | plug | _ | _
  · exact h
  · rcases plug with _ | a
    · exact h
    · cases a with
      | deadline =>
        cases dl with
        | none => exact h
        | some => exact .iteFst h (hbad _ _ _)
      | park => exact h
      | limit => exact hbad _ _ _
      | fault => exact hbad _ _ _
  · exact h
  · exact h

theorem State.Inv.fixDeadline {vale vd q} (h : s.Inv) : (Machine.fixDeadline s vale vd q).Inv := by
  unfold Machine.fixDeadline
  refine .modQueue ?_
  split
  · exact .qcbPut (.pluginDeadline h)
  · exact .pluginDeadline h

theorem State.Inv.takeUntil {j l} (h : s.Inv) : ((Machine.takeUntil s j l).getD s).Inv := by
  induction l generalizing s with
  | nil =>
    unfold Machine.takeUntil
    split <;> exact h
  | cons e l ih =>
    unfold Machine.takeUntil
    split
    · exact h
    · exact .getD h (ih h.chooseSave)

theorem State.Inv.preemptFor {j d} (h : s.Inv) : (Machine.preemptFor s j d).Inv := by
  unfold Machine.preemptFor
  split
  · exact h
  · split
    · rename_i heq
      exact .ofSome heq h.takeUntil
    · exact h.foldl fun _ _ h' => .ite h' h'.refuseSave

theorem State.Inv.switchOut {vale vd} (h : s.Inv) : (Machine.switchOut s vale vd).Inv := by
  unfold Machine.switchOut
  split
  · exact h
  · exact .ite h (.ite h (h.foldl fun _ _ h' => h'.chooseSave))

theorem State.Inv.relieve {j} (h : s.Inv) : (Machine.relieve s j).Inv := by
  unfold Machine.relieve
  split
  · exact h
  · exact h.foldl fun _ _ h' => .ite h'.switchOut h'

theorem State.Inv.launchCard {vale vd q card dl} (h : s.Inv) : (Machine.launchCard s vale vd q card dl).Inv := by
  unfold Machine.launchCard
  refine .startConversion (.relieve ?_)
  split
  · refine .preemptFor (.refresh (.modQueue ?_))
    split
    · exact .jobAcquire h
    · exact h
  · refine .refresh (.modQueue ?_)
    split
    · exact .jobAcquire h
    · exact h

theorem State.Inv.tryLaunch {vale vd q card dl} (h : s.Inv) : (Machine.tryLaunch s vale vd q card dl).Inv := .ite h h.launchCard

theorem State.Inv.abandonPrologue {vale vd q wid w cause detail addr word} (h : s.Inv) :
    (Machine.abandonPrologue s vale vd q wid w cause detail addr word).Inv :=
  .rejectCard (.setRepeat h.record)

theorem State.Inv.holdRepeat {vale vd q card} (h : s.Inv) : (Machine.holdRepeat s vale vd q card).Inv := by
  unfold Machine.holdRepeat
  split
  · exact h
  · dsimp only
    split
    · rename_i heq
      exact (State.Inv.ofSome heq h.ipaWrite).setRepeat
    · exact h.severity2

theorem State.Inv.finishPrologue {vale vd q dl wid w} (h : s.Inv) : (Machine.finishPrologue s vale vd q dl wid w).Inv := by
  unfold Machine.finishPrologue
  dsimp only
  split
  · split <;> exact h.abandonPrologue
  · split
    · exact .abandonPrologue h
    · split
      · exact .rejectCard h
      · split
        · exact .refresh (.dropCard (.modQueue (.completionAdd h)))
        · exact .unless h fun h1 => .when (.ite (.holdRepeat (h1.frame rfl)) (h1.frame rfl)) fun h2 => h2.launchCard

theorem State.Inv.execPrologueStart {vale vd queue} (h : s.Inv) : (nextOr s (Machine.execPrologueStart vale vd queue s)).Inv := by
  unfold Machine.execPrologueStart
  refine .next ?_
  dsimp only
  split
  · exact .ite h h
  · exact h

theorem State.Inv.execCardReady {vale vd queue} (h : s.Inv) : (nextOr s (Machine.execCardReady vale vd queue s)).Inv := by
  unfold Machine.execCardReady
  refine .next ?_
  dsimp only
  split
  · exact h
  · split
    · split
      · exact h
      · split
        · exact h.fixDeadline.unless fun h' => h'.tryLaunch
        · exact h.fixDeadline
    · exact .ite h h.tryLaunch
    · split
      · exact .ite h.finishPrologue h
      · exact h
    · exact h

/-! ### Sched -/

theorem State.Inv.execDealChunk {job glen} (h : s.Inv) : (nextOr s (Machine.execDealChunk job glen s)).Inv := by
  unfold Machine.execDealChunk
  refine .next ?_
  split
  · exact h
  · split
    · exact h
    · split
      · exact h.relieve.startConversion
      · split
        · exact h
        · split
          · rename_i heq
            exact .ofFst heq h.gateOpen
          · rename_i heq
            have h' := State.Inv.ofFst heq h.gateOpen
            dsimp only
            split
            · exact h'
            · split
              · exact h'.relieve.startConversion
              · split
                · exact h'
                · exact .refresh h'

theorem State.Inv.execPlaceRound {job slot} (h : s.Inv) : (nextOr s (Machine.execPlaceRound job slot s)).Inv := by
  unfold Machine.execPlaceRound
  refine .next ?_
  split
  · exact h
  · split
    · exact h
    · dsimp only
      split
      · exact h
      · split
        · rename_i heq
          exact .ofFst heq h.gatesOpen
        · rename_i heq
          have h1 := State.Inv.ofFst heq h.gatesOpen
          exact .refresh (.modJob (h1.gateAcquire.fresh.foldlFst fun _ _ h2 => h2.placeBlock))

theorem State.Inv.dropJob {job} (h : s.Inv) : (Machine.dropJob s job).Inv := h

theorem State.Inv.execJobRetire {job} (h : s.Inv) : (nextOr s (Machine.execJobRetire job s)).Inv := by
  unfold Machine.execJobRetire
  refine .next ?_
  split
  · exact h
  · exact .ite h h.completionAdd.dropJob.modQueue.cardDone.refresh

theorem State.Inv.startPeriod {vale vd} (h : s.Inv) : (Machine.startPeriod s vale vd).Inv := by
  unfold Machine.startPeriod
  split <;> exact h

theorem State.Inv.execPeriodBoundary {vale vd} (h : s.Inv) : (nextOr s (Machine.execPeriodBoundary vale vd s)).Inv := by
  unfold Machine.execPeriodBoundary
  refine .next ?_
  split
  · exact h
  · exact .ite h (h.startPeriod.modVd.foldl fun _ _ h' => h'.refresh)

theorem State.Inv.execWakeBoostEnd {vale vd} (h : s.Inv) : (nextOr s (Machine.execWakeBoostEnd vale vd s)).Inv := .next h

theorem State.Inv.execAccountingWindow {channel} (h : s.Inv) : (nextOr s (Machine.execAccountingWindow channel s)).Inv :=
  .next (h.foldl fun _ _ h1 => .ite (h1.foldl fun _ _ h2 => h2) h1)

/-! ### Ckpt -/

theorem State.Inv.abortOthers {job} (h : s.Inv) : (Machine.abortOthers s job).Inv := by
  unfold Machine.abortOthers
  split
  · exact h
  · refine h.foldl fun _ _ h' => ?_
    split
    · exact h'
    · exact .ite h' h'.abortTask

theorem State.Inv.writeRows {vale vd} (h : s.Inv) : (Machine.writeRows s vale vd).Inv := by
  unfold Machine.writeRows
  refine h.foldl fun _ _ h1 => ?_
  split
  · exact h1.foldl fun _ _ h2 => .ite h2 h2.writeRowBack
  · exact h1

theorem State.Inv.haltCut {vale vd} (h : s.Inv) : (Machine.haltCut s vale vd).Inv := .ite h (h.writeRows.modVd.foldl fun _ _ h' => h'.abortOthers)

theorem State.Inv.haltCuts (h : s.Inv) : (Machine.haltCuts s).Inv := h.foldl fun _ _ h1 => h1.foldl fun _ _ h2 => .ite h2.haltCut h2

theorem State.Inv.settleFrontier {job q} (h : s.Inv) : (Machine.settleFrontier s job q).Inv := by
  unfold Machine.settleFrontier
  split
  · exact h
  · exact .ite h (.ite h.commitTask h.makeIrrevocable)

theorem State.Inv.putRaw {vale vd last a ps} (h : s.Inv) : (Machine.putRaw s vale vd last a ps).1.Inv := by
  induction ps generalizing s a with
  | nil => exact h
  | cons p ps ih =>
    unfold Machine.putRaw
    split
    · exact ih h
    · split
      · exact h
      · rename_i heq
        have h1 := State.Inv.ofSome heq h.ipaWriteRaw
        exact ih (h1.foldl fun _ _ h' => h'.ipaPutBy)

theorem State.Inv.abandonCut {vale vd} (h : s.Inv) : (Machine.abandonCut s vale vd).Inv := h

theorem State.Inv.abandonSwitch {vale vd} (h : s.Inv) : (Machine.abandonSwitch s vale vd).Inv := by
  unfold Machine.abandonSwitch
  dsimp only
  split
  · exact .beginRollback h
  · exact .foldl h fun _ _ h' => h'.chooseSave

theorem State.Inv.leaveCores {vale vd im} (h : s.Inv) : (Machine.leaveCores s vale vd im).Inv := h.foldl fun _ _ h' => h'

theorem State.Inv.completeCut {vale vd im c} (h : s.Inv) : (Machine.completeCut s vale vd im c).Inv := .when h fun h' => h'.leaveCores

theorem State.Inv.imageFailed {vale vd bad} (h : s.Inv) : (Machine.imageFailed s vale vd bad).Inv := .severity2 h

theorem State.Inv.writeImage {vale vd v c} (h : s.Inv) : (Machine.writeImage s vale vd v c).Inv := by
  unfold Machine.writeImage
  dsimp only
  split
  · exact h
  · split
    · exact h
    · split
      · split
        · exact .abandonSwitch (.modVd (.unless (h.writeRows.foldl fun _ _ h1 => h1) fun h1 => h1.record))
        · exact .abandonCut (.modVd (.unless (h.writeRows.foldl fun _ _ h1 => h1) fun h1 => h1.record))
      · split
        · rename_i heq
          exact (State.Inv.ofFst heq (.putRaw (h.writeRows.foldl fun _ _ h1 => h1))).imageFailed
        · rename_i heq
          have h1 := State.Inv.ofFst heq (.putRaw (h.writeRows.foldl fun _ _ h1 => h1))
          split
          · rename_i heq
            exact (State.Inv.ofFst heq h1.putRaw).imageFailed
          · rename_i heq
            have h2 := State.Inv.ofFst heq h1.putRaw
            exact .completeCut h2

theorem State.Inv.execCutComplete {vale vd} (h : s.Inv) : (nextOr s (Machine.execCutComplete vale vd s)).Inv := by
  unfold Machine.execCutComplete
  refine .next ?_
  split
  · split
    · exact h
    · split
      · exact h
      · split
        · exact h.settleFrontier
        · split
          · exact h.settleFault
          · exact h.writeImage
  · exact h

theorem State.Inv.execCutTimeout {vale vd} (h : s.Inv) : (nextOr s (Machine.execCutTimeout vale vd s)).Inv := by
  unfold Machine.execCutTimeout
  refine .next ?_
  split
  · exact h
  · split
    · exact h
    · exact .ite h (.record h)

theorem State.Inv.execSwitchoutCutTimeout {vale vd} (h : s.Inv) : (nextOr s (Machine.execSwitchoutCutTimeout vale vd s)).Inv := by
  unfold Machine.execSwitchoutCutTimeout
  refine .next ?_
  split
  · exact h
  · split
    · exact h
    · exact .ite h h.abandonSwitch

theorem State.Inv.applyUndo {v d l} (h : s.Inv) : ((Machine.applyUndo v d l s).getD s).Inv := by
  induction l generalizing s with
  | nil => exact h
  | cons p l ih =>
    obtain ⟨line, off⟩ := p
    unfold Machine.applyUndo
    extract_lets piece got
    split
    · exact h
    · exact .getD h (ih (.ite h.partWrite h))

theorem State.Inv.readPart {v vale vd d p} (h : s.Inv) : (Machine.readPart v vale vd d s p).Inv := by
  unfold Machine.readPart
  dsimp only
  split
  · exact h
  · split
    · exact h
    · split
      · exact h.markRead
      · exact h.markRead.modTask
      · exact h.markRead.modJob
      · exact h.markRead.putTables
      · exact h.markRead.ipaWriteRaw
      · exact h.markRead.ipaWriteRaw
      · exact h.markRead.modVd

theorem State.Inv.readImage {vale vd im} (h : s.Inv) : (Machine.readImage s vale vd im).Inv := by
  unfold Machine.readImage
  split
  · exact h.foldl fun _ _ h' => h'.readPart
  · exact h

theorem State.Inv.restoreImage {vale vd im} (h : s.Inv) : (Machine.restoreImage s vale vd im).Inv :=
  .readImage (.modVd (.foldl h fun _ _ h' => h'.putTables))

theorem State.Inv.rollbackAnswered {vale vd result} (h : s.Inv) : (Machine.rollbackAnswered s vale vd result).Inv := by
  unfold Machine.rollbackAnswered
  split
  · exact .ite h h
  · exact h

theorem State.Inv.execRollbackDone {vale vd} (h : s.Inv) : (nextOr s (Machine.execRollbackDone vale vd s)).Inv := by
  unfold Machine.execRollbackDone
  refine .next ?_
  split
  · dsimp only
    split
    · exact h
    · split
      · exact h
      · split
        · exact h.stopVd.rollbackAnswered
        · rename_i heq
          have h' := State.Inv.ofSome heq h.applyUndo
          split
          · exact h'.restoreImage.rollbackAnswered.record
          · exact h'.restoreImage.rollbackAnswered
  · exact h

/-! ### Cov -/

theorem State.Inv.runCov {i op} (h : s.Inv) (hop : ∀ s w wv b, s.Inv → (op s w wv b).Inv) : (nextOr s (Machine.runCov i op s)).Inv := by
  refine h.runWave fun s w wv h' => ?_
  split
  · exact h'.raiseInstr
  · split
    · exact h'
    · exact hop _ _ _ _ h'

theorem State.Inv.execCovbegin {o} (h : s.Inv) : (nextOr s (Machine.execCovbegin o s)).Inv :=
  h.runCov fun _ _ _ _ h' => .ite (.consumePoison h') (.ite h' (.ite h'.raiseInstr (.ite h' h')))

theorem State.Inv.runSegments {i o an bn nc tri} (h : s.Inv) : (nextOr s (Machine.runSegments i o an bn nc tri s)).Inv := by
  unfold Machine.runSegments
  refine h.runCov fun _ _ _ _ h1 => ?_
  split
  · exact h1
  · split
    · exact h1.raiseInstr
    · exact .ite h1.raiseInstr (.ite h1 (.consumePoison (.setWave (.when (.ite h1 h1) fun h2 => h2.record))))

theorem State.Inv.execCovres {o} (h : s.Inv) : (nextOr s (Machine.execCovres o s)).Inv := by
  unfold Machine.execCovres
  refine h.runCov fun _ _ _ _ h' => ?_
  split
  · exact h'
  · split
    · exact h'.raiseInstr
    · exact .ite h'.raiseInstr (.ite h' h')

theorem State.Inv.execCovend {o} (h : s.Inv) : (nextOr s (Machine.execCovend o s)).Inv := by
  unfold Machine.execCovend
  refine h.runCov fun _ _ _ _ h' => ?_
  split
  · exact h'
  · split
    · exact h'.raiseInstr
    · exact h'

theorem State.Inv.readRegion {blk rows off} (h : s.Inv) : (Machine.readRegion blk rows off s).1.Inv := by
  induction rows generalizing s off with
  | zero => exact h
  | succ rows ih => exact ih h.readStash

theorem State.Inv.putCov {blk off bs} (h : s.Inv) : (Machine.putCov s blk off bs).Inv := by
  unfold Machine.putCov
  split
  · exact h.putStashFor
  · exact h

theorem State.Inv.writeRegion {blk rows off bs} (h : s.Inv) : (Machine.writeRegion blk rows off bs s).Inv := by
  induction rows generalizing s off bs with
  | zero => exact h
  | succ rows ih => exact ih h.putCov

theorem State.Inv.setSession {blk c} (h : s.Inv) : (Machine.setSession s blk c).Inv := h

theorem State.Inv.pushQuads {blk qs c} (h : s.Inv) : (Machine.pushQuads blk qs c s).1.Inv := by
  induction qs generalizing s c with
  | nil => exact h
  | cons q qs ih => exact .iteFst h (ih h.putCov)

theorem State.Inv.covPoison {b m} (h : s.Inv) : (Machine.covPoison s b m).Inv := h.severity2

theorem State.Inv.processTris {blk m ps c} (h : s.Inv) : (Machine.processTris blk m ps c s).1.Inv := by
  have hread (rows off : Nat) (s : State) (h : s.Inv) : (Machine.readRegion blk rows off s).1.Inv := h.readRegion
  have hwrite (rows off : Nat) (bs : List Byte) (s : State) (h : s.Inv) : (Machine.writeRegion blk rows off bs s).Inv := h.writeRegion
  -- the reads and writes of regions are made opaque, or unfolding one triangle would run all their rows
  delta Machine.processTris
  delta Machine.processTris._f
  generalize Machine.readRegion = R at hread ⊢
  generalize Machine.writeRegion = W at hwrite ⊢
  induction ps generalizing s c with
  | nil => exact h
  | cons p ps ih =>
    refine (?_ : (if triFlat p then _ else _ : State × CovSession × _ × _ × Bool).1.Inv)
    split
    · exact ih h
    · split
      rename_i heq
      have h1 := State.Inv.ofFst heq (hread _ _ _ h)
      split
      · exact h1
      · extract_lets rs u
        have h2 : u.Inv := hwrite _ _ _ _ h1
        split
        rename_i heq
        have h3 := State.Inv.ofFst heq (hread _ _ _ h2)
        split
        · exact h3
        · split
          extract_lets v
          have h4 : v.Inv := h3.foldl fun _ _ h' => h'.putCov
          split
          · rename_i heq
            exact ih (.ofFst heq h4.pushQuads)
          · rename_i heq
            exact .ofFst heq h4.pushQuads

theorem State.Inv.dropCov {g id} (h : s.Inv) : (Machine.dropCov s g id).Inv := h

theorem State.Inv.processSegments {g id b m c} (h : s.Inv) : (Machine.processSegments s g id b m c).Inv := by
  unfold Machine.processSegments
  split
  rename_i heq
  have h1 := State.Inv.ofFst heq h.readRegion
  split
  · exact h1.covPoison
  · exact .dropCov (.setSession h1.writeRegion)

theorem State.Inv.processRes {g id b m c clear} (h : s.Inv) : (Machine.processRes s g id b m c clear).Inv := by
  unfold Machine.processRes
  split
  rename_i heq
  have h1 := State.Inv.ofFst heq h.readRegion
  split
  · exact h1.covPoison
  · extract_lets r t u
    have h2 : u.Inv := .when h1.writeRegion fun h' => h'.writeRegion
    exact .dropCov h2.setSession

theorem State.Inv.processTri {g id b m c} (h : s.Inv) : (Machine.processTri s g id b m c).Inv := by
  unfold Machine.processTri
  split
  · rename_i heq
    exact .modGlen (.setSession (.ofFst heq h.pushQuads))
  · rename_i heq
    have h1 := State.Inv.ofFst heq h.pushQuads
    split
    · rename_i heq
      exact .covPoison (.setSession (.ofFst heq h1.processTris))
    · rename_i heq
      exact .dropCov (.setSession (.ofFst heq h1.processTris))
    · rename_i heq
      exact .modGlen (.setSession (.ofFst heq h1.processTris))

theorem State.Inv.quadAt {blk c j} (h : s.Inv) : (Machine.quadAt s blk c j).1.Inv := h.readStash

theorem State.Inv.popQuads {w wv d p c} (h : s.Inv) : (Machine.popQuads s w wv d p c).Inv :=
  .consumePoison (.setWave (.setSession (h.foldlFst fun _ _ h1 => .foldlFst (.iteFst h1.quadAt h1) fun _ _ h2 => h2)))

theorem State.Inv.execCovpop {o} (h : s.Inv) : (nextOr s (Machine.execCovpop o s)).Inv := by
  unfold Machine.execCovpop
  refine h.runCov fun _ _ _ _ h' => ?_
  split
  · exact h'.raiseInstr
  · exact .ite h'.raiseInstr (.ite h'.popQuads h')

theorem State.Inv.popTurn {w wv upTo d p} (h : s.Inv) : (Machine.popTurn s w wv upTo d p).Inv := by
  unfold Machine.popTurn
  split
  · exact h
  · split
    · exact h
    · exact .ite h h.popQuads

theorem State.Inv.servePops {blk waves} (h : s.Inv) : (Machine.servePops s blk waves).Inv := by
  unfold Machine.servePops
  refine h.foldl fun _ _ h' => ?_
  split
  · split
    · exact .ite h'.popTurn h'
    · exact h'
  · exact h'

theorem State.Inv.closeSession {glen cmd blk} (h : s.Inv) : (Machine.closeSession s glen cmd blk).Inv := by
  unfold Machine.closeSession
  split
  · exact h.dropCov
  · split
    · exact h.dropCov
    · exact .dropCov (.modBlock h.addStats)

theorem State.Inv.execCovCommandRetire {glen cmd} (h : s.Inv) : (nextOr s (Machine.execCovCommandRetire glen cmd s)).Inv := by
  unfold Machine.execCovCommandRetire
  refine .next ?_
  split
  · exact h
  · split
    · exact h
    · dsimp only
      split
      · exact h
      · split
        · exact h
        · refine .releaseRetired ?_
          split
          · exact h.processSegments
          · exact h.processSegments
          · exact h.processSegments
          · exact h.processRes
          · exact h.processTri
          · exact .closeSession (h.foldl fun _ _ h' => h'.servePops)
          · exact h

theorem State.Inv.turnWave {w defer} (h : s.Inv) : (Machine.turnWave s w defer).state.Inv := by
  unfold Machine.turnWave
  split
  · exact h
  · dsimp only
    split
    · split
      · exact h.forkTurn
      · exact h.issueWave
    · split
      · exact h.popTurn
      · exact h.issueWave
    · exact h.issueWave

/-! ### Lease -/

theorem State.Inv.pfDone {result arg0} (h : s.Inv) : (Machine.pfDone s result arg0).Inv := h

theorem State.Inv.modLease {i f} (h : s.Inv) : (Machine.State.modLease s i f).Inv := h

theorem State.Inv.execLeaseStart {idx} (h : s.Inv) : (nextOr s (Machine.execLeaseStart idx s)).Inv := by
  unfold Machine.execLeaseStart
  refine .next ?_
  split
  · exact h
  · exact .ite h (.foldl h fun _ _ h' => .ite h'.beginConversion h')

theorem State.Inv.endClaim {blk c} (h : s.Inv) : (Machine.endClaim s blk c).Inv := .ite (.seqHalt h) h

theorem State.Inv.cleanEngine {borrower h0 core} (h : s.Inv) : (Machine.cleanEngine s borrower h0 core).Inv := by
  unfold Machine.cleanEngine
  dsimp only
  split
  · exact .when (h.foldl fun _ _ h' => h') fun h' => h'.modCore
  · split
    · exact h.foldl fun _ _ h' => h'
    · exact .when (h.foldl fun _ _ h' => h') fun h' => h'.modCore

theorem State.Inv.lenderEpochs {l} (h : s.Inv) : (Machine.lenderEpochs s l).Inv := h.foldl fun _ _ h' => .bumpEpoch h'

theorem State.Inv.endLease {idx l} (h : s.Inv) : (Machine.endLease s idx l).Inv := by
  unfold Machine.endLease
  refine .modLease (.foldl (h.lenderEpochs.foldl fun _ _ h' => h'.cleanEngine) fun _ _ h' => ?_)
  split
  · exact .ite h'.endClaim h'
  · exact h'

theorem State.Inv.execLeaseEnd {idx} (h : s.Inv) : (nextOr s (Machine.execLeaseEnd idx s)).Inv := by
  unfold Machine.execLeaseEnd
  refine .next ?_
  split
  · exact h
  · exact .ite h h.endLease

theorem State.Inv.revokeLease {idx l reason} (h : s.Inv) : (Machine.revokeLease s idx l reason).Inv := .ite h (.leaseRecords h)

/-! ### Errors -/

theorem State.Inv.memCe {x scrub bits} (h : s.Inv) : (Machine.memCe s x scrub bits).Inv := h.recordCe

theorem State.Inv.memUe {x scrub} (h : s.Inv) : (Machine.memUe s x scrub).Inv := h.record

theorem State.Inv.memoryError {code unit addr corrected} (h : s.Inv) : (Machine.memoryError s code unit addr corrected).Inv :=
  .ite (.memCe (.iteFst h h)) (.memUe h)

theorem State.Inv.unitError {code unit glen vd corrected} (h : s.Inv) : (Machine.unitError s code unit glen vd corrected).Inv := by
  unfold Machine.unitError
  dsimp only
  split
  · exact h.memCe
  · split
    · exact h.severity2
    · exact h.memUe

theorem State.Inv.valeError {x corrected} (h : s.Inv) : (Machine.valeError s x corrected).Inv := by
  unfold Machine.valeError
  split
  · exact h.memCe
  · dsimp only
    split
    · exact h.severity3
    · exact h.record

theorem State.Inv.execMemError {err} (h : s.Inv) : (nextOr s (Machine.execMemError err s)).Inv := by
  unfold Machine.execMemError
  refine .next ?_
  split
  · exact h.memoryError
  · exact h.memoryError
  · exact h.valeError
  · exact .memCe h
  · dsimp only
    split
    · exact h.memCe.unless fun h' => h'.abortTask
    · exact h.memCe
  · exact .memCe h
  · exact .memCe h
  · exact .memCe h
  · exact .memCe h
  · split
    · exact h
    · exact .ite h.memCe (.memUe h)
  · split
    · exact h
    · exact .ite h.memCe (.memUe h)
  · exact .ite h.memCe (.memUe h)
  · exact h.unitError
  · exact h.unitError
  · exact h.unitError
  · exact h.valeError
  · exact .ite h.recordCe h.severity4

theorem State.Inv.execPatrolScrub {sector corrected} (h : s.Inv) : (nextOr s (Machine.execPatrolScrub sector corrected s)).Inv :=
  .next (.ite h.memUe (.ite (.memCe h) h))

theorem State.Inv.execCommandTimeout {unit cmd} (h : s.Inv) : (nextOr s (Machine.execCommandTimeout unit cmd s)).Inv := by
  unfold Machine.execCommandTimeout
  refine .next ?_
  split
  · exact h
  · exact .ite h h.severity3

theorem State.Inv.execColWatchdogTimeout {glen} (h : s.Inv) : (nextOr s (Machine.execColWatchdogTimeout glen s)).Inv := by
  unfold Machine.execColWatchdogTimeout
  refine .next ?_
  split
  · exact h.severity4
  · split
    · exact h.severity3
    · exact h.record

theorem State.Inv.setLink {l x} (h : s.Inv) : (Machine.setLink s l x).Inv := by
  unfold Machine.setLink
  split <;> exact h

theorem State.Inv.execLinkCrcFail {link} (h : s.Inv) : (nextOr s (Machine.execLinkCrcFail link s)).Inv := .next (.ite h h.setLink.recordCe)

theorem State.Inv.execRetrainComplete {link} (h : s.Inv) : (nextOr s (Machine.execRetrainComplete link s)).Inv := .next (.ite h.setLink h)

theorem State.Inv.execLinkRetrainTimeout {link} (h : s.Inv) : (nextOr s (Machine.execLinkRetrainTimeout link s)).Inv := by
  unfold Machine.execLinkRetrainTimeout
  refine .next ?_
  dsimp only
  split
  · exact h
  · exact .ite h h.setLink.severity4

theorem State.Inv.execPassLinkDown {link} (h : s.Inv) : (nextOr s (Machine.execPassLinkDown link s)).Inv := .next (.ite h (.recordCe (.setLink h)))

theorem State.Inv.wipeGlen {g} (h : s.Inv) : (Machine.wipeGlen s g).Inv := keepMem_wf _ h

theorem State.Inv.splitCheck (h : s.Inv) : (Machine.splitCheck s).Inv := .ite h h

theorem State.Inv.execGlenScrubComplete {glen ok} (h : s.Inv) : (nextOr s (Machine.execGlenScrubComplete glen ok s)).Inv :=
  .next (.ite h h.wipeGlen.modGlen.splitCheck)

theorem State.Inv.execGlenFailure {glen} (h : s.Inv) : (nextOr s (Machine.execGlenFailure glen s)).Inv := by
  unfold Machine.execGlenFailure
  refine .next ?_
  split
  · exact h
  · extract_lets v _ r t u x
    clear_value v
    have h1 : t.Inv := h.modGlen
    have h2 : u.Inv := by
      dsimp only [u]
      split
      · exact h1.severity3
      · exact h1.record
    have h3 : x.Inv := h2.frame rfl
    exact .splitCheck (h3.foldl fun _ _ h' => .ite h'.revokeLease h')

/-! ### Fabric -/

theorem State.Inv.badFlit {peer} (h : s.Inv) : (Machine.badFlit s peer).Inv := h.record

theorem State.Inv.answerFlit {r} (h : s.Inv) : (Machine.answerFlit s r).Inv := .ite h h

theorem State.Inv.noteSeen {r answer} (h : s.Inv) : (Machine.noteSeen s r answer).Inv := .answerFlit h

theorem State.Inv.inbound {r bit posted f} (h : s.Inv) (hf : ∀ s k, s.Inv → (f s k).1.Inv) : (Machine.inbound s r bit posted f).Inv := by
  unfold Machine.inbound
  extract_lets reply
  split
  · exact .frame h.badFlit rfl
  · exact .frame h.answerFlit rfl
  · exact .frame h.answerFlit rfl
  · exact h
  · extract_lets t
    have h1 : t.Inv := h.foldl fun _ _ h' => h'.recallLine
    split
    rename_i heq
    have h2 := State.Inv.ofFst heq (hf _ _ h1)
    exact .frame h2.noteSeen rfl

theorem State.Inv.execFabricRead {req} (h : s.Inv) : (nextOr s (Machine.execFabricRead req s)).Inv := .next (h.inbound fun _ _ h' => h')

theorem State.Inv.execFabricPostedWrite {req} (h : s.Inv) : (nextOr s (Machine.execFabricPostedWrite req s)).Inv :=
  .next (h.inbound fun _ _ h' => h'.writeMem)

theorem State.Inv.inboundAtomic {req k} (h : s.Inv) : (Machine.inboundAtomic req s k).1.Inv := .iteFst h h.writeMem

theorem State.Inv.execFabricAtomic {req} (h : s.Inv) : (nextOr s (Machine.execFabricAtomic req s)).Inv :=
  .next (h.inbound fun _ _ h' => h'.inboundAtomic)

theorem State.Inv.execFabricPostedAtomic {req} (h : s.Inv) : (nextOr s (Machine.execFabricPostedAtomic req s)).Inv :=
  .next (h.inbound fun _ _ h' => h'.inboundAtomic)

theorem State.Inv.postLost {r kind} (h : s.Inv) : (Machine.postLost s r kind).Inv := h.severity2

theorem State.Inv.loadAnswered {wid lid lane op write} (h : s.Inv) : (Machine.loadAnswered s wid lid lane op write).Inv := by
  unfold Machine.loadAnswered
  dsimp only
  split
  · exact .when h fun h' => h'.dropL1
  · exact h

theorem State.Inv.waitAnswered {wid w x pa bad bs} (h : s.Inv) : (Machine.waitAnswered s wid w x pa bad bs).Inv := by
  unfold Machine.waitAnswered
  split
  · exact h
  · split
    · exact h
    · exact .ite h.passWait h

theorem State.Inv.farRead {w op pa bs} (h : s.Inv) : (Machine.farRead s w op pa bs).1.Inv := by
  unfold Machine.farRead
  split
  · exact .iteFst h h.specRead
  · exact h

theorem State.Inv.deliverRead {wid lid lane pa bad bs poisoned} (h : s.Inv) : (Machine.deliverRead s wid lid lane pa bad bs poisoned).Inv := by
  unfold Machine.deliverRead
  split
  · exact h
  · split
    · split
      · exact h.waitAnswered
      · exact h.waitAnswered
      · exact h
    · split
      · dsimp only
        split
        · exact .ite h.loadAnswered h.loadAnswered.lateFaults
        · exact h.farRead.loadAnswered.when fun h' => h'.consumePoison
      · exact h

theorem State.Inv.postDone {r} (h : s.Inv) : (Machine.postDone s r).Inv := by
  unfold Machine.postDone
  split
  · exact .acquireDone (.accessWrite h)
  · exact h

theorem State.Inv.engAnswered {r core tag fault bs bad} (h : s.Inv) : (Machine.engAnswered s r core tag fault bs bad).Inv := h

theorem State.Inv.responseFlit {r resp} (h : s.Inv) : (Machine.responseFlit s r resp).Inv := .ite h h

theorem State.Inv.execFabricResponse {idx resp} (h : s.Inv) : (nextOr s (Machine.execFabricResponse idx resp s)).Inv := by
  unfold Machine.execFabricResponse
  refine .next ?_
  split
  · exact h
  · split
    · exact h
    · dsimp only
      split
      · exact .engAnswered (.postDone (.responseFlit h))
      · exact .engAnswered (.postDone (.responseFlit h))
      · exact .engAnswered (.badFlit (.postDone (.responseFlit h)))
      · exact .postDone (.responseFlit h)
      · split
        · exact .deliverRead (.postDone (.responseFlit h))
        · exact .deliverRead (.postDone (.responseFlit h))
        · exact .deliverRead (.badFlit (.postDone (.responseFlit h)))
        · exact .postDone (.responseFlit h)
        · exact .postLost (.postDone (.responseFlit h))
        · exact .postLost (.badFlit (.postDone (.responseFlit h)))
        · exact .postDone (.responseFlit h)

theorem State.Inv.execFabricResponseTimeout {idx} (h : s.Inv) : (nextOr s (Machine.execFabricResponseTimeout idx s)).Inv := by
  unfold Machine.execFabricResponseTimeout
  refine .next ?_
  split
  · exact h
  · split
    · exact h
    · dsimp only
      split
      · exact .deliverRead (.postDone h)
      · exact .engAnswered (.postDone h)
      · exact .postLost (.postDone h)

theorem State.Inv.execFabricRekey {peer} (h : s.Inv) : (nextOr s (Machine.execFabricRekey peer s)).Inv := .next h

/-! ### Boot -/

theorem resetMachine_inv : (resetMachine s).Inv := rfl

theorem State.Inv.execReset (_ : s.Inv) : (nextOr s (Machine.execReset s)).Inv := .next resetMachine_inv

theorem State.Inv.bootGoes (h : s.Inv) : (Machine.bootGoes s).Inv := h

theorem State.Inv.bootImages {types} (h : s.Inv) : (Machine.bootImages s types).Inv := .ite (.bootGoes (h.foldl fun _ _ h' => h')) h

theorem State.Inv.bootReady (h : s.Inv) : (Machine.bootReady s).Inv := by
  unfold Machine.bootReady
  generalize natsFrom 0 256 = gs
  exact .frame (State.Inv.foldl (l := gs) h fun _ _ h' => h'.modGlen) rfl

theorem State.Inv.execBringUpStepDone {out} (h : s.Inv) : (nextOr s (Machine.execBringUpStepDone out s)).Inv := by
  unfold Machine.execBringUpStepDone
  refine .next ?_
  split
  · exact h
  · refine .unless h fun h1 => ?_
    split
    · exact h
    · exact .ite h1 h.bootImages
    · exact h.bootImages
    · split
      · exact .ite (.bootGoes (.foldl h fun _ _ h2 => h2)) h
      · exact h
    · exact h.bootImages
    · split
      · exact .ite h h1
      · exact .ite h h.bootReady
    · exact h

theorem State.Inv.execTimeSyncMessage {count own} (h : s.Inv) : (nextOr s (Machine.execTimeSyncMessage count own s)).Inv :=
  .next (.ite (.ite h (.ite h h)) (.ite h h))

theorem State.Inv.execTimeMasterTimeout (h : s.Inv) : (nextOr s (Machine.execTimeMasterTimeout s)).Inv := .next (.ite h (.ite h (.ite h h)))

theorem State.Inv.execHoldoverExpiry (h : s.Inv) : (nextOr s (Machine.execHoldoverExpiry s)).Inv := .next (.ite h h)

theorem State.Inv.lcRequest {target} (h : s.Inv) : (Machine.lcRequest s target).Inv := .ite h (.ite h (.ite h h))

theorem State.Inv.execLcReq {target token} (h : s.Inv) : (nextOr s (Machine.execLcReq target token s)).Inv := .next (.ite (.lcRequest h) h)

theorem State.Inv.setAlarm {bits} (h : s.Inv) : (Machine.setAlarm s bits).Inv := .foldl h fun _ _ h' => h'

theorem State.Inv.setClock {mhz} (h : s.Inv) : (Machine.setClock s mhz).Inv := .foldl h fun _ _ h1 => h1.foldl fun _ _ h2 => .ite h2.parkVd h2

theorem State.Inv.tripDie {die temp} (h : s.Inv) : (Machine.tripDie s die temp).Inv := .severity4 (.setAlarm h)

theorem State.Inv.execThermalTrip {die temp} (h : s.Inv) : (nextOr s (Machine.execThermalTrip die temp s)).Inv := .next (.ite h h.tripDie)

theorem State.Inv.throttle {bits} (h : s.Inv) : (Machine.throttle s bits).Inv := .ite h h.setClock.setAlarm

theorem State.Inv.execClockControl {t} (h : s.Inv) : (nextOr s (Machine.execClockControl t s)).Inv :=
  .next (.ite h (.ite (.foldl (.throttle h) fun _ _ h' => h'.tripDie) (.when h fun h' => h'.setClock)))

theorem State.Inv.limitPut {current value} (h : s.Inv) : (Machine.limitPut s current value).Inv := .ite (.ite h h) (.ite h h)

theorem State.Inv.execLimitWrite {current value} (h : s.Inv) : (nextOr s (Machine.execLimitWrite current value s)).Inv := .next (.ite h.limitPut h)

theorem State.Inv.execAlarmClear {ones} (h : s.Inv) : (nextOr s (Machine.execAlarmClear ones s)).Inv := .next (.ite h h)

/-! ### Ctrl -/

theorem State.Inv.stackFault {i w wv cause} (h : s.Inv) : (Machine.stackFault i s w wv cause).Inv := h.raiseLanes

theorem State.Inv.execBra {o} (h : s.Inv) : (nextOr s (Machine.execBra o s)).Inv :=
  h.runWave fun _ _ _ h' => .ite h' (.ite h' (.ite h'.stackFault h'))

theorem State.Inv.runIndirect {i a call} (h : s.Inv) : (nextOr s (Machine.runIndirect i a call s)).Inv :=
  h.runWave fun _ _ _ h' => .ite h'.stackFault (.consumePoison (.ite h' h'.raise))

theorem State.Inv.execCall {o} (h : s.Inv) : (nextOr s (Machine.execCall o s)).Inv := h.runWave fun _ _ _ h' => .ite h'.stackFault h'

theorem State.Inv.execRcv {o} (h : s.Inv) : (nextOr s (Machine.execRcv o s)).Inv := h.runWave fun _ _ _ h' => .ite h'.stackFault h'

theorem State.Inv.execJoin {o} (h : s.Inv) : (nextOr s (Machine.execJoin o s)).Inv :=
  h.runWave fun _ _ _ h' => .ite h' (.ite h'.stackFault h'.settle)

theorem State.Inv.execRet {o} (h : s.Inv) : (nextOr s (Machine.execRet o s)).Inv := h.runWave fun _ _ _ h' => .ite h'.stackFault (.ite h' h'.settle)

theorem State.Inv.execExit {o} (h : s.Inv) : (nextOr s (Machine.execExit o s)).Inv := h.runWave fun _ _ _ h' => .ite h' h'.settle

theorem State.Inv.softTrap {i o cause} (h : s.Inv) : (nextOr s (Machine.softTrap i o cause s)).Inv := h.runWave fun _ _ _ h' => h'.raise

/-! ### Window -/

theorem State.Inv.hostAccess {path vale write bar off value} (h : s.Inv) : (Machine.hostAccess s path vale write bar off value).1.Inv := by
  unfold Machine.hostAccess
  split
  · exact h
  · dsimp only
    split
    · exact h
    · split
      · exact h
      · exact .iteFst (.ite h.tdiViolation h) h
      · exact .iteFst h (.ite h.tdiViolation h)
      · exact h

theorem State.Inv.freeVd {vale vd} (h : s.Inv) : (Machine.freeVd s vale vd).Inv := by
  unfold Machine.freeVd
  extract_lets t cores u v w
  have h1 : u.Inv := h.stopVd.foldl fun _ _ h' => h'.bumpGen
  have h2 : v.Inv := h1.dropWork.bumpEpochs
  have h3 : w.Inv := h2.frame rfl
  exact h3.modVd

theorem State.Inv.vdcStore {vale vd d d'} (h : s.Inv) : (Machine.vdcStore s vale vd d d').Inv := .ite (.freeVd h) (.ite (.startPeriod h) (.ite h h))

theorem State.Inv.vdcPut {vale vd off value} (h : s.Inv) : (Machine.vdcPut s vale vd off value).Inv := by
  unfold Machine.vdcPut
  split
  · exact .ite h (.ite h (.ite h.record (.ite (.ite h h.record) (.ite h.record h.vdcStore))))
  · exact h

theorem State.Inv.hostVdc {path vale vd off value} (h : s.Inv) : (Machine.hostVdc s path vale vd off value).Inv := by
  unfold Machine.hostVdc
  split
  · rename_i heq
    exact (State.Inv.ofFst heq h.hostAccess).vdcPut
  · rename_i heq
    exact .ofFst heq h.hostAccess

theorem State.Inv.postPageBad {vale off addr} (h : s.Inv) : (Machine.postPageBad s vale off addr).Inv := h.queueFault

theorem State.Inv.execHostPostWrite {path vale off bytes value} (h : s.Inv) :
    (nextOr s (Machine.execHostPostWrite path vale off bytes value s)).Inv := by
  unfold Machine.execHostPostWrite
  refine .next ?_
  split
  · rename_i heq
    exact .ofFst heq h.hostAccess
  · rename_i heq
    have h' := State.Inv.ofFst heq h.hostAccess
    exact .ite h' (.ite h'.postPageBad (.ite h'.queueFault h'))

theorem State.Inv.apertureDropped {vale off} (h : s.Inv) : (Machine.apertureDropped s vale off).Inv := h.queueFault

theorem State.Inv.aperturePut {v vale vd ipa t bs} (h : s.Inv) : (Machine.aperturePut s v vale vd ipa t bs).Inv := by
  unfold Machine.aperturePut
  dsimp only
  split
  · exact .ite h.issueAccess h.postPageBad
  · exact h.issueAccess

theorem State.Inv.execApertureWrite {path vale off data} (h : s.Inv) : (nextOr s (Machine.execApertureWrite path vale off data s)).Inv := by
  unfold Machine.execApertureWrite
  refine .next ?_
  split
  · rename_i heq
    exact .ofFst heq h.hostAccess
  · rename_i heq
    have h1 := State.Inv.ofFst heq h.hostAccess
    split
    · exact h1
    · dsimp only
      split
      · exact h1
      · split
        · exact h1.markIpas.foldlFst fun _ _ h2 => h2.aperturePut
        · exact h1.apertureDropped

theorem State.Inv.apertureGet {v vale vd t n} (h : s.Inv) : (Machine.apertureGet s v vale vd t n).1.Inv := by
  unfold Machine.apertureGet
  split
  · exact h.recallBytes.mergeKnown
  · split
    · exact h.engAsk
    · split <;> exact h
  · exact h.elseBytes

theorem State.Inv.apertureGather {v vale vd ps} (h : s.Inv) : (Machine.apertureGather v vale vd ps s).1.Inv := by
  induction ps generalizing s with
  | nil => exact h
  | cons p ps ih =>
    unfold Machine.apertureGather
    split
    · rename_i heq
      have h1 := State.Inv.ofFst heq h.apertureGet
      split
      · rename_i heq
        exact .ofFst heq (ih h1)
      · exact ih h1
    · rename_i heq
      exact .ofFst heq h.apertureGet
    · rename_i heq
      exact ih (.ofFst heq h.apertureGet)

theorem State.Inv.execApertureRead {path vale off n} (h : s.Inv) : (nextOr s (Machine.execApertureRead path vale off n s)).Inv := by
  unfold Machine.execApertureRead
  refine .next ?_
  dsimp only
  split
  · rename_i heq
    have h1 := State.Inv.ofFst heq h.hostAccess
    exact h1
  · rename_i heq
    have h1 := State.Inv.ofFst heq h.hostAccess
    split
    · exact h1
    · split
      · exact h1
      · split
        · split
          · exact h1
          · split
            · rename_i heq
              have h2 := State.Inv.ofFst heq h1.markIpas.apertureGather
              exact h2
            · rename_i heq
              have h2 := State.Inv.ofFst heq h1.markIpas.apertureGather
              exact h2.engForget.apertureDropped
            · rename_i heq
              have h2 := State.Inv.ofFst heq h1.markIpas.apertureGather
              exact h2.engForget
        · exact h1.apertureDropped

/-! ### Inval -/

theorem State.Inv.requestInval {vale vd lo hi pf mig} (h : s.Inv) : (Machine.requestInval s vale vd lo hi pf mig).Inv := h

theorem State.Inv.settleTask {p} (h : s.Inv) : (Machine.settleTask s p).Inv := by
  unfold Machine.settleTask
  split
  · exact h
  · exact .ite h (.ite (.ite h.makeIrrevocable h) h.abortTask)

theorem State.Inv.purge {i} (h : s.Inv) : (Machine.purge s i).Inv := h

theorem State.Inv.readsAgain {vale vd} (h : s.Inv) : (Machine.readsAgain s vale vd).Inv := by
  unfold Machine.readsAgain
  split
  · exact h
  · exact h.foldl fun _ _ h' => h'
  · exact h

theorem State.Inv.endInval {idx i} (h : s.Inv) : (Machine.endInval s idx i).Inv := by
  unfold Machine.endInval
  dsimp only
  split
  · exact h
  · exact .ite (.pfDone (.readsAgain h)) (.endCommand (.readsAgain h))

theorem State.Inv.execInvalidationComplete {idx} (h : s.Inv) : (nextOr s (Machine.execInvalidationComplete idx s)).Inv := by
  unfold Machine.execInvalidationComplete
  refine .next ?_
  split
  · exact h
  · exact .when (h.foldl fun _ _ h1 => h1.settleTask) fun h1 => .unless (.purge (h1.frame rfl)) fun h2 => h2.endInval

theorem State.Inv.copyRun {nc r} (h : s.Inv) : (Machine.copyRun nc s r).Inv := copyMem_wf _ _ (keepMem_wf _ h)

theorem State.Inv.retarget {runs} (h : s.Inv) : (Machine.retarget s runs).Inv := h

theorem State.Inv.recallPage {runs} (h : s.Inv) : (Machine.recallPage s runs).Inv := h.foldl fun _ _ h' => h'.recallLine

theorem State.Inv.execMigrationDone {idx} (h : s.Inv) : (nextOr s (Machine.execMigrationDone idx s)).Inv := by
  unfold Machine.execMigrationDone
  refine .next ?_
  split
  · exact h
  · extract_lets go
    have hgo (t : State) (n : Nat) (h' : t.Inv) : (go t n).Inv := h'.frame rfl
    split
    · exact h
    · split
      · exact .ite h (hgo _ _ h.recallPage)
      · split
        · exact .endCommand (h.frame rfl)
        · split
          · exact h
          · refine .ite h (hgo _ _ ?_)
            exact .requestInval (.crossNow (.l2Write (.recallLine (h.foldl fun _ _ h' => h'.copyRun))))
      · exact .endCommand (.modVd (.retarget (h.frame rfl)))
      · exact h

/-! ### ValeCmd -/

theorem State.Inv.runS1inv {vale vd args} (h : s.Inv) : (Machine.runS1inv s vale vd args).Inv := .ite h h

theorem State.Inv.runMigrate {vale vd args} (h : s.Inv) : (Machine.runMigrate s vale vd args).Inv := by
  unfold Machine.runMigrate
  split <;> exact h

theorem State.Inv.runCut {vale vd args} (h : s.Inv) : (Machine.runCut s vale vd args).Inv := by
  unfold Machine.runCut
  split
  · exact h.endCommand
  · exact .ite h.endCommand (.endCommand h.modVd)

theorem State.Inv.runRollback {vale vd} (h : s.Inv) : (Machine.runRollback s vale vd).Inv := by
  unfold Machine.runRollback
  split
  · exact h
  · exact .ite h (.ite h h.beginRollback)

theorem State.Inv.runSwitchout {vale vd} (h : s.Inv) : (Machine.runSwitchout s vale vd).Inv := h.switchOut.endCommand

theorem State.Inv.runStatclr {vale vd args} (h : s.Inv) : (Machine.runStatclr s vale vd args).Inv := by
  unfold Machine.runStatclr
  extract_lets m
  split
  · exact h.endCommand
  · exact .endCommand h.modVd

theorem State.Inv.runQcbwr {vale vd args} (h : s.Inv) : (Machine.runQcbwr s vale vd args).Inv := by
  unfold Machine.runQcbwr
  extract_lets q ipa
  have h1 : (Machine.markRead s vale ipa 128).Inv := h.markRead
  split
  · refine .ite h.endCommand (.ite h.endCommand (.ite h ?_))
    split
    · exact h.endCommand
    · refine .ite h1.endCommand ?_
      split
      · exact h1.endCommand
      · rename_i heq
        exact .endCommand (.releaseReads (.ofSome heq h1.ipaWrite))
  · exact h.endCommand

theorem State.Inv.launchFw {vale} (h : s.Inv) : (Machine.launchFw s vale).Inv := by
  unfold Machine.launchFw
  split
  · exact h
  · split
    · exact h
    · split
      · exact h
      · split <;> exact h

theorem State.Inv.runFwwave {vale vd args} (h : s.Inv) : (Machine.runFwwave s vale vd args).Inv := by
  unfold Machine.runFwwave
  split
  · exact h
  · exact .ite h (.ite h h.launchFw)

theorem State.Inv.runPlugin {vale vd args} (h : s.Inv) : (Machine.runPlugin s vale vd args).Inv := by
  unfold Machine.runPlugin
  extract_lets a n
  have h1 : (Machine.markRead s vale a n).Inv := h.markRead
  split
  · refine .ite h.endCommand (.ite (.endCommand h.modVd) (.ite h.endCommand (.ite h.endCommand (.ite h ?_))))
    split
    · exact h.endCommand
    · exact .ite h1.endCommand (.endCommand h1.modVd)
  · exact h.endCommand

theorem State.Inv.runCommand {vale op vd args} (h : s.Inv) : (Machine.runCommand s vale op vd args).Inv := by
  unfold Machine.runCommand
  split
  · exact h.runS1inv
  · exact h.runMigrate
  · exact h.runCut
  · exact h.runRollback
  · exact h.runSwitchout
  · exact h.runStatclr
  · exact h.runQcbwr
  · exact h.runFwwave
  · exact h.runPlugin
  · exact h

theorem State.Inv.startCommand {vale op vd args} (h : s.Inv) : (Machine.startCommand s vale op vd args).Inv := by
  unfold Machine.startCommand
  split
  · exact h
  · exact .ite h (.runCommand h)

theorem State.Inv.hostCommand {vale op vd a} (h : s.Inv) : (Machine.hostCommand s vale op vd a).Inv := by
  unfold Machine.hostCommand
  split
  · rename_i heq
    exact (State.Inv.ofFst heq h.hostAccess).startCommand
  · rename_i heq
    exact .ofFst heq h.hostAccess

theorem State.Inv.dropFw {vale} (h : s.Inv) : (Machine.dropFw s vale).Inv := by
  unfold Machine.dropFw
  split
  · exact h
  · exact .ite h h

theorem State.Inv.retryCommand {vale} (h : s.Inv) : (Machine.retryCommand s vale).Inv := by
  unfold Machine.retryCommand
  split
  · exact h
  · exact .ite h.runCommand h

theorem State.Inv.tickFw (h : s.Inv) : (Machine.tickFw s).Inv := h.foldl fun _ _ h' => h'.launchFw.dropFw.retryCommand

/-! ### PfReq -/

theorem State.Inv.withVale {args f} (h : s.Inv) (hf : ∀ vale vd v, (f vale vd v).Inv) : (Machine.withVale s args f).Inv := by
  unfold Machine.withVale
  split
  · exact h.pfDone
  · exact hf _ _ _

theorem State.Inv.withVd {args f} (h : s.Inv) (hf : ∀ vale vd v d, (f vale vd v d).Inv) : (Machine.withVd s args f).Inv := by
  refine h.withVale fun vale vd v => ?_
  split
  · exact hf _ _ _ _
  · exact h.pfDone

theorem State.Inv.joinGlens {vale first n} (h : s.Inv) : (Machine.joinGlens s vale first n).Inv := h.foldl fun _ _ h' => h'

theorem State.Inv.createLifecycle (h : s.Inv) : (Machine.createLifecycle s).1.Inv := .iteFst h (.iteFst h h)

theorem State.Inv.runCreate {args} (h : s.Inv) : (Machine.runCreate s args).Inv := by
  unfold Machine.runCreate
  dsimp only
  split
  · exact h
  · split
    · exact h
    · split
      · rename_i heq
        have h' := State.Inv.ofFst heq h.createLifecycle
        exact h'
      · rename_i heq
        have h' := State.Inv.ofFst heq h.createLifecycle
        split
        · exact h'
        · exact .pfDone (.joinGlens h')

theorem State.Inv.runFuse {args} (h : s.Inv) : (Machine.runFuse s args).Inv := by
  unfold Machine.runFuse
  refine h.withVale fun _ _ _ => ?_
  dsimp only
  split
  · exact h
  · split
    · exact h
    · exact .pfDone (.joinGlens h)

theorem State.Inv.dissolve {vale} (h : s.Inv) : (Machine.dissolve s vale).Inv := h

theorem State.Inv.runSplit {args} (h : s.Inv) : (Machine.runSplit s args).Inv := by
  unfold Machine.runSplit
  refine h.withVale fun _ _ _ => ?_
  dsimp only
  split
  · exact h
  · split
    · exact h
    · exact .ite h (.ite h (.ite (.dissolve (h.foldl fun _ _ h' => h')) (.modVale (h.foldl fun _ _ h' => h'))))

theorem State.Inv.runS2root {args} (h : s.Inv) : (Machine.runS2root s args).Inv := h.withVale fun _ _ _ => .ite h h

theorem State.Inv.runS2inv {args} (h : s.Inv) : (Machine.runS2inv s args).Inv := h.withVale fun _ _ _ => .ite h h

theorem State.Inv.runLease {args} (h : s.Inv) : (Machine.runLease s args).Inv := by
  unfold Machine.runLease
  dsimp only
  split
  · exact h
  · split
    · split
      · exact h
      · split
        · exact h
        · split
          · exact h
          · split <;> exact h
    · exact h

theorem State.Inv.runRevoke {args} (h : s.Inv) : (Machine.runRevoke s args).Inv := by
  unfold Machine.runRevoke
  dsimp only
  split
  · exact h
  · split
    · exact h
    · exact .ite h (.ite h h.revokeLease.pfDone)

theorem State.Inv.runImport {args} (h : s.Inv) : (Machine.runImport s args).Inv := .ite h (.ite h (.ite h h))

theorem State.Inv.runDirtyStart {args} (h : s.Inv) : (Machine.runDirtyStart s args).Inv := h.withVd fun _ _ _ _ => .ite h (.ite h h)

theorem State.Inv.runDirtySwap {args} (h : s.Inv) : (Machine.runDirtySwap s args).Inv := by
  unfold Machine.runDirtySwap
  refine h.withVd fun _ _ _ _ => ?_
  split <;> exact h

theorem State.Inv.runDirtyStop {args} (h : s.Inv) : (Machine.runDirtyStop s args).Inv := h.withVd fun _ _ _ _ => .ite h h

/-! ### Import -/

theorem State.Inv.importJob {vale vd q rec_ n} (h : s.Inv) : (Machine.importJob vale vd q rec_ s n).Inv := by
  unfold Machine.importJob
  split <;> exact h

theorem State.Inv.importJobs {vale vd rec_} (h : s.Inv) : (Machine.importJobs s vale vd rec_).Inv :=
  h.foldl fun _ _ h1 => h1.foldl fun _ _ h2 => h2.importJob

theorem State.Inv.importWaves {j job blk ws bs bad} (h : s.Inv) : (Machine.importWaves j job blk ws bs bad s).Inv := by
  induction ws generalizing s bs bad with
  | nil => exact h
  | cons w ws ih => exact ih (.frame h rfl)

theorem State.Inv.importBlock {v job j a n bs} (h : s.Inv) : (Machine.importBlock s v job j a n bs).Inv := by
  unfold Machine.importBlock
  refine .importWaves ?_
  split
  · refine .modTask (.modVd ?_)
    split <;> exact h
  · refine .modVd ?_
    split <;> exact h

theorem State.Inv.importAt {v vale vd a} {r : State × Nat} (h : r.1.Inv) : (Machine.importAt v vale vd r a).1.Inv := by
  unfold Machine.importAt
  refine .iteFst h ?_
  split
  · exact h
  · extract_lets waves
    split
    · exact h
    · extract_lets n
      refine .iteFst h ?_
      split
      · exact h.importBlock
      · exact h

theorem State.Inv.importBlocks {v vale vd} (h : s.Inv) : (Machine.importBlocks s v vale vd).Inv := by
  unfold Machine.importBlocks
  -- the list of offsets is made opaque, or the kernel would compute it
  obtain ⟨range, hrange⟩ : ∃ range, natsFrom = range := ⟨_, rfl⟩
  rw [hrange]
  split
  · exact h
  · exact .foldlFst (.pair h) fun _ _ h' => h'.importAt

theorem State.Inv.restoreForeign {v vale vd rec_} (h : s.Inv) : (Machine.restoreForeign s v vale vd rec_).Inv := .importBlocks (.importJobs h)

/-! ### VdMove -/

theorem State.Inv.endStop {vale vd r} (h : s.Inv) : (Machine.endStop s vale vd r).Inv := h

theorem State.Inv.stopNoSpace {vale vd} (h : s.Inv) : (Machine.stopNoSpace s vale vd).Inv := h.reserveSave.endStop

theorem State.Inv.runVdStop {args} (h : s.Inv) : (Machine.runVdStop s args).Inv := h.withVd fun _ _ _ _ => .ite h (.ite h (.ite h.stopNoSpace h))

theorem State.Inv.stopBlocks {vale vd} (h : s.Inv) : (Machine.stopBlocks s vale vd).Inv := by
  unfold Machine.stopBlocks
  split
  · exact h
  · split
    · exact h.stopNoSpace
    · dsimp only
      split
      · exact .settleFrontier (h.foldl fun _ _ h' => h'.abortOthers)
      · exact .foldl (h.foldl fun _ _ h' => h'.abortOthers) fun _ _ h' => h'.chooseSave

theorem State.Inv.dropPrologues {vale vd} (h : s.Inv) : (Machine.dropPrologues s vale vd).Inv := h

theorem State.Inv.closeFrames {vale vd} (h : s.Inv) : (Machine.closeFrames s vale vd).Inv := h

theorem State.Inv.endFrame {glen k f} (h : s.Inv) : (Machine.endFrame s glen k f).Inv := by
  unfold Machine.endFrame
  dsimp only
  split
  · exact h
  · rename_i heq
    have h' := State.Inv.ofFst heq h.writeOut
    exact .record h'
  · rename_i heq
    have h' := State.Inv.ofFst heq h.writeOut
    exact h'

theorem State.Inv.endFrames {vale vd} (h : s.Inv) : (Machine.endFrames s vale vd).Inv :=
  h.foldl fun _ _ h1 => h1.foldl fun _ _ h2 => .ite h2.endFrame h2

theorem State.Inv.stopStep {vale vd} (h : s.Inv) : (Machine.stopStep s vale vd).Inv :=
  h.stopBlocks.unless fun h1 => h1.dropPrologues.closeFrames.endFrames.when fun h2 => h2.modVd.pfDone

theorem State.Inv.advanceStop (h : s.Inv) : (Machine.advanceStop s).Inv := by
  unfold Machine.advanceStop
  split
  · exact h
  · dsimp only
    split
    · exact .ite h (.ite h.stopStep (.ite h h))
    · exact h

theorem State.Inv.execVdStopTimeout {vale vd} (h : s.Inv) : (nextOr s (Machine.execVdStopTimeout vale vd s)).Inv := by
  unfold Machine.execVdStopTimeout
  refine .next ?_
  split
  · exact h
  · exact .ite h h.record.endStop.stopVd

theorem State.Inv.runVdExport {args} (h : s.Inv) : (Machine.runVdExport s args).Inv := by
  unfold Machine.runVdExport
  refine h.withVd fun _ _ _ _ => ?_
  dsimp only
  split
  · exact h
  · refine .unless h fun h1 => ?_
    split
    · exact h1
    · exact .pfDone (.writePieces (h.foldl fun _ _ h2 => h2.foldl fun _ _ h3 => h3.recallLine))

theorem State.Inv.restoreExport {a b vale vd im} (h : s.Inv) : (Machine.restoreExport s a b vale vd im).Inv := h

theorem State.Inv.runVdImport {args} (h : s.Inv) : (Machine.runVdImport s args).Inv := by
  unfold Machine.runVdImport
  refine h.withVd fun _ _ _ _ => ?_
  dsimp only
  split
  · exact h
  · refine .unless h fun h' => ?_
    split
    · exact h'
    · split
      · exact h
      · split
        · exact h'
        · refine .pfDone ?_
          split
          · exact .restoreForeign (.startPeriod h)
          · exact .restoreExport (.startPeriod h)

theorem State.Inv.runVdResume {args} (h : s.Inv) : (Machine.runVdResume s args).Inv := h.withVd fun _ _ _ _ => .ite h h

theorem State.Inv.runPageCopy {args} (h : s.Inv) : (Machine.runPageCopy s args).Inv := h.withVale fun _ _ _ => .ite h h

theorem State.Inv.postPage {die vale pa} (h : s.Inv) : (Machine.postPage s die vale pa).1.Inv := h.foldlFst fun _ _ h' => h'.recallLine.sendRequest

theorem State.Inv.pageGot {vale pa} (h : s.Inv) : (Machine.pageGot s vale pa).1.Inv := by
  unfold Machine.pageGot
  dsimp only
  split
  · split <;> exact h.engForget
  · exact h.foldl fun _ _ h' => h'.engAsk

theorem State.Inv.pagePut {x us} (h : s.Inv) : (Machine.pagePut s x us).Inv := h.partWrite.poisonSectors

theorem State.Inv.stepPageCopy (h : s.Inv) : (Machine.stepPageCopy s).Inv := by
  unfold Machine.stepPageCopy
  split
  · exact h
  · extract_lets stop posted on remote held
    have hstop (t : State) (r : BitVec 8) (h' : t.Inv) : (stop t r).Inv := .pfDone (h'.frame rfl)
    have hon (t : State) (more : List Nat) (h' : t.Inv) : (on t more).Inv := h'.frame rfl
    split
    · exact h
    · split
      · exact .ite (hstop _ _ h) (h.frame rfl)
      · split
        · exact hstop _ _ h
        · extract_lets send
          have hsend (t : State) (h' : t.Inv) : (send t).Inv := hon _ _ h'.postPage
          split
          · split
            · exact h
            · split
              · exact hsend _ h.recallBytes
              · split
                · exact hstop _ _ h
                · exact .ite h (hon _ _ h.recallBytes.recallBytes.copyRun)
          · refine .ite h ?_
            split
            · rename_i heq
              exact .ofFst heq h.pageGot
            · rename_i heq
              exact hstop _ _ (.ofFst heq h.pageGot)
            · rename_i heq
              have h1 := State.Inv.ofFst heq h.pageGot
              split
              · exact hsend _ h1
              · split
                · exact hstop _ _ h1
                · exact hon _ _ h1.pagePut
          · exact hstop _ _ h

theorem State.Inv.runPf {op args} (h : s.Inv) : (Machine.runPf s op args).Inv := by
  unfold Machine.runPf
  split
  · exact h.runCreate
  · exact h.runFuse
  · exact h.runSplit
  · exact h.runS2root
  · exact h.runS2inv
  · exact h.runLease
  · exact h.runRevoke
  · exact h.runImport
  · exact h.runDirtyStart
  · exact h.runDirtySwap
  · exact h.runDirtyStop
  · exact h.runVdStop
  · exact h.runVdExport
  · exact h.runVdImport
  · exact h.runVdResume
  · exact h.runPageCopy
  · exact h

theorem State.Inv.startPf {op vd args} (h : s.Inv) : (Machine.startPf s op vd args).Inv := .ite h (.ite h (.runPf h))

theorem State.Inv.hostPf {op a} (h : s.Inv) : (Machine.hostPf s op a).Inv := h.startPf

theorem State.Inv.tickPf (h : s.Inv) : (Machine.tickPf s).Inv := h.advanceStop.stepPageCopy

/-! ### Tdi -/

theorem State.Inv.dropBorrowed {vale} (h : s.Inv) : (Machine.dropBorrowed s vale).Inv :=
  h.foldl fun _ _ h1 => .ite (h1.foldl fun _ _ h2 => h2.cleanEngine) h1

theorem State.Inv.wipeVale {vale} (h : s.Inv) : (Machine.wipeVale s vale).Inv := by
  unfold Machine.wipeVale
  split
  · exact h
  · extract_lets mine t u v w
    have h1 : v.Inv := .dropTlbs (.foldl h.dropBorrowed fun _ _ h' => h'.stopVd.dropWork)
    have h2 : w.Inv := keepMem_wf _ h1
    exact h2.modVale

theorem State.Inv.resetWindow {vale} (h : s.Inv) : (Machine.resetWindow s vale).Inv := h

theorem State.Inv.resetVale {vale} (h : s.Inv) : (Machine.resetVale s vale).Inv := h.wipeVale.resetWindow

theorem State.Inv.execPerValeReset {vale} (h : s.Inv) : (nextOr s (Machine.execPerValeReset vale s)).Inv :=
  .next (h.tdiViolation.modVale.unless fun h' => h'.resetVale)

theorem State.Inv.execValeResetComplete {vale} (h : s.Inv) : (nextOr s (Machine.execValeResetComplete vale s)).Inv := by
  unfold Machine.execValeResetComplete
  refine .next ?_
  split
  · exact h
  · exact .ite h h.resetVale.modVale

theorem State.Inv.answer {r} (h : s.Inv) : (Machine.answer s r).Inv := h

theorem State.Inv.streamLost {stream} (h : s.Inv) : (Machine.streamLost s stream).Inv := .foldl h fun _ _ h' => h'.tdiViolation

theorem State.Inv.sessionEnds {session} (h : s.Inv) : (Machine.sessionEnds s session).Inv :=
  .foldl (.foldl h fun _ _ h' => h'.tdiViolation) fun _ _ h' => h'.streamLost

theorem State.Inv.execIdeStreamFault {stream} (h : s.Inv) : (nextOr s (Machine.execIdeStreamFault stream s)).Inv := by
  unfold Machine.execIdeStreamFault
  refine .next ?_
  split
  · exact h
  · exact .ite h.streamLost h

theorem State.Inv.keyProg {session stream vf key} (h : s.Inv) : (Machine.keyProg s session stream vf key).Inv :=
  .ite h (.answer (.ite h h.streamLost))

theorem State.Inv.execIdeKm {session op} (h : s.Inv) : (nextOr s (Machine.execIdeKm session op s)).Inv := by
  unfold Machine.execIdeKm
  refine .next ?_
  split
  · exact h
  · split
    · exact h
    · split
      · exact h.keyProg
      · split
        · exact h
        · exact .ite h h
      · split
        · exact h
        · exact .ite h.streamLost.answer h

theorem State.Inv.tdisp {session vale f} (h : s.Inv) (hf : ∀ v, (f v).Inv) : (Machine.tdisp s session vale f).Inv := by
  unfold Machine.tdisp
  split
  · exact h
  · split
    · exact h.answer
    · split
      · exact h.answer
      · exact hf _

theorem State.Inv.execLockInterfaceRequest {session vale stream} (h : s.Inv) :
    (nextOr s (Machine.execLockInterfaceRequest session vale stream s)).Inv :=
  .next (h.tdisp fun _ => .ite h h)

theorem State.Inv.execStartInterfaceRequest {session vale nonce} (h : s.Inv) :
    (nextOr s (Machine.execStartInterfaceRequest session vale nonce s)).Inv :=
  .next (h.tdisp fun _ => .ite h h)

theorem State.Inv.execStopInterfaceRequest {session vale} (h : s.Inv) : (nextOr s (Machine.execStopInterfaceRequest session vale s)).Inv :=
  .next (h.tdisp fun _ => .ite h (.answer (.modVale (h.foldl fun _ _ h' => h'.stopVd))))

theorem State.Inv.execTdiWipeComplete {vale} (h : s.Inv) : (nextOr s (Machine.execTdiWipeComplete vale s)).Inv := by
  unfold Machine.execTdiWipeComplete
  refine .next ?_
  split
  · exact h
  · exact .ite h.wipeVale.modVale h

theorem State.Inv.execGetDeviceInterfaceState {session vale} (h : s.Inv) : (nextOr s (Machine.execGetDeviceInterfaceState session vale s)).Inv :=
  .next (.ite h (.ite h (.ite h h)))

theorem State.Inv.execGetDeviceInterfaceReport {session vale} (h : s.Inv) : (nextOr s (Machine.execGetDeviceInterfaceReport session vale s)).Inv :=
  .next (h.tdisp fun _ => .ite h h)

theorem State.Inv.barPut {vale i a} (h : s.Inv) : (Machine.barPut s vale i a).Inv := .ite h (.ite h.tdiViolation h)

theorem State.Inv.memEnablePut {vale v on} (h : s.Inv) : (Machine.memEnablePut s vale v on).Inv := .ite h (.ite h.tdiViolation h)

theorem State.Inv.vfBarsPut {i a} (h : s.Inv) : (Machine.vfBarsPut s i a).Inv := by
  unfold Machine.vfBarsPut
  split
  · exact h
  · exact .foldl h fun _ _ h' => h'.barPut

theorem State.Inv.execConfigWrite {vale w} (h : s.Inv) : (nextOr s (Machine.execConfigWrite vale w s)).Inv := by
  unfold Machine.execConfigWrite
  refine .next ?_
  extract_lets resets
  split
  · exact h
  · split
    · exact h.frame rfl
    · exact h.vfBarsPut
    · exact .ite h h.barPut
    · split
      · exact h
      · exact .ite h h.memEnablePut

/-! ### Spdm -/

theorem State.Inv.afterAlgs {f} (h : s.Inv) (hf : f.Inv) : (Machine.afterAlgs s f).Inv := .ite h (.ite hf h.answer)

theorem State.Inv.execGetVersion (h : s.Inv) : (nextOr s (Machine.execGetVersion s)).Inv := .next (.ite h h)

theorem State.Inv.execGetCapabilities (h : s.Inv) : (nextOr s (Machine.execGetCapabilities s)).Inv := .next (.ite h (.ite h h))

theorem State.Inv.execNegotiateAlgorithms {offer} (h : s.Inv) : (nextOr s (Machine.execNegotiateAlgorithms offer s)).Inv :=
  .next (.ite h (.ite h (.ite h h)))

theorem State.Inv.execGetDigests (h : s.Inv) : (nextOr s (Machine.execGetDigests s)).Inv := .next (h.afterAlgs h)

theorem State.Inv.execGetCertificate {slot} (h : s.Inv) : (nextOr s (Machine.execGetCertificate slot s)).Inv :=
  .next (h.afterAlgs (.ite h.answer h.answer))

theorem State.Inv.execChallenge {slot nonce} (h : s.Inv) : (nextOr s (Machine.execChallenge slot nonce s)).Inv :=
  .next (h.afterAlgs (.ite h.answer h.answer))

theorem State.Inv.execGetMeasurements {index} (h : s.Inv) : (nextOr s (Machine.execGetMeasurements index s)).Inv := by
  unfold Machine.execGetMeasurements
  refine .next (h.afterAlgs ?_)
  split
  · exact h
  · split <;> exact h

theorem State.Inv.execKeyExchange {slot share} (h : s.Inv) : (nextOr s (Machine.execKeyExchange slot share s)).Inv :=
  .next (h.afterAlgs (.ite h.answer (.ite h.answer (.answer (h.frame rfl)))))

theorem State.Inv.execFinish {verifies} (h : s.Inv) : (nextOr s (Machine.execFinish verifies s)).Inv := by
  unfold Machine.execFinish
  refine .next ?_
  split
  · exact h
  · split
    · exact h
    · exact .ite h h

theorem State.Inv.execHeartbeat {session} (h : s.Inv) : (nextOr s (Machine.execHeartbeat session s)).Inv := .next (.ite h (.ite h h))

theorem State.Inv.execHeartbeatTimeout {session} (h : s.Inv) : (nextOr s (Machine.execHeartbeatTimeout session s)).Inv := by
  unfold Machine.execHeartbeatTimeout
  refine .next ?_
  split
  · exact h
  · exact .ite h.sessionEnds h

theorem State.Inv.execKeyUpdate {session} (h : s.Inv) : (nextOr s (Machine.execKeyUpdate session s)).Inv := .next (.ite h (.ite h h))

theorem State.Inv.execEndSession {session} (h : s.Inv) : (nextOr s (Machine.execEndSession session s)).Inv :=
  .next (.ite h (.ite h.sessionEnds.answer h))

/-! ### HostRegs -/

theorem State.Inv.windowPut {vale off value} (h : s.Inv) : (Machine.windowPut s vale off value).Inv :=
  .ite h.vdcPut (.ite h (.ite h (.ite h (.ite h (.ite h.startCommand (.ite h h))))))

theorem State.Inv.managementPut {off value} (h : s.Inv) : (Machine.managementPut s off value).Inv :=
  .ite h.lcRequest (.ite h (.ite h.limitPut (.ite h (.ite h (.ite h (.ite h.startPf (.ite h h)))))))

theorem State.Inv.controlPut {win off bs} (h : s.Inv) : (Machine.controlPut s win off bs).Inv := .ite h.managementPut h.windowPut

theorem State.Inv.regStore {win off bs} (h : s.Inv) : (Machine.regStore s win off bs).Inv :=
  h.foldl fun _ _ h' => .ite (.ite h' h'.controlPut) h'.controlPut

theorem State.Inv.controlStore {off bs} (h : s.Inv) : (Machine.controlStore s off bs).Inv := h.foldl fun _ _ h' => h'.regStore

theorem State.Inv.execAccessPerformed {acc} (h : s.Inv) : (nextOr s (Machine.execAccessPerformed acc s)).Inv := by
  unfold Machine.execAccessPerformed
  refine .next ?_
  split
  · exact h
  · split
    · exact .ite (.irrevWrite (.controlStore h)) h
    · exact h
    · exact h.performAccess

theorem State.Inv.execRegisterWrite {path reg value} (h : s.Inv) : (nextOr s (Machine.execRegisterWrite path reg value s)).Inv := by
  unfold Machine.execRegisterWrite
  refine .next ?_
  split
  · exact .ite h.regStore h
  · split
    · rename_i heq
      exact (State.Inv.ofFst heq h.hostAccess).regStore
    · rename_i heq
      exact .ofFst heq h.hostAccess

/-! ### Sys -/

theorem State.Inv.runResolve {i r} (h : s.Inv) : (nextOr s (Machine.runResolve i r s)).Inv := by
  unfold Machine.runResolve
  refine h.runWave fun _ _ _ h1 => .setWave (h1.foldl fun _ _ h2 => ?_)
  split <;> exact h2

theorem State.Inv.execOriginTag {o} (h : s.Inv) : (nextOr s (Machine.execOriginTag o s)).Inv := h.runWave fun _ _ _ h' => h'

theorem State.Inv.execOriginAddr {o} (h : s.Inv) : (nextOr s (Machine.execOriginAddr o s)).Inv := h.runWave fun _ _ _ h' => h'

theorem State.Inv.execOriginReg {o} (h : s.Inv) : (nextOr s (Machine.execOriginReg o s)).Inv :=
  h.runWave fun _ _ _ h' => .consumePoison (.ite h' (.raiseLanes h'))

theorem State.Inv.execSset {o} (h : s.Inv) : (nextOr s (Machine.execSset o s)).Inv := by
  unfold Machine.execSset
  refine h.runWave fun _ _ _ h1 => .consumePoison ?_
  split
  · refine .setWave (h1.foldl fun _ _ h2 => ?_)
    split <;> exact h2
  · refine .raiseLanes (h1.foldl fun _ _ h2 => ?_)
    split <;> exact h2

theorem State.Inv.execRth {o} (h : s.Inv) : (nextOr s (Machine.execRth o s)).Inv := h.runOnce fun _ _ _ h' => .ite h' h'.endSlotWave

theorem State.Inv.execCkpt {o} (h : s.Inv) : (nextOr s (Machine.execCkpt o s)).Inv := h.runOnce fun _ _ _ h' => .setWave (.ite h' h')

theorem State.Inv.execGenerationScrub {core vd} (h : s.Inv) : (nextOr s (Machine.execGenerationScrub core vd s)).Inv :=
  .next (h.scrubDone.foldl fun _ _ h1 => h1.foldl fun _ _ h2 => h2.serveTakes)

theorem State.Inv.execHandlerLaunch {glen job core} (h : s.Inv) : (nextOr s (Machine.execHandlerLaunch glen job core s)).Inv := by
  unfold Machine.execHandlerLaunch
  refine .next ?_
  split
  · exact h
  · exact .ite h (.modCore (.dropL1 (.foldl h fun _ _ h' => h')))

theorem State.Inv.execWatchdogExpiry {wave} (h : s.Inv) : (nextOr s (Machine.execWatchdogExpiry wave s)).Inv := by
  unfold Machine.execWatchdogExpiry
  refine .next ?_
  split
  · exact h
  · extract_lets st asleep t x fs
    have h1 : t.Inv := h.record
    split
    · exact h
    · split
      · exact h1.raiseAt
      · exact h1.raise
      · exact h1.raiseFetch

/-! ### Operands -/

theorem State.Inv.alu1 {i o f} (h : s.Inv) : (nextOr s (Machine.alu1 i o f s)).Inv := h.runAlu

theorem State.Inv.alu2 {i o f} (h : s.Inv) : (nextOr s (Machine.alu2 i o f s)).Inv := h.runAlu

theorem State.Inv.alu2acc {i o f} (h : s.Inv) : (nextOr s (Machine.alu2acc i o f s)).Inv := h.runAlu

theorem State.Inv.alu64 {i o f} (h : s.Inv) : (nextOr s (Machine.alu64 i o f s)).Inv := h.runAlu

theorem State.Inv.alu3 {i o f} (h : s.Inv) : (nextOr s (Machine.alu3 i o f s)).Inv := h.runAlu

/-! ### VecInt -/

theorem State.Inv.execMov {o} (h : s.Inv) : (nextOr s (Machine.execMov o s)).Inv := by
  unfold Machine.execMov
  split <;> exact h.runAlu

/-! ### VecLane -/

theorem State.Inv.runMovx {i o poisoned f} (h : s.Inv) : (nextOr s (Machine.runMovx i o poisoned f s)).Inv :=
  h.runWave fun _ _ _ h' => .consumePoison (.ite h' h'.raiseLanes)

theorem State.Inv.runQuad {i o vertical} (h : s.Inv) : (nextOr s (Machine.runQuad i o vertical s)).Inv :=
  h.runWave fun _ _ _ h' => .ite h'.raiseInstr h'.aluWaveBy

/-! ### Dispatch -/

theorem State.Inv.exec {i} (h : s.Inv) : (nextOr s (Machine.exec i s)).Inv := by
  unfold Machine.exec
  cases i with
  | nop | imulw | imadw | lea | cvt | icmp | fcmp | plop | sel | pmovToreg | pmovFromreg | voteAny | voteAll | voteBallot | elect |
    sreg => exact h.runAlu
  | mov => exact h.execMov
  | iadd | isub | imul | imulh | imin | imax | idiv | irem | and | or | xor | andn | shl | shrl | shra | rotl | bfx | fadd | fsub | fmul | fmin |
    fmax | fdiv | pack => exact h.alu2
  | imad | fma | dot4 | dot2f => exact h.alu2acc
  | iadd64 | isub64 => exact h.alu64
  | iabs | popc | clz | brev | ffs | fneg | fabs | frnd | frcp | fsqrt | frsq | fexp2 | flog2 | fsinpi | fcospi | fclass => exact h.alu1
  | lop3 | funnel | bfi | permb => exact h.alu3
  | matchLanes | shfl | scan | reduce | v2sFirst | v2sLane => exact h.runAluBy
  | movxRd | movxWr => exact h.runMovx
  | ldS8 | ldB8 | ldS16 | ldB16 | ld32 | ld64 | ld128 => exact h.runLoad
  | st8 | st16 | st32 | st64 | st128 => exact h.runStore
  | ldc => exact h.execLdc
  | atomAdd | atomSmin | atomSmax | atomBmin | atomBmax | atomAnd | atomOr | atomXor | atomXchg | atomCas | atomFadd | atomAdd64 |
    atomCas64 => exact h.runAtom
  | stmap => exact h.execStmap
  | stunmap => exact h.execStunmap
  | stwb => exact h.execStwb
  | stdrop => exact h.execStdrop
  | prefetch => exact h.execPrefetch
  | fence => exact h.execFence
  | cntadd => exact h.execCntadd
  | bra => exact h.execBra
  | brx | callx | callxTail => exact h.runIndirect
  | rcv => exact h.execRcv
  | join => exact h.execJoin
  | call => exact h.execCall
  | ret => exact h.execRet
  | exit => exact h.execExit
  | barArrive => exact h.execBarArrive
  | barWait => exact h.execBarWait
  | barSync => exact h.execBarSync
  | barInit => exact h.execBarInit
  | barexp => exact h.execBarexp
  | cbarArrive => exact h.execCbarArrive
  | cbarWait => exact h.execCbarWait
  | cbarSync => exact h.execCbarSync
  | waitge | mwait => exact h.runMemWait
  | yield => exact h.execYield
  | sleep => exact h.execSleep
  | forkSuspend => exact h.execForkSuspend
  | forkDetach => exact h.execForkDetach
  | tspawn => exact h.execTspawn
  | tend => exact h.execTend
  | tabort => exact h.execTabort
  | tirrev => exact h.execTirrev
  | trap | bkpt => exact h.softTrap
  | cpy | tcopy | tstore | tgather | ccopy | codewr | codeswap | encpost | encframeOpen | encframeClose => exact h.runAsync
  | rgive => exact h.execRgive
  | rtake => exact h.execRtake
  | covbegin => exact h.execCovbegin
  | covline | covquad | covcube | covtri => exact h.runSegments
  | covres => exact h.execCovres
  | covend => exact h.execCovend
  | covpop => exact h.execCovpop
  | ddx | ddy => exact h.runQuad
  | mxrd => exact h.execMxrd
  | mxwr => exact h.execMxwr
  | mxstat => exact h.execMxstat
  | resumelRetry | resumelSkip | killl => exact h.runResolve
  | originTag => exact h.execOriginTag
  | originAddr => exact h.execOriginAddr
  | originReg => exact h.execOriginReg
  | rth => exact h.execRth
  | sset => exact h.execSset
  | ckpt => exact h.execCkpt
  | mnop => exact h.execMnop
  | mteam => exact h.execMteam
  | mdesc => exact h.execMdesc
  | mzero => exact h.execMzero
  | mma | mmas => exact h.runMma
  | mloop | mloopMreg => exact h.runLoop
  | mendl => exact h.execMendl
  | mbarw => exact h.execMbarw
  | mbara => exact h.execMbara
  | mset => exact h.execMset
  | madd => exact h.execMadd
  | mbuf => exact h.execMbuf
  | mfence => exact h.execMfence
  | mend => exact h.execMend
  | kstepRetire => exact h.execKstepRetire
  | teamClaim => exact h.tryClaim.next
  | generationScrub => exact h.execGenerationScrub
  | handlerLaunch => exact h.execHandlerLaunch
  | watchdogExpiry => exact h.execWatchdogExpiry
  | sleepWake => exact h.execSleepWake
  | monitorWake => exact h.execMonitorWake
  | commandAccept => exact h.execCommandAccept
  | copySectorWritten => exact h.execCopySectorWritten
  | commandRetire => exact h.execCommandRetire
  | covCommandRetire => exact h.execCovCommandRetire
  | bandEncoded => exact h.execBandEncoded
  | fetchCard => exact h.execFetchCard
  | pluginInvocation => exact h.execPluginInvocation
  | cardReady => exact h.execCardReady
  | prologueStart => exact h.execPrologueStart
  | dealChunk => exact h.execDealChunk
  | placeRound => exact h.execPlaceRound
  | jobRetire => exact h.execJobRetire
  | suspendWake => exact h.execSuspendWake
  | blockSaveDone => exact h.execBlockSaveDone
  | blockResume => exact h.execBlockResume
  | carveConversion => exact h.endConversion.next
  | periodBoundary => exact h.execPeriodBoundary
  | switchoutCutTimeout => exact h.execSwitchoutCutTimeout
  | accountingWindow => exact h.execAccountingWindow
  | checkpointCut => exact h.haltCut.next
  | cutComplete => exact h.execCutComplete
  | rollbackDone => exact h.execRollbackDone
  | taskAdmit => exact h.execTaskAdmit
  | taskPlace => exact h.execTaskPlace
  | taskCommit => exact h.execTaskCommit
  | saddleUpdateApply => exact h.execSaddleUpdateApply
  | invalidationComplete => exact h.execInvalidationComplete
  | migrationDone => exact h.execMigrationDone
  | leaseStart => exact h.execLeaseStart
  | leaseEnd => exact h.execLeaseEnd
  | saveDrainTimeout => exact h.execSaveDrainTimeout
  | cutTimeout => exact h.execCutTimeout
  | commandTimeout => exact h.execCommandTimeout
  | colWatchdogTimeout => exact h.execColWatchdogTimeout
  | vdStopTimeout => exact h.execVdStopTimeout
  | glenScrubComplete => exact h.execGlenScrubComplete
  | glenFailure => exact h.execGlenFailure
  | memError => exact h.execMemError
  | patrolScrub => exact h.execPatrolScrub
  | linkCrcFail => exact h.execLinkCrcFail
  | linkRetrainTimeout => exact h.execLinkRetrainTimeout
  | passLinkDown => exact h.execPassLinkDown
  | fabricRead => exact h.execFabricRead
  | fabricPostedWrite => exact h.execFabricPostedWrite
  | fabricAtomic => exact h.execFabricAtomic
  | fabricPostedAtomic => exact h.execFabricPostedAtomic
  | fabricResponse => exact h.execFabricResponse
  | fabricResponseTimeout => exact h.execFabricResponseTimeout
  | fabricRekey => exact h.execFabricRekey
  | timeSyncMessage => exact h.execTimeSyncMessage
  | timeMasterTimeout => exact h.execTimeMasterTimeout
  | holdoverExpiry => exact h.execHoldoverExpiry
  | reset => exact h.execReset
  | bringUpStepDone => exact h.execBringUpStepDone
  | clockControl => exact h.execClockControl
  | thermalTrip => exact h.execThermalTrip
  | lcReq => exact h.execLcReq
  | limitWrite => exact h.execLimitWrite
  | alarmClear => exact h.execAlarmClear
  | registerWrite => exact h.execRegisterWrite
  | vdcWrite | vdcEnSet | vdcEnClear => exact h.hostVdc.next
  | hostPostWrite => exact h.execHostPostWrite
  | apertureWrite => exact h.execApertureWrite
  | apertureRead => exact h.execApertureRead
  | s1inv | migrate | cut | rollback | switchout | statclr | qcbwr | fwwave | plugin => exact h.hostCommand.next
  | create | fuse | split | s2root | s2inv | lease | revoke | importEntry | dirtyStart | dirtySwap | dirtyStop | vdStop | vdExport | vdImport |
    vdResume | pageCopy => exact h.hostPf.next
  | perValeReset => exact h.execPerValeReset
  | valeResetComplete => exact h.execValeResetComplete
  | getVersion => exact h.execGetVersion
  | getCapabilities => exact h.execGetCapabilities
  | negotiateAlgorithms => exact h.execNegotiateAlgorithms
  | getDigests => exact h.execGetDigests
  | getCertificate => exact h.execGetCertificate
  | challenge => exact h.execChallenge
  | getMeasurements => exact h.execGetMeasurements
  | keyExchange => exact h.execKeyExchange
  | finish => exact h.execFinish
  | heartbeat => exact h.execHeartbeat
  | heartbeatTimeout => exact h.execHeartbeatTimeout
  | keyUpdate => exact h.execKeyUpdate
  | endSession => exact h.execEndSession
  | ideKm => exact h.execIdeKm
  | ideStreamFault => exact h.execIdeStreamFault
  | lockInterfaceRequest => exact h.execLockInterfaceRequest
  | startInterfaceRequest => exact h.execStartInterfaceRequest
  | stopInterfaceRequest => exact h.execStopInterfaceRequest
  | tdiWipeComplete => exact h.execTdiWipeComplete
  | getDeviceInterfaceState => exact h.execGetDeviceInterfaceState
  | getDeviceInterfaceReport => exact h.execGetDeviceInterfaceReport
  | configWrite => exact h.execConfigWrite
  | accessPerformed => exact h.execAccessPerformed
  | loadComplete => exact h.completeOutst.next
  | appliedNotice => exact h.execAppliedNotice
  | retrainComplete => exact h.execRetrainComplete
  | wakeBoostEnd => exact h.execWakeBoostEnd
  | parkuntilExpiry => exact h.execParkuntilExpiry

/-! ### Turn -/

theorem State.Inv.tickTod (h : s.Inv) : (Machine.tickTod s).Inv := .tryPosts (.retireWaiting (.tickPf (.tickFw (.haltCuts h))))

theorem State.Inv.beginClock (h : s.Inv) : (Machine.beginClock s).Inv := .ite h h

theorem State.Inv.spendTrack {w} (h : s.Inv) : (Machine.spendTrack s w).Inv := by
  unfold Machine.spendTrack
  split <;> exact h

theorem State.Inv.spendUnit {w i} (h : s.Inv) : (Machine.spendUnit s w i).Inv := by
  unfold Machine.spendUnit
  split <;> exact h

theorem State.Inv.spendWave {w} (h : s.Inv) : (Machine.spendWave s w).Inv := h

theorem State.Inv.spendSeq {blk} (h : s.Inv) : (Machine.spendSeq s blk).Inv := h

theorem State.Inv.ranked {w late} (h : s.Inv) : ((Machine.ranked s w late).getD s).Inv := by
  unfold Machine.ranked
  split
  · exact h
  · split
    · exact h
    · split
      · exact h
      · split
        · exact h
        · split <;> exact h

theorem State.Inv.quiet (h : s.Inv) : (Machine.quiet s).Inv := h

theorem State.Inv.waveTurn {w defer} (h : s.Inv) : (nextOr s (Machine.waveTurn s w defer)).Inv := by
  unfold Machine.waveTurn
  split
  · exact h.next
  · have h1 : (Machine.turnWave ((Machine.spendWave s w).modWave w (fun x => { x with yielded := false })) w defer).state.Inv :=
      h.spendWave.modWave.turnWave
    split
    · rename_i heq
      exact .next (.quiet (.ofIssued heq h1))
    · rename_i heq
      exact .next (.ite h (.quiet (.spendTrack (.ofIssued heq h1))))
    · rename_i u i heq
      have h2 : u.Inv := .ofIssued heq h1
      split
      · exact h.next
      · exact .andThen h (h2.spendUnit (w := w) (i := i)).exec fun _ h' => h'.countIssue

theorem State.Inv.rankedTurn {w defer late} (h : s.Inv) : (nextOr s (Machine.rankedTurn s w defer late)).Inv := by
  unfold Machine.rankedTurn
  split
  · exact h.next
  · rename_i heq
    exact .rebase h (State.Inv.ofSome heq h.ranked).waveTurn

theorem State.Inv.seqTurn {blk} (h : s.Inv) : (nextOr s (Machine.seqTurn s blk)).Inv := by
  unfold Machine.seqTurn
  split
  · exact h.next
  · have h1 {x : Issued} (e : Machine.issueSeq _ blk = x) : x.state.Inv := .ofIssued e (.issueSeq (h.spendSeq (blk := blk)))
    split
    · rename_i heq
      exact .next (.quiet (h1 heq))
    · rename_i heq
      exact .next (.quiet (h1 heq))
    · rename_i heq
      exact .andThen h (State.Inv.exec (h1 heq)) fun _ h' => h'.countSeq

theorem State.Inv.happen {i} (h : s.Inv) : (nextOr s (Machine.happen s i)).Inv := by
  unfold Machine.happen
  split
  · exact h.exec
  · exact h.next

theorem State.Inv.runChoice {c} (h : s.Inv) : (nextOr s (Machine.runChoice s c)).Inv := by
  cases c with
  | event => exact h.happen
  | issue | issueAmong => exact h.rankedTurn
  | sequence => exact h.seqTurn
  | evictL1 | evictCode | evictConst | evictTlb | evictL2 | evictGlenTlb | evictDieTlb => exact .next h
  | readSlab => exact h.readSlab.next
  | clockBegin => exact h.beginClock.next
  | clockEnd => exact h.endClock.next
  | tick => exact .next (.ite h h.tickTod)

/-! ### Step -/

theorem State.Inv.step (h : s.Inv) : (nextOr s (Machine.step s)).Inv := by
  unfold Machine.step
  split
  · rename_i rest _
    exact .rebase h (State.Inv.runChoice (s := { s with agenda := rest }) h)
  · exact h.runChoice

end

/-! ## Settling O5 -/

/-- Settles O5: the lemma of `step`, where the outcome is a next state. -/
theorem stepKeepsMemoryForm : Obligations.StepKeepsMemoryForm := by
  unfold Obligations.StepKeepsMemoryForm
  intro s t h ht
  have hstep := h.step
  rw [ht] at hstep
  exact hstep

end Sys2Proof.Machine

namespace Sys2Proof.Machine

/-! SUPPORT. What reads and writes at the home of a line change (R108, R112, R115, R150, R151, R408, R436), above all where no row of a stash
maps a line. -/

/-! ## Caches -/

/-- The part of a state that no cache holds: memory and its poison, blocks, vales and waves. -/
structure Uncached where
  mem : List Host.Cell
  poison : List Nat
  blocks : Tbl Block
  vales : Tbl Vale
  waves : Tbl Wave

/-- What of a state stands whatever its caches and its dies' vectors do. -/
def State.uncached (s : State) : Uncached := ⟨s.mem, s.poison, s.blocks, s.vales, s.waves⟩

section
variable (s : State) (core vale vd k : Nat) (bs : List Byte) (hint : BitVec 2) (nc dev : Bool)

theorem foldl_uncached {α : Type} (l : List α) {f : State → α → State} (h : ∀ t x, (f t x).uncached = t.uncached) :
    (l.foldl f s).uncached = s.uncached :=
  List.foldlRecOn (motive := fun t => t.uncached = s.uncached) l f rfl fun t ht x _ => (h t x).trans ht

@[simp] theorem l2Use_uncached (r : L2Req) (line : Nat) (sectors : BitVec 4) (old : List Byte) :
    (l2Use s r line sectors old).uncached = s.uncached := by
  unfold l2Use
  dsimp only
  split
  · split
    · rfl
    · split <;> rfl
  · split <;> rfl

@[simp] theorem l2Read_uncached (n : Nat) : (l2Read s vale vd k n hint nc dev).uncached = s.uncached := by
  unfold l2Read
  split
  · rfl
  · exact foldl_uncached s _ fun t j => l2Use_uncached t _ j _ _

/-- R115: a write writes its bytes, and uses the home slices. -/
@[simp] theorem l2Write_uncached : (l2Write s vale vd k bs hint nc dev).uncached =
    { s.uncached with mem := setMemBytes s.mem k bs, poison := poisonAfter s.poison k bs.length } := by
  unfold l2Write
  split
  · rfl
  · exact foldl_uncached _ _ fun t j => l2Use_uncached t _ j _ _

@[simp] theorem l1Store_uncached : (l1Store s core vale vd k bs).uncached = s.uncached := by
  unfold l1Store
  dsimp only
  split <;> rfl

@[simp] theorem l1Put_uncached (sec : Nat) (first : Bool) : (l1Put s core vale vd sec bs first).uncached = s.uncached := by
  unfold l1Put
  dsimp only
  split
  · rfl
  · split <;> rfl

@[simp] theorem acquireDone_uncached (a : Access) : (acquireDone s a).uncached = s.uncached := by
  unfold acquireDone
  split <;> rfl

@[simp] theorem mergeKnown_uncached (to_ from_ : Nat) : (mergeKnown s to_ from_).uncached = s.uncached := by
  unfold mergeKnown
  split <;> rfl

end

theorem mem_of_uncached {s t : State} (h : t.uncached = s.uncached) : t.mem = s.mem := congrArg Uncached.mem h

/-! ## Rows, the undo log and dirty pages -/

section
variable {s : State} {vale vd : Nat}

/-- R108: no row gives a line up where none maps one. -/
theorem recallRows_noRows (h : ∀ e ∈ s.blocks, e.2.rows = []) (line blk row : Nat) (p : Block → Bool) : recallRows s line blk row p = s := by
  refine List.foldlRecOn (motive := fun t => t = s) _ _ rfl fun t ht e he => ?_
  rw [h e he, ht, List.foldl_nil, ite_self]

theorem logLine_unlogged (h : ∀ d, s.vd? vale vd = some d → d.ckseq = 0) (line : Nat) : logLine s vale vd line = s := by
  unfold logLine
  split
  · next v d _ hd => simp [needsUndo, h d hd]
  · rfl

theorem markDirty_untracked (h : ∀ d, s.vd? vale vd = some d → d.dirty = none) (ipa : Option Nat) : markDirty s vale vd ipa = s := by
  unfold markDirty
  split
  · next hdirty =>
    obtain ⟨d, hd, hsome⟩ := Option.bind_eq_some_iff.mp hdirty
    rw [h d hd] at hsome
    cases hsome
  · rfl

/-- No poison stands in memory, no row of a stash maps a line, no block runs a task, and the VD neither logs for a checkpoint nor tracks dirty
pages. -/
structure State.Bare (s : State) (vale vd : Nat) : Prop where
  poison : s.poison = []
  rows : ∀ e ∈ s.blocks, e.2.rows = []
  tasks : ∀ e ∈ s.blocks, e.2.task = none
  unlogged : ∀ d, s.vd? vale vd = some d → d.ckseq = 0
  untracked : ∀ d, s.vd? vale vd = some d → d.dirty = none

theorem State.bare_of (hp : s.poison = []) (hb : ∀ e ∈ s.blocks, e.2.rows = [] ∧ e.2.task = none)
    (hd : ∀ d, s.vd? vale vd = some d → d.ckseq = 0 ∧ d.dirty = none) : s.Bare vale vd :=
  ⟨hp, fun e he => (hb e he).1, fun e he => (hb e he).2, fun d h => (hd d h).1, fun d h => (hd d h).2⟩

/-- R408, R436: a write for such a VD is a write at the home slices. -/
theorem State.Bare.vdStore_eq (h : s.Bare vale vd) (ipa : Option Nat) (k : Nat) (bs : List Byte) (hint : BitVec 2) (nc dev : Bool) :
    vdStore s vale vd ipa k bs hint nc dev = l2Write s vale vd k bs hint nc dev := by
  have hlog : (unitsOf 128 k bs.length).foldl (fun t j => logLine t vale vd j) s = s :=
    List.foldlRecOn (motive := fun t => t = s) _ _ rfl fun t ht j _ => by rw [ht, logLine_unlogged h.unlogged]
  unfold vdStore
  extract_lets areas t
  have ht : t = s := (congrArg (ite _ s) hlog).trans (ite_self s)
  rw [ht, markDirty_untracked h.untracked]

end

/-! ## Aborts -/

section
variable (s : State)

/-- R365: an abort changes no memory. -/
theorem abortTask_mem (job seq : Nat) : (abortTask s job seq).mem = s.mem := by
  unfold abortTask
  split
  · rfl
  · refine List.foldlRecOn (motive := fun t : State => t.mem = s.mem) _ _ rfl fun t ht b _ => ?_
    unfold removeBlock
    split
    · exact ht
    · exact ht

theorem taskWrite_mem (vale job : Nat) (ts : DWord) (q k n : Nat) : (taskWrite s vale job ts q k n).mem = s.mem := by
  unfold taskWrite abortReaders
  split
  · rfl
  · exact List.foldlRecOn (motive := fun t : State => t.mem = s.mem) _ _ rfl fun t ht q _ => (abortTask_mem t job q).trans ht

theorem irrevWrite_mem (blk k n : Nat) : (irrevWrite s blk k n).mem = s.mem := by
  unfold irrevWrite
  split
  · rfl
  · split
    · rfl
    · split
      · rfl
      · exact taskWrite_mem s _ _ _ _ k n

theorem accessWrite_mem (a : Access) (k n : Nat) : (accessWrite s a k n).mem = s.mem := by
  unfold accessWrite
  split
  · exact taskWrite_mem s _ _ _ _ k n
  · exact irrevWrite_mem s _ k n

end

theorem Tbl.mem_of_get {α : Type} {t : Tbl α} {k : Nat} {v : α} (h : Tbl.get t k = some v) : (k, v) ∈ t := by
  induction t with
  | nil => cases h
  | cons e t ih =>
    obtain ⟨j, w⟩ := e
    rw [Tbl.get] at h
    split at h
    · next hj =>
      cases h
      exact hj ▸ List.mem_cons_self
    · exact List.mem_cons_of_mem _ (ih h)

/-- R367: where no block runs a task, a write aborts nothing. -/
theorem irrevWrite_noTask {s : State} (h : ∀ e ∈ s.blocks, e.2.task = none) (blk k n : Nat) : irrevWrite s blk k n = s := by
  unfold irrevWrite
  split
  · rfl
  · next b hb => rw [h _ (Tbl.mem_of_get hb)]

/-! ## Performing at the home (R149) -/

/-- What an access writes at its home, before any cache takes it over. -/
def homeWrite (s : State) (a : Access) (k : Nat) : State :=
  let t := accessWrite (l2Write s a.vale a.vd k (accApply a.op (memBytes s k a.op.size)) a.hint a.nc a.dev) a k a.op.size
  match a.op with
  | .bad _ => poisonSectors t (unitsOf 32 k a.op.size)
  | _ => t

section
variable {s : State} {a : Access}

theorem homeWrite_mem (s : State) (a : Access) (k : Nat) :
    (homeWrite s a k).mem = setMemBytes s.mem k (accApply a.op (memBytes s k a.op.size)) := by
  have hmem := (accessWrite_mem _ a k a.op.size).trans
    (congrArg Uncached.mem (l2Write_uncached s a.vale a.vd k (accApply a.op (memBytes s k a.op.size)) a.hint a.nc a.dev))
  unfold homeWrite
  split
  · exact hmem
  · exact hmem

/-- R149: performing an access at its home is its write there and what the caches take of it. -/
theorem State.Bare.performMem_uncached (h : s.Bare a.vale a.vd) (k : Nat) : (performMem s a k).uncached = (homeWrite s a k).uncached := by
  have hclean : (a.op.isAtomic && memPoisoned s k a.op.size) = false := by simp [memPoisoned, h.poison]
  unfold performMem
  simp only [recallRows_noRows h.rows, hclean, Bool.false_eq_true, if_false, h.vdStore_eq]
  change (acquireDone (if a.op.isAtomic then l1Store (homeWrite s a k) _ _ _ _ _ else if a.sent then homeWrite s a k else
    l1Store (homeWrite s a k) _ _ _ _ _) a).uncached = _
  rw [acquireDone_uncached]
  split
  · exact l1Store_uncached _ _ _ _ _ _
  · split
    · rfl
    · exact l1Store_uncached _ _ _ _ _ _

/-- R149, R284, R288: an access performed at its home writes there what it makes of the bytes. -/
theorem State.Bare.performMem_mem (h : s.Bare a.vale a.vd) (k : Nat) :
    (performMem s a k).mem = setMemBytes s.mem k (accApply a.op (memBytes s k a.op.size)) :=
  (mem_of_uncached (h.performMem_uncached k)).trans (homeWrite_mem s a k)

theorem State.Bare.congr {t : State} {vale vd : Nat} {m : List Host.Cell} (h : s.Bare vale vd) (e : t.uncached = { s.uncached with mem := m }) :
    t.Bare vale vd := by
  have hp : t.poison = s.poison := congrArg Uncached.poison e
  have hb : t.blocks = s.blocks := congrArg Uncached.blocks e
  have hv : t.vales = s.vales := congrArg Uncached.vales e
  have hvd : t.vd? vale vd = s.vd? vale vd := by simp only [State.vd?, State.vale?, hv]
  exact ⟨hp.trans h.poison, hb ▸ h.rows, hb ▸ h.tasks, hvd ▸ h.unlogged, hvd ▸ h.untracked⟩

/-- R514: a write leaves no sector poisoned where none was. -/
theorem poisonAfter_of_nil {p : List Nat} (h : p = []) (k n : Nat) : poisonAfter p k n = p := by
  simp [poisonAfter, h]

/-- An access of no task that carries no poison leaves the state as bare as it was. -/
theorem State.Bare.performed (h : s.Bare a.vale a.vd) (htask : a.task = none) (hop : ∀ bs, a.op ≠ .bad bs) (k : Nat) :
    (performMem s a k).Bare a.vale a.vd := by
  have hwrite := l2Write_uncached s a.vale a.vd k (accApply a.op (memBytes s k a.op.size)) a.hint a.nc a.dev
  rw [poisonAfter_of_nil h.poison] at hwrite
  refine h.congr ((h.performMem_uncached k).trans ?_) (m := setMemBytes s.mem k (accApply a.op (memBytes s k a.op.size)))
  unfold homeWrite
  split
  · next bs hbad => exact absurd hbad (hop bs)
  · rw [accessWrite, htask]
    exact (congrArg State.uncached (irrevWrite_noTask (h.congr hwrite).tasks a.blk k a.op.size)).trans hwrite

/-! ## Bytes -/

theorem memByte_of_mem {t : State} (h : t.mem = s.mem) (x : Nat) : memByte t x = memByte s x := by rw [memByte, memByte, h]

theorem sameMemBut_of_mem {t : State} {k n : Nat} {bs : List Byte} (h : t.mem = setMemBytes s.mem k bs) (hlen : bs.length = n) :
    sameMemBut s t k n := by
  intro x hx
  rw [memByte, h, setMemBytes_cell, if_neg (by omega)]
  rfl

theorem memBytes_of_mem {t : State} {k : Nat} {bs : List Byte} (h : t.mem = setMemBytes s.mem k bs) : memBytes t k bs.length = bs := by
  refine List.ext_getElem (by simp [memBytes, natsFrom_eq_range']) fun i hi hi' => ?_
  have hcell : memByte t (k + i) = bs.getD (k + i - k) 0 := by rw [memByte, h, setMemBytes_cell, if_pos (by omega)]
  simpa [memBytes, natsFrom_eq_range', hi'] using hcell

end

/-! ## Settling O25 -/

/-- Settles O25: memory becomes what the access writes at its home. -/
theorem performAtHome : Obligations.PerformAtHome := by
  unfold Obligations.PerformAtHome
  intro s a k hpoison hblocks hvd hlen
  have hmem := (State.bare_of hpoison hblocks hvd).performMem_mem k
  refine ⟨?_, sameMemBut_of_mem hmem hlen⟩
  have hbytes := memBytes_of_mem hmem
  rwa [hlen] at hbytes

end Sys2Proof.Machine

namespace Sys2Proof.Machine

/-! PROOF. A lane of an outstanding load takes its bytes into its registers (R149, R172). -/

/-! ## Registers -/

/-- A part of a wave that no write of a register word changes stands through writes of register fields. -/
theorem Wave.wr_keeps {α : Type} {p : Wave → α} (hv : ∀ w r l x, p (w.wrV r l x) = p w) (hs : ∀ w n x, p (w.wrS n x) = p w) (w : Wave)
    (f : RegField) (ls : List Nat) (g : Nat → Word) : p (w.wr f ls g) = p w := by
  unfold Wave.wr
  split
  · split
    · rfl
    · exact hs w _ _
  · exact List.foldlRecOn (motive := fun x => p x = p w) _ _ rfl fun x hx l _ => (hv x _ l _).trans hx

theorem writeLoad_keeps {α : Type} {p : Wave → α} (hv : ∀ w r l x, p (w.wrV r l x) = p w) (hs : ∀ w n x, p (w.wrS n x) = p w) (w : Wave)
    (op : LoadOp) (lane : Nat) (bs : List Byte) : p (writeLoad w op lane bs) = p w :=
  List.foldlRecOn (motive := fun x => p x = p w) _ _ rfl fun x hx _ _ => (Wave.wr_keeps hv hs x _ _ _).trans hx

/-! ## The load -/

section
variable {s : State} (h : ∀ e ∈ s.blocks, e.2.rows = [])
include h

theorem homeRead_uncached (die vale vd k n : Nat) (hint : BitVec 2) (nc dev : Bool) :
    (homeRead s die vale vd k n hint nc dev).1.uncached = s.uncached := by
  simp only [homeRead, recallLine, recallRows_noRows h, l2Read_uncached, mergeKnown_uncached]

/-- R112, R115: where no row of a stash maps a line, a load of memory changes caches alone. -/
theorem readMemLoad_uncached (w : Wave) (k n : Nat) (ord scope : BitVec 3) (hint : BitVec 2) (page : PageKind) :
    (readMemLoad s w k n ord scope hint page).1.uncached = s.uncached := by
  have hhome (c : Prop) [Decidable c] (bs : List Byte) (first : Bool) :
      (if c then l1Put (homeRead s (dieOfCore w.core) w.vale w.vd k n hint page.nc page.dev).1 w.core w.vale w.vd (k / 32) bs first
        else (homeRead s (dieOfCore w.core) w.vale w.vd k n hint page.nc page.dev).1).uncached = s.uncached := by
    rw [apply_ite State.uncached, l1Put_uncached, homeRead_uncached h, ite_self]
  unfold readMemLoad
  split
  · exact hhome _ _ _
  · dsimp only
    split
    · rfl
    · exact hhome _ _ _

end

/-- R172: a lane of a load of local memory that nothing holds, in a wave of no task, writes what it reads. -/
theorem loadLane_uncached {s s1 : State} {wid lid lane d k : Nat} {w : Wave} {op : LoadOp} {r : LaneReq} {bs : List Byte}
    (hw : Tbl.get s.waves wid = some w) (ho : w.outst.find? (fun o => decide (o.id = lid)) = some ⟨lid, d, .load op⟩)
    (hr : op.lanes.find? (fun q => decide (q.lane = lane)) = some r) (hready : reqReady s wid lid w op r = true) (ht : r.target = .mem k)
    (htask : s.taskOf w = none) (hatom : op.atom = none) (hread : readMemLoad s w k op.size op.ord op.scope op.hint r.page = (s1, bs, false)) :
    (loadLane wid lid lane s).uncached = (s1.modWave wid (fun x => putLoad (writeLoad x op lane bs) lid
      { op with lanes := op.lanes.filter (fun q => decide (q.lane ≠ lane)) })).uncached := by
  unfold loadLane
  simp only [hw, ho, hr, hready, ht, readReq, htask, readHome, hatom, hread, laterRegs, writeNow, restOf]
  simp only [Bool.not_true, Bool.false_eq_true, Bool.false_and, if_false, if_true, Option.isSome_none, Bool.and_false, Bool.or_false, List.append_nil]
  split <;> rfl

/-! ## Settling O22 -/

/-- Settles O22: only caches and the wave change, and of the wave only its registers and what is outstanding. -/
theorem loadDelivers : Obligations.LoadDelivers := by
  unfold Obligations.LoadDelivers
  intro s s1 wid lid lane d k w op r bs hw ho hr hready ht htask hatom hrows hread
  have hload := loadLane_uncached hw ho hr hready ht htask hatom hread
  have hkept : s1.uncached = s.uncached := by
    have h := readMemLoad_uncached hrows w k op.size op.ord op.scope op.hint r.page
    rwa [hread] at h
  have hwave : Tbl.get s1.waves wid = some w := (congrArg (Tbl.get · wid) (congrArg Uncached.waves hkept)).trans hw
  have hmem : s1.mem = s.mem := mem_of_uncached hkept
  refine ⟨⟨putLoad (writeLoad w op lane bs) lid { op with lanes := op.lanes.filter (fun q => decide (q.lane ≠ lane)) },
    (congrArg (Tbl.get · wid) (congrArg Uncached.waves hload)).trans ?wave, fun f l => rfl,
    writeLoad_keeps (p := Wave.pos) (fun _ _ _ _ => rfl) (fun _ _ _ => rfl) w op lane bs,
    writeLoad_keeps (p := Wave.active) (fun _ _ _ _ => rfl) (fun _ _ _ => rfl) w op lane bs,
    writeLoad_keeps (p := Wave.stack) (fun _ _ _ _ => rfl) (fun _ _ _ => rfl) w op lane bs⟩,
    fun a => memByte_of_mem ((mem_of_uncached hload).trans hmem) a⟩
  case wave =>
    change Tbl.get (Tbl.modify s1.waves wid _) wid = _
    rw [Tbl.get_modify_same, hwave]
    rfl

end Sys2Proof.Machine

namespace Sys2Proof.Machine

/-! SUPPORT. What the translation of an address leaves alone (R108, R124 to R127, R503): which task a wave runs, and, where no row of a stash
maps a line, all but the caches and the entries whose A and D bits it sets. -/

/-! ## Tasks -/

/-- What decides which task a wave runs (R356): the jobs, and the task of each block. -/
def State.tasking (s : State) : Tbl Job × (Nat → Option (Option Nat)) := (s.jobs, fun b => (Tbl.get s.blocks b).map Block.task)

theorem taskOf_of_tasking {s t : State} (h : t.tasking = s.tasking) (w : Wave) : t.taskOf w = s.taskOf w := by
  have hjobs : t.jobs = s.jobs := congrArg Prod.fst h
  have hblock : (Tbl.get t.blocks w.blk).map Block.task = (Tbl.get s.blocks w.blk).map Block.task := congrFun (congrArg Prod.snd h) w.blk
  unfold State.taskOf
  rw [hjobs]
  cases hs : Tbl.get s.blocks w.blk with
  | none => rw [hs] at hblock; rw [Option.map_eq_none_iff.mp hblock]
  | some b =>
    rw [hs] at hblock
    obtain ⟨c, hc, htask⟩ := Option.map_eq_some_iff.mp hblock
    rw [hc]
    cases w.kind <;> simp [htask]

section
variable (s : State)

theorem foldl_tasking {α : Type} (l : List α) {f : State → α → State} (h : ∀ t x, (f t x).tasking = t.tasking) :
    (l.foldl f s).tasking = s.tasking :=
  List.foldlRecOn (motive := fun t => t.tasking = s.tasking) l f rfl fun t ht x _ => (h t x).trans ht

/-- A change of a block's rows leaves it its task. -/
theorem State.setRows_tasking (blk : Nat) (rows : Block → Tbl Row) : (s.modBlock blk (fun b => { b with rows := rows b })).tasking = s.tasking := by
  refine Prod.ext rfl (funext fun b => ?_)
  change (Tbl.get (Tbl.modify s.blocks blk _) b).map Block.task = (Tbl.get s.blocks b).map Block.task
  by_cases hb : b = blk
  · rw [hb, Tbl.get_modify_same]
    cases Tbl.get s.blocks blk <;> rfl
  · rw [Tbl.get_modify_ne _ _ hb]

@[simp] theorem writeMem_tasking (k : Nat) (bs : List Byte) : (writeMem s k bs).tasking = s.tasking := rfl

@[simp] theorem poisonSectors_tasking (js : List Nat) : (poisonSectors s js).tasking = s.tasking := rfl

@[simp] theorem State.modVd_tasking (vale vd : Nat) (f : Vd → Vd) : (s.modVd vale vd f).tasking = s.tasking := rfl

@[simp] theorem crossNow_tasking (die k : Nat) (rel : Bool) : (crossNow s die k rel).tasking = s.tasking := by
  unfold crossNow
  split <;> rfl

@[simp] theorem giveUp_tasking (line : Nat) : (giveUp s line).tasking = s.tasking := by
  refine foldl_tasking s _ fun s e => foldl_tasking s _ fun s r => ?_
  split
  · rfl
  · refine (State.setRows_tasking _ _ _).trans ?_
    rw [apply_ite State.tasking, crossNow_tasking, ite_self]
    exact foldl_tasking s _ fun t j => by simp only [apply_ite State.tasking, poisonSectors_tasking, writeMem_tasking, ite_self]

@[simp] theorem writeLog_tasking (k : Nat) (bs : List Byte) : (writeLog s k bs).tasking = s.tasking := by
  rw [writeLog, writeMem_tasking, foldl_tasking s _ giveUp_tasking]

@[simp] theorem writeLogs_tasking (ps : List (Nat × Nat)) (bs : List Byte) : (writeLogs s ps bs).tasking = s.tasking := by
  induction ps generalizing s bs with
  | nil => rfl
  | cons p ps ih => rw [writeLogs, ih, writeLog_tasking]

theorem undoPut_tasking (v : Vale) (ipa : Nat) (bs : List Byte) (bad : Bool) : ((undoPut s v ipa bs bad).getD s).tasking = s.tasking := by
  unfold undoPut
  split
  · rfl
  · simp [apply_ite State.tasking]

@[simp] theorem logLine_tasking (vale vd line : Nat) : (logLine s vale vd line).tasking = s.tasking := by
  have hput (t : State) (p : Prop) [Decidable p] (v : Vale) (i j : Nat) (bs cs : List Byte) (bad : Bool) :
      (if p then (undoPut t v i bs bad).getD t else (undoPut ((undoPut t v i bs bad).getD t) v j cs bad).getD ((undoPut t v i bs bad).getD t)).tasking =
        t.tasking := by
    split
    · exact undoPut_tasking t v i bs bad
    · exact (undoPut_tasking _ v j cs bad).trans (undoPut_tasking t v i bs bad)
  unfold logLine
  split
  · split
    · rfl
    · simp only [State.modVd_tasking]
      refine (foldl_tasking _ _ fun t j => ?_).trans (hput _ _ _ _ _ _ _ _)
      split
      · exact hput _ _ _ _ _ _ _ _
      · rfl
  · rfl

@[simp] theorem markDirty_tasking (vale vd : Nat) (ipa : Option Nat) : (markDirty s vale vd ipa).tasking = s.tasking := by
  unfold markDirty
  split
  · split
    · rfl
    · dsimp only
      split
      · rfl
      · exact writeLog_tasking s _ _
  · rfl

@[simp] theorem l2Use_tasking (r : L2Req) (line : Nat) (sectors : BitVec 4) (old : List Byte) :
    (l2Use s r line sectors old).tasking = s.tasking := by
  unfold l2Use
  dsimp only
  split
  · split
    · rfl
    · split <;> rfl
  · split <;> rfl

@[simp] theorem l2Read_tasking (vale vd k n : Nat) (hint : BitVec 2) (nc dev : Bool) : (l2Read s vale vd k n hint nc dev).tasking = s.tasking := by
  unfold l2Read
  split
  · rfl
  · exact foldl_tasking s _ fun t j => l2Use_tasking t _ j _ _

@[simp] theorem l2Write_tasking (vale vd k : Nat) (bs : List Byte) (hint : BitVec 2) (nc dev : Bool) :
    (l2Write s vale vd k bs hint nc dev).tasking = s.tasking := by
  unfold l2Write
  split
  · rfl
  · exact foldl_tasking _ _ fun t j => l2Use_tasking t _ j _ _

@[simp] theorem vdWrite_tasking (vale vd : Nat) (ipa : Option Nat) (k : Nat) (bs : List Byte) : (vdWrite s vale vd ipa k bs).tasking = s.tasking := by
  unfold vdWrite vdStore
  refine (l2Write_tasking _ vale vd k bs _ _ _).trans ((markDirty_tasking _ vale vd ipa).trans ?_)
  rw [apply_ite State.tasking, foldl_tasking s _ fun t j => logLine_tasking t vale vd j, ite_self]

@[simp] theorem sectorBack_tasking (b : Block) (row : Nat) (r : Row) (j : Nat) : (sectorBack s b row r j).tasking = s.tasking := by
  unfold sectorBack
  dsimp only
  split
  · rfl
  · split
    · rfl
    · rw [apply_ite State.tasking, poisonSectors_tasking, vdWrite_tasking, ite_self]

@[simp] theorem writeRowBack_tasking (blk row : Nat) : (writeRowBack s blk row).tasking = s.tasking := by
  unfold writeRowBack
  split
  · rfl
  · split
    · rfl
    · split
      · refine (State.setRows_tasking _ _ _).trans ?_
        rw [apply_ite State.tasking, crossNow_tasking, ite_self]
        refine foldl_tasking s _ fun t j => ?_
        rw [apply_ite State.tasking, sectorBack_tasking, ite_self]
      · rfl

@[simp] theorem recallRows_tasking (line blk row : Nat) (p : Block → Bool) : (recallRows s line blk row p).tasking = s.tasking := by
  refine foldl_tasking s _ fun t e => ?_
  split
  · rfl
  · refine foldl_tasking t _ fun u r => ?_
    rw [apply_ite State.tasking, State.setRows_tasking, writeRowBack_tasking, ite_self]

end

/-! ## Translation -/

/-- What the translation of addresses makes of a state: waves run the tasks they ran, and, where no row of a stash maps a line and no poison
stands in memory, only caches and bytes of memory change. -/
structure Walked (s t : State) : Prop where
  tasking : t.tasking = s.tasking
  still : (∀ e ∈ s.blocks, e.2.rows = []) → s.poison = [] → ∃ m, t.uncached = { s.uncached with mem := m }

section
variable {s t u : State}

theorem Walked.refl (s : State) : Walked s s := ⟨rfl, fun _ _ => ⟨s.mem, rfl⟩⟩

theorem Walked.of_cached (ht : t.tasking = s.tasking) (hu : t.uncached = s.uncached) : Walked s t := ⟨ht, fun _ _ => ⟨s.mem, hu⟩⟩

theorem Walked.trans (h1 : Walked s t) (h2 : Walked t u) : Walked s u := by
  refine ⟨h2.tasking.trans h1.tasking, fun hrows hpoison => ?_⟩
  obtain ⟨m, hm⟩ := h1.still hrows hpoison
  have hblocks : t.blocks = s.blocks := congrArg Uncached.blocks hm
  have hclean : t.poison = s.poison := congrArg Uncached.poison hm
  obtain ⟨m', hm'⟩ := h2.still (hblocks ▸ hrows) (hclean.trans hpoison)
  exact ⟨m', by rw [hm', hm]⟩

theorem Walked.foldl {α : Type} {f : State → α → State} (hf : ∀ t x, Walked t (f t x)) (s : State) (l : List α) : Walked s (l.foldl f s) :=
  List.foldlRecOn (motive := Walked s) l f (.refl s) fun t ht x _ => ht.trans (hf t x)

theorem Walked.ite {c : Prop} [Decidable c] (h1 : Walked s t) (h2 : Walked s u) : Walked s (if c then t else u) := by
  split
  · exact h1
  · exact h2

theorem walked_recallLine (line : Nat) : Walked s (recallLine s line noRow noRow) :=
  ⟨recallRows_tasking s _ _ _ _, fun hrows _ => ⟨s.mem, congrArg State.uncached (recallRows_noRows hrows _ _ _ _)⟩⟩

theorem walked_readTables (s : State) (vale vd : Nat) (ks : List (Nat × Bool)) : Walked s (readTables s vale vd ks) :=
  .foldl (fun _ _ => (walked_recallLine _).trans (.of_cached (l2Read_tasking _ _ _ _ _ _ _ _) (l2Read_uncached _ _ _ _ _ _ _ _))) s ks

theorem walked_writeMem (s : State) (k : Nat) (bs : List Byte) : Walked s (writeMem s k bs) :=
  ⟨rfl, fun _ hpoison => ⟨setMemBytes s.mem k bs, congrArg (Uncached.mk _ · s.blocks s.vales s.waves) (poisonAfter_of_nil hpoison k bs.length)⟩⟩

/-- R126: A and D bits are written where they are not yet set. -/
theorem walked_setAD (s : State) (l : Leaf) (write : Bool) : Walked s (setAD s l write) := by
  unfold setAD
  extract_lets e e'
  split
  · exact .refl s
  · exact walked_writeMem s _ _

theorem walked_walkBoth (s : State) (v : Vale) (d : Vd) (vale vd va : Nat) (write : Bool) : Walked s (walkBoth s v d vale vd va write).1 := by
  unfold walkBoth
  extract_lets w t bad
  have h1 : Walked s t := (walked_readTables s _ _ _).trans (.foldl (fun _ l => walked_setAD _ l false) _ _)
  split
  · exact h1
  · extract_lets ipa w2 u
    have h2 : Walked s u := h1.trans (walked_readTables t _ _ _)
    split
    · exact h2
    · dsimp only
      exact h2.trans ((walked_setAD _ _ _).trans (walked_setAD _ _ _))

theorem walked_tlbFill (s : State) (core level : Nat) (e : TlbEntry) : Walked s (tlbFill s core level e) := by
  unfold tlbFill
  extract_lets t u
  have ht : Walked s t := .ite (.refl s) (.of_cached rfl rfl)
  have hu : Walked s u := .ite ht (ht.trans (.of_cached rfl rfl))
  exact .ite hu (hu.trans (.of_cached rfl rfl))

theorem walked_translate (s : State) (core : Option Nat) (vale vd va size : Nat) (k : AccKind) : Walked s (translate s core vale vd va size k).1 := by
  unfold translate
  split
  · exact .refl s
  · split
    · split
      · dsimp only
        split
        · exact walked_tlbFill s _ _ _
        · exact .refl s
      · have hwalk := walked_walkBoth s
        split
        · next heq => exact (congrArg Prod.fst heq) ▸ hwalk _ _ _ _ _ _
        · next heq =>
          refine Walked.trans ((congrArg Prod.fst heq) ▸ hwalk _ _ _ _ _ _) ?_
          dsimp only
          split
          · exact walked_tlbFill _ _ _ _
          · exact .refl _
    · exact .refl s

theorem walked_recordAccess (s : State) (w : Wave) (bank off n : Nat) : Walked s (recordAccess s w bank off n).1 := by
  have hwalk := walked_translate s (some w.cacheCore) w.vale w.vd (recordVa s w off) n .load
  unfold recordAccess
  dsimp only
  split
  · exact .refl s
  · split
    · next heq =>
      rw [heq] at hwalk
      split <;> exact hwalk
    · next heq =>
      rw [heq] at hwalk
      exact hwalk

theorem walked_laneAccess (s : State) (w : Wave) (sp : Space) (ea : DWord) (n : Nat) (k : AccKind) : Walked s (laneAccess s w sp ea n k).1 := by
  unfold laneAccess
  split
  · exact .refl s
  · cases sp with
    | global => exact walked_translate s _ _ _ _ _ _
    | stash =>
      dsimp only
      split
      · split <;> exact .refl s
      · exact .refl s
    | const =>
      dsimp only
      split
      · split
        · exact walked_recordAccess s _ _ _ _
        · exact .refl s
      · exact .refl s

/-- R503: the addresses of an instruction's lanes are translated one after another. -/
theorem walked_resolveLanes (s : State) (w : Wave) (o : MmFields) (n : Nat) (k : AccKind) (spec : Bool) (ls : List Nat) :
    Walked s (resolveLanes s w o n k spec ls).1 := by
  refine List.foldlRecOn (motive := fun a : State × Resolved => Walked s a.1) _ _ (.refl s) fun a ha l _ => ?_
  have hlane := ha.trans (walked_laneAccess a.1 w (spaceOf o.space) (effAddr w o (l % 16)) n k)
  dsimp only
  split
  · next heq =>
    rw [heq] at hlane
    exact hlane
  · next heq =>
    rw [heq] at hlane
    split <;> exact hlane

end

end Sys2Proof.Machine

namespace Sys2Proof.Machine

/-! PROOF. The stores, counter adds and atomics without return (R110, R137, R151, R282, R284, R288). -/

/-! ## Issue -/

section
variable {s : State} {w : Nat} {wv : Wave} {o : MmFields} {n : Nat} {k : AccKind} {ord : BitVec 3} {cnt : Bool} {data : Wave → Nat → AccOp}

/-- The accesses of a store's lanes, in ascending lane order (R137). -/
def laneStores (w : Nat) (wv : Wave) (o : MmFields) (ord : BitVec 3) (cnt : Bool) (data : Wave → Nat → AccOp) (r : Resolved) : List Access :=
  r.oks.map (fun x => accessOf w wv o ord cnt (data wv (x.1 % 16)) x)

/-- R357: a wave that runs no speculative task runs none, or an irrevocable one. -/
theorem irrev_of_not_speculative {q : Nat} {t : Task} (h : s.speculative wv = false) (ht : s.taskOf wv = some (q, t)) : t.irrev = true := by
  simpa [State.speculative, ht] using h

theorem not_speculative_of_plainWave (h : plainWave s wv = true) : s.speculative wv = false := by
  simp only [plainWave, Bool.and_eq_true, Bool.not_eq_true'] at h
  exact h.1

/-- R110: what a store does for its lanes, in a wave of no speculative task. -/
theorem storeLanes_eq {ls : List Nat} (hspec : s.speculative wv = false) (hwalk : walksWait s wv o k ls = false) :
    storeLanes o n k ord cnt data s w wv ls =
      let r := resolveLanes s wv o n k false ls
      if placesHeld r.1 wv false n k r.2.oks then .error r.1
      else .ok (issueStores r.1 w o (laneStores w wv o ord cnt data r.2), r.2.bad) := by
  have htask := taskOf_of_tasking (walked_resolveLanes s wv o n k false ls).tasking wv
  simp only [storeLanes, hspec, hwalk, Bool.false_eq_true, if_false]
  split
  · rfl
  · rw [htask]
    split
    · next q t ht =>
      rw [irrev_of_not_speculative hspec ht]
      rfl
    · rfl

end

/-- The premises of a store: nothing holds it and no lane faults. -/
def storesOpen (i : Instr) (o : MmFields) (n : Nat) (k : AccKind) (s : State) (w : Nat) (wv : Wave) : Bool :=
  let r := resolveLanes s wv o n k false (accLanes i wv.live)
  !crossingHeld s w wv && !walksWait s wv o k (accLanes i wv.live) && !placesHeld r.1 wv false n k r.2.oks && r.2.bad.isEmpty

/-- The effect of a store: its accesses are issued, and the wave moves on. -/
def storesDone (i : Instr) (o : MmFields) (n : Nat) (k : AccKind) (ord : BitVec 3) (cnt : Bool) (data : Wave → Nat → AccOp) (s : State) (w : Nat)
    (wv : Wave) : State :=
  let r := resolveLanes s wv o n k false (accLanes i wv.live)
  finishMem i (issueStores r.1 w o (laneStores w wv o ord cnt data r.2)) w []

section
variable {i : Instr} {o : MmFields} {n : Nat}

/-- Where such a store is what an instruction runs, its accesses are the instruction's effect. -/
theorem waveStepIf_stores {k : AccKind} {ord : BitVec 3} {cnt : Bool} {data : Wave → Nat → AccOp} {srcs : List RegField} {task : Bool}
    (he : ∀ s, exec i s = runMem i srcs task Wave.live (storeLanes o n k ord cnt data) s) :
    waveStepIf i (storesOpen i o n k) (storesDone i o n k ord cnt data) := by
  intro s w wv h hs hp
  simp only [storesOpen, Bool.and_eq_true, Bool.not_eq_true', List.isEmpty_iff] at hp
  obtain ⟨⟨⟨hc, hwalk⟩, hheld⟩, hbad⟩ := hp
  rw [he, runMem_plain _ _ _ _ h hs hc, storeLanes_eq (not_speculative_of_plainWave hs) hwalk]
  simp only [hheld, hbad, Bool.false_eq_true, if_false]
  rfl

theorem waveStepIf_store (he : ∀ s, exec i s = runStore i o n s) : waveStepIf i (storesOpen i o n .store)
    (storesDone i o n .store o.ord false (fun w l => .store (storeData w o.t n l))) :=
  waveStepIf_stores he

theorem waveStepIf_atom {a : AtomOp} (he : ∀ s, exec i s = runAtom i o a s) (hnr : o.nr = true) : waveStepIf i (storesOpen i o (atomSize a) .atomic)
    (storesDone i o (atomSize a) .atomic (if o.ord = 0 then 1 else o.ord) false
      (fun w l => .atom a (atomData w a o.t l).1 (atomData w a o.t l).2)) :=
  waveStepIf_stores fun s => (he s).trans (if_pos hnr)

end

/-! ## Settling O23 -/

/-- Settles O23: each instruction is such a store or such an atomic. -/
theorem storesIssue : Obligations.StoresIssue := by
  intro o
  exact ⟨waveStepIf_store (i := .st8 o) (n := 1) fun _ => rfl, waveStepIf_store (i := .st16 o) (n := 2) fun _ => rfl,
    waveStepIf_store (i := .st32 o) (n := 4) fun _ => rfl, waveStepIf_store (i := .st64 o) (n := 8) fun _ => rfl,
    waveStepIf_store (i := .st128 o) (n := 16) fun _ => rfl,
    waveStepIf_stores (i := .cntadd o) (n := 8) (k := .count) (ord := o.ord) (cnt := true) (data := fun w l => .add ((w.rd o.t l).setWidth 64))
      fun _ => rfl,
    waveStepIf_atom (i := .atomAdd o) (a := .add) fun _ => rfl, waveStepIf_atom (i := .atomSmin o) (a := .smin) fun _ => rfl,
    waveStepIf_atom (i := .atomSmax o) (a := .smax) fun _ => rfl, waveStepIf_atom (i := .atomBmin o) (a := .bmin) fun _ => rfl,
    waveStepIf_atom (i := .atomBmax o) (a := .bmax) fun _ => rfl, waveStepIf_atom (i := .atomAnd o) (a := .and) fun _ => rfl,
    waveStepIf_atom (i := .atomOr o) (a := .or) fun _ => rfl, waveStepIf_atom (i := .atomXor o) (a := .xor) fun _ => rfl,
    waveStepIf_atom (i := .atomXchg o) (a := .xchg) fun _ => rfl, waveStepIf_atom (i := .atomCas o) (a := .cas) fun _ => rfl,
    waveStepIf_atom (i := .atomFadd o) (a := .fadd) fun _ => rfl, waveStepIf_atom (i := .atomAdd64 o) (a := .add64) fun _ => rfl,
    waveStepIf_atom (i := .atomCas64 o) (a := .cas64) fun _ => rfl⟩

end Sys2Proof.Machine

namespace Sys2Proof.Machine

/-! PROOF. What the stores leave unchanged (R126, R149, R282, R288). -/

/-! ## Data -/

/-- R282: a store of n bytes carries n bytes. -/
theorem length_storeData (w : Wave) (t : RegField) (n l : Nat) : (storeData w t n l).length = n := by
  have hwords : ((natsFrom 0 (ceilDiv n 4)).flatMap (fun j => bytesLE 4 (w.rdN t j l).toNat)).length = 4 * ceilDiv n 4 := by
    simp [List.length_flatMap, natsFrom_eq_range', Nat.mul_comm]
  have hle : n ≤ 4 * ceilDiv n 4 := by rw [ceilDiv]; omega
  rw [storeData, List.length_take, hwords, Nat.min_eq_left hle]

/-- An operation that writes n bytes, none of them poisoned. -/
structure AccOp.Writes (op : AccOp) (n : Nat) : Prop where
  clean : ∀ bs, op ≠ .bad bs
  size : op.size = n
  length : ∀ old, (accApply op old).length = n

theorem writes_store {bs : List Byte} {n : Nat} (h : bs.length = n) : (AccOp.store bs).Writes n := ⟨nofun, h, fun _ => h⟩

theorem writes_add (v : DWord) : (AccOp.add v).Writes 8 := ⟨nofun, rfl, fun _ => bytesLE_length 8 _⟩

/-! ## Accesses of local memory -/

/-- An access of a VD and no task that writes n bytes of local memory. -/
structure Access.Stores (a : Access) (vale vd n : Nat) : Prop where
  vale : a.vale = vale
  vd : a.vd = vd
  task : a.task = none
  writes : a.op.Writes n
  inMemory : ∃ k, a.target = .mem k

theorem Access.stores_accessOf {w : Nat} {wv : Wave} {o : MmFields} {ord : BitVec 3} {cnt : Bool} {op : AccOp} {x : Nat × Xlat × DWord} {n : Nat}
    (hop : op.Writes n) (hx : ∃ k, x.2.1.target = .mem k) : (accessOf w wv o ord cnt op x).Stores wv.vale wv.vd n :=
  ⟨rfl, rfl, rfl, hop, hx⟩

section
variable {s : State} {vale vd n : Nat} {a : Access}

theorem pushUpdate_uncached (s : State) (id : Nat) (a : Access) (k : Nat) : (pushUpdate s id a k).uncached = s.uncached := by
  unfold pushUpdate
  dsimp only
  split <;> rfl

theorem settlePosts_vds (inflight : Tbl Access) (v : Vale) (ps : List (Nat × DWord × List Nat)) : (settlePosts inflight v ps).vds = v.vds := by
  induction ps generalizing v with
  | nil => rfl
  | cons p ps ih =>
    rw [settlePosts]
    split
    · rfl
    · exact ih _

/-- R415: an access that leaves settles host posts, and changes no VD. -/
theorem dropAccess_vd? (s : State) (id vale vd : Nat) : (dropAccess s id).vd? vale vd = s.vd? vale vd := by
  change (Tbl.get (Tbl.mapVals _ s.vales) vale).bind (fun x => Tbl.get x.vds vd) = (Tbl.get s.vales vale).bind (fun x => Tbl.get x.vds vd)
  rw [Tbl.get_mapVals, Option.bind_map]
  refine congrArg _ (funext fun v => ?_)
  dsimp only [Function.comp_apply]
  split
  · rfl
  · rw [settlePosts_vds]

theorem State.Bare.dropped (h : s.Bare vale vd) (id : Nat) : (dropAccess s id).Bare vale vd :=
  ⟨h.poison, h.rows, h.tasks, dropAccess_vd? s id vale vd ▸ h.unlogged, dropAccess_vd? s id vale vd ▸ h.untracked⟩

/-- R150, R151: an access that crosses saddles changes no memory as it is sent. -/
theorem State.Bare.sent (h : s.Bare vale vd) (id : Nat) (a : Access) (k : Nat) : (sendUpdate s id a k).uncached = s.uncached := by
  rw [sendUpdate, recallLine, recallRows_noRows h.rows, pushUpdate_uncached]

/-- What leaves a bare state bare, and its memory outside n bytes from k as it was. -/
structure BareBut (vale vd k n : Nat) (s t : State) : Prop where
  bare : t.Bare vale vd
  same : sameMemBut s t k n

theorem BareBut.of_uncached {t : State} {k : Nat} (h : s.Bare vale vd) (e : t.uncached = s.uncached) : BareBut vale vd k n s t :=
  ⟨h.congr e, fun x _ => memByte_of_mem (mem_of_uncached e) x⟩

/-- R149, R150: an access in flight writes its own bytes alone, performed or sent. -/
theorem performAccess_bareBut {id k : Nat} (h : s.Bare vale vd) (ha : a.Stores vale vd n) (hk : a.target = .mem k)
    (hin : Tbl.get s.inflight id = some a) : BareBut vale vd k n s (performAccess s id) := by
  obtain ⟨rfl, rfl, htask, hop, -⟩ := ha
  unfold performAccess
  simp only [hin, hk]
  split
  · exact .of_uncached h rfl
  · split
    · exact ⟨(h.performed htask hop.clean k).dropped id, sameMemBut_of_mem (h.performMem_mem k) (hop.length _)⟩
    · split
      · exact .of_uncached h rfl
      · refine .of_uncached h ?_
        split
        · rw [l1Store_uncached, h.sent]
        · exact h.sent id a k

theorem issueAccess_bareBut {k : Nat} (h : s.Bare vale vd) (ha : a.Stores vale vd n) (hk : a.target = .mem k) :
    BareBut vale vd k n s (issueAccess s a) := by
  have hnew : ({ s with nextId := s.nextId + 1, inflight := Tbl.set s.inflight s.nextId a } : State).Bare vale vd := h.congr (m := s.mem) rfl
  change BareBut vale vd k n s (if s.defer then _ else performAccess _ s.nextId)
  split
  · exact .of_uncached h rfl
  · have hperf := performAccess_bareBut hnew ha hk (Tbl.get_set_same s.inflight s.nextId a)
    exact ⟨hperf.bare, hperf.same⟩

/-- One step of `issueStores`: the next access is issued, and its number kept. -/
def issueInOrder (p : State × List Nat) (a : Access) : State × List Nat := (issueAccess p.1 a, p.2 ++ [p.1.nextId])

/-- R137: the accesses of a store leave every byte as it was that none of them writes. -/
theorem issueStores_memByte {as : List Access} {x : Nat} (h : s.Bare vale vd) (has : ∀ a ∈ as, a.Stores vale vd n)
    (hx : ∀ a ∈ as, ∀ k, a.target = .mem k → x < k ∨ k + n ≤ x) (w : Nat) (o : MmFields) : memByte (issueStores s w o as) x = memByte s x := by
  have hfold : (as.foldl issueInOrder (s, [])).1.Bare vale vd ∧ memByte (as.foldl issueInOrder (s, [])).1 x = memByte s x := by
    refine List.foldlRecOn (motive := fun p : State × List Nat => p.1.Bare vale vd ∧ memByte p.1 x = memByte s x) as issueInOrder ⟨h, rfl⟩
      fun p hp a ha => ?_
    obtain ⟨hbare, hsame⟩ := hp
    obtain ⟨k, hk⟩ := (has a ha).inMemory
    have hnext := issueAccess_bareBut hbare (has a ha) hk
    exact ⟨hnext.bare, (hnext.same x (hx a ha k hk)).trans hsame⟩
  change memByte (if _ then _ else (as.foldl issueInOrder (s, [])).1) x = memByte s x
  split
  · exact hfold.2
  · exact hfold.2

end

theorem finishMem_memByte (i : Instr) (s : State) (w x : Nat) : memByte (finishMem i s w []) x = memByte s x := by
  unfold finishMem
  split
  · rfl
  · rfl
  · contradiction

/-! ## Settling O24 -/

section
variable {i : Instr} {o : MmFields} {n : Nat}

/-- The stores and the counter add are one operation on data of their size. -/
theorem exec_of_store (h : i = .st8 o ∧ n = 1 ∨ i = .st16 o ∧ n = 2 ∨ i = .st32 o ∧ n = 4 ∨ i = .st64 o ∧ n = 8 ∨ i = .st128 o ∧ n = 16 ∨
    i = .cntadd o ∧ n = 8) : ∃ srcs task cnt data, (∀ w l, (data w l : AccOp).Writes n) ∧
      ∀ s, exec i s = runMem i srcs task Wave.live (storeLanes o n (if i = .cntadd o then .count else .store) o.ord cnt data) s := by
  have hstore (i : Instr) (n : Nat) (hi : i ≠ .cntadd o) (he : ∀ s, exec i s = runStore i o n s) :
      ∃ srcs task cnt data, (∀ w l, (data w l : AccOp).Writes n) ∧
        ∀ s, exec i s = runMem i srcs task Wave.live (storeLanes o n (if i = .cntadd o then .count else .store) o.ord cnt data) s :=
    ⟨_, _, _, _, fun w l => writes_store (length_storeData w o.t n l), by rw [if_neg hi]; exact he⟩
  rcases h with ⟨rfl, rfl⟩ | ⟨rfl, rfl⟩ | ⟨rfl, rfl⟩ | ⟨rfl, rfl⟩ | ⟨rfl, rfl⟩ | ⟨rfl, rfl⟩
  · exact hstore _ 1 nofun fun _ => rfl
  · exact hstore _ 2 nofun fun _ => rfl
  · exact hstore _ 4 nofun fun _ => rfl
  · exact hstore _ 8 nofun fun _ => rfl
  · exact hstore _ 16 nofun fun _ => rfl
  · exact ⟨_, _, _, _, fun w l => writes_add _, by rw [if_pos rfl]; exact fun _ => rfl⟩

/-- What a store whose lanes' addresses need no walk that waits comes to: it is held at issue, or its accesses are issued. -/
theorem stores_next {s t : State} {w : Nat} {wv : Wave} {k : AccKind} {ord : BitVec 3} {cnt task : Bool} {data : Wave → Nat → AccOp}
    {srcs : List RegField} (h : runsNow s w wv i = true) (hs : plainWave s wv = true) (hc : crossingHeld s w wv = false)
    (hwalk : walksWait s wv o k (accLanes i wv.live) = false) (ht : runMem i srcs task Wave.live (storeLanes o n k ord cnt data) s = .next t) :
    let r := resolveLanes s wv o n k false (accLanes i wv.live)
    t = r.1 ∨ t = finishMem i (issueStores r.1 w o (laneStores w wv o ord cnt data r.2)) w r.2.bad := by
  intro r
  rw [runMem_plain _ _ _ _ h hs hc, storeLanes_eq (not_speculative_of_plainWave hs) hwalk] at ht
  have hnext := (Host.Outcome.next.inj ht).symm
  by_cases hheld : placesHeld r.1 wv false n k r.2.oks = true
  · rw [if_pos hheld] at hnext
    exact .inl hnext
  · rw [if_neg hheld] at hnext
    exact .inr hnext

end

/-- Settles O24: translation leaves the state bare, and then only the accesses of the lanes write memory. -/
theorem storeFrame : Obligations.StoreFrame := by
  unfold Obligations.StoreFrame
  intro i o n s t w wv hi hrun hplain hpoison hblocks hvd k r hbad htargets hcross hwalk hexec a ha
  obtain ⟨srcs, task, cnt, data, hdata, he⟩ := exec_of_store hi
  have hbare : r.1.Bare wv.vale wv.vd := by
    obtain ⟨m, hm⟩ := (walked_resolveLanes s wv o n k false (accLanes i wv.live)).still (fun e he => (hblocks e he).1) hpoison
    exact (State.bare_of hpoison hblocks hvd).congr hm
  have hissued : memByte (issueStores r.1 w o (laneStores w wv o o.ord cnt data r.2)) a = memByte r.1 a := by
    refine issueStores_memByte (n := n) hbare (fun b hb => ?_) (fun b hb m hm => ?_) w o
    · obtain ⟨x, hx, rfl⟩ := List.mem_map.mp hb
      exact Access.stores_accessOf (hdata wv _) (htargets x hx)
    · obtain ⟨x, hx, rfl⟩ := List.mem_map.mp hb
      exact ha x hx m hm
  have hsame : memByte t a = memByte r.1 a := by
    rcases stores_next hrun hplain hcross hwalk ((he s).symm.trans hexec) with ht | ht
    · rw [ht]
    · rw [ht, hbad, finishMem_memByte, hissued]
  exact ⟨hsame, hsame.trans⟩

end Sys2Proof.Machine

namespace Sys2Proof.Machine

/-! PROOF. The events of memory traffic and of waves (R122, R149, R151, R172, R266 to R268, R291, R465, R466, R473). -/

/-! ## Memory traffic -/

/-- R149: an access that is no store to the control window reaches its home. -/
theorem accessPerformed_home {acc : Nat} {s : State} (h : (Tbl.get s.inflight acc).all (fun a => match a.target with
    | .control _ => false
    | _ => true) = true) : exec (.accessPerformed acc) s = .next (performAccess s acc) := by
  change execAccessPerformed acc s = _
  cases ha : Tbl.get s.inflight acc with
  | none => simp only [execAccessPerformed, performAccess, ha]
  | some a =>
    rw [ha] at h
    cases ht : a.target with
    | control off => simp [ht] at h
    | _ => simp only [execAccessPerformed, ha, ht]

/-- R97: a store to the control window writes its registers as it is performed. -/
theorem accessPerformed_control {acc off : Nat} {s : State} {a : Access} {bs : List Byte} (ha : Tbl.get s.inflight acc = some a)
    (ht : a.target = .control off) (hop : a.op = .store bs) : exec (.accessPerformed acc) s =
      .next (if accReady s acc a then irrevWrite (controlStore (dropAccess s acc) off bs) a.blk (2 ^ 63 + off) bs.length else s) := by
  change execAccessPerformed acc s = _
  simp only [execAccessPerformed, ha, ht, hop]

/-- R172: the lanes of an outstanding load whose data comes back complete. -/
theorem loadComplete_load {w id : Nat} {m : Mask} {s : State}
    (h : (match (Tbl.get s.waves w).bind (fun x => x.outst.find? (fun o => decide (o.id = id))) with
      | some ⟨_, _, .load _⟩ => true
      | _ => false) = true) : exec (.loadComplete w id m) s = .next (completeLoad s w id m true) := by
  change Host.Outcome.next (completeOutst s w id m) = _
  cases hw : Tbl.get s.waves w with
  | none => simp [hw] at h
  | some x =>
    cases ho : x.outst.find? (fun o => decide (o.id = id)) with
    | none => simp [hw, ho] at h
    | some o =>
      obtain ⟨i, left, op⟩ := o
      cases op with
      | load op => simp only [completeOutst, hw, ho]
      | _ => simp [hw, ho] at h

section
variable {die seq : Nat} {s : State} {u : Update}

/-- R151: an update whose vector allows it, and whose lines nothing holds, is performed at its home. -/
theorem saddleUpdateApply_performs {a : Access}
    (hu : s.updates.find? (fun u => decide (u.origin = die) && decide (u.seq.toNat = seq) && !u.applied) = some u)
    (hready : updateReady s u = true)
    (hfree : ∀ l ∈ unitsOf 128 u.key u.op.size, lineHeldBut s u.access l = false ∧ lineLocked s l = false ∧ updateHeld s u l = false)
    (hroute : routeStalled s u.origin u.home = false) (ha : Tbl.get s.inflight u.access = some a) :
    let t := { s with updates := s.updates.map (fun x => if x.origin = u.origin && decide (x.seq = u.seq) then { x with applied := true } else x) }
    exec (.saddleUpdateApply die seq) s = .next (dropAccess (performMem t a u.key) u.access) := by
  have hheld : (unitsOf 128 u.key u.op.size).any (fun l => lineHeldBut s u.access l || lineLocked s l || updateHeld s u l) = false := by
    simpa [and_assoc] using hfree
  change execSaddleUpdateApply die seq s = _
  simp only [execSaddleUpdateApply, hu, hready, hheld, hroute, ha, Bool.not_true, Bool.or_self, Bool.false_eq_true, if_false]

/-- R151: the notice of an applied update ends it at its origin, which counts on. -/
theorem appliedNotice_counts (hu : s.updates.find? (fun u => decide (u.origin = die) && decide (u.seq.toNat = seq) && u.applied) = some u)
    (hroute : routeStalled s u.home u.origin = false) :
    let t := mergeKnown s u.origin u.home
    let left := t.updates.filter (fun x => !(decide (x.origin = u.origin) && decide (x.seq = u.seq)))
    let upTo : BitVec 16 := match left.find? (fun x => decide (x.origin = die)) with
      | some x => x.seq - 1
      | none => vecGet t.known die die
    let upTo := if serialGe upTo (vecGet t.applied die die) then upTo else vecGet t.applied die die
    exec (.appliedNotice die seq) s = .next { t with updates := left, applied := (natsFrom 0 8).foldl (fun v a => vecSet v a die upTo) t.applied } := by
  change execAppliedNotice die seq s = _
  simp only [execAppliedNotice, hu]
  exact congrArg Host.Outcome.next (if_neg (by simp only [hroute, Bool.false_eq_true, not_false_eq_true]))

end

/-! ## Waits (R266 to R268, R291) -/

section
variable {w : Nat} {s : State} {wv : Wave}

theorem sleepWake_due {t : DWord} (hw : Tbl.get s.waves w = some wv) (hwait : wv.wait = some (.sleep t)) (htime : t.toNat ≤ s.tod.toNat)
    (hissue : canIssue s wv = true) (hstand : wv.standing = true) :
    exec (.sleepWake w) s = .next (s.setWave w { wv.advance 4 with wait := none }) := by
  change execSleepWake w s = _
  simp [execSleepWake, hw, hwait, htime, hissue, hstand]

theorem sleepWake_early {t : DWord} (hw : Tbl.get s.waves w = some wv) (hwait : wv.wait = some (.sleep t)) (htime : s.tod.toNat < t.toNat) :
    exec (.sleepWake w) s = .next s := by
  change execSleepWake w s = _
  simp [execSleepWake, hw, hwait, htime.not_ge]

/-- R266, R267: a wave that waits on memory reads its line again. -/
theorem monitorWake_polls {x : Wait} (hw : Tbl.get s.waves w = some wv) (hissue : canIssue s wv = true) (hstand : wv.standing = true)
    (hwait : wv.wait = some x) (hx : (∃ a t sc, x = .waitge a t sc) ∨ ∃ a e sc, x = .mwait a e sc) :
    exec (.monitorWake w) s = .next (pollOnce s w wv x) := by
  change execMonitorWake w s = _
  rcases hx with ⟨a, t, sc, rfl⟩ | ⟨a, e, sc, rfl⟩ <;> simp [execMonitorWake, hw, hissue, hstand, hwait]

theorem commandAccept_offers (hw : Tbl.get s.waves w = some wv) (hissue : canIssue s wv = true) :
    exec (.commandAccept w) s = .next (acceptCmds s w) := by
  change execCommandAccept w s = _
  simp [execCommandAccept, hw, hissue]

/-! ## The watchdog (R473) -/

variable (hw : Tbl.get s.waves w = some wv) (hstall : stalledLanes wv ≠ []) (hended : wv.ended = false) (htrap : wv.trap = none)
  (hlate : wv.late = []) (hdone : allComplete wv = true) (hissue : canIssue s wv = true)
include hw hstall hended htrap hlate hdone hissue

/-- R473, R483: a wave that stands where no instruction can be fetched raises PROGRESS there. -/
theorem watchdogExpiry_fetch (hwait : wv.wait = none) (hstands : standsAt (record s (progressRec wv (stalledLanes wv))) wv = none) :
    exec (.watchdogExpiry w) s =
      .next (raiseFetch (record s (progressRec wv (stalledLanes wv))) w { wv with wdog := [], wait := none } cProgress 0 0) := by
  change execWatchdogExpiry w s = _
  simp [execWatchdogExpiry, hw, hstall, hended, htrap, hlate, hdone, hissue, hwait, hstands]

theorem watchdogExpiry_instr {p q : Pos} (hwait : wv.wait = none)
    (hstands : standsAt (record s (progressRec wv (stalledLanes wv))) wv = some (p, q)) : exec (.watchdogExpiry w) s =
      .next (raise (record s (progressRec wv (stalledLanes wv))) w { wv with wdog := [], wait := none } p
        ((wv.replay.map (fun r => r.cont)).getD q) .instr none ((lanesOf wv.arriving).map (fun l => laneFault l cProgress 0 0))) := by
  change execWatchdogExpiry w s = _
  simp [execWatchdogExpiry, hw, hstall, hended, htrap, hlate, hdone, hissue, hwait, hstands]

theorem watchdogExpiry_wait {y : Wait} (hwait : wv.wait = some y) (hawake : ∀ k, y ≠ .sleep k) (hstand : wv.standing = true) :
    let t := record s (progressRec wv (stalledLanes wv))
    exec (.watchdogExpiry w) s = .next (raiseAt t.tod.toNat t w { wv with wdog := [], wait := none } wv.pos wv.pos wv.replay (.wait y) none
      ((lanesOf wv.active).map (fun l => laneFault l cProgress 0 0))) := by
  cases y with
  | sleep k => exact absurd rfl (hawake k)
  | _ =>
    change execWatchdogExpiry w s = _
    simp [execWatchdogExpiry, hw, hstall, hended, htrap, hlate, hdone, hissue, hwait, hstand, Option.filter_some]

end

/-! ## Scrubs (R122) and handler waves (R465, R466) -/

theorem handlerLaunch_starts {glen job core : Nat} {s : State} {j : Job} (hj : Tbl.get s.jobs job = some j) :
    let mine (x : Wave) : Bool := decide (x.job = job) && decide (x.kind = .ordinary) && decide (glenOfCore x.core = glen)
    let ready := (s.waves.filter (fun e => mine e.2 && deliverable s e.1 e.2)).map (fun e => e.1)
    let ls := ((faultedLanes s (fun x f => mine x && f.handler.isNone && !f.resolved)).filter (fun p => ready.contains p.1)).take 16
    ls ≠ [] → trapPc j.card ≠ 0 → glenOfCore core = glen → glen < 256 → (s.core? core).handler = none → vdIssues s j.vale j.vd = true →
    let h := s.nextId
    let t := ls.foldl (fun (s : State) p => modOrigin s p.1 p.2.lane (fun y => { y with handler := some h })) { s with nextId := h + 1 }
    let w := execHandlerLaunch.freshHandler j.vale j.vd job core (trapPc j.card) (maskOf (natsFrom 0 ls.length)) t.turns
    exec (.handlerLaunch glen job core) s =
      .next ((dropL1 { t with waves := Tbl.set t.waves h w } core j.vale j.vd).modCore core (fun c => { c with handler := some h })) := by
  intro mine ready ls hls hpc hglen hrange hfree hissue
  change execHandlerLaunch glen job core s = _
  have hopen : (decide (ls = []) || decide (trapPc j.card = 0) || decide (glenOfCore core ≠ glen) || decide (256 ≤ glen) ||
      (s.core? core).handler.isSome || !(vdIssues s j.vale j.vd || (vdServed s j.vale j.vd && !cutHalted s j.vale j.vd && jobSaving s job))) = false := by
    simp only [decide_eq_false hls, decide_eq_false hpc, hglen, decide_eq_false hrange.not_ge, hfree, hissue, ne_eq, not_true_eq_false,
      decide_false, Option.isSome_none, Bool.true_or, Bool.not_true, Bool.or_self]
  simp only [execHandlerLaunch, hj]
  exact congrArg Host.Outcome.next (if_neg (ne_true_of_eq_false hopen))

/-! ## Settling O46 -/

/-- Settles O46: each clause is the lemma above about its event; a scrub ends as the event says. -/
theorem waveEvents : Obligations.WaveEvents := by
  refine ⟨fun acc s => ⟨accessPerformed_home, fun a off bs ha ht hop => accessPerformed_control ha ht hop⟩,
    fun w id m s h => loadComplete_load h,
    fun die seq s u a hu hready hfree hroute ha => saddleUpdateApply_performs hu hready hfree hroute ha,
    fun die seq s u hu hroute => appliedNotice_counts hu hroute,
    fun w s wv hw => ⟨fun t => sleepWake_due hw, fun t => sleepWake_early hw,
      fun hissue hstand => ⟨fun a t sc hwait => monitorWake_polls hw hissue hstand hwait (.inl ⟨a, t, sc, rfl⟩),
        fun a e sc hwait => monitorWake_polls hw hissue hstand hwait (.inr ⟨a, e, sc, rfl⟩)⟩,
      commandAccept_offers hw, fun hstall hended htrap hlate hdone hissue => ?watchdog⟩,
    fun core vd s => rfl, fun glen job core s j hj => handlerLaunch_starts hj⟩
  case watchdog =>
    exact ⟨watchdogExpiry_fetch hw hstall hended htrap hlate hdone hissue,
      fun p q hwait hstands => watchdogExpiry_instr hw hstall hended htrap hlate hdone hissue hwait hstands,
      fun y hwait hawake hstand => watchdogExpiry_wait hw hstall hended htrap hlate hdone hissue hwait hawake hstand⟩

end Sys2Proof.Machine

namespace Sys2Proof.Machine

/-! PROOF. The events of the engines (R157, R291, R303, R314, R317, R318, R333, R411, R507, R516, R539). -/

/-! ## Copies (R157, R291, R507) -/

section
variable {core cmd : Nat} {s : State} {c : Cmd}

/-- R507: a command that meets a fault before its first write fails. -/
theorem copySectorWritten_fails {f : AddrFault} (hc : Tbl.get (s.core? core).cmds cmd = some c) (hf : startFault s c = some f) :
    exec (.copySectorWritten core cmd) s = .next (failCmd s core cmd c f) := by
  change execCopySectorWritten core cmd s = _
  simp only [execCopySectorWritten, hc, hf]

/-- R157: a sector whose writes have been performed counts. -/
theorem copySectorWritten_posted (hc : Tbl.get (s.core? core).cmds cmd = some c) (hf : startFault s c = none) (hhalt : s.halted = false)
    (hleft : c.done < c.total) (htable : tableWaits (s.core? core) cmd c = false) (hposted : c.posted ≠ [])
    (hdone : ∀ k ∈ c.posted, Tbl.get s.inflight k = none) : exec (.copySectorWritten core cmd) s = .next (sectorDone s core cmd c) := by
  have hnone : c.posted.any (fun k => (Tbl.get s.inflight k).isSome) = false := by simpa using hdone
  change execCopySectorWritten core cmd s = _
  simp [execCopySectorWritten, hc, hf, hhalt, hleft.not_ge, htable, hposted, hnone]

/-- R298: only a TGATHER has indices to read. -/
theorem loadIndices_of_ne (h : c.kind ≠ .tgather) : loadIndices s core cmd c = (s, .ok c) := by
  simp [loadIndices, h]

/-- R292, R293: the sector of a CPY or CCOPY that is written at once counts at once. -/
theorem copySectorWritten_copies {t : State} (hc : Tbl.get (s.core? core).cmds cmd = some c) (hf : startFault s c = none)
    (hhalt : s.halted = false) (hleft : c.done < c.total) (htable : tableWaits (s.core? core) cmd c = false) (hposted : c.posted = [])
    (hkind : c.kind = .cpy ∨ c.kind = .ccopy) (hcopy : copySector s core cmd c = (t, .ok ())) :
    exec (.copySectorWritten core cmd) s =
      .next (if (((Tbl.get (t.core? core).cmds cmd).map (fun y => y.posted)).getD []) = [] then sectorDone t core cmd c else t) := by
  have hgather : c.kind ≠ .tgather := by rcases hkind with h | h <;> simp [h]
  change execCopySectorWritten core cmd s = _
  simp only [execCopySectorWritten, hc, hf, hhalt, hleft.not_ge, htable, hposted, loadIndices_of_ne hgather]
  rcases hkind with h | h <;> simp [h, hcopy]

/-- R291: a command that counts on no counter and waits for no other leaves its queue once everything is written. -/
theorem retireCopy_drops (hc : Tbl.get (s.core? core).cmds cmd = some c) (hf : startFault s c = none) (hdone : c.total ≤ c.done)
    (hposted : c.posted = []) (hord : c.ordered = false) (hctr : c.ctr = none) (hwr : c.kind ≠ .codewr) (hswap : c.kind ≠ .codeswap) :
    retireCopy s core cmd = dropCmd s core cmd := by
  have hretire : retireCmd s core cmd c = dropCmd s core cmd := by rw [retireCmd, hctr]
  simp only [retireCopy, hc, hf, decide_eq_false hdone.not_gt, hposted, hord, ne_eq, not_true_eq_false, decide_false, Bool.false_and, Bool.or_self,
    Bool.false_eq_true, if_false]
  exact hretire

end

/-! ## The coverage unit (R333) -/

/-- R333: the oldest command of its session, whose rows need not wait, is processed. -/
theorem covCommandRetire_oldest {glen cmd : Nat} {s : State} {m : CovCmd} {b : Block} {c : CovSession}
    (hm : Tbl.get (s.glen? glen).covq cmd = some m) (hb : Tbl.get s.blocks m.blk = some b) (hc : b.cov = some c) (hhalt : s.halted = false)
    (hwait : covWaits s m c = false) (hold : ∀ e ∈ (s.glen? glen).covq, e.2.blk = m.blk → cmd ≤ e.1) :
    exec (.covCommandRetire glen cmd) s = .next (releaseRetired (match m.op with
      | .covline _ | .covquad _ | .covcube _ => processSegments s glen cmd b m c
      | .covres o => processRes s glen cmd b m c (decide (o.m = 1))
      | .covtri _ => processTri s glen cmd b m c
      | .covend _ => closeSession (b.waves.foldl (fun s _ => servePops s m.blk b.waves) s) glen cmd m.blk
      | _ => dropCov s glen cmd) m.blk) := by
  have holder : (s.glen? glen).covq.any (fun e => decide (e.1 < cmd) && decide (e.2.blk = m.blk)) = false := by
    simp only [List.any_eq_false, Bool.and_eq_true, decide_eq_true_eq, not_and]
    exact fun e he hlt hblk => absurd hlt (hold e he hblk).not_gt
  change execCovCommandRetire glen cmd s = _
  simp only [execCovCommandRetire, hm, hb, hc]
  exact congrArg Host.Outcome.next (if_neg (by simp only [holder, hhalt, hwait, Bool.or_false, Bool.false_eq_true, not_false_eq_true]))

/-! ## The encoder (R303) -/

section
variable {glen k id : Nat} {s : State} {f : Frame} {c : Cmd}

/-- R303: the lane's next band is read, encoded, and its output written. -/
theorem bandEncoded_reads {t : State} {samples : List Byte} (hband : nextBand s glen = some (k, f)) (hhalt : s.halted = false)
    (hpost : postOf s glen k f.encoded = some (id, c)) (hout : f.out = none)
    (hread : readBand s (encCore glen) id c (bandRows f.words f.encoded) = (t, .ok samples)) :
    let out := Config.encodeBand t.freeCount f.words f.encoded samples
    let room := (wordAt f.words 10).toNat - f.bytes
    exec (.bandEncoded glen k) s = .next (writeBand (engForget { t with freeCount := t.freeCount + 1 } (encCore glen) id) glen k f id c
      (out.take room, 0, decide (room < out.length))) := by
  change execBandEncoded glen k s = _
  simp [execBandEncoded, hband, hhalt, hpost, hout, hread]

/-- R303: a band whose output is not all written yet goes on with it. -/
theorem bandEncoded_writes {o : List Byte × Nat × Bool} (hband : nextBand s glen = some (k, f)) (hhalt : s.halted = false)
    (hpost : postOf s glen k f.encoded = some (id, c)) (hout : f.out = some o) :
    exec (.bandEncoded glen k) s = .next (writeBand s glen k f id c o) := by
  change execBandEncoded glen k s = _
  simp [execBandEncoded, hband, hhalt, hpost, hout]

end

/-! ## The matrix engines (R317, R318, R516) -/

section
variable {s : State} {b : Block} {k : KStep}

/-- R108: slabs with no row to fill are as they stand. -/
theorem fillSlabs_of_valid (h : ∀ r ∈ k.slabs, invalidRows b r.1 r.2 = []) : fillSlabs s b k = s := by
  refine List.foldlRecOn (motive := fun t => t = s) _ _ rfl fun t ht r hr => ?_
  rw [h r hr, ht]
  rfl

theorem slabGone_eq_none (h : ∀ r ∈ k.slabs, rowGone s k.blk r.1 r.2 = none) : slabGone s k = none := by
  have hfind : k.slabs.find? (fun r => (rowGone s k.blk r.1 r.2).isSome) = none :=
    List.find?_eq_none.mpr fun r hr => by simp [h r hr]
  rw [slabGone, hfind]
  rfl

/-- R516: a step that uses no poison. -/
theorem step_clean {e : Engine} (h : k.zero = none → k.readBad = false ∧ (∀ r ∈ k.slabs, slabPoisoned b r.1 r.2 = false) ∧
    (k.ovw = true ∨ e.accPoison = [])) :
    (k.zero.isNone && (k.readBad || k.slabs.any (fun r => slabPoisoned b r.1 r.2) || (!k.ovw && decide (e.accPoison ≠ [])))) = false := by
  cases hz : k.zero with
  | some z => rfl
  | none =>
    obtain ⟨hread, hslabs, hacc⟩ := h hz
    have hany : k.slabs.any (fun r => slabPoisoned b r.1 r.2) = false := by simpa using hslabs
    rcases hacc with ho | ha <;> simp [*]

/-- R317, R318: the oldest step of an engine that no lease holds, whose slabs are there and clean, is performed. -/
theorem kstepRetire_performs {core : Nat} {rest : List KStep} (hq : (s.core? core).engine.queue = k :: rest)
    (hb : Tbl.get s.blocks k.blk = some b) (hlease : k.lease = none) (hwait : slabsWait s b k = false)
    (hrows : ∀ r ∈ k.slabs, invalidRows b r.1 r.2 = [] ∧ rowGone s k.blk r.1 r.2 = none)
    (hclean : k.zero = none → k.readBad = false ∧ (∀ r ∈ k.slabs, slabPoisoned b r.1 r.2 = false) ∧
      (k.ovw = true ∨ (s.core? core).engine.accPoison = [])) :
    let clocks := kstepClocks (k.byte b) k
    let t := (s.modCore core (fun c => { c with engine := retired (s.core? core).engine b k false })).modVd b.vale b.vd
      (fun d => { d with stats := Tbl.setCell 0 d.stats 5 (Tbl.cell 0 d.stats 5 + BitVec.ofNat 64 clocks) })
    let pending := t.cores.any (fun c => c.2.engine.queue.any (fun q => decide (q.id = k.id)))
    exec (.kstepRetire core) s =
      .next (releaseRetired (if pending then t else modSeq t k.blk (fun c => { c with steps := removeNat k.id c.steps })) k.blk) := by
  have hwindow : windowWaits s core k = false := by simp [windowWaits, hlease]
  change execKstepRetire core s = _
  simp only [execKstepRetire, hq, hb, hwindow, hwait, Bool.or_self, Bool.false_eq_true, if_false, fillSlabs_of_valid fun r hr => (hrows r hr).1,
    slabGone_eq_none fun r hr => (hrows r hr).2, Option.getD_some, step_clean hclean, hlease]

end

/-! ## Leases (R411, R539) -/

theorem leaseStart_starts {i : Nat} {s : State} {l : Lease} (hl : Tbl.get s.leases i = some l) (hst : l.st = 1) (hrev : l.revoked = false)
    (htime : l.start.toNat ≤ s.tod.toNat) : exec (.leaseStart i) s =
      .next ((leaseEngines l).foldl (fun s c => if (s.core? c).convert.getD (s.core? c).stashKib < 64 then beginConversion s c 64 else s)
        (s.modLease i (fun l => { l with st := 2 }))) := by
  change execLeaseStart i s = _
  simp [execLeaseStart, hl, hst, hrev, htime.not_gt]

theorem leaseEnd_ends {i : Nat} {s : State} {l : Lease} (hl : Tbl.get s.leases i = some l) (hst : l.st ≠ 3)
    (hdue : l.revoked = true ∨ l.stop.toNat ≤ s.tod.toNat) (hbusy : leaseBusy s i l = false) :
    exec (.leaseEnd i) s = .next (endLease s i l) := by
  have hopen : (!l.revoked && decide (s.tod.toNat < l.stop.toNat)) = false := by
    rcases hdue with h | h
    · simp [h]
    · simp [h.not_gt]
  change execLeaseEnd i s = _
  simp only [execLeaseEnd, hl, decide_eq_false hst, hopen, hbusy, Bool.or_self, Bool.false_eq_true, if_false]

/-! ## Settling O47 -/

/-- Settles O47: each clause is the lemma above about its event; a claim is met as the event says. -/
theorem engineEvents : Obligations.EngineEvents := by
  refine ⟨fun core cmd s c hc => ⟨fun f hf => copySectorWritten_fails hc hf, fun hf hhalt hleft htable =>
        ⟨fun hposted hdone => copySectorWritten_posted hc hf hhalt hleft htable hposted hdone,
          fun hposted t hkind hcopy => copySectorWritten_copies hc hf hhalt hleft htable hposted hkind hcopy⟩⟩,
    fun core glen cmd s hhalt => ⟨?copy, ?encoder⟩,
    fun core cmd s c hc hf hdone hposted hord hctr hwr hswap => retireCopy_drops hc hf hdone hposted hord hctr hwr hswap,
    fun glen cmd s m b c hm hb hc hhalt hwait hold => ?coverage,
    fun glen k id s f c hband hhalt hpost => ⟨fun t samples hout hread => bandEncoded_reads hband hhalt hpost hout hread,
      fun o hout => bandEncoded_writes hband hhalt hpost hout⟩,
    fun glen k id n s u f c o r hsome => ⟨fun hr => ?written, fun ask hr => ?asked⟩,
    fun core s k rest b hq hb hlease hwait hrows hclean => kstepRetire_performs hq hb hlease hwait hrows hclean,
    fun blk s => rfl,
    fun i s l hl => ⟨fun hst hrev htime => leaseStart_starts hl hst hrev htime, fun hst hdue hbusy => leaseEnd_ends hl hst hdue hbusy⟩⟩
  case copy =>
    change Host.Outcome.next (if s.halted = true then _ else _) = _
    rw [if_neg (by simp [hhalt])]
  case encoder =>
    change Host.Outcome.next (if s.halted = true then _ else _) = _
    rw [if_neg (by simp [hhalt])]
  case coverage =>
    intro go o
    have hgo := covCommandRetire_oldest hm hb hc hhalt hwait hold
    refine ⟨fun hop => ?segments, fun hop => by simpa only [hop] using hgo, fun hop => by simpa only [hop] using hgo,
      fun hop => by simpa only [hop] using hgo, fun hop => by simpa only [hop] using hgo⟩
    case segments => rcases hop with hop | hop | hop <;> simpa only [hop] using hgo
  case written => rw [writeBand, hsome, hr]
  case asked => rw [writeBand, hsome, hr]

end Sys2Proof.Machine

namespace Sys2Proof

/-! PROOF. The words of code and of matrix streams against their fields (R162, R175 to R188): each layout's word is its fields side by
side, so that what is packed is read back, and what is read is packed again. -/

/-! ## Fields of a word -/

/-- A field above the right part of a concatenation is a field of the left part. -/
theorem extractLsb'_append_high {v w start len : Nat} (x : BitVec v) (y : BitVec w) (h : w ≤ start) :
    (no_index (x ++ y)).extractLsb' start len = x.extractLsb' (start - w) len :=
  BitVec.extractLsb'_append_eq_of_le h

/-- A field within the right part of a concatenation is a field of that part. -/
theorem extractLsb'_append_low {v w start len : Nat} (x : BitVec v) (y : BitVec w) (h : start + len ≤ w) :
    (no_index (x ++ y)).extractLsb' start len = y.extractLsb' start len :=
  BitVec.extractLsb'_append_eq_of_add_le h

/-- Two neighbouring fields of a word are one field. -/
theorem join_fields (w : Word) (start len : Nat) {n : Nat} :
    w.extractLsb' (start + len) n ++ w.extractLsb' start len = w.extractLsb' start (n + len) :=
  BitVec.extractLsb'_append_extractLsb'_eq_extractLsb' rfl

/-- R162: a word is its four bytes, little-endian. -/
theorem wordLE_bytes (w : Word) : wordLE (w.extractLsb' 0 8) (w.extractLsb' 8 8) (w.extractLsb' 16 8) (w.extractLsb' 24 8) = w := by
  rw [wordLE, join_fields w 16 8, join_fields w 8 8, join_fields w 0 8]
  exact BitVec.extractLsb'_eq_self

theorem ofNat_opcodeOf (w : Word) : BitVec.ofNat 8 (opcodeOf w) = w.extractLsb' 24 8 := BitVec.ofNat_toNat ..

theorem getLsbD_litBit (lit : Option Word) : (litBit lit).getLsbD 0 = lit.isSome := by cases lit <;> simp [litBit]

/-- R187: the bit that says whether a literal follows is that bit of the word. -/
theorem litBit_eq_extractLsb' {w : Word} {lit : Option Word} {k : Nat} (h : lit.isSome = w.getLsbD k) : litBit lit = w.extractLsb' k 1 := by
  refine BitVec.eq_of_getLsbD_eq fun i hi => ?_
  obtain rfl : i = 0 := by omega
  rw [litBit, h]
  cases hk : w.getLsbD k <;> simp [hk]

/-! ## The layouts -/

/-! ### VA words (R175) -/

theorem vaWord_vaFields {w : Word} {lit : Option Word} (h : lit.isSome = w.getLsbD 2) : vaWord (w.extractLsb' 24 8) (vaFields w lit) = w := by
  simp only [vaWord, vaFields, litBit_eq_extractLsb' h]
  rw [join_fields w 17 7, join_fields w 10 7, join_fields w 3 7, join_fields w 2 1, join_fields w 0 2]
  exact BitVec.extractLsb'_eq_self

theorem vaFields_vaWord (op : BitVec 8) (o : VaFields) : vaFields (vaWord op o) o.lit = o := by
  simp [vaFields, vaWord, extractLsb'_append_high, extractLsb'_append_low]

theorem opcodeOf_vaWord (op : BitVec 8) (o : VaFields) : opcodeOf (vaWord op o) = op.toNat := by
  simp [opcodeOf, vaWord, extractLsb'_append_high, -BitVec.extractLsb'_toNat]

theorem getLsbD_vaWord (op : BitVec 8) (o : VaFields) : (vaWord op o).getLsbD 2 = o.lit.isSome := by
  simp only [vaWord, BitVec.getLsbD_append]
  exact getLsbD_litBit o.lit

/-! ### VC words (R179) -/

theorem vcWord_vcFields {w : Word} {lit : Option Word} (h : lit.isSome = w.getLsbD 2) : vcWord (w.extractLsb' 24 8) (vcFields w lit) = w := by
  simp only [vcWord, vcFields, litBit_eq_extractLsb' h]
  rw [join_fields w 21 3, join_fields w 17 4, join_fields w 10 7, join_fields w 3 7, join_fields w 2 1, join_fields w 0 2]
  exact BitVec.extractLsb'_eq_self

theorem vcFields_vcWord (op : BitVec 8) (o : VcFields) : vcFields (vcWord op o) o.lit = o := by
  simp [vcFields, vcWord, extractLsb'_append_high, extractLsb'_append_low]

theorem opcodeOf_vcWord (op : BitVec 8) (o : VcFields) : opcodeOf (vcWord op o) = op.toNat := by
  simp [opcodeOf, vcWord, extractLsb'_append_high, -BitVec.extractLsb'_toNat]

theorem getLsbD_vcWord (op : BitVec 8) (o : VcFields) : (vcWord op o).getLsbD 2 = o.lit.isSome := by
  simp only [vcWord, BitVec.getLsbD_append]
  exact getLsbD_litBit o.lit

/-! ### MM words (R180) -/

theorem mmWord_mmFields {w : Word} {lit : Option Word} (h : lit.isSome = w.getLsbD 0) : mmWord (w.extractLsb' 24 8) (mmFields w lit) = w := by
  simp only [mmWord, mmFields, litBit_eq_extractLsb' h]
  rw [join_fields w 17 7, join_fields w 10 7, join_fields w 6 4, join_fields w 4 2, join_fields w 1 3, join_fields w 0 1]
  exact BitVec.extractLsb'_eq_self

theorem mmFields_mmWord (op : BitVec 8) (o : MmFields) : mmFields (mmWord op o) o.lit = o := by
  simp [mmFields, mmWord, extractLsb'_append_high, extractLsb'_append_low]

theorem opcodeOf_mmWord (op : BitVec 8) (o : MmFields) : opcodeOf (mmWord op o) = op.toNat := by
  simp [opcodeOf, mmWord, extractLsb'_append_high, -BitVec.extractLsb'_toNat]

theorem getLsbD_mmWord (op : BitVec 8) (o : MmFields) : (mmWord op o).getLsbD 0 = o.lit.isSome := by
  simp only [mmWord, BitVec.getLsbD_append]
  exact getLsbD_litBit o.lit

/-! ### BR words (R182) -/

theorem brWord_brFields (w : Word) : brWord (w.extractLsb' 24 8) (brFields w) = w := by
  simp only [brWord, brFields]
  rw [join_fields w 23 1, join_fields w 20 3, join_fields w 19 1, join_fields w 0 19]
  exact BitVec.extractLsb'_eq_self

theorem brFields_brWord (op : BitVec 8) (o : BrFields) : brFields (brWord op o) = o := by
  simp [brFields, brWord, extractLsb'_append_high, extractLsb'_append_low]

theorem opcodeOf_brWord (op : BitVec 8) (o : BrFields) : opcodeOf (brWord op o) = op.toNat := by
  simp [opcodeOf, brWord, extractLsb'_append_high, -BitVec.extractLsb'_toNat]

/-! ### CL words (R183) -/

theorem clWord_clFields (w : Word) : clWord (w.extractLsb' 24 8) (clFields w) = w := by
  simp only [clWord, clFields]
  rw [join_fields w 17 7, join_fields w 0 17]
  exact BitVec.extractLsb'_eq_self

theorem clFields_clWord (op : BitVec 8) (o : ClFields) : clFields (clWord op o) = o := by
  simp [clFields, clWord, extractLsb'_append_high, extractLsb'_append_low]

theorem opcodeOf_clWord (op : BitVec 8) (o : ClFields) : opcodeOf (clWord op o) = op.toNat := by
  simp [opcodeOf, clWord, extractLsb'_append_high, -BitVec.extractLsb'_toNat]

/-! ### AS words (R184) -/

theorem asWord_asFields {w : Word} {lit : Option Word} (h : lit.isSome = w.getLsbD 0) : asWord (w.extractLsb' 24 8) (asFields w lit) = w := by
  simp only [asWord, asFields, litBit_eq_extractLsb' h]
  rw [join_fields w 17 7, join_fields w 10 7, join_fields w 6 4, join_fields w 2 4, join_fields w 1 1, join_fields w 0 1]
  exact BitVec.extractLsb'_eq_self

theorem asFields_asWord (op : BitVec 8) (o : AsFields) : asFields (asWord op o) o.lit = o := by
  simp [asFields, asWord, extractLsb'_append_high, extractLsb'_append_low]

theorem opcodeOf_asWord (op : BitVec 8) (o : AsFields) : opcodeOf (asWord op o) = op.toNat := by
  simp [opcodeOf, asWord, extractLsb'_append_high, -BitVec.extractLsb'_toNat]

theorem getLsbD_asWord (op : BitVec 8) (o : AsFields) : (asWord op o).getLsbD 0 = o.lit.isSome := by
  simp only [asWord, BitVec.getLsbD_append]
  exact getLsbD_litBit o.lit

/-! ### MX words (R186) -/

theorem mxWord_mxFields (w : Word) : mxWord (w.extractLsb' 24 8) (mxFields w) = w := by
  simp only [mxWord, mxFields]
  rw [join_fields w 17 7, join_fields w 10 7, join_fields w 6 4, join_fields w 0 6]
  exact BitVec.extractLsb'_eq_self

theorem mxFields_mxWord (op : BitVec 8) (o : MxFields) : mxFields (mxWord op o) = o := by
  simp [mxFields, mxWord, extractLsb'_append_high, extractLsb'_append_low]

theorem opcodeOf_mxWord (op : BitVec 8) (o : MxFields) : opcodeOf (mxWord op o) = op.toNat := by
  simp [opcodeOf, mxWord, extractLsb'_append_high, -BitVec.extractLsb'_toNat]

/-! ## The layout of an opcode -/

/-- The word layouts of code (R175 to R186). -/
inductive Layout where
  | va | vc | mm | br | cl | async | mx

/-- The layout of an opcode's words. -/
def layoutOf (op : Nat) : Layout :=
  if op = 0x78 then .br else if op = 0x7C then .cl else if op = 0x38 ∨ op = 0x39 then .vc
  else if opClass op = 1 then .mm else if opClass op = 2 then .async else if opClass op = 5 then .mx else .va

/-- R187: what says whether a literal follows is bit 2 of a VA or VC word and bit 0 of an MM or AS word; the others have none. -/
theorem hasLiteral_eq (w : Word) : hasLiteral w = match layoutOf (opcodeOf w) with
    | .va | .vc => w.getLsbD 2
    | .mm | .async => w.getLsbD 0
    | .br | .cl | .mx => false := by
  generalize hop : opcodeOf w = op
  simp only [hasLiteral, hop, layoutOf]
  by_cases hbr : op = 0x78
  · simp [hbr]
  by_cases hcl : op = 0x7C
  · simp [hcl]
  by_cases hvc : op = 0x38 ∨ op = 0x39
  · rcases hvc with rfl | rfl <;> rfl
  simp only [hbr, hcl, hvc, or_self, if_false, Bool.or_eq_true, decide_eq_true_eq]
  by_cases hmm : opClass op = 1
  · simp [hmm]
  by_cases hasync : opClass op = 2
  · simp [hasync]
  by_cases hmx : opClass op = 5
  · simp [hmx]
  · simp only [hmm, hasync, hmx, or_self, if_false]

/-- The words that an opcode makes of the fields of a word, with a literal. -/
def fieldWords (op : Nat) (w : Word) (lit : Option Word) : List Word :=
  match layoutOf op with
  | .va => vaWords (BitVec.ofNat 8 op) (vaFields w lit)
  | .vc => vcWords (BitVec.ofNat 8 op) (vcFields w lit)
  | .mm => mmWords (BitVec.ofNat 8 op) (mmFields w lit)
  | .br => brWords (BitVec.ofNat 8 op) (brFields w)
  | .cl => clWords (BitVec.ofNat 8 op) (clFields w)
  | .async => asWords (BitVec.ofNat 8 op) (asFields w lit)
  | .mx => mxWords (BitVec.ofNat 8 op) (mxFields w)

theorem fieldWords_ne_nil (op : Nat) (w : Word) (lit : Option Word) : fieldWords op w lit ≠ [] := by
  have hlit (x : Word) : withLit x lit ≠ [] := by cases lit <;> simp [withLit]
  rw [fieldWords]
  cases layoutOf op
  case va | vc | mm | async => exact hlit _
  case br | cl | mx => exact List.cons_ne_nil _ _

theorem fieldWords_eq_withLit {w : Word} {lit : Option Word} (h : lit.isSome = hasLiteral w) :
    fieldWords (opcodeOf w) w lit = withLit w lit := by
  have hnone : lit.isSome = false → lit = none := Option.not_isSome_iff_eq_none.mp ∘ Bool.eq_false_iff.mp
  rw [hasLiteral_eq] at h
  rw [fieldWords, ofNat_opcodeOf]
  cases hl : layoutOf (opcodeOf w) <;> rw [hl] at h <;> dsimp only at h ⊢
  case va => rw [vaWords, vaWord_vaFields h]; rfl
  case vc => rw [vcWords, vcWord_vcFields h]; rfl
  case mm => rw [mmWords, mmWord_mmFields h]; rfl
  case br => rw [brWords, brWord_brFields, hnone h]; rfl
  case cl => rw [clWords, clWord_clFields, hnone h]; rfl
  case async => rw [asWords, asWord_asFields h]; rfl
  case mx => rw [mxWords, mxWord_mxFields, hnone h]; rfl

/-! ## From a word to its instruction and back -/

/-- What a word decodes to is an instruction of a wave, its opcode is assigned, and its fields are those of the word. -/
theorem decodeWord_inv {w : Word} {lit : Option Word} {i : Instr} (h : decodeWord w lit = .ok i) :
    i.isStream = false ∧ opAssigned (opcodeOf w) = true ∧ encode i = fieldWords (opcodeOf w) w lit := by
  unfold decodeWord at h
  split at h
  any_goals split at h
  all_goals cases h
  all_goals exact ⟨rfl, by rw [‹opcodeOf w = _›]; exact ⟨rfl, rfl⟩⟩

theorem encode_of_decodeWord {w : Word} {lit : Option Word} {i : Instr} (h : decodeWord w lit = .ok i) (hlit : lit.isSome = hasLiteral w) :
    encode i = withLit w lit := by
  obtain ⟨-, -, hwords⟩ := decodeWord_inv h
  rw [hwords, fieldWords_eq_withLit hlit]

/-- The bytes of a word and its literal decode to what the words decode to (R162, R187). -/
theorem decode_encodeBytes {w : Word} {lit : Option Word} {i : Instr} (h : decodeWord w lit = .ok i) (hlit : lit.isSome = hasLiteral w)
    (rest : List Byte) : decode (encodeBytes i ++ rest) = .ok (i, rest) := by
  obtain ⟨-, hop, -⟩ := decodeWord_inv h
  rw [encodeBytes, encode_of_decodeWord h hlit]
  cases lit with
  | none =>
    change decode (_ :: _ :: _ :: _ :: rest) = _
    simp only [decode, wordLE_bytes, ← hlit, h]
    rfl
  | some x =>
    change decode (_ :: _ :: _ :: _ :: _ :: _ :: _ :: _ :: rest) = _
    simp only [decode, wordLE_bytes, ← hlit, h, hop]
    rfl

/-! ## Settling O3 -/

/-- Settles O3: the fields of the word, with the literal where the word says there is one, make the word again. -/
theorem encodeDecode : Obligations.EncodeDecode := by
  intro w lit i h hlit
  rw [encode_of_decodeWord h hlit]
  cases lit <;> rfl

/-! ## From an instruction to its word and back -/

/-- Some word and its literal, there where the word says so, decode to the instruction. -/
def HasWord (i : Instr) : Prop := ∃ w lit, lit.isSome = hasLiteral w ∧ decodeWord w lit = .ok i

/-! One lemma for each layout: where the decoder's row of an opcode makes an instruction of the word's fields, the encoder's word for the
opcode is a word of that instruction. The encoder's row names the opcode. -/

theorem hasWord_of_va {c : VaFields → Instr} {o : VaFields} {op : BitVec 8} (_ : encode (c o) = vaWords op o)
    (hlay : layoutOf op.toNat = .va) (hdec : ∀ w, opcodeOf w = op.toNat → decodeWord w o.lit = .ok (c (vaFields w o.lit))) :
    HasWord (c o) := by
  refine ⟨vaWord op o, o.lit, ?_, by rw [hdec _ (opcodeOf_vaWord op o), vaFields_vaWord]⟩
  rw [hasLiteral_eq, opcodeOf_vaWord, hlay, getLsbD_vaWord]

theorem hasWord_of_vc {c : VcFields → Instr} {o : VcFields} {op : BitVec 8} (_ : encode (c o) = vcWords op o)
    (hlay : layoutOf op.toNat = .vc) (hdec : ∀ w, opcodeOf w = op.toNat → decodeWord w o.lit = .ok (c (vcFields w o.lit))) :
    HasWord (c o) := by
  refine ⟨vcWord op o, o.lit, ?_, by rw [hdec _ (opcodeOf_vcWord op o), vcFields_vcWord]⟩
  rw [hasLiteral_eq, opcodeOf_vcWord, hlay, getLsbD_vcWord]

theorem hasWord_of_mm {c : MmFields → Instr} {o : MmFields} {op : BitVec 8} (_ : encode (c o) = mmWords op o)
    (hlay : layoutOf op.toNat = .mm) (hdec : ∀ w, opcodeOf w = op.toNat → decodeWord w o.lit = .ok (c (mmFields w o.lit))) :
    HasWord (c o) := by
  refine ⟨mmWord op o, o.lit, ?_, by rw [hdec _ (opcodeOf_mmWord op o), mmFields_mmWord]⟩
  rw [hasLiteral_eq, opcodeOf_mmWord, hlay, getLsbD_mmWord]

theorem hasWord_of_br {c : BrFields → Instr} {o : BrFields} {op : BitVec 8} (_ : encode (c o) = brWords op o)
    (hlay : layoutOf op.toNat = .br) (hdec : ∀ w, opcodeOf w = op.toNat → decodeWord w none = .ok (c (brFields w))) :
    HasWord (c o) := by
  refine ⟨brWord op o, none, ?_, by rw [hdec _ (opcodeOf_brWord op o), brFields_brWord]⟩
  rw [hasLiteral_eq, opcodeOf_brWord, hlay]
  rfl

theorem hasWord_of_cl {c : ClFields → Instr} {o : ClFields} {op : BitVec 8} (_ : encode (c o) = clWords op o)
    (hlay : layoutOf op.toNat = .cl) (hdec : ∀ w, opcodeOf w = op.toNat → decodeWord w none = .ok (c (clFields w))) :
    HasWord (c o) := by
  refine ⟨clWord op o, none, ?_, by rw [hdec _ (opcodeOf_clWord op o), clFields_clWord]⟩
  rw [hasLiteral_eq, opcodeOf_clWord, hlay]
  rfl

theorem hasWord_of_as {c : AsFields → Instr} {o : AsFields} {op : BitVec 8} (_ : encode (c o) = asWords op o)
    (hlay : layoutOf op.toNat = .async) (hdec : ∀ w, opcodeOf w = op.toNat → decodeWord w o.lit = .ok (c (asFields w o.lit))) :
    HasWord (c o) := by
  refine ⟨asWord op o, o.lit, ?_, by rw [hdec _ (opcodeOf_asWord op o), asFields_asWord]⟩
  rw [hasLiteral_eq, opcodeOf_asWord, hlay, getLsbD_asWord]

theorem hasWord_of_mx {c : MxFields → Instr} {o : MxFields} {op : BitVec 8} (_ : encode (c o) = mxWords op o)
    (hlay : layoutOf op.toNat = .mx) (hdec : ∀ w, opcodeOf w = op.toNat → decodeWord w none = .ok (c (mxFields w))) :
    HasWord (c o) := by
  refine ⟨mxWord op o, none, ?_, by rw [hdec _ (opcodeOf_mxWord op o), mxFields_mxWord]⟩
  rw [hasLiteral_eq, opcodeOf_mxWord, hlay]
  rfl

/-- The same where M names one of several forms of the opcode (R175). -/
theorem hasWord_of_form {c : VaFields → Instr} {o : VaFields} {op : BitVec 8} {m : Nat} (hm : o.m.toNat = m) (_ : encode (c o) = vaWords op o)
    (hlay : layoutOf op.toNat = .va)
    (hdec : ∀ w, opcodeOf w = op.toNat → (w.extractLsb' 0 2).toNat = m → decodeWord w o.lit = .ok (c (vaFields w o.lit))) :
    HasWord (c o) := by
  have hw : (vaWord op o).extractLsb' 0 2 = o.m := congrArg VaFields.m (vaFields_vaWord op o)
  refine ⟨vaWord op o, o.lit, ?_, by rw [hdec _ (opcodeOf_vaWord op o) (hw ▸ hm), vaFields_vaWord]⟩
  rw [hasLiteral_eq, opcodeOf_vaWord, hlay, getLsbD_vaWord]

/-- ENCFRAME, whose form is named by the KIND of its literal (R185). -/
def encframe (o : AsFields) : Instr := if o.kind = 1 then .encframeClose o else .encframeOpen o

theorem hasWord_encframe (o : AsFields) : HasWord (encframe o) := by
  refine hasWord_of_as (c := encframe) (op := 0x9A) ?_ rfl fun w h => by unfold decodeWord; rw [h]; rfl
  unfold encframe
  split <;> rfl

/-- A well-formed instruction of a wave has a word: the decoder's row of its opcode, and of its form where the opcode has several. -/
theorem hasWord_of_fieldsOk {i : Instr} (hf : i.fieldsOk = true) (hs : i.isStream = false) (he : encode i ≠ []) : HasWord i := by
  cases i
  case nop o | mov o | iadd o | isub o | imul o | imulh o | imad o | imulw o | imadw o | iadd64 o | isub64 o | lea o | imin o | imax o |
    iabs o | idiv o | irem o | and o | or o | xor o | andn o | lop3 o | shl o | shrl o | shra o | rotl o | funnel o | bfx o | bfi o |
    popc o | clz o | brev o | ffs o | permb o | fadd o | fsub o | fmul o | fma o | fmin o | fmax o | fneg o | fabs o | frnd o | frcp o |
    fsqrt o | frsq o | fdiv o | fexp2 o | flog2 o | fsinpi o | fcospi o | fclass o | cvt o | pack o | dot4 o | dot2f o | plop o | sel o
    | matchLanes o | shfl o | scan o | reduce o | elect o | sreg o | brx o | rcv o | join o | ret o | exit o | barexp o | waitge o |
    mwait o | yield o | sleep o | tspawn o | tend o | tabort o | tirrev o | trap o | bkpt o | covbegin o | covline o | covquad o |
    covcube o | covtri o | covres o | covend o | covpop o | ddx o | ddy o | killl o | rth o | sset o | ckpt o =>
    exact hasWord_of_va rfl rfl fun w h => by unfold decodeWord; exact h ▸ rfl
  case pmovToreg o | voteAny o | movxRd o | v2sFirst o | callx o | barArrive o | cbarArrive o | forkSuspend o | resumelRetry o |
    originTag o =>
    change (_ && _) = true at hf
    simp only [ctlOk, Bool.and_eq_true, decide_eq_true_eq] at hf
    exact hasWord_of_form (m := 0) (by simp [hf]) rfl rfl fun w h hm => by unfold decodeWord; rw [h, hm]; rfl
  case pmovFromreg o | voteAll o | movxWr o | v2sLane o | callxTail o | barWait o | cbarWait o | forkDetach o | resumelSkip o |
    originAddr o =>
    change (_ && _) = true at hf
    simp only [ctlOk, Bool.and_eq_true, decide_eq_true_eq] at hf
    exact hasWord_of_form (m := 1) (by simp [hf]) rfl rfl fun w h hm => by unfold decodeWord; rw [h, hm]; rfl
  case voteBallot o | barSync o | cbarSync o | originReg o =>
    change (_ && _) = true at hf
    simp only [ctlOk, Bool.and_eq_true, decide_eq_true_eq] at hf
    exact hasWord_of_form (m := 2) (by simp [hf]) rfl rfl fun w h hm => by unfold decodeWord; rw [h, hm]; rfl
  case barInit o =>
    change (_ && _) = true at hf
    simp only [ctlOk, Bool.and_eq_true, decide_eq_true_eq] at hf
    exact hasWord_of_form (m := 3) (by simp [hf]) rfl rfl fun w h hm => by unfold decodeWord; rw [h, hm]; rfl
  case icmp o | fcmp o =>
    exact hasWord_of_vc rfl rfl fun w h => by unfold decodeWord; exact h ▸ rfl
  case ldS8 o | ldB8 o | ldS16 o | ldB16 o | ld32 o | ld64 o | ld128 o | st8 o | st16 o | st32 o | st64 o | st128 o | ldc o | atomAdd o
    | atomSmin o | atomSmax o | atomBmin o | atomBmax o | atomAnd o | atomOr o | atomXor o | atomXchg o | atomCas o | atomFadd o |
    atomAdd64 o | atomCas64 o | stmap o | stunmap o | stwb o | stdrop o | prefetch o | fence o | cntadd o =>
    exact hasWord_of_mm rfl rfl fun w h => by unfold decodeWord; exact h ▸ rfl
  case bra o =>
    exact hasWord_of_br rfl rfl fun w h => by unfold decodeWord; exact h ▸ rfl
  case call o =>
    exact hasWord_of_cl rfl rfl fun w h => by unfold decodeWord; exact h ▸ rfl
  case cpy o | tcopy o | tstore o | tgather o | ccopy o | codewr o | codeswap o | rgive o | rtake o | encpost o =>
    exact hasWord_of_as rfl rfl fun w h => by unfold decodeWord; exact h ▸ rfl
  case mxrd o | mxwr o | mxstat o =>
    exact hasWord_of_mx rfl rfl fun w h => by unfold decodeWord; exact h ▸ rfl
  case encframeOpen o =>
    change (_ && _) = true at hf
    simp only [AsFields.commonOk, Bool.and_eq_true, decide_eq_true_eq] at hf
    have hk : encframe o = .encframeOpen o := if_neg fun hk => by simp [hk] at hf
    exact hk ▸ hasWord_encframe o
  case encframeClose o =>
    change (_ && _) = true at hf
    simp only [Bool.and_eq_true, decide_eq_true_eq] at hf
    have hk : encframe o = .encframeClose o := if_pos (by simp [hf])
    exact hk ▸ hasWord_encframe o
  case mnop | mteam | mdesc | mzero | mma | mmas | mloop | mloopMreg | mendl | mbarw | mbara | mset | madd | mbuf | mfence | mend =>
    contradiction
  all_goals exact absurd rfl he

/-- R188, R309: a stream word decodes to what it encodes; LOOP takes its count from a register where bit 15 is set. -/
theorem decodeStream_encode {i : Instr} (h : i.isStream = true) : ∃ w, encode i = [w] ∧ decodeStream w = .ok i := by
  cases i
  case mnop | mteam | mdesc | mzero | mma | mmas | mendl | mbarw | mbara | mset | madd | mbuf | mfence | mend =>
    refine ⟨_, rfl, ?_⟩
    simp [decodeStream, extractLsb'_append_high, extractLsb'_append_low, -BitVec.extractLsb'_toNat]
  case mloop span count =>
    have hbit : ((0x06 : BitVec 6) ++ span ++ (0 : BitVec 1) ++ count).getLsbD 15 = false := by
      simp only [BitVec.getLsbD_append]
      rfl
    refine ⟨_, rfl, ?_⟩
    simpa [decodeStream, extractLsb'_append_high, extractLsb'_append_low, -BitVec.extractLsb'_toNat] using hbit
  case mloopMreg span z mreg =>
    have hbit : ((0x06 : BitVec 6) ++ span ++ (1 : BitVec 1) ++ z ++ mreg).getLsbD 15 = true := by
      simp only [BitVec.getLsbD_append]
      rfl
    refine ⟨_, rfl, ?_⟩
    simpa [decodeStream, extractLsb'_append_high, extractLsb'_append_low, -BitVec.extractLsb'_toNat] using hbit
  all_goals contradiction

/-! ## Settling O2 and O1 -/

theorem fieldsOk_of_wellFormed {i : Instr} (h : i.wellFormed = true) : i.fieldsOk = true := by
  simp only [Instr.wellFormed, Bool.and_eq_true] at h
  obtain ⟨⟨hfields, -⟩, -⟩ := h
  exact hfields

/-- Settles O2: its word decodes to the instruction, and so do the bytes of its words. -/
theorem decodeEncode : Obligations.DecodeEncode := by
  intro i hwf
  refine ⟨fun hs he rest => ?_, decodeStream_encode⟩
  obtain ⟨w, lit, hlit, hdec⟩ := hasWord_of_fieldsOk (fieldsOk_of_wellFormed hwf) hs he
  exact decode_encodeBytes hdec hlit rest

/-- Settles O1: the decoder, run on each word. -/
theorem decodeExamples : Obligations.DecodeExamples := ⟨rfl, rfl, rfl, rfl, rfl, rfl, rfl, rfl⟩

end Sys2Proof

namespace Sys2Proof.Machine

/-! PROOF. What a register or a predicate reads after a write of one (R174, R212 to R214). -/

/-! ## Register words -/

theorem vCell_inj {q r l k : Nat} (hl : l < 16) (hk : k < 16) : vCell q l = vCell r k ↔ q = r ∧ l = k := by
  unfold vCell
  omega

theorem Wave.rdV_wrV (w : Wave) {q r l k : Nat} (x : Word) (hl : l < 16) (hk : k < 16) :
    (w.wrV r k x).rdV q l = if q = r ∧ l = k then x else w.rdV q l := by
  unfold Wave.rdV Wave.wrV
  by_cases h : vCell q l = vCell r k
  · rw [if_pos ((vCell_inj hl hk).mp h), h, Tbl.cell_setCell_same]
  · rw [if_neg (mt (vCell_inj hl hk).mpr h), Tbl.cell_setCell_ne _ _ _ h]

theorem Wave.rdS_wrS (w : Wave) (m n : Nat) (x : Word) : (w.wrS n x).rdS m = if m = n then x else w.rdS m := by
  unfold Wave.rdS Wave.wrS
  split
  · next h => rw [h, Tbl.cell_setCell_same]
  · next h => exact Tbl.cell_setCell_ne _ _ _ h

/-- R174: a vector register written in the lanes of a list. -/
theorem Wave.rdV_foldl_wrV {r q l : Nat} {g : Nat → Word} (hl : l < 16) {ls : List Nat} (hls : ∀ k ∈ ls, k < 16) (w : Wave) :
    (ls.foldl (fun x k => x.wrV r k (g k)) w).rdV q l = if q = r ∧ l ∈ ls then g l else w.rdV q l := by
  induction ls generalizing w with
  | nil => simp
  | cons k ls ih =>
    rw [List.foldl_cons, ih (fun j hj => hls j (List.mem_cons_of_mem k hj)), Wave.rdV_wrV w _ hl (hls k List.mem_cons_self)]
    by_cases hq : q = r <;> by_cases hk : l = k <;> by_cases hm : l ∈ ls <;> simp [hq, hk, hm]

/-! ## Register fields -/

section
variable {w : Wave} {d f : RegField} {ls : List Nat} {g : Nat → Word} {l : Nat}

theorem Wave.rd_scalar (h : isScalar f = true) : w.rd f l = w.rdS (f.toNat - 96) := if_pos h

theorem Wave.rd_vector (h : isScalar f = false) : w.rd f l = w.rdV f.toNat l := by simp [Wave.rd, h]

/-- R213: a scalar destination takes the value of the first lane. -/
theorem Wave.wr_scalar (h : isScalar d = true) : w.wr d ls g = match ls with
    | [] => w
    | k :: _ => w.wrS (d.toNat - 96) (g k) := if_pos h

/-- R212: a vector destination takes the value of each lane. -/
theorem Wave.wr_vector (h : isScalar d = false) : w.wr d ls g = ls.foldl (fun x k => x.wrV d.toNat k (g k)) w := by simp [Wave.wr, h]

theorem Wave.rdV_wr (hl : l < 16) (hls : ∀ k ∈ ls, k < 16) (r : Nat) :
    (w.wr d ls g).rdV r l = if isScalar d = false ∧ r = d.toNat ∧ l ∈ ls then g l else w.rdV r l := by
  cases hd : isScalar d with
  | true => rw [Wave.wr_scalar hd]; cases ls <;> rfl
  | false => simp [Wave.wr_vector hd, Wave.rdV_foldl_wrV hl hls]

/-- A scalar register reads as before but for the one written. -/
theorem Wave.rdS_wr (n : Nat) : (w.wr d ls g).rdS n = match ls with
    | [] => w.rdS n
    | k :: _ => if isScalar d = true ∧ n = d.toNat - 96 then g k else w.rdS n := by
  cases hd : isScalar d with
  | true =>
    rw [Wave.wr_scalar hd]
    cases ls with
    | nil => rfl
    | cons k ls => simp [Wave.rdS_wrS]
  | false =>
    have hs : (w.wr d ls g).s = w.s := by
      rw [Wave.wr_vector hd]
      exact List.foldlRecOn (motive := fun x : Wave => x.s = w.s) ls _ rfl fun x hx k _ => hx
    unfold Wave.rdS
    rw [hs]
    cases ls <;> simp

theorem Wave.rd_wr_vector_same (hd : isScalar d = false) (hl : l < 16) (hls : ∀ k ∈ ls, k < 16) :
    (w.wr d ls g).rd d l = if l ∈ ls then g l else w.rd d l := by
  rw [Wave.rd_vector hd, Wave.rd_vector hd, Wave.rdV_wr hl hls]
  simp [hd]

theorem Wave.rd_wr_scalar_same (hd : isScalar d = true) (l : Nat) : (w.wr d ls g).rd d l = match ls with
    | [] => w.rd d l
    | k :: _ => g k := by
  rw [Wave.rd_scalar hd, Wave.rd_scalar hd, Wave.rdS_wr]
  simp [hd]

theorem Wave.rd_wr_ne (hf : f ≠ d) (hl : l < 16) (hls : ∀ k ∈ ls, k < 16) : (w.wr d ls g).rd f l = w.rd f l := by
  have hne : f.toNat ≠ d.toNat := mt BitVec.eq_of_toNat_eq hf
  cases hs : isScalar f with
  | false =>
    rw [Wave.rd_vector hs, Wave.rd_vector hs, Wave.rdV_wr hl hls]
    simp [hne]
  | true =>
    have hother : ¬(isScalar d = true ∧ f.toNat - 96 = d.toNat - 96) := by
      simp only [isScalar, decide_eq_true_eq] at hs ⊢
      omega
    rw [Wave.rd_scalar hs, Wave.rd_scalar hs, Wave.rdS_wr]
    cases ls with
    | nil => rfl
    | cons k ls => exact if_neg hother

end

/-! ## What a write of registers keeps -/

/-- A wave without its register words and their poison. -/
def Wave.unwritten (w : Wave) : Wave := { w with v := [], s := [], poison := [] }

theorem Wave.wr_unwritten (w : Wave) (d : RegField) (ls : List Nat) (g : Nat → Word) : (w.wr d ls g).unwritten = w.unwritten :=
  Wave.wr_keeps (p := Wave.unwritten) (fun _ _ _ _ => rfl) (fun _ _ _ => rfl) w d ls g

theorem sameControl_of_unwritten {a b : Wave} (h : b.unwritten = a.unwritten) : sameControl a b :=
  ⟨(congrArg Wave.active h :), (congrArg Wave.helper h :), (congrArg Wave.exited h :), (congrArg Wave.returned h :),
    (congrArg Wave.lpair h :), (congrArg Wave.depth h :), (congrArg Wave.stack h :), (congrArg Wave.held h :),
    (congrArg Wave.wait h :), (congrArg Wave.trap h :), (congrArg Wave.late h :), (congrArg Wave.outst h :)⟩

/-! ## Predicates -/

theorem hasLane_laneBit {k l : Nat} (hl : l < 16) : hasLane (laneBit k) l = decide (l = k) := by
  rw [hasLane, laneBit, BitVec.getLsbD_ofNat, Nat.testBit_two_pow]
  simp [hl, eq_comm]

theorem hasLane_foldl_laneBit {l : Nat} (hl : l < 16) (ls : List Nat) (m : Mask) :
    hasLane (ls.foldl (fun m k => m ||| laneBit k) m) l = (hasLane m l || decide (l ∈ ls)) := by
  induction ls generalizing m with
  | nil => simp
  | cons k ls ih =>
    have hor : hasLane (m ||| laneBit k) l = (hasLane m l || decide (l = k)) := by
      rw [← hasLane_laneBit hl]
      exact BitVec.getLsbD_or
    rw [List.foldl_cons, ih, hor]
    simp [Bool.or_assoc]

/-- The mask of a list of lanes holds just those lanes. -/
theorem hasLane_maskOf {l : Nat} (hl : l < 16) (ls : List Nat) : hasLane (maskOf ls) l = decide (l ∈ ls) := by
  rw [maskOf, hasLane_foldl_laneBit hl]
  simp [hasLane]

theorem Wave.predBit_wrPred_same (w : Wave) (p : Nat) (ls : List Nat) (g : Nat → Bool) {l : Nat} (hl : l < 16) :
    (w.wrPred p ls g).predBit p l = if l ∈ ls then g l else w.predBit p l := by
  have hread : (w.wrPred p ls g).pred p = (w.pred p &&& ~~~maskOf ls) ||| maskOf (ls.filter g) := Tbl.cell_setCell_same ..
  have hmask : ((maskOf ls).getLsbD l) = decide (l ∈ ls) := hasLane_maskOf hl ls
  have hon : ((maskOf (ls.filter g)).getLsbD l) = decide (l ∈ ls.filter g) := hasLane_maskOf hl _
  simp only [Wave.predBit, hread, hasLane, BitVec.getLsbD_or, BitVec.getLsbD_and, BitVec.getLsbD_not, hl, hmask, hon, List.mem_filter]
  by_cases hm : l ∈ ls <;> simp [hm]

theorem Wave.predBit_wrPred_ne (w : Wave) {p q : Nat} (ls : List Nat) (g : Nat → Bool) (l : Nat) (h : q ≠ p) :
    (w.wrPred p ls g).predBit q l = w.predBit q l :=
  congrArg (hasLane · l) (Tbl.cell_setCell_ne 0 w.p _ h)

/-! ## Settling O8 -/

/-- Settles O8: the words of the destination by the file it lies in, and the rest by what a write keeps. -/
theorem registerWrite : Obligations.RegisterWrite := by
  refine ⟨fun w d ls g hls => ?_, fun w p ls g _ => ?_⟩
  · have hrest := Wave.wr_unwritten w d ls g
    exact ⟨fun hd l hl => Wave.rd_wr_vector_same hd hl hls, fun hd l => Wave.rd_wr_scalar_same hd l, fun f l hl hf => Wave.rd_wr_ne hf hl hls,
      (congrArg Wave.p hrest :), sameControl_of_unwritten hrest, (congrArg Wave.pos hrest :), (congrArg Wave.replay hrest :)⟩
  · exact ⟨fun l hl => w.predBit_wrPred_same p ls g hl, fun q l hq => w.predBit_wrPred_ne ls g l hq, fun f l => rfl,
      ⟨rfl, rfl, rfl, rfl, rfl, rfl, rfl, rfl, rfl, rfl, rfl, rfl⟩, rfl⟩

end Sys2Proof.Machine

namespace Sys2Proof.Machine

/-! PROOF. BRA (R182, R256). -/

/-! ## The target -/

/-- R72: a number of n bits read as two's complement is the bit vector's integer. -/
theorem sextNat_toNat {n : Nat} (x : BitVec n) : sextNat x.toNat n = x.toInt := by
  cases n with
  | zero => simp [sextNat, BitVec.of_length_zero]
  | succ n =>
    have hpow : 2 ^ (n + 1) = 2 * 2 ^ n := Nat.pow_succ'
    rw [sextNat, BitVec.toInt_eq_toNat_cond, Nat.mod_eq_of_lt x.isLt, Nat.add_sub_cancel]
    simp only [hpow, Nat.mul_lt_mul_left Nat.two_pos]

/-- R73: an integer modulo 2^64. -/
theorem dwordOfInt_eq (x : Int) : dwordOfInt x = BitVec.ofInt 64 x := by
  apply BitVec.eq_of_toNat_eq
  rw [dwordOfInt, wrapInt, BitVec.toNat_ofInt, BitVec.toNat_ofNat]
  have := Int.emod_nonneg x (b := ((2 ^ 64 : Nat) : Int)) (by decide)
  have := Int.emod_lt_of_pos x (b := ((2 ^ 64 : Nat) : Int)) (by decide)
  omega

/-- R182: the offset of a branch is sign-extended and counts words. -/
theorem dwordOfInt_four_mul {n : Nat} (off : BitVec n) : dwordOfInt (4 * sextNat off.toNat n) = off.signExtend 64 <<< 2 := by
  rw [sextNat_toNat, dwordOfInt_eq, BitVec.ofInt_mul, BitVec.signExtend, BitVec.shiftLeft_eq_mul_twoPow, BitVec.mul_comm]
  rfl

theorem relTarget_eq {n : Nat} (w : Wave) (off : BitVec n) : relTarget w off.toNat n = w.pos.pc + (off.signExtend 64 <<< 2) := by
  rw [relTarget, dwordOfInt_four_mul]

/-! ## Settling O28 -/

/-- R256: a BRA by the lanes that take it and those that do not. -/
theorem exec_bra {o : BrFields} {s : State} {w : Nat} {wv : Wave} (h : runsNow s w wv (.bra o) = true) :
    exec (.bra o) s = .next (
      if braLanes o wv = 0 then s.setWave w (wv.advance 4)
      else if wv.active &&& ~~~braLanes o wv = 0 then
        s.setWave w { wv with pos := ⟨wv.pos.pc + (o.off.signExtend 64 <<< 2), none⟩, replay := none }
      else if 64 ≤ wv.stack.length then stackFault (.bra o) s w wv cOver
      else s.setWave w { wv.advance 4 with
        stack := ⟨.path, wv.pos.pc + (o.off.signExtend 64 <<< 2), braLanes o wv, wv.depth⟩ :: wv.stack
        active := wv.active &&& ~~~braLanes o wv }) := by
  rw [← relTarget_eq]
  change execBra o s = _
  rw [execBra, runWave_runsNow _ h]

/-- Settles O28: the lanes taken and not taken, and the room on the stack, name the case. -/
theorem branch : Obligations.Branch := by
  intro o s w wv h tk nt t
  have hexec := exec_bra h
  refine ⟨fun htk => ?_, fun htk hnt => ?_, fun htk hnt hroom => ?_, fun htk hnt hfull => ?_⟩
  · exact hexec.trans (congrArg _ (if_pos htk))
  · exact hexec.trans (congrArg _ ((if_neg htk).trans (if_pos hnt)))
  · exact hexec.trans (congrArg _ (((if_neg htk).trans (if_neg hnt)).trans (if_neg hroom.not_ge)))
  · exact hexec.trans (congrArg _ (((if_neg htk).trans (if_neg hnt)).trans (if_pos hfull)))

end Sys2Proof.Machine

namespace Sys2Proof.Machine

/-! PROOF. The loads, LDC and the atomics with return become outstanding (R135, R172, R204, R281, R283, R284). -/

/-! ## Issue -/

section
variable {i : Instr} {s : State} {w : Nat} {wv : Wave} {o : MmFields} {n words : Nat} {ext : Extend} {atom : Option AtomOp}
  {check : State → Wave → Xlat → DWord → Option AddrFault}

/-- R204: with no helper lane no lane of an access is a helper's. -/
theorem helps_eq_false (hhelper : wv.helper = 0) (hpart : wv.part ≠ 0) (l : Nat) : helps i wv l = false := by
  have hlive : wv.live = wv.part := by
    rw [Wave.live, hhelper]
    exact BitVec.and_allOnes
  unfold helps
  split
  · simpa [hlive] using hpart
  · simp [hhelper, hasLane]

/-- The kind of an outstanding access (R284). -/
def loadKind (atom : Option AtomOp) : AccKind := if atom.isSome then .atomic else .load

/-- The request of a lane that is no helper. -/
def laneReq (wv : Wave) (o : MmFields) (atom : Option AtomOp) (x : Nat × Xlat × DWord) : LaneReq :=
  let d := match atom with
    | some a => atomData wv a o.t (x.1 % 16)
    | none => (0, 0)
  { lane := x.1, target := x.2.1.target, va := x.2.2, l1 := x.2.1.l1, nc := x.2.1.nc, dev := x.2.1.dev, helper := false, x := d.1, w := d.2
    ipa := some x.2.1.ipa, lg := x.2.1.lg }

/-- The outstanding access of a wave's lanes (R172); a weak atomic is relaxed (R135). -/
def loadOpOf (wv : Wave) (o : MmFields) (n words : Nat) (ext : Extend) (atom : Option AtomOp) (oks : List (Nat × Xlat × DWord)) : LoadOp :=
  { pos := wv.pos, size := n, ext := ext, words := words, dst := o.t
    ord := match atom with
      | some _ => if o.ord = 0 then 1 else o.ord
      | none => o.ord
    scope := o.scope, hint := o.hint, atom := atom, lanes := oks.map (laneReq wv o atom) }

/-- The effect of a load or an atomic with return: one access of all its lanes is outstanding, and the wave moves on. -/
def loadDone (i : Instr) (o : MmFields) (n words : Nat) (ext : Extend) (atom : Option AtomOp) (s : State) (w : Nat) (wv : Wave) : State :=
  let r := resolveLanes s wv o n (loadKind atom) false (accLanes i wv.part)
  finishMem i (issueLoad (r.1.modWave w (fun x => x)) w o.l.toNat (loadOpOf wv o n words ext atom r.2.oks)) w []

/-- R172: with no helper and no faulting lane, all lanes of an access become outstanding together. -/
theorem loadLanes_eq (hhelper : wv.helper = 0) (hpart : wv.part ≠ 0) (hspec : s.speculative wv = false)
    (hwalk : walksWait s wv o (loadKind atom) (accLanes i wv.part) = false) :
    let r := resolveLanes s wv o n (loadKind atom) false (accLanes i wv.part)
    placesHeld r.1 wv false n (loadKind atom) r.2.oks = false → r.2.bad = [] → (∀ x ∈ r.2.oks, check r.1 wv x.2.1 x.2.2 = none) →
    loadLanes i o n words ext atom check s w wv (accLanes i wv.part) =
      .ok (issueLoad (r.1.modWave w (fun x => x)) w o.l.toNat (loadOpOf wv o n words ext atom r.2.oks), []) := by
  intro r hheld hbad hcheck
  have htask : r.1.taskOf wv = s.taskOf wv :=
    taskOf_of_tasking (walked_resolveLanes s wv o n (loadKind atom) false (accLanes i wv.part)).tasking wv
  have hr : resolveLanes s wv o n (if atom.isSome then .atomic else .load) false (accLanes i wv.part) = r := rfl
  have hkind : (if atom.isSome then AccKind.atomic else AccKind.load) = loadKind atom := rfl
  have hlate : r.2.oks.filterMap (fun x => (check r.1 wv x.2.1 x.2.2).map (fun f => (x.1, f))) = [] :=
    List.filterMap_eq_nil_iff.mpr fun x hx => by rw [hcheck x hx]; rfl
  have hhelps : helps i wv = fun _ => false := funext (helps_eq_false hhelper hpart)
  have hpoisoned : (accLanes i wv.part).filter (fun l => !(accLanes i wv.part).contains l) = [] := by simp
  unfold loadLanes
  simp only [hspec, hhelps, hpoisoned, List.filter_false, ite_self, List.nil_append, List.contains_nil, Bool.not_false, List.filter_true]
  simp only [hr, hbad, hlate, List.nil_append, List.map_nil, List.contains_nil, Bool.not_false, List.filter_true]
  simp only [hkind, hwalk, hheld, htask, Bool.false_eq_true, if_false]
  rcases ht : s.taskOf wv with _ | ⟨q, t⟩
  · cases atom with
    | none => rfl
    | some a =>
      simp only [Option.isSome_some, Bool.true_and, decide_eq_true_eq]
      rfl
  · have hirrev := irrev_of_not_speculative hspec ht
    cases atom with
    | none => rfl
    | some a =>
      simp only [hirrev, Option.isSome_some, Bool.true_or, Bool.not_true, Bool.and_false, Bool.true_and, Bool.false_eq_true, if_false,
        decide_eq_true_eq]
      rfl

/-- The premises of an access with a result: no helper lane, nothing holds it and no lane faults. -/
def loadOpen (i : Instr) (o : MmFields) (n : Nat) (atom : Option AtomOp) (s : State) (w : Nat) (wv : Wave) : Bool :=
  let r := resolveLanes s wv o n (loadKind atom) false (accLanes i wv.part)
  decide (wv.helper = 0) && !crossingHeld s w wv && !walksWait s wv o (loadKind atom) (accLanes i wv.part) &&
    !placesHeld r.1 wv false n (loadKind atom) r.2.oks && r.2.bad.isEmpty

/-- Where such an access is what an instruction runs, its becoming outstanding is the instruction's effect. -/
theorem exec_loadLanes {srcs : List RegField} {task : Bool}
    (he : ∀ s, exec i s = runMem i srcs task Wave.part (loadLanes i o n words ext atom check) s) (h : runsNow s w wv i = true)
    (hs : plainWave s wv = true) (hopen : loadOpen i o n atom s w wv = true)
    (hcheck : let r := resolveLanes s wv o n (loadKind atom) false (accLanes i wv.part)
      ∀ x ∈ r.2.oks, check r.1 wv x.2.1 x.2.2 = none) : exec i s = .next (loadDone i o n words ext atom s w wv) := by
  obtain ⟨-, -, hpart, -⟩ := (runsNow_iff s w wv i).mp h
  simp only [loadOpen, Bool.and_eq_true, Bool.not_eq_true', List.isEmpty_iff, decide_eq_true_eq] at hopen
  obtain ⟨⟨⟨⟨hhelper, hc⟩, hwalk⟩, hheld⟩, hbad⟩ := hopen
  rw [he, runMem_plain _ _ _ _ h hs hc, loadLanes_eq hhelper hpart (not_speculative_of_plainWave hs) hwalk hheld hbad hcheck]
  rfl

end

/-! ## Loads, LDC and atomics -/

/-- The premises of a load: those of an access, and no lane beyond its constant bank's record (R103). -/
def readOpen (i : Instr) (o : MmFields) (n : Nat) (s : State) (w : Nat) (wv : Wave) : Bool :=
  let r := resolveLanes s wv o n .load false (accLanes i wv.part)
  loadOpen i o n none s w wv && (o.space.toNat ≠ 2 || r.2.oks.all (fun x => (constCheck r.1 wv x.2.1 x.2.2).isNone))

section
variable {i : Instr} {o : MmFields} {n words : Nat} {ext : Extend}

theorem waveStepIf_load (he : ∀ s, exec i s = runLoad i o n words ext s) : waveStepIf i (readOpen i o n) (loadDone i o n words ext none) := by
  intro s w wv h hs hp
  simp only [readOpen, Bool.and_eq_true] at hp
  obtain ⟨hopen, -⟩ := hp
  exact exec_loadLanes he h hs hopen fun _ _ => rfl

theorem waveStepIf_ldc (hspace : o.space = 2) : waveStepIf (.ldc o) (readOpen (.ldc o) o 4) (loadDone (.ldc o) o 4 1 .zext none) := by
  intro s w wv h hs hp
  simp only [readOpen, hspace, Bool.and_eq_true] at hp
  obtain ⟨hopen, hconst⟩ := hp
  exact exec_loadLanes (fun _ => rfl) h hs hopen fun x hx => Option.isNone_iff_eq_none.mp (List.all_eq_true.mp hconst x hx)

theorem waveStepIf_atomReturn {a : AtomOp} (he : ∀ s, exec i s = runAtom i o a s) (hnr : o.nr = false) :
    waveStepIf i (loadOpen i o (atomSize a) (some a)) (loadDone i o (atomSize a) (atomSize a / 4) .zext (some a)) :=
  fun _ _ _ h hs hp => exec_loadLanes (fun s => (he s).trans (if_neg (by simp [hnr]))) h hs hp fun _ _ => rfl

end

/-! ## Settling O20 -/

/-- Settles O20: each instruction is such a load or such an atomic. -/
theorem loadsAndAtomicsIssue : Obligations.LoadsAndAtomicsIssue := by
  refine ⟨fun o => ?_, fun o => ?_⟩
  · exact ⟨waveStepIf_load fun _ => rfl, waveStepIf_load fun _ => rfl, waveStepIf_load fun _ => rfl, waveStepIf_load fun _ => rfl,
      waveStepIf_load fun _ => rfl, waveStepIf_load fun _ => rfl, waveStepIf_load fun _ => rfl, waveStepIf_ldc⟩
  · exact ⟨waveStepIf_atomReturn fun _ => rfl, waveStepIf_atomReturn fun _ => rfl, waveStepIf_atomReturn fun _ => rfl,
      waveStepIf_atomReturn fun _ => rfl, waveStepIf_atomReturn fun _ => rfl, waveStepIf_atomReturn fun _ => rfl,
      waveStepIf_atomReturn fun _ => rfl, waveStepIf_atomReturn fun _ => rfl, waveStepIf_atomReturn fun _ => rfl,
      waveStepIf_atomReturn fun _ => rfl, waveStepIf_atomReturn fun _ => rfl, waveStepIf_atomReturn fun _ => rfl,
      waveStepIf_atomReturn fun _ => rfl⟩

end Sys2Proof.Machine

namespace Sys2Proof.Machine

/-! PROOF. The checks of stages 4 to 6 of R479, an instruction without lanes (R165), and the first checks of an access (R503). -/

/-! ## The frame of every instruction of a wave -/

/-- An instruction runs in the frame of a wave's instructions: it has an effect only past that frame's checks. -/
def Framed (i : Instr) : Prop := ∃ op, ∀ s, exec i s = runWave i op s

theorem framed_of_exec {i : Instr} {op : State → Nat → Wave → State} (h : ∀ s, exec i s = runWave i op s) : Framed i := ⟨op, h⟩

theorem framed_of_runAtom {i : Instr} {o : MmFields} {a : AtomOp} (he : ∀ s, exec i s = runAtom i o a s) : Framed i := by
  cases hnr : o.nr with
  | true => exact framed_of_exec fun s => (he s).trans (if_pos hnr)
  | false => exact framed_of_exec fun s => (he s).trans (if_neg (by simp [hnr]))

/-- R165: every instruction of a wave runs in that frame. -/
theorem framed_of_encode {i : Instr} (hs : i.isStream = false) (he : encode i ≠ []) : Framed i := by
  cases i
  case atomAdd o | atomSmin o | atomSmax o | atomBmin o | atomBmax o | atomAnd o | atomOr o | atomXor o | atomXchg o | atomCas o |
    atomFadd o | atomAdd64 o | atomCas64 o =>
    exact framed_of_runAtom fun _ => rfl
  case mov o =>
    by_cases hm : o.m = 1
    · exact framed_of_exec fun s => if_pos hm
    · exact framed_of_exec fun s => if_neg hm
  case nop o | iadd o | isub o | imul o | imulh o | imad o | imulw o | imadw o | iadd64 o | isub64 o | lea o | imin o | imax o | iabs o
    | idiv o | irem o | and o | or o | xor o | andn o | lop3 o | shl o | shrl o | shra o | rotl o | funnel o | bfx o | bfi o | popc o |
    clz o | brev o | ffs o | permb o | fadd o | fsub o | fmul o | fma o | fmin o | fmax o | fneg o | fabs o | frnd o | frcp o | fsqrt o
    | frsq o | fdiv o | fexp2 o | flog2 o | fsinpi o | fcospi o | fclass o | cvt o | pack o | dot4 o | dot2f o | icmp o | fcmp o | plop
    o | sel o | pmovToreg o | pmovFromreg o | voteAny o | voteAll o | voteBallot o | matchLanes o | shfl o | scan o | reduce o | elect o
    | movxRd o | movxWr o | sreg o | v2sFirst o | v2sLane o | ldS8 o | ldB8 o | ldS16 o | ldB16 o | ld32 o | ld64 o | ld128 o | st8 o |
    st16 o | st32 o | st64 o | st128 o | ldc o | stmap o | stunmap o | stwb o | stdrop o | prefetch o | fence o | cntadd o | bra o | brx
    o | rcv o | join o | call o | callx o | callxTail o | ret o | exit o | barArrive o | barWait o | barSync o | barInit o | barexp o |
    cbarArrive o | cbarWait o | cbarSync o | waitge o | mwait o | yield o | sleep o | forkSuspend o | forkDetach o | tspawn o | tend o |
    tabort o | tirrev o | trap o | bkpt o | cpy o | tcopy o | tstore o | tgather o | ccopy o | codewr o | codeswap o | rgive o | rtake o
    | encpost o | encframeOpen o | encframeClose o | covbegin o | covline o | covquad o | covcube o | covtri o | covres o | covend o |
    covpop o | ddx o | ddy o | mxrd o | mxwr o | mxstat o | resumelRetry o | resumelSkip o | killl o | originTag o | originAddr o |
    originReg o | rth o | sset o | ckpt o =>
    exact framed_of_exec fun _ => rfl
  case mnop | mteam | mdesc | mzero | mma | mmas | mloop | mloopMreg | mendl | mbarw | mbara | mset | madd | mbuf | mfence | mend =>
    contradiction
  all_goals exact absurd rfl he

/-- What code decodes to runs in that frame. -/
theorem framed_of_decodeWord {x : Word} {lit : Option Word} {i : Instr} (h : decodeWord x lit = .ok i) : Framed i := by
  obtain ⟨hs, -, hwords⟩ := decodeWord_inv h
  exact framed_of_encode hs (hwords ▸ fieldWords_ne_nil _ x lit)

section
variable {i : Instr} {s : State} {w : Nat} {wv : Wave}

theorem curWave_of_cur (hcur : s.cur = .wave w) (hw : Tbl.get s.waves w = some wv) : s.curWave = some (w, wv) := by
  simp [State.curWave, hcur, hw]

/-- Stages 4 to 6 of R479: a refused instruction faults, and does nothing else. -/
theorem Framed.exec_refused (hi : Framed i) (hcur : s.cur = .wave w) (hw : Tbl.get s.waves w = some wv) (hpart : wv.part ≠ 0) {c : BitVec 8}
    (hc : staticCause wv i = some c) : exec i s = .next (raiseInstr s w wv i c 0) := by
  obtain ⟨op, he⟩ := hi
  simp only [he, runWave, curWave_of_cur hcur hw, hpart, hc, if_false]

/-- R165: with no lane taking part an instruction only moves the wave past it. -/
theorem Framed.exec_noLane (hi : Framed i) (hcur : s.cur = .wave w) (hw : Tbl.get s.waves w = some wv) (hpart : wv.part = 0) :
    exec i s = .next (s.setWave w (wv.advance (instrBytes i))) := by
  obtain ⟨op, he⟩ := hi
  simp only [he, runWave, curWave_of_cur hcur hw, hpart, if_true]

end

/-! ## The checks in their order -/

section
variable {i : Instr} {w : Wave}

/-- Stage 4 of R479 (R495): a privileged instruction in an ordinary wave. -/
theorem staticCause_of_isSys (hk : w.kind = .ordinary) (hi : isSys i = true) : staticCause w i = some cPriv := by
  simp [staticCause, privCause, hk, hi]

/-- Stage 4 of R479 (R466): what a handler must not execute. -/
theorem staticCause_of_slotForbidden (hk : w.kind = .handler) (hi : slotForbidden i = true) : staticCause w i = some cPriv := by
  simp [staticCause, privCause, hk, hi]

/-- Stage 5 of R479 (R189). -/
theorem staticCause_of_not_wellFormed (hp : privCause w.kind i = none) (hi : i.wellFormed = false) : staticCause w i = some cField := by
  simp [staticCause, hp, hi]

/-- Stage 6 of R479 (R486). -/
theorem staticCause_of_not_within (hp : privCause w.kind i = none) (hi : i.wellFormed = true)
    (hr : (i.regs.all (fun u => u.within w.held)) = false) : staticCause w i = some cRange := by
  simp only [staticCause, hp, hi, hr, Bool.not_true, Bool.false_eq_true, if_false]

end

/-! ## The first checks of an access -/

/-- R503: alignment is checked first, in every space. -/
theorem laneAccess_misaligned (s : State) (wv : Wave) (sp : Space) {ea : DWord} {n : Nat} (k : AccKind) (h : ea.toNat % n ≠ 0) :
    laneAccess s wv sp ea n k = (s, .error ⟨cAlign, 0, ea⟩) := if_pos h

/-- R101, R102: a stash address that names no block's stash. -/
theorem laneAccess_beyond_stash (s : State) (wv : Wave) {ea : DWord} {n : Nat} (k : AccKind) (h : ea.toNat % n = 0)
    (hst : stashTarget s wv.blk ea.toNat n = none) : laneAccess s wv .stash ea n k = (s, .error ⟨cProtect, 11, ea⟩) := by
  simp [laneAccess, h, hst]

/-! ## Settling O27 -/

/-- Settles O27: what code decodes to runs in the frame, whose checks come in the order of R479. -/
theorem checks : Obligations.Checks := by
  refine ⟨⟨fun i s w wv c hi hcur hw hpart hc => ?refused, fun w i hk hi => staticCause_of_isSys hk hi,
      fun w i hk hi => staticCause_of_slotForbidden hk hi, fun w i hp hi => staticCause_of_not_wellFormed hp hi,
      fun w i hp hi hr => staticCause_of_not_within hp hi hr⟩,
    fun i s w wv hi hcur hw hpart => ?noLane,
    fun s wv sp ea n k h => laneAccess_misaligned s wv sp k h, fun s wv ea n k h hst => laneAccess_beyond_stash s wv k h hst⟩
  case refused =>
    obtain ⟨x, lit, hdec⟩ := hi
    exact (framed_of_decodeWord hdec).exec_refused hcur hw hpart hc
  case noLane =>
    obtain ⟨x, lit, hdec⟩ := hi
    exact (framed_of_decodeWord hdec).exec_noLane hcur hw hpart

end Sys2Proof.Machine

namespace Sys2Proof.Machine

/-! SUPPORT. Instructions that only write registers and predicates of their wave (R211): what one writes, from the operation its meaning
runs; and the words of those instructions (R175). -/

/-! ## What an instruction writes -/

/-- Instruction i, executed by a wave with no poison, makes the wave what g says, moves on, and changes nothing else. regStep, pairStep and
predStep are by definition its cases of one write. -/
def writesWave (i : Instr) (g : State → Wave → Wave) : Prop :=
  ∀ s w wv, runsNow s w wv i = true → wv.poison = [] → exec i s = .next (s.done w (g s wv) i)

/-- The effect of an instruction that writes registers and predicates, in a wave with no poison. -/
theorem aluWaveBy_clean {i : Instr} (reads : Wave → List Nat → List Nat) (dst : Option (RegField × Nat)) (f : State → Wave → List Nat → Wave)
    {s : State} {w : Nat} {wv : Wave} (hp : wv.poison = []) :
    aluWaveBy i reads dst f s w wv = s.done w (f s wv (lanesOf wv.part)) i := by
  cases dst <;> simp [aluWaveBy, hp, State.done]

theorem runAluBy_clean {i : Instr} (reads : Wave → List Nat → List Nat) (dst : Option (RegField × Nat)) (f : State → Wave → List Nat → Wave)
    {s : State} {w : Nat} {wv : Wave} (h : runsNow s w wv i = true) (hp : wv.poison = []) :
    runAluBy i reads dst f s = .next (s.done w (f s wv (lanesOf wv.part)) i) := by
  rw [runAluBy, runWave_runsNow _ h, aluWaveBy_clean _ _ _ hp]

section
variable {i : Instr} {srcs : List RegField} {reads : Wave → List Nat → List Nat} {dst : Option (RegField × Nat)}
variable {f : State → Wave → List Nat → Wave} {g : State → Wave → Wave}

theorem writesWave_of_runAlu (he : ∀ s, exec i s = runAlu i srcs dst f s) (hf : ∀ s w, f s w (lanesOf w.part) = g s w) : writesWave i g := by
  intro s w wv h hp
  rw [he, runAlu_clean srcs dst f h hp, hf]

theorem writesWave_of_runAluBy (he : ∀ s, exec i s = runAluBy i reads dst f s) (hf : ∀ s w, f s w (lanesOf w.part) = g s w) : writesWave i g := by
  intro s w wv h hp
  rw [he, runAluBy_clean reads dst f h hp, hf]

end

/-! ## The frames of one, two and three sources

Their first hypothesis is by reflexivity: the dispatcher's arm of an instruction, unfolded, runs the frame on an operation f. -/

/-- A write of registers depends on the values in the written lanes alone. -/
theorem Wave.wr_congr (w : Wave) (d : RegField) {ls : List Nat} {g h : Nat → Word} (hgh : ∀ l ∈ ls, g l = h l) : w.wr d ls g = w.wr d ls h := by
  cases hd : isScalar d with
  | true =>
    rw [Wave.wr_scalar hd, Wave.wr_scalar hd]
    cases ls with
    | nil => rfl
    | cons k ls => exact congrArg (w.wrS _) (hgh k List.mem_cons_self)
  | false =>
    rw [Wave.wr_vector hd, Wave.wr_vector hd]
    exact List.foldl_ext _ _ _ fun x k hk => congrArg (x.wrV d.toNat k) (hgh k hk)

section
variable {i : Instr} {o : VaFields} {g : State → Wave → Nat → Word} {g2 : State → Wave → Nat → DWord}

theorem regStep_alu1 {f : Word → Word} (he : ∀ s, exec i s = alu1 i o f s) (hf : ∀ s w l, f (w.rd o.a l) = g s w l) : regStep i o.d g :=
  writesWave_of_runAlu he fun s w => congrArg (w.wr o.d _) (funext (hf s w))

theorem regStep_alu2 {f : Word → Word → Word} (he : ∀ s, exec i s = alu2 i o f s) (hf : ∀ s w l, f (w.rd o.a l) (srcB o w l) = g s w l) :
    regStep i o.d g := writesWave_of_runAlu he fun s w => congrArg (w.wr o.d _) (funext (hf s w))

theorem regStep_alu2acc {f : Word → Word → Word → Word} (he : ∀ s, exec i s = alu2acc i o f s)
    (hf : ∀ s w l, f (w.rd o.a l) (srcB o w l) (w.rd o.d l) = g s w l) : regStep i o.d g :=
  writesWave_of_runAlu he fun s w => congrArg (w.wr o.d _) (funext (hf s w))

theorem regStep_alu3 {f : Word → Word → Word → Word} (he : ∀ s, exec i s = alu3 i o f s)
    (hf : ∀ s w l, f (w.rd o.a l) (w.rd o.b l) (w.rd o.xc l) = g s w l) : regStep i o.d g :=
  writesWave_of_runAlu he fun s w => congrArg (w.wr o.d _) (funext (hf s w))

theorem pairStep_alu64 {f : DWord → DWord → DWord} (he : ∀ s, exec i s = alu64 i o f s)
    (hf : ∀ s w l, f (w.rd64 o.a l) (srcB64 o w l) = g2 s w l) : pairStep i o.d g2 :=
  writesWave_of_runAlu he fun s w => congrArg (w.wr64 o.d _) (funext (hf s w))

end

/-! ## Words -/

/-- Instruction i has opcode op, and where `ok` fails it is not well-formed. -/
def hasForm (i : Instr) (op : Nat) (ok : Bool) : Prop := opcodeOf ((encode i).headD 0) = op ∧ (ok = false → i.wellFormed = false)

theorem opcodeOf_vaWords (op : BitVec 8) (o : VaFields) : opcodeOf ((vaWords op o).headD 0) = op.toNat := by
  have hhead : (vaWords op o).headD 0 = vaWord op o := by
    unfold vaWords withLit
    split <;> rfl
  rw [hhead, opcodeOf_vaWord]

/-- A VA instruction whose field rules give `ok` (R175, R189). -/
theorem hasForm_va (op : BitVec 8) {i : Instr} {o : VaFields} {ok : Prop} [Decidable ok] (he : encode i = vaWords op o) (hf : i.fieldsOk = true → ok) :
    hasForm i op.toNat (decide ok) :=
  ⟨he ▸ opcodeOf_vaWords op o, fun hok => Bool.eq_false_iff.mpr fun hwf => of_decide_eq_false hok (hf (fieldsOk_of_wellFormed hwf))⟩

section
variable {o : VaFields} {k : Nat}

/-- R175: the modifier of a two-source word. -/
theorem m_le_of_va2Ok (h : va2Ok o k = true) : o.m.toNat ≤ k := by
  simp only [va2Ok, Bool.and_eq_true, decide_eq_true_eq] at h
  obtain ⟨hm, -⟩ := h
  exact hm

/-- R175: the modifier of a one-source word. -/
theorem m_le_of_va1Ok (h : va1Ok o k = true) : o.m.toNat ≤ k := by
  simp only [va1Ok, Bool.and_eq_true, decide_eq_true_eq] at h
  obtain ⟨⟨hm, -⟩, -⟩ := h
  exact hm

theorem m_eq_zero_of_le (h : o.m.toNat ≤ 0) : o.m = 0 := BitVec.eq_of_toNat_eq (Nat.le_zero.mp h)

end

end Sys2Proof.Machine

namespace Sys2Proof.Machine

/-! PROOF. Integer arithmetic (R73, R216 to R222). -/

/-! ## Integers and words -/

/-- R73: the low n bits of an integer. -/
theorem wrapInt_eq (x : Int) (n : Nat) : wrapInt x n = (BitVec.ofInt n x).toNat := (BitVec.toNat_ofInt ..).symm

theorem ofNat_wrapInt (x : Int) (n : Nat) : BitVec.ofNat n (wrapInt x n) = BitVec.ofInt n x := by
  rw [wrapInt_eq, BitVec.ofNat_toNat, BitVec.setWidth_eq]

theorem wordOfInt_eq (x : Int) : wordOfInt x = BitVec.ofInt 32 x := ofNat_wrapInt x 32

theorem ofInt_toNat {n : Nat} (x : BitVec n) : BitVec.ofInt n x.toNat = x := by
  rw [BitVec.ofInt_natCast, BitVec.ofNat_toNat, BitVec.setWidth_eq]

/-- R73: a clamp is a maximum of a minimum. -/
theorem clampInt_eq (x : Int) {lo hi : Int} (h : lo ≤ hi) : clampInt x lo hi = max lo (min x hi) := by
  unfold clampInt
  omega

/-! ## Sums and differences (R216, R217) -/

section
variable {n : Nat} {m : BitVec 2} (sub : Bool) (a b : BitVec n)

theorem addSub_wrap (hm : m = 0) : BitVec.ofNat n (addSub sub m n a.toNat b.toNat) = if sub then a - b else a + b := by
  subst hm
  refine (ofNat_wrapInt _ n).trans ?_
  cases sub
  · exact (BitVec.ofInt_add ..).trans (by rw [ofInt_toNat, ofInt_toNat]; rfl)
  · refine (congrArg _ (Int.sub_eq_add_neg ..)).trans ((BitVec.ofInt_add ..).trans ?_)
    rw [BitVec.ofInt_neg, ofInt_toNat, ofInt_toNat, ← BitVec.sub_eq_add_neg]
    rfl

theorem addSub_signed (hm : m = 1) : BitVec.ofNat n (addSub sub m n a.toNat b.toNat) =
    BitVec.ofInt n (max (-2 ^ (n - 1)) (min (if sub then a.toInt - b.toInt else a.toInt + b.toInt) (2 ^ (n - 1) - 1))) := by
  subst hm
  refine (ofNat_wrapInt _ n).trans ?_
  have hpos : (0 : Int) < 2 ^ (n - 1) := by positivity
  rw [clampInt_eq _ (by push_cast; omega), sextNat_toNat, sextNat_toNat]
  push_cast
  rfl

theorem addSub_unsigned (hm : m = 2) : BitVec.ofNat n (addSub sub m n a.toNat b.toNat) =
    BitVec.ofInt n (max 0 (min (if sub then (a.toNat : Int) - b.toNat else a.toNat + b.toNat) (2 ^ n - 1))) := by
  subst hm
  refine (ofNat_wrapInt _ n).trans ?_
  have hpos : (0 : Int) < 2 ^ n := by positivity
  rw [clampInt_eq _ (by push_cast; omega)]
  push_cast
  rfl

end

/-- IADD, ISUB, IADD64 and ISUB64, from what addSub is under their modifier. -/
theorem addSub_steps {o : VaFields} {f : Bool → Word → Word → Word} {g : Bool → DWord → DWord → DWord}
    (hf : ∀ sub a b, BitVec.ofNat 32 (addSub sub o.m 32 a.toNat b.toNat) = f sub a b)
    (hg : ∀ sub a b, BitVec.ofNat 64 (addSub sub o.m 64 a.toNat b.toNat) = g sub a b) :
    regStep (.iadd o) o.d (fun _ w l => f false (w.rd o.a l) (srcB o w l)) ∧ regStep (.isub o) o.d (fun _ w l => f true (w.rd o.a l) (srcB o w l)) ∧
      pairStep (.iadd64 o) o.d (fun _ w l => g false (w.rd64 o.a l) (srcB64 o w l)) ∧
      pairStep (.isub64 o) o.d (fun _ w l => g true (w.rd64 o.a l) (srcB64 o w l)) :=
  ⟨regStep_alu2 (fun s => .refl (execIadd o s)) fun _ _ _ => hf .., regStep_alu2 (fun s => .refl (execIsub o s)) fun _ _ _ => hf ..,
    pairStep_alu64 (fun s => .refl (execIadd64 o s)) fun _ _ _ => hg .., pairStep_alu64 (fun s => .refl (execIsub64 o s)) fun _ _ _ => hg ..⟩

/-! ## Products (R218, R219) -/

/-- A word extended to 64 bits under the signedness M selects. -/
def wideWord (m : BitVec 2) (x : Word) : DWord := if m = 0 then x.signExtend 64 else x.setWidth 64

theorem ofInt_signed (m : BitVec 2) (x : Word) : BitVec.ofInt 64 (signed m x) = wideWord m x := by
  unfold signed wideWord
  split
  · rfl
  · rw [BitVec.ofInt_natCast, BitVec.ofNat_toNat]

theorem dwordOfInt_signed_mul (m : BitVec 2) (a b : Word) : dwordOfInt (signed m a * signed m b) = wideWord m a * wideWord m b := by
  rw [dwordOfInt_eq, BitVec.ofInt_mul, ofInt_signed, ofInt_signed]

/-- The high word of an integer of 64 bits. -/
theorem wordOfInt_div (x : Int) : wordOfInt (x / ((2 ^ 32 : Nat) : Int)) = (BitVec.ofInt 64 x).extractLsb' 32 32 := by
  apply BitVec.eq_of_toNat_eq
  rw [wordOfInt_eq, BitVec.extractLsb'_toNat, BitVec.toNat_ofInt, BitVec.toNat_ofInt, Nat.shiftRight_eq_div_pow]
  omega

theorem wordOfInt_signed_mulh (m : BitVec 2) (a b : Word) :
    wordOfInt (signed m a * signed m b / ((2 ^ 32 : Nat) : Int)) = (wideWord m a * wideWord m b).extractLsb' 32 32 := by
  rw [wordOfInt_div, BitVec.ofInt_mul, ofInt_signed, ofInt_signed]

/-! ## Order and absolute value (R221) -/

/-- At most, under the signedness M selects. -/
def leWord (m : BitVec 2) (a b : Word) : Bool := if m = 0 then a.sle b else a.ule b

theorem signed_lt_iff (m : BitVec 2) (a b : Word) : signed m a < signed m b ↔ leWord m b a = false := by
  unfold signed leWord
  split <;> simp [BitVec.sle_eq_decide, BitVec.ule_eq_decide]

theorem ite_signed_lt (m : BitVec 2) (a b x y : Word) : (if signed m a < signed m b then x else y) = if leWord m b a then y else x := by
  cases h : leWord m b a <;> simp [signed_lt_iff, h]

theorem wordOfInt_natAbs (a : Word) : wordOfInt a.toInt.natAbs = if a.msb then -a else a := by
  rw [wordOfInt_eq, BitVec.msb_eq_toInt]
  by_cases h : a.toInt < 0
  · rw [show (a.toInt.natAbs : Int) = -a.toInt by omega, BitVec.ofInt_neg, BitVec.ofInt_toInt]
    simp [h]
  · rw [show (a.toInt.natAbs : Int) = a.toInt by omega, BitVec.ofInt_toInt]
    simp [h]

/-! ## Quotient and remainder (R73, R222) -/

theorem wordOfInt_tdiv (a b : Word) : wordOfInt (a.toInt.tdiv b.toInt) = a.sdiv b := by
  apply BitVec.eq_of_toInt_eq
  rw [wordOfInt_eq, BitVec.toInt_ofInt, BitVec.toInt_sdiv]

theorem wordOfInt_tmod (a b : Word) : wordOfInt (a.toInt.tmod b.toInt) = a.srem b := by
  rw [wordOfInt_eq, ← BitVec.toInt_srem, BitVec.ofInt_toInt]

theorem divW_eq (m : BitVec 2) (a b : Word) : divW m a b = if b = 0 then 0xFFFFFFFF else if m = 0 then a.sdiv b else a / b := by
  unfold divW
  rw [wordOfInt_tdiv, ← BitVec.udiv_def]
  split <;> rfl

theorem remW_eq (m : BitVec 2) (a b : Word) : remW m a b = if b = 0 then a else if m = 0 then a.srem b else a % b := by
  unfold remW
  rw [wordOfInt_tmod, ← BitVec.umod_def]

/-! ## Settling O10 -/

/-- Settles O10: sums by the mode of addSub, products as words extended to 64 bits, orders and quotients by the words' own operations, and the
words' opcodes and modifiers by their layout. -/
theorem intArithmetic : Obligations.IntArithmetic := by
  refine ⟨fun o => ⟨fun hm => ?wrap, fun hm => ?signed, fun hm => ?unsigned⟩, fun o => ?products, fun o => ?order, fun o => ?forms⟩
  case wrap => exact (addSub_steps (fun sub a b => addSub_wrap sub a b hm) (fun sub a b => addSub_wrap sub a b hm) :)
  case signed => exact (addSub_steps (fun sub a b => addSub_signed sub a b hm) (fun sub a b => addSub_signed sub a b hm) :)
  case unsigned => exact (addSub_steps (fun sub a b => addSub_unsigned sub a b hm) (fun sub a b => addSub_unsigned sub a b hm) :)
  case products =>
    exact ⟨regStep_alu2 (fun s => .refl (execImul o s)) fun _ _ _ => rfl,
      regStep_alu2 (fun s => .refl (execImulh o s)) fun _ _ _ => wordOfInt_signed_mulh ..,
      regStep_alu2acc (fun s => .refl (execImad o s)) fun _ _ _ => rfl,
      writesWave_of_runAlu (fun s => .refl (execImulw o s)) fun _ w => congrArg (w.wr64 o.d _) (funext fun _ => dwordOfInt_signed_mul ..),
      writesWave_of_runAlu (fun s => .refl (execImadw o s)) fun _ w => congrArg (w.wr64 o.d _) (funext fun _ =>
        congrArg (· + _) (dwordOfInt_signed_mul ..)),
      writesWave_of_runAlu (fun s => .refl (execLea o s)) fun _ _ => rfl⟩
  case order =>
    exact ⟨regStep_alu2 (fun s => .refl (execImin o s)) fun _ _ _ => ite_signed_lt ..,
      regStep_alu2 (fun s => .refl (execImax o s)) fun _ _ _ => ite_signed_lt ..,
      regStep_alu1 (fun s => .refl (execIabs o s)) fun _ _ _ => by rw [wordOfInt_natAbs]; simp only [Bool.and_eq_true, decide_eq_true_eq],
      regStep_alu2 (fun s => .refl (execIdiv o s)) fun _ _ _ => divW_eq ..,
      regStep_alu2 (fun s => .refl (execIrem o s)) fun _ _ _ => remW_eq ..⟩
  case forms =>
    have hle {k : Nat} (h : va2Ok o k = true) : o.m.toNat < k + 1 := Nat.lt_succ_of_le (m_le_of_va2Ok h)
    have hzero (h : va2Ok o 0 = true) : o.m.toNat = 0 := Nat.le_zero.mp (m_le_of_va2Ok h)
    exact ⟨hasForm_va 0x02 rfl hle, hasForm_va 0x03 rfl hle, hasForm_va 0x04 rfl hzero, hasForm_va 0x05 rfl hle, hasForm_va 0x06 rfl hzero,
      hasForm_va 0x07 rfl hle, hasForm_va 0x08 rfl hle, hasForm_va 0x09 rfl hle, hasForm_va 0x0A rfl hle, ⟨opcodeOf_vaWords 0x0B o, nofun⟩,
      hasForm_va 0x0C rfl hle, hasForm_va 0x0D rfl hle, hasForm_va 0x0E rfl fun h => Nat.lt_succ_of_le (m_le_of_va1Ok h),
      hasForm_va 0x0F rfl hle, hasForm_va 0x10 rfl hle⟩

end Sys2Proof.Machine

namespace Sys2Proof.Machine

/-! PROOF. Logic and shifts (R223 to R226). -/

/-! ## Words made bit by bit -/

theorem wordBits_eq : wordBits = List.range 32 := by
  rw [wordBits, natsFrom_eq_range', List.range_eq_range']

theorem getLsbD_foldl_bits (f : Nat → Bool) {k : Nat} (hk : k < 32) (ks : List Nat) (x : Word) :
    (ks.foldl (fun x j => if f j then x ||| BitVec.ofNat 32 (2 ^ j) else x) x).getLsbD k = (x.getLsbD k || (decide (k ∈ ks) && f k)) := by
  induction ks generalizing x with
  | nil => simp
  | cons j ks ih =>
    have hbit : (BitVec.ofNat 32 (2 ^ j)).getLsbD k = decide (k = j) := by
      rw [BitVec.getLsbD_ofNat, Nat.testBit_two_pow]
      simp [hk, eq_comm]
    have hhead : (if f j then x ||| BitVec.ofNat 32 (2 ^ j) else x).getLsbD k = (x.getLsbD k || (decide (k = j) && f j)) := by
      cases f j
      · simp
      · rw [if_pos rfl, BitVec.getLsbD_or, hbit, Bool.and_true]
    rw [List.foldl_cons, ih, hhead]
    by_cases hj : k = j
    · subst hj
      cases f k <;> simp
    · simp [hj]

theorem getLsbD_wordOfBits (f : Nat → Bool) {k : Nat} (hk : k < 32) : (wordOfBits f).getLsbD k = f k := by
  rw [wordOfBits, getLsbD_foldl_bits f hk, wordBits_eq]
  simp [hk]

theorem bit1_eq (b : Bool) : bit1 b = b.toNat := by cases b <;> rfl

/-! ## Words of X-forms (R178) -/

/-- R178: an X-form has its literal. -/
theorem xresOk_isSome {o : VaFields} (h : o.xresOk = true) : o.lit.isSome = true := by
  simp only [VaFields.xresOk, Bool.and_eq_true] at h
  obtain ⟨hlit, -⟩ := h
  exact hlit

/-- R178: an X-form that uses no IMM8 and no predicate. -/
theorem xform_of_fieldsOk {o : VaFields} {c : Bool} (h : (c && o.xresOk && decide (o.ximm = 0) && decide (o.xp = 0) && !o.xpn) = true) :
    c = true ∧ o.lit.isSome = true ∧ o.ximm = 0 ∧ o.xp = 0 ∧ o.xpn = false := by
  simp only [Bool.and_eq_true, decide_eq_true_eq, Bool.not_eq_true'] at h
  obtain ⟨⟨⟨⟨hc, hlit⟩, himm⟩, hxp⟩, hxpn⟩ := h
  exact ⟨hc, xresOk_isSome hlit, himm, hxp, hxpn⟩

theorem lop3_of_fieldsOk {o : VaFields} (h : (decide (o.m = 0) && o.xresOk && decide (o.xp = 0) && !o.xpn) = true) :
    o.m = 0 ∧ o.lit.isSome = true ∧ o.xp = 0 ∧ o.xpn = false := by
  simp only [Bool.and_eq_true, decide_eq_true_eq, Bool.not_eq_true'] at h
  obtain ⟨⟨⟨hm, hlit⟩, hxp⟩, hxpn⟩ := h
  exact ⟨hm, xresOk_isSome hlit, hxp, hxpn⟩

/-! ## Settling O11 -/

/-- Settles O11: each is the word's own operation; LOP3 is made bit by bit. -/
theorem logic : Obligations.Logic := by
  refine ⟨fun o => ?results, fun o => ?forms, fun t a b c k hk => ?bits⟩
  case results =>
    exact ⟨regStep_alu2 (fun s => .refl (execAnd o s)) fun _ _ _ => rfl,
      regStep_alu2 (fun s => .refl (execOr o s)) fun _ _ _ => rfl,
      regStep_alu2 (fun s => .refl (execXor o s)) fun _ _ _ => rfl,
      regStep_alu2 (fun s => .refl (execAndn o s)) fun _ _ _ => rfl,
      regStep_alu3 (fun s => .refl (execLop3 o s)) fun _ _ _ => rfl⟩
  case forms =>
    have hzero (h : va2Ok o 0 = true) : o.m = 0 := m_eq_zero_of_le (m_le_of_va2Ok h)
    exact ⟨hasForm_va 0x11 rfl hzero, hasForm_va 0x12 rfl hzero, hasForm_va 0x13 rfl hzero, hasForm_va 0x14 rfl hzero, hasForm_va 0x15 rfl lop3_of_fieldsOk⟩
  case bits =>
    rw [lop3W, getLsbD_wordOfBits _ hk]
    simp only [bit1_eq]

/-! ## Shifts (R225, R226) -/

section
variable (a b : Word)

theorem shl_saturates : (if b.toNat < 32 then a <<< b.toNat else 0) = a <<< b.toNat := by
  split
  · rfl
  · exact (BitVec.shiftLeft_eq_zero (by omega)).symm

theorem shrl_saturates : (if b.toNat < 32 then a >>> b.toNat else 0) = a >>> b.toNat := by
  split
  · rfl
  · exact (BitVec.ushiftRight_eq_zero (by omega)).symm

/-- A bit of an arithmetic shift: past the word, its sign. -/
theorem getLsbD_sshiftRight_min (p : Nat) {k : Nat} (hk : k < 32) : (a.sshiftRight p).getLsbD k = a.getLsbD (min (p + k) 31) := by
  rw [BitVec.getLsbD_sshiftRight]
  by_cases h : p + k < 32
  · rw [if_pos h, Nat.min_eq_left (by omega)]
    simp [hk]
  · rw [if_neg h, Nat.min_eq_right (by omega), BitVec.msb_eq_getLsbD_last]
    simp [hk]

theorem shra_saturates (n : Nat) : a.sshiftRight (min n 31) = a.sshiftRight n := by
  apply BitVec.eq_of_getLsbD_eq
  intro k hk
  rw [getLsbD_sshiftRight_min a _ hk, getLsbD_sshiftRight_min a _ hk]
  congr 1
  omega

/-- R226: the low or the high word of a pair shifted by 0 to 31. -/
theorem funnelW_eq (m : BitVec 2) (c : Word) : funnelW m a b c =
    if m = 0 then (((a ++ b : DWord) >>> (c.toNat % 32)).setWidth 32 : Word) else ((a ++ b : DWord) <<< (c.toNat % 32)).extractLsb' 32 32 := by
  have hx : a.toNat * 2 ^ 32 + b.toNat = (a ++ b : DWord).toNat := by
    rw [BitVec.toNat_append, ← Nat.shiftLeft_add_eq_or_of_lt b.isLt, Nat.shiftLeft_eq]
  unfold funnelW
  simp only [hx]
  split
  · apply BitVec.eq_of_toNat_eq
    rw [BitVec.toNat_ofNat, BitVec.toNat_setWidth, BitVec.toNat_ushiftRight, Nat.shiftRight_eq_div_pow]
  · apply BitVec.eq_of_toNat_eq
    rw [BitVec.toNat_ofNat, BitVec.extractLsb'_toNat, BitVec.toNat_shiftLeft, Nat.shiftRight_eq_div_pow, Nat.shiftLeft_eq]
    generalize (a ++ b : DWord).toNat * 2 ^ (c.toNat % 32) = y
    omega

end

/-! ## Settling O12 -/

/-- Settles O12: a shift of 32 or more leaves what the shift by its whole amount leaves. -/
theorem shifts : Obligations.Shifts := by
  intro o
  refine ⟨regStep_alu2 (fun s => .refl (execShl o s)) fun _ _ _ => shl_saturates ..,
    regStep_alu2 (fun s => .refl (execShrl o s)) fun _ _ _ => shrl_saturates ..,
    regStep_alu2 (fun s => .refl (execShra o s)) fun _ _ _ => shra_saturates ..,
    regStep_alu2 (fun s => .refl (execRotl o s)) fun _ _ _ => rfl,
    regStep_alu3 (fun s => .refl (execFunnel o s)) fun _ _ _ => funnelW_eq .., ?forms⟩
  case forms =>
    have hzero (h : va2Ok o 0 = true) : o.m = 0 := m_eq_zero_of_le (m_le_of_va2Ok h)
    refine ⟨hasForm_va 0x16 rfl hzero, hasForm_va 0x17 rfl hzero, hasForm_va 0x18 rfl hzero, hasForm_va 0x19 rfl hzero, hasForm_va 0x1A rfl fun h => ?_⟩
    obtain ⟨hm, hrest⟩ := xform_of_fieldsOk h
    exact ⟨Nat.lt_succ_of_le (of_decide_eq_true hm), hrest⟩

end Sys2Proof.Machine

namespace Sys2Proof.Machine

/-! PROOF. Bit fields, counts and byte permutation, bit by bit (R227 to R229). -/

/-! ## Bit fields (R227) -/

theorem fieldSpec_eq (x : Word) : fieldSpec x = (x.toNat % 256, min (x.toNat / 256 % 256) 32) := by
  simp [fieldSpec, bitsOf, Nat.shiftRight_eq_div_pow]

section
variable (a b x : Word) {p n : Nat}

theorem bfxW_unsigned (h : fieldSpec x = (p, n)) : bfxW 0 a x = BitVec.ofNat 32 (a.toNat / 2 ^ p % 2 ^ n) := by
  rw [bfxW, h]
  by_cases hn : n = 0
  · simp [hn, Nat.mod_one]
  · simp only [hn, if_false]
    rfl

theorem bfxW_signed (h : fieldSpec x = (p, n)) : bfxW 1 a x = if n = 0 then 0 else ((a.sshiftRight p).signExtend n).signExtend 32 := by
  have hshift : a.toInt / ((2 ^ p : Nat) : Int) = (a.sshiftRight p).toInt := by rw [BitVec.toInt_sshiftRight, Int.shiftRight_eq_div_pow]
  rw [bfxW, h]
  by_cases hn : n = 0
  · simp [hn]
  · simp only [hn, if_false, if_true]
    rw [hshift, wrapInt_eq, sextNat_toNat, wordOfInt_eq]
    rfl

theorem getLsbD_bfxW_unsigned (h : fieldSpec x = (p, n)) {k : Nat} (hk : k < 32) :
    (bfxW 0 a x).getLsbD k = (decide (k < n) && a.getLsbD (p + k)) := by
  rw [bfxW_unsigned a x h, BitVec.getLsbD_ofNat, Nat.testBit_mod_two_pow, Nat.testBit_div_two_pow, BitVec.testBit_toNat, Nat.add_comm k p]
  simp [hk]

theorem getLsbD_bfxW_signed (h : fieldSpec x = (p, n)) (hn : n ≤ 32) {k : Nat} (hk : k < 32) :
    (bfxW 1 a x).getLsbD k = (decide (n ≠ 0) && a.getLsbD (min (p + min k (n - 1)) 31)) := by
  rw [bfxW_signed a x h]
  by_cases hz : n = 0
  · simp [hz]
  have hbit {j : Nat} (hj : j < n) : ((a.sshiftRight p).signExtend n).getLsbD j = a.getLsbD (min (p + j) 31) := by
    rw [BitVec.getLsbD_signExtend, if_pos (by omega), getLsbD_sshiftRight_min a p (by omega)]
    simp [hj]
  rw [if_neg hz, BitVec.getLsbD_signExtend]
  by_cases hkn : k < n
  · rw [if_pos hkn, hbit hkn, Nat.min_eq_left (a := k) (by omega)]
    simp [hk, hz]
  · rw [if_neg hkn, BitVec.msb_eq_getLsbD_last, hbit (by omega), Nat.min_eq_right (a := k) (by omega)]
    simp [hk, hz]

theorem getLsbD_bfiW (h : fieldSpec x = (p, n)) {k : Nat} (hk : k < 32) :
    (bfiW a b x).getLsbD k = if p ≤ k ∧ k < p + n then b.getLsbD (k - p) else a.getLsbD k := by
  have hmask : (BitVec.ofNat 32 ((2 ^ n - 1) * 2 ^ p)).getLsbD k = decide (p ≤ k ∧ k < p + n) := by
    rw [BitVec.getLsbD_ofNat, Nat.testBit_mul_two_pow, Nat.testBit_two_pow_sub_one]
    simp only [hk, decide_true, Bool.true_and, ← Bool.decide_and]
    exact decide_eq_decide.mpr (by omega)
  have hfield : (BitVec.ofNat 32 (b.toNat * 2 ^ p)).getLsbD k = (decide (p ≤ k) && b.getLsbD (k - p)) := by
    rw [BitVec.getLsbD_ofNat, Nat.testBit_mul_two_pow, BitVec.testBit_toNat]
    simp [hk]
  rw [bfiW, h]
  simp only [BitVec.getLsbD_or, BitVec.getLsbD_and, BitVec.getLsbD_not, hmask, hfield, hk]
  by_cases hin : p ≤ k ∧ k < p + n
  · simp [hin]
  · simp [hin]

end

/-! ## Counts (R228) -/

section
variable {a : Word}

theorem popcW_toNat (a : Word) : (popcW a).toNat = ((List.range 32).filter (fun j => a.getLsbD j)).length := by
  have hle := List.length_filter_le (fun j => a.getLsbD j) (List.range 32)
  rw [List.length_range] at hle
  rw [popcW, wordBits_eq, BitVec.toNat_ofNat, Nat.mod_eq_of_lt (by omega)]

theorem clzW_zero : clzW 0 = 32 := rfl

theorem log2_lt (h : a ≠ 0) : a.toNat.log2 < 32 := (Nat.log2_lt (BitVec.toNat_ne_iff_ne.mpr h)).mpr a.isLt

theorem clzW_toNat (h : a ≠ 0) : (clzW a).toNat = 31 - a.toNat.log2 := by
  rw [clzW, if_neg h, BitVec.toNat_ofNat, Nat.mod_eq_of_lt (by omega)]

theorem clzW_le (a : Word) : (clzW a).toNat ≤ 32 := by
  by_cases h : a = 0
  · rw [h, clzW_zero]
    decide
  · rw [clzW_toNat h]
    omega

/-- Above its highest 1 bit a word is zero. -/
theorem getLsbD_of_clzW_le (a : Word) {j : Nat} (hj : 32 - (clzW a).toNat ≤ j) : a.getLsbD j = false := by
  by_cases h : a = 0
  · simp [h]
  · have hlog := log2_lt h
    rw [clzW_toNat h] at hj
    rw [← BitVec.testBit_toNat]
    exact Nat.testBit_lt_two_pow (Nat.lt_of_lt_of_le Nat.lt_log2_self (Nat.pow_le_pow_right (by decide) (by omega)))

theorem getLsbD_clzW (h : a ≠ 0) : a.getLsbD (31 - (clzW a).toNat) = true := by
  have hlog := log2_lt h
  rw [clzW_toNat h, ← BitVec.testBit_toNat, show 31 - (31 - a.toNat.log2) = a.toNat.log2 by omega]
  exact Nat.testBit_log2 (BitVec.toNat_ne_iff_ne.mpr h)

/-- The lowest 1 bit, or 32 where there is none. -/
theorem ffsW_cases (a : Word) : (∃ k < 32, (ffsW a).toNat = k ∧ a.getLsbD k = true ∧ ∀ j < k, a.getLsbD j = false) ∨
    (ffsW a).toNat = 32 ∧ ∀ j < 32, a.getLsbD j = false := by
  rw [ffsW, wordBits_eq]
  cases hfind : (List.range 32).find? (fun k => a.getLsbD k) with
  | some k =>
    obtain ⟨hbit, hk, hbelow⟩ := List.find?_range_eq_some.mp hfind
    have hlt := List.mem_range.mp hk
    exact .inl ⟨k, hlt, by rw [BitVec.toNat_ofNat, Nat.mod_eq_of_lt (by omega)], hbit, by simpa using hbelow⟩
  | none => exact .inr ⟨rfl, by simpa using List.find?_range_eq_none.mp hfind⟩

theorem eq_zero_of_bits (h : ∀ j < 32, a.getLsbD j = false) : a = 0 :=
  BitVec.eq_of_getLsbD_eq fun j hj => (h j hj).trans BitVec.getLsbD_zero.symm

theorem ffsW_le (a : Word) : (ffsW a).toNat ≤ 32 := by
  rcases ffsW_cases a with ⟨k, hk, heq, -⟩ | ⟨heq, -⟩ <;> omega

theorem getLsbD_of_lt_ffsW (a : Word) {j : Nat} (hj : j < (ffsW a).toNat) : a.getLsbD j = false := by
  rcases ffsW_cases a with ⟨k, -, heq, -, hbelow⟩ | ⟨heq, hnone⟩
  · exact hbelow j (heq ▸ hj)
  · exact hnone j (heq ▸ hj)

theorem getLsbD_ffsW (h : a ≠ 0) : a.getLsbD (ffsW a).toNat = true := by
  rcases ffsW_cases a with ⟨k, -, heq, hbit, -⟩ | ⟨-, hnone⟩
  · rw [heq, hbit]
  · exact absurd (eq_zero_of_bits hnone) h

theorem ffsW_zero : (ffsW 0).toNat = 32 := by
  rcases ffsW_cases 0 with ⟨k, -, -, hbit, -⟩ | ⟨heq, -⟩
  · simp at hbit
  · exact heq

end

/-! ## Byte permutation (R229) -/

/-- A bit of a byte of a number. -/
theorem testBit_byte (x q : Nat) {r : Nat} (hr : r < 8) : (x / 2 ^ (8 * q) % 256).testBit r = x.testBit (8 * q + r) := by
  rw [show 256 = 2 ^ 8 from rfl, Nat.testBit_mod_two_pow, Nat.testBit_div_two_pow, Nat.add_comm r]
  simp [hr]

/-- A bit of four bytes in one number. -/
theorem testBit_bytes {f : Nat → Nat} (hf : ∀ q, f q < 256) {k : Nat} (hk : k < 32) :
    (f 0 + f 1 * 2 ^ 8 + f 2 * 2 ^ 16 + f 3 * 2 ^ 24).testBit k = (f (k / 8)).testBit (k % 8) := by
  have h0 := hf 0
  have h1 := hf 1
  have h2 := hf 2
  have h3 := hf 3
  have hbyte : (f 0 + f 1 * 2 ^ 8 + f 2 * 2 ^ 16 + f 3 * 2 ^ 24) / 2 ^ (8 * (k / 8)) % 256 = f (k / 8) := by
    have hq : k / 8 < 4 := by omega
    interval_cases k / 8 <;> omega
  rw [← hbyte, testBit_byte _ _ (by omega), Nat.div_add_mod]

/-- The byte of PERMB that a selector of four bits takes from eight bytes. -/
def permByte (x sel : Nat) : Nat :=
  let y := x / 2 ^ (8 * (sel % 8)) % 256
  if 8 ≤ sel then (if 128 ≤ y then 255 else 0) else y

theorem permByte_lt (x sel : Nat) : permByte x sel < 256 := by
  unfold permByte
  dsimp only
  split
  · split <;> decide
  · exact Nat.mod_lt _ (by decide)

/-- A byte taken as it is, or eight copies of its sign. -/
theorem testBit_permByte (x sel : Nat) {r : Nat} (hr : r < 8) : (permByte x sel).testBit r = x.testBit (8 * (sel % 8) + if 8 ≤ sel then 7 else r) := by
  unfold permByte
  by_cases hsel : 8 ≤ sel
  · have hy : x / 2 ^ (8 * (sel % 8)) % 256 < 256 := Nat.mod_lt _ (by decide)
    rw [if_pos hsel, if_pos hsel, ← testBit_byte x _ (by decide), Nat.testBit_eq_decide_div_mod_eq (i := 7)]
    by_cases hsign : 128 ≤ x / 2 ^ (8 * (sel % 8)) % 256
    · rw [if_pos hsign, show 255 = 2 ^ 8 - 1 from rfl, Nat.testBit_two_pow_sub_one, decide_eq_decide]
      omega
    · rw [if_neg hsign, Nat.zero_testBit, eq_comm, decide_eq_false_iff_not]
      omega
  · rw [if_neg hsel, if_neg hsel, testBit_byte x _ hr]

/-- The selector of byte q. -/
def permSel (x : Word) (q : Nat) : Nat := x.toNat / 2 ^ (4 * q) % 16

theorem permbW_eq (a b x : Word) : permbW a b x = BitVec.ofNat 32 (permByte (b ++ a : DWord).toNat (permSel x 0) +
    permByte (b ++ a : DWord).toNat (permSel x 1) * 2 ^ 8 + permByte (b ++ a : DWord).toNat (permSel x 2) * 2 ^ 16 +
    permByte (b ++ a : DWord).toNat (permSel x 3) * 2 ^ 24) := by
  have hx : (b ++ a : DWord).toNat = a.toNat + b.toNat * 2 ^ 32 := by
    rw [BitVec.toNat_append, ← Nat.shiftLeft_add_eq_or_of_lt a.isLt, Nat.shiftLeft_eq, Nat.add_comm]
  have hsel (q : Nat) : bitsOf x.toNat (4 * q + 3) (4 * q) = permSel x q := by
    rw [bitsOf, Nat.shiftRight_eq_div_pow, show 4 * q + 3 + 1 - 4 * q = 4 by omega]
    rfl
  simp only [hx, ← hsel]
  rfl

theorem getLsbD_permbW (a b x : Word) {k : Nat} (hk : k < 32) : (permbW a b x).getLsbD k =
    (b ++ a : DWord).getLsbD (8 * (permSel x (k / 8) % 8) + if 8 ≤ permSel x (k / 8) then 7 else k % 8) := by
  rw [permbW_eq, BitVec.getLsbD_ofNat, testBit_bytes (f := fun q => permByte (b ++ a : DWord).toNat (permSel x q)) (fun q => permByte_lt ..) hk,
    testBit_permByte _ _ (Nat.mod_lt _ (by decide)), BitVec.testBit_toNat]
  simp [hk]

/-! ## Settling O13 -/

/-- Settles O13: the results, then the words, then each result's bits. -/
theorem bitFields : Obligations.BitFields := by
  refine ⟨fun o => ?results, fun o => ?forms, fun a b x k hk => ?bits⟩
  case results =>
    exact ⟨regStep_alu2 (fun s => .refl (execBfx o s)) fun _ _ _ => rfl,
      regStep_alu3 (fun s => .refl (execBfi o s)) fun _ _ _ => rfl,
      regStep_alu1 (fun s => .refl (execPopc o s)) fun _ _ _ => rfl,
      regStep_alu1 (fun s => .refl (execClz o s)) fun _ _ _ => rfl,
      regStep_alu1 (fun s => .refl (execBrev o s)) fun _ _ _ => rfl,
      regStep_alu1 (fun s => .refl (execFfs o s)) fun _ _ _ => rfl,
      regStep_alu3 (fun s => .refl (execPermb o s)) fun _ _ _ => rfl⟩
  case forms =>
    have hzero (h : va1Ok o 0 = true) : o.m = 0 := m_eq_zero_of_le (m_le_of_va1Ok h)
    have hx (h : (decide (o.m = 0) && o.xresOk && decide (o.ximm = 0) && decide (o.xp = 0) && !o.xpn) = true) :
        o.m = 0 ∧ o.lit.isSome = true ∧ o.ximm = 0 ∧ o.xp = 0 ∧ o.xpn = false := by
      obtain ⟨hm, hrest⟩ := xform_of_fieldsOk h
      exact ⟨of_decide_eq_true hm, hrest⟩
    exact ⟨hasForm_va 0x1B rfl fun h => Nat.lt_succ_of_le (m_le_of_va2Ok h), hasForm_va 0x1C rfl hx, hasForm_va 0x1D rfl hzero,
      hasForm_va 0x1E rfl hzero, hasForm_va 0x1F rfl hzero, hasForm_va 0x20 rfl hzero, hasForm_va 0x21 rfl hx⟩
  case bits =>
    have hspec := fieldSpec_eq x
    exact ⟨getLsbD_bfxW_unsigned a x hspec hk, getLsbD_bfxW_signed a x hspec (Nat.min_le_right ..) hk, getLsbD_bfiW a b x hspec hk,
      getLsbD_wordOfBits _ hk, popcW_toNat a, clzW_le a, fun j _ hj => getLsbD_of_clzW_le a hj, getLsbD_clzW, ffsW_le a,
      fun j hj => getLsbD_of_lt_ffsW a hj, getLsbD_ffsW, fun h => ⟨h ▸ ffsW_zero, h ▸ rfl⟩, getLsbD_permbW a b x hk⟩

end Sys2Proof.Machine

namespace Sys2Proof.Machine

/-! PROOF. The frame of register and predicate instructions (R168, R211). -/

/-! ## Settling O9 -/

/-- A wave past its instruction differs from it in its position and its replay alone. -/
theorem Wave.advance_sameControl (x : Wave) (n : Nat) : sameControl x (x.advance n) :=
  ⟨rfl, rfl, rfl, rfl, rfl, rfl, rfl, rfl, rfl, rfl, rfl, rfl⟩

theorem Wave.nextPos_of_no_replay {x : Wave} (n : Nat) (h : x.replay = none) : x.nextPos n = x.pos.after n := by rw [Wave.nextPos, h]

/-- Settles O9: the table of waves has one entry more or another one, and that wave has moved on. -/
theorem doneFrame : Obligations.DoneFrame := by
  intro s w x i
  exact ⟨fun _ => rfl, Tbl.get_set_same .., fun v hv => Tbl.get_set_ne _ _ hv, rfl, fun _ _ => rfl, fun _ _ => rfl,
    x.advance_sameControl _, x.nextPos_of_no_replay _⟩

end Sys2Proof.Machine

namespace Sys2Proof.Machine

/-! PROOF. Floating point, conversions and dot products (R230 to R238). -/

/-! ## Settling O16 -/

/-- R235, R236: a conversion reads and writes as many registers as its code says. -/
theorem exec_cvt (o : VaFields) (s : State) : exec (.cvt o) s =
    runAlu (.cvt o) (if ((cvtWidths o.b.toNat).getD (1, 1)).1 = 2 then [o.a, o.a + 1] else [o.a]) (some (o.d, ((cvtWidths o.b.toNat).getD (1, 1)).2))
      (fun _ w ls =>
        if ((cvtWidths o.b.toNat).getD (1, 1)).2 = 2 then
          w.wr64 o.d ls (fun l => cvtOf o.b.toNat (rmodeOf o.m) (w.rd o.a l) (w.rd64 o.a l))
        else w.wr o.d ls (fun l => loWord (cvtOf o.b.toNat (rmodeOf o.m) (w.rd o.a l) (w.rd64 o.a l)))) s := rfl

/-- Settles O16: each instruction is one operation on its sources; a conversion writes a pair just where its code gives its result two
registers. -/
theorem floatArithmetic : Obligations.FloatArithmetic := by
  refine ⟨fun o => ?arithmetic, fun o => ?functions⟩
  case arithmetic =>
    exact ⟨regStep_alu2 (fun s => .refl (execFadd o s)) fun _ _ _ => rfl, regStep_alu2 (fun s => .refl (execFsub o s)) fun _ _ _ => rfl,
      regStep_alu2 (fun s => .refl (execFmul o s)) fun _ _ _ => rfl, regStep_alu2acc (fun s => .refl (execFma o s)) fun _ _ _ => rfl,
      regStep_alu2 (fun s => .refl (execFmin o s)) fun _ _ _ => rfl, regStep_alu2 (fun s => .refl (execFmax o s)) fun _ _ _ => rfl,
      regStep_alu2 (fun s => .refl (execFdiv o s)) fun _ _ _ => rfl, regStep_alu2 (fun s => .refl (execPack o s)) fun _ _ _ => rfl,
      regStep_alu2acc (fun s => .refl (execDot4 o s)) fun _ _ _ => rfl, regStep_alu2acc (fun s => .refl (execDot2f o s)) fun _ _ _ => rfl⟩
  case functions =>
    exact ⟨regStep_alu1 (fun s => .refl (execFneg o s)) fun _ _ _ => rfl, regStep_alu1 (fun s => .refl (execFabs o s)) fun _ _ _ => rfl,
      regStep_alu1 (fun s => .refl (execFrnd o s)) fun _ _ _ => rfl, regStep_alu1 (fun s => .refl (execFrcp o s)) fun _ _ _ => rfl,
      regStep_alu1 (fun s => .refl (execFsqrt o s)) fun _ _ _ => rfl, regStep_alu1 (fun s => .refl (execFrsq o s)) fun _ _ _ => rfl,
      regStep_alu1 (fun s => .refl (execFexp2 o s)) fun _ _ _ => rfl, regStep_alu1 (fun s => .refl (execFlog2 o s)) fun _ _ _ => rfl,
      regStep_alu1 (fun s => .refl (execFsinpi o s)) fun _ _ _ => rfl, regStep_alu1 (fun s => .refl (execFcospi o s)) fun _ _ _ => rfl,
      regStep_alu1 (fun s => .refl (execFclass o s)) fun _ _ _ => rfl,
      fun hone => writesWave_of_runAlu (exec_cvt o) fun _ _ => if_neg hone, fun htwo => writesWave_of_runAlu (exec_cvt o) fun _ _ => if_pos htwo⟩

end Sys2Proof.Machine

namespace Sys2Proof.Machine

/-! PROOF. Compares and predicate logic (R239, R240). -/

/-! ## Conditions and predicates -/

/-- R239: set, AND, OR. -/
theorem combine_eq (m : BitVec 2) (old c : Bool) : combine m old c = if m = 0 then c else if m = 1 then old && c else old || c := by
  revert m old c
  decide

/-- R240: AND, OR, XOR. -/
theorem plopOf_eq (m : BitVec 2) (x y : Bool) : plopOf m x y = if m = 0 then x && y else if m = 1 then x || y else x != y := by
  revert m x y
  decide

/-- The condition table of ICMP (R239) by the orders of words. -/
def icmpTable (cond : Nat) (a b : Word) : Bool :=
  match cond with
  | 0 | 8 => a == b
  | 1 | 9 => a != b
  | 2 => a.slt b
  | 3 => a.sle b
  | 4 => b.slt a
  | 5 => b.sle a
  | 10 => a.ult b
  | 11 => a.ule b
  | 12 => b.ult a
  | 13 => b.ule a
  | _ => false

theorem icmpHolds_eq (cond : Nat) (a b : Word) : icmpHolds cond a b = icmpTable cond a b := by
  unfold icmpHolds icmpTable
  split
  case h_2 | h_8 => exact decide_not
  case h_13 => simp [*]
  all_goals rfl

theorem eqV_comm (x y : Val) : eqV x y = eqV y x := by
  unfold eqV
  cases x.isNan <;> cases y.isNan <;> simp [Bool.and_comm]

section
variable (a b : Word)

theorem fcmpHolds_unordered : fcmpHolds 7 a b = !fcmpHolds 6 a b := by simp [fcmpHolds]

theorem fcmpHolds_ge : fcmpHolds 5 a b = fcmpHolds 3 b a := congrArg (_ || ·) (eqV_comm ..)

end

/-! ## Settling O17 -/

/-- Settles O17: each writes its predicate, by its table and the way it combines. -/
theorem compares : Obligations.Compares := by
  refine ⟨fun o => ⟨?icmp, ?fcmp⟩, fun o => ?plop, fun a b => ⟨rfl, fcmpHolds_unordered a b, rfl, fcmpHolds_ge a b⟩⟩
  case icmp =>
    exact writesWave_of_runAlu (fun s => .refl (execIcmp o s)) fun _ w => congrArg (w.wrPred _ _) (funext fun l => by
      rw [combine_eq, icmpHolds_eq]
      rfl)
  case fcmp => exact writesWave_of_runAlu (fun s => .refl (execFcmp o s)) fun _ w => congrArg (w.wrPred _ _) (funext fun _ => combine_eq ..)
  case plop => exact writesWave_of_runAlu (fun s => .refl (execPlop o s)) fun _ w => congrArg (w.wrPred _ _) (funext fun _ => plopOf_eq ..)

end Sys2Proof.Machine

namespace Sys2Proof.Machine

/-! PROOF. The special register that names a wave's glen (R250). -/

/-! ## Settling O14 -/

/-- R250: the glen that SREG gives outside a prologue; a launch scalar unit, numbered 4096 and up, lies in the glen of its number less 4096. -/
theorem sregOf_glen (s : State) {w : Wave} (l : Nat) (hk : w.kind ≠ .prologue) : sregOf s w 5 l = BitVec.ofNat 32 (glenOfCore w.core) := by
  simp [sregOf, hk]

/-- An ordinary wave on the launch scalar unit of glen 0, which has core number 4096. -/
def waveOnScalarUnit : Wave := freshWave .ordinary 0 0 0 0 0 4096 0 0 4 0

/-- Refutes O14: its clause for the glen divides the core number by 16 in every wave that is no prologue's, also on a launch scalar unit.
There the model gives the unit's own glen: an ordinary wave on core 4096 reads 0, and the clause says 256. -/
theorem not_movesAndSpecialRegisters : ¬ Obligations.MovesAndSpecialRegisters := by
  intro h
  obtain ⟨-, -, hvalues⟩ := h
  obtain ⟨-, -, -, -, hplace, -⟩ := hvalues State.reset waveOnScalarUnit 0 (by decide)
  obtain ⟨-, hglen, -⟩ := hplace (by decide)
  rw [sregOf_glen _ _ (by decide)] at hglen
  exact absurd hglen (by decide)

end Sys2Proof.Machine

namespace Sys2Proof.Machine

/-! PROOF. Instructions across lanes (R243 to R248, R348). -/

/-! ## Votes, ELECT and MATCH (R243, R244, R247) -/

theorem lanesOf_pairwise (m : Mask) : (lanesOf m).Pairwise (· < ·) := List.Pairwise.filter _ (by decide)

theorem lanesOf_and_not (m h : Mask) : lanesOf (m &&& ~~~h) = (lanesOf m).filter (fun l => !hasLane h l) := by
  have hall : ∀ k ∈ allLanes, k < 16 := by decide
  rw [lanesOf, lanesOf, List.filter_filter]
  refine List.filter_congr fun l hl => ?_
  simp [hasLane, hall l hl, Bool.and_comm]

/-- R247: the lowest lane that is no helper. -/
theorem find?_not_helper (m h : Mask) : (lanesOf m).find? (fun l => !hasLane h l) = (lanesOf (m &&& ~~~h)).head? := by
  rw [lanesOf_and_not, List.head?_filter]

theorem pairOf_inj {a b c d : Word} : pairOf a b = pairOf c d ↔ a = c ∧ b = d := by
  refine ⟨fun h => ?_, fun ⟨hac, hbd⟩ => hac ▸ hbd ▸ rfl⟩
  have hlo := congrArg (BitVec.setWidth 32) h
  have hhi := congrArg (BitVec.extractLsb' 32 32) h
  simp only [pairOf, BitVec.setWidth_append_eq_right, BitVec.extractLsb'_append_eq_left] at hlo hhi
  exact ⟨hlo, hhi⟩

/-- R244: lanes that match, by the word or by the pair. -/
theorem match_eq (w : Wave) (f : RegField) (m : BitVec 2) (l k : Nat) :
    (decide (w.rd f l = w.rd f k) && (decide (m = 0) || decide (w.rdN f 1 l = w.rdN f 1 k))) =
      if m = 0 then w.rd f k == w.rd f l else w.rd64 f k == w.rd64 f l := by
  have hpair : w.rd64 f k = w.rd64 f l ↔ w.rd f k = w.rd f l ∧ w.rdN f 1 k = w.rdN f 1 l := pairOf_inj
  by_cases hm : m = 0
  · simp [hm, beq_eq_decide, eq_comm (a := w.rd f k)]
  · rw [if_neg hm, decide_eq_false hm, Bool.false_or]
    simp [hpair, beq_eq_decide, eq_comm (a := w.rd f k), eq_comm (a := w.rdN f 1 k)]

/-! ## SHFL, SCAN and REDUCE (R245, R246) -/

/-- R245: the lane SHFL reads, by its mode. -/
theorem shflLane_eq (m : BitVec 2) (l : Nat) (b : Word) : shflLane m l b =
    if m = 0 then b.toNat % 16 else if m = 1 then (if b.toNat ≤ l then l - b.toNat else l)
    else if m = 2 then (if l + b.toNat ≤ 15 then l + b.toNat else l) else l ^^^ (b.toNat % 16) := by
  have hm : m = 0 ∨ m = 1 ∨ m = 2 ∨ m = 3 := by
    revert m
    decide
  rcases hm with rfl | rfl | rfl | rfl <;> rfl

/-- The total of a scan once one more word is taken in. -/
def scanNext (m : BitVec 2) (acc : Option Word) (y : Word) : Word :=
  match acc with
  | none => scanFirst m y
  | some a => scanOp m a y

/-- The total of a scan over words, from a total so far. -/
def scanFrom (m : BitVec 2) (acc : Option Word) (xs : List Word) : Option Word := xs.foldl (fun acc y => some (scanNext m acc y)) acc

theorem scanFrom_some (m : BitVec 2) (a : Word) (xs : List Word) : scanFrom m (some a) xs = some (xs.foldl (scanOp m) a) := by
  induction xs generalizing a with
  | nil => rfl
  | cons x xs ih => exact ih (scanOp m a x)

/-- R246: the running total of a list of words. -/
def scanTotal (m : BitVec 2) (xs : List Word) : Option Word :=
  match xs with
  | [] => none
  | x :: t => some (t.foldl (scanOp m) (scanFirst m x))

theorem scanFrom_none (m : BitVec 2) (xs : List Word) : scanFrom m none xs = scanTotal m xs := by
  cases xs with
  | nil => rfl
  | cons x t => exact scanFrom_some m (scanFirst m x) t

theorem scanLanes_cons (m : BitVec 2) (x : Nat → Word) (k : Nat) (t : List Nat) (acc : Option Word) :
    scanLanes m x (k :: t) acc = (k, scanNext m acc (x k), acc.getD (scanId m)) :: scanLanes m x t (some (scanNext m acc (x k))) := by
  cases acc <;> rfl

theorem scanAt_cons_same (l : Nat) (y z : Word) (r : List (Nat × Word × Word)) (excl : Bool) :
    scanAt ((l, y, z) :: r) excl l = if excl then z else y := by
  simp [scanAt]

theorem scanAt_cons_ne {k l : Nat} (y z : Word) (r : List (Nat × Word × Word)) (excl : Bool) (h : k ≠ l) :
    scanAt ((k, y, z) :: r) excl l = scanAt r excl l := by
  simp [scanAt, h]

/-- The lanes whose words a lane's result in a scan is of: those below it, and itself in an inclusive one. -/
def scanned (excl : Bool) (l k : Nat) : Bool := if excl then decide (k < l) else decide (k ≤ l)

/-- R246: a lane's result in a scan over ascending lanes is the running total of the words it scans. -/
theorem scanAt_scanLanes (m : BitVec 2) (x : Nat → Word) (excl : Bool) {l : Nat} {ls : List Nat} (hls : ls.Pairwise (· < ·)) (hl : l ∈ ls)
    (acc : Option Word) : scanAt (scanLanes m x ls acc) excl l =
      (scanFrom m acc ((ls.filter (scanned excl l)).map x)).getD (if excl then scanId m else 0) := by
  induction ls generalizing acc with
  | nil => exact absurd hl List.not_mem_nil
  | cons k t ih =>
    obtain ⟨hk, ht⟩ := List.pairwise_cons.mp hls
    rw [scanLanes_cons]
    by_cases hkl : k = l
    · subst hkl
      have hrest : t.filter (scanned excl k) = [] := by
        refine List.filter_eq_nil_iff.mpr fun j hj => ?_
        have := hk j hj
        cases excl <;> simp [scanned] <;> omega
      rw [scanAt_cons_same, List.filter_cons, hrest]
      cases excl <;> simp [scanned, scanFrom]
    · have hlt : l ∈ t := (List.mem_cons.mp hl).resolve_left (Ne.symm hkl)
      have hscan : scanned excl l k = true := by
        have := hk l hlt
        cases excl <;> simp [scanned] <;> omega
      rw [scanAt_cons_ne _ _ _ _ hkl, ih ht hlt, List.filter_cons_of_pos hscan, List.map_cons]
      rfl

/-- R246: the last lane's inclusive result is the total. -/
theorem getLast?_scanLanes (m : BitVec 2) (x : Nat → Word) (ls : List Nat) (acc : Option Word) :
    ((scanLanes m x ls acc).getLast?.map (fun e => e.2.1)).or acc = scanFrom m acc (ls.map x) := by
  induction ls generalizing acc with
  | nil => cases acc <;> rfl
  | cons k t ih =>
    rw [scanLanes_cons, List.getLast?_cons]
    refine Eq.trans ?_ (ih (some (scanNext m acc (x k))))
    cases (scanLanes m x t (some (scanNext m acc (x k)))).getLast? <;> rfl

/-! ## The instructions -/

section
variable (o : VaFields)

/-- R246: an inclusive or exclusive SCAN. -/
theorem regStep_scan (excl : Bool) (h : decide (o.b = 1) = excl) : regStep (.scan o) o.d (fun _ w l =>
    (scanTotal o.m (((lanesOf w.part).filter (scanned excl l)).map (w.rd o.a))).getD (if excl then scanId o.m else 0)) := by
  subst h
  refine writesWave_of_runAluBy (fun s => .refl (execScan o s)) fun s w => w.wr_congr o.d fun l hl => ?_
  beta_reduce
  rw [← scanFrom_none]
  exact scanAt_scanLanes _ _ _ (lanesOf_pairwise _) hl none

/-- R246: REDUCE. -/
theorem regStep_reduce : regStep (.reduce o) o.d (fun _ w _ => (scanTotal o.m ((lanesOf w.part).map (w.rd o.a))).getD 0) := by
  refine writesWave_of_runAluBy (fun s => .refl (execReduce o s)) fun s w => congrArg (w.wr o.d _) (funext fun _ => ?_)
  beta_reduce
  rw [← scanFrom_none, ← getLast?_scanLanes]
  cases (scanLanes o.m (w.rd o.a) (lanesOf w.part) none).getLast? <;> rfl

/-- R348: DDX and DDY outside a speculative task. -/
theorem waveStep_quad {i : Instr} {vertical : Bool} {g : Wave → Nat → Word} (he : ∀ s, exec i s = runQuad i o vertical s)
    (hg : ∀ w l, fp2 o.m (fun x y => addV x y.negate) (w.rd o.a (quadLanes vertical l).2) (w.rd o.a (quadLanes vertical l).1) = g w l) :
    waveStep i (fun s w wv => s.done w (wv.wr o.d (lanesOf wv.part) (g wv)) i) := by
  intro s w wv h hplain
  simp only [plainWave, Bool.and_eq_true, Bool.not_eq_true', decide_eq_true_eq] at hplain
  obtain ⟨hspec, hpoison⟩ := hplain
  rw [he, runQuad, runWave_runsNow _ h, hspec, if_neg Bool.false_ne_true, aluWaveBy_clean _ _ _ hpoison]
  exact congrArg (fun r => Host.Outcome.next (s.done w (wv.wr o.d (lanesOf wv.part) r) i)) (funext (hg wv))

end

/-! ## Settling O18 -/

/-- Settles O18: each writes what it finds across the lanes; a scan and a total are the running total of the lanes' words. -/
theorem crossLane : Obligations.CrossLane := by
  refine ⟨fun o => ?votes, fun o => ?moves, fun o => ?quads⟩
  case votes =>
    exact ⟨writesWave_of_runAlu (fun s => .refl (execVoteAny o s)) fun _ _ => rfl, writesWave_of_runAlu (fun s => .refl (execVoteAll o s)) fun _ _ => rfl,
      writesWave_of_runAlu (fun s => .refl (execVoteBallot o s)) fun _ _ => rfl,
      writesWave_of_runAlu (fun s => .refl (execElect o s)) fun _ w => by rw [find?_not_helper],
      writesWave_of_runAluBy (fun s => .refl (execMatchLanes o s)) fun _ w => congrArg (w.wr o.d _) (funext fun _ =>
        congrArg (fun p => (maskOf ((lanesOf w.part).filter p)).setWidth 32) (funext fun _ => match_eq ..))⟩
  case moves =>
    exact ⟨writesWave_of_runAluBy (fun s => .refl (execShfl o s)) fun _ w => congrArg (w.wr o.d _) (funext fun _ => congrArg (w.rd o.a) (shflLane_eq ..)),
      fun hb => regStep_scan o false (decide_eq_false hb), fun hb => regStep_scan o true (decide_eq_true hb), regStep_reduce o,
      writesWave_of_runAluBy (fun s => .refl (execV2sFirst o s)) fun _ _ => rfl, writesWave_of_runAluBy (fun s => .refl (execV2sLane o s)) fun _ _ => rfl⟩
  case quads =>
    exact ⟨waveStep_quad o (fun s => .refl (execDdx o s)) fun _ _ => rfl, waveStep_quad o (fun s => .refl (execDdy o s)) fun w l => by
      rw [Nat.mod_mod_of_dvd l (by decide : 2 ∣ 4)]
      rfl⟩

end Sys2Proof.Machine

namespace Sys2Proof.Machine

/-! PROOF. MOVX (R249, R487). -/

/-! ## The lanes inside the allocation and beyond it -/

section
variable (o : VaFields) (w : Wave)

/-- The register a lane of MOVX names (R249). -/
def movxReg (l : Nat) : Nat := o.a.toNat + (srcB o w l).toNat

theorem movxFaults_eq : movxFaults o w =
    ((lanesOf w.part).filter (fun l => decide (8 * w.held ≤ movxReg o w l))).map (fun l => laneFault l cIndex (srcB o w l) 0) := rfl

/-- The lanes of MOVX that do not fault are those inside the allocation. -/
theorem movx_good : (lanesOf w.part).filter (fun l => !(movxFaults o w).any (fun e => decide (e.lane = l))) =
    (lanesOf w.part).filter (fun l => decide (movxReg o w l < 8 * w.held)) := by
  refine List.filter_congr fun l hl => ?_
  have hany : (movxFaults o w).any (fun e => decide (e.lane = l)) = decide (8 * w.held ≤ movxReg o w l) := by
    rw [movxFaults_eq, Bool.eq_iff_iff, List.any_eq_true]
    simp only [List.mem_map, List.mem_filter, decide_eq_true_eq]
    constructor
    · rintro ⟨e, ⟨k, ⟨-, hk⟩, rfl⟩, rfl⟩
      exact hk
    · intro h
      exact ⟨_, ⟨l, ⟨hl, h⟩, rfl⟩, rfl⟩
  rw [hany, ← decide_not, decide_eq_decide]
  omega

variable {o w}

theorem movxFaults_eq_nil_iff : movxFaults o w = [] ↔ ∀ l ∈ lanesOf w.part, movxReg o w l < 8 * w.held := by
  simp [movxFaults_eq, List.filter_eq_nil_iff]

end

section
variable {i : Instr} {o : VaFields} {poisoned : Wave → Nat → Bool} {f : Wave → List Nat → (Nat → Bool) → Wave} {s : State} {w : Nat} {wv : Wave}

/-- R249, R463: MOVX of a wave with no poison runs the lanes inside the allocation; the others fault. -/
theorem exec_movx (he : exec i s = runMovx i o poisoned f s) (h : runsNow s w wv i = true) (hp : wv.poison = []) : exec i s = .next (
    let x := f wv ((lanesOf wv.part).filter (fun l => decide (movxReg o wv l < 8 * wv.held))) (fun _ => false)
    if movxFaults o wv = [] then s.done w x i else raiseLanes s w x (instrBytes i) (movxFaults o wv)) := by
  have hbad : ([] : List Nat).contains = fun _ => false := by
    funext l
    exact List.contains_nil
  rw [he, runMovx, runWave_runsNow _ h]
  simp only [hp, if_true, movx_good, hbad, List.map_nil, consumePoison_nil, State.done]

/-- R249: where every lane is inside the allocation MOVX runs them all. -/
theorem exec_movx_within (he : exec i s = runMovx i o poisoned f s) (h : runsNow s w wv i = true) (hp : wv.poison = [])
    (hin : ∀ l ∈ lanesOf wv.part, movxReg o wv l < 8 * wv.held) : exec i s = .next (s.done w (f wv (lanesOf wv.part) (fun _ => false)) i) := by
  rw [exec_movx he h hp, List.filter_eq_self.mpr fun l hl => decide_eq_true (hin l hl), movxFaults_eq_nil_iff.mpr hin]
  rfl

/-- R487: where a lane is beyond the allocation those that are fault. -/
theorem exec_movx_beyond (he : exec i s = runMovx i o poisoned f s) (h : runsNow s w wv i = true) (hp : wv.poison = [])
    (hbeyond : ∃ l ∈ lanesOf wv.part, 8 * wv.held ≤ movxReg o wv l) : exec i s = .next (
      raiseLanes s w (f wv ((lanesOf wv.part).filter (fun l => decide (movxReg o wv l < 8 * wv.held))) (fun _ => false)) (instrBytes i)
        (movxFaults o wv)) := by
  obtain ⟨l, hl, hle⟩ := hbeyond
  have hfaults : movxFaults o wv ≠ [] := fun hnil => absurd (movxFaults_eq_nil_iff.mp hnil l hl) hle.not_gt
  rw [exec_movx he h hp]
  exact congrArg _ (if_neg hfaults)

end

/-! ## Settling O19 -/

/-- Settles O19: the lanes inside the allocation move, and those beyond it, where there are any, fault. -/
theorem indexedMoves : Obligations.IndexedMoves := by
  intro o s w wv hpoison n ls x
  exact ⟨fun hin => ⟨fun h => exec_movx_within (i := .movxRd o) (.refl (execMovxRd o s)) h hpoison hin,
      fun h => exec_movx_within (i := .movxWr o) (.refl (execMovxWr o s)) h hpoison hin⟩,
    fun hbeyond h => exec_movx_beyond (i := .movxRd o) (.refl (execMovxRd o s)) h hpoison hbeyond⟩

end Sys2Proof.Machine

namespace Sys2Proof.Machine

/-! PROOF. The indirect branches and the calls (R257, R259, R479, R491). -/

/-! ## The lanes of a mask -/

/-- The lanes of a mask make up the mask. -/
theorem maskOf_lanesOf (m : Mask) : maskOf (lanesOf m) = m := by
  have hmem : ∀ l < 16, l ∈ allLanes := by decide
  refine BitVec.eq_of_getLsbD_eq fun l hl => (hasLane_maskOf hl _).trans ?_
  simp [lanesOf, hmem l hl, hasLane]

theorem lanesOf_ne_nil {m : Mask} (h : m ≠ 0) : lanesOf m ≠ [] := fun hnil =>
  h ((maskOf_lanesOf m).symm.trans (congrArg maskOf hnil))

/-! ## The length of a control word -/

/-- Stage 5 of R479: what executes is well-formed. -/
theorem wellFormed_of_runsNow {s : State} {w : Nat} {wv : Wave} {i : Instr} (h : runsNow s w wv i = true) : i.wellFormed = true := by
  obtain ⟨-, -, -, hcause⟩ := (runsNow_iff s w wv i).mp h
  cases hpriv : privCause wv.kind i with
  | some c => simp [staticCause, hpriv] at hcause
  | none =>
    cases hwf : i.wellFormed with
    | true => rfl
    | false => simp [staticCause_of_not_wellFormed hpriv hwf] at hcause

/-- R189: a control word whose fields are as `ctlOk` asks has no literal, so it is one word long. -/
theorem instrBytes_of_ctlOk {i : Instr} {o : VaFields} {op m : Nat} {dz az bz : Bool} (he : encode i = vaWords op o)
    (hok : ctlOk o m dz az bz = true) : instrBytes i = 4 := by
  have hlit : o.lit = none := by
    simp only [ctlOk, Bool.and_eq_true, Option.isNone_iff_eq_none] at hok
    obtain ⟨⟨⟨⟨hlit, -⟩, -⟩, -⟩, -⟩ := hok
    exact hlit
  simp [instrBytes, he, vaWords, hlit, withLit]

/-! ## Indirect transfers (R257, R259, R491) -/

section
variable {i : Instr} {a : RegField} {call : Option RegField} {s : State} {w : Nat} {wv : Wave}

/-- The lanes whose target is aligned (R257). -/
def alignedLanes (ls : List Nat) (t : Nat → DWord) : List Nat := ls.filter (fun l => decide ((t l).toNat % 4 = 0))

/-- The lanes whose target is misaligned (R257). -/
def misalignedLanes (ls : List Nat) (t : Nat → DWord) : List Nat := ls.filter (fun l => decide ((t l).toNat % 4 ≠ 0))

theorem filter_not_misaligned (ls : List Nat) (t : Nat → DWord) : ls.filter (fun l => !(misalignedLanes ls t).contains l) = alignedLanes ls t := by
  refine List.filter_congr fun l hl => ?_
  simp [misalignedLanes, hl]

theorem alignedLanes_eq_self {ls : List Nat} {t : Nat → DWord} (h : ∀ l ∈ ls, (t l).toNat % 4 = 0) : alignedLanes ls t = ls :=
  List.filter_eq_self.mpr fun l hl => decide_eq_true (h l hl)

theorem misalignedLanes_eq_nil {ls : List Nat} {t : Nat → DWord} (h : ∀ l ∈ ls, (t l).toNat % 4 = 0) : misalignedLanes ls t = [] :=
  List.filter_eq_nil_iff.mpr fun l hl => by simp [h l hl]

/-- R257, R259: what an indirect transfer leaves of its wave: the aligned lanes are sent, those of a call with their links written. -/
def sentWave (wv : Wave) (call : Option RegField) (good : List Nat) (t : Nat → DWord) : Wave :=
  match call with
  | none => if good = [] then wv.advance 4 else wv.transfer 4 good t wv.depth []
  | some d =>
    let x := wv.wr64 d good (fun _ => wv.afterClause)
    if good = [] then x.advance 4 else x.transfer 4 good t (wv.depth + 1) [⟨.call, wv.afterClause, maskOf good, wv.depth⟩]

/-- R491: whether the pushes of an indirect transfer do not fit, or a call is at its last Depth. -/
def noRoom (wv : Wave) (call : Option RegField) (pushes : Nat) : Prop :=
  match call with
  | none => 64 < wv.stack.length + pushes
  | some _ => wv.depth = 255 ∨ 64 < wv.stack.length + 1 + pushes

/-- The frame of an indirect transfer in a wave with no poison. -/
theorem exec_indirect (he : exec i s = runIndirect i a call s) (h : runsNow s w wv i = true) (hp : wv.poison = []) :
    let ls := lanesOf wv.part
    let t := wv.rd64 a
    let bad := misalignedLanes ls t
    let x := sentWave wv call (alignedLanes ls t) t
    (noRoom wv call (transferPushes wv ls t) → exec i s = .next (stackFault i s w wv cOver)) ∧
    (¬ noRoom wv call (transferPushes wv ls t) → exec i s = .next (
      if bad = [] then s.setWave w x
      else raise s w { x with pos := wv.pos } wv.pos (wv.nextPos 4) .instr none (bad.map (fun l => laneFault l cAlign 0 (t l))))) := by
  obtain ⟨-, -, hpart, -⟩ := (runsNow_iff s w wv i).mp h
  have hlanes := lanesOf_ne_nil hpart
  have hnil : (lanesOf wv.part).filter (fun l => !([] : List Nat).contains l) = lanesOf wv.part := by simp
  intro ls t bad x
  rw [he, runIndirect, runWave_runsNow _ h]
  simp only [x, ← filter_not_misaligned, poisonedLanes_clean _ _ hp, hnil, List.map_nil, consumePoison_nil]
  refine ⟨fun hfull => congrArg _ (if_pos ?_), fun hfit => congrArg _ ((if_neg ?_).trans ?_)⟩
  · cases call <;> simpa [hlanes, noRoom, or_comm] using hfull
  · cases call <;> simpa [hlanes, noRoom, and_comm] using hfit
  · cases call <;> rfl

/-- R491: where its pushes do not fit an indirect transfer faults, whatever its targets. -/
theorem exec_indirect_full (he : exec i s = runIndirect i a call s) (h : runsNow s w wv i = true) (hp : wv.poison = []) (hlen : instrBytes i = 4)
    (hfull : noRoom wv call (transferPushes wv (lanesOf wv.part) (wv.rd64 a))) :
    exec i s = .next (raiseLanes s w wv 4 ((lanesOf wv.part).map (fun l => laneFault l cOver 0 0))) := by
  rw [(exec_indirect he h hp).1 hfull, stackFault, hlen]

/-- R257, R259: where every target is aligned the transfer completes. -/
theorem exec_indirect_aligned (he : exec i s = runIndirect i a call s) (h : runsNow s w wv i = true) (hp : wv.poison = [])
    (hfit : ¬ noRoom wv call (transferPushes wv (lanesOf wv.part) (wv.rd64 a))) (hal : ∀ l ∈ lanesOf wv.part, (wv.rd64 a l).toNat % 4 = 0) :
    exec i s = .next (s.setWave w (sentWave wv call (lanesOf wv.part) (wv.rd64 a))) := by
  rw [(exec_indirect he h hp).2 hfit, if_pos (misalignedLanes_eq_nil hal), alignedLanes_eq_self hal]

/-- R257, R479: where some are misaligned those lanes fault and stay. -/
theorem exec_indirect_misaligned (he : exec i s = runIndirect i a call s) (h : runsNow s w wv i = true) (hp : wv.poison = [])
    (hfit : ¬ noRoom wv call (transferPushes wv (lanesOf wv.part) (wv.rd64 a))) (hbad : misalignedLanes (lanesOf wv.part) (wv.rd64 a) ≠ []) :
    exec i s = .next (raise s w { sentWave wv call (alignedLanes (lanesOf wv.part) (wv.rd64 a)) (wv.rd64 a) with pos := wv.pos } wv.pos
      (wv.nextPos 4) .instr none ((misalignedLanes (lanesOf wv.part) (wv.rd64 a)).map (fun l => laneFault l cAlign 0 (wv.rd64 a l)))) := by
  rw [(exec_indirect he h hp).2 hfit, if_neg hbad]

variable {t : Nat → DWord}

theorem sentWave_part_jump (hpart : wv.part ≠ 0) : sentWave wv none (lanesOf wv.part) t = wv.transfer 4 (lanesOf wv.part) t wv.depth [] :=
  if_neg (lanesOf_ne_nil hpart)

theorem sentWave_part_call (hpart : wv.part ≠ 0) (d : RegField) : sentWave wv (some d) (lanesOf wv.part) t =
    (wv.wr64 d (lanesOf wv.part) (fun _ => wv.afterClause)).transfer 4 (lanesOf wv.part) t (wv.depth + 1)
      [⟨.call, wv.afterClause, wv.part, wv.depth⟩] := by
  rw [sentWave, maskOf_lanesOf]
  exact if_neg (lanesOf_ne_nil hpart)

end

/-- CALL (R259). -/
theorem exec_call {o : ClFields} {s : State} {w : Nat} {wv : Wave} (h : runsNow s w wv (.call o) = true) :
    let t (_ : Nat) : DWord := wv.pos.pc + (o.off.signExtend 64 <<< 2)
    exec (.call o) s = .next (
      if wv.depth = 255 ∨ 64 < wv.stack.length + 1 + transferPushes wv (lanesOf wv.part) t then stackFault (.call o) s w wv cOver
      else s.setWave w ((wv.wr64 o.link (lanesOf wv.part) (fun _ => wv.afterClause)).transfer 4 (lanesOf wv.part) t (wv.depth + 1)
        [⟨.call, wv.afterClause, wv.part, wv.depth⟩])) := by
  intro t
  change execCall o s = _
  rw [execCall, runWave_runsNow _ h]
  simp only [relTarget_eq, Bool.or_eq_true, decide_eq_true_eq]
  rfl

section
variable {o : VaFields} {s : State} {w : Nat} {wv : Wave}

theorem instrBytes_brx (h : runsNow s w wv (.brx o) = true) : instrBytes (.brx o) = 4 :=
  instrBytes_of_ctlOk (o := o) rfl (fieldsOk_of_wellFormed (wellFormed_of_runsNow h))

theorem instrBytes_callx (h : runsNow s w wv (.callx o) = true) : instrBytes (.callx o) = 4 :=
  instrBytes_of_ctlOk (o := o) rfl (fieldsOk_of_wellFormed (wellFormed_of_runsNow h))

theorem instrBytes_callxTail (h : runsNow s w wv (.callxTail o) = true) : instrBytes (.callxTail o) = 4 :=
  instrBytes_of_ctlOk (o := o) rfl (fieldsOk_of_wellFormed (wellFormed_of_runsNow h))

end

/-! ## Settling O29 -/

/-- Settles O29: the room on the stack, then the alignment of the targets, name the case. -/
theorem indirectAndCalls : Obligations.IndirectAndCalls := by
  refine ⟨fun o s w wv h hp hal hfit => ?brx, fun o s w wv h hp hal hfit => ?tail, fun o s w wv h hp hal hdepth hfit => ?callx,
    fun o s w wv h => ?call, fun o s w wv hp => ⟨fun i hi h => ?jumpFaults, fun h => ?callxFaults⟩⟩
  case brx =>
    obtain ⟨-, -, hpart, -⟩ := (runsNow_iff ..).mp h
    rw [← sentWave_part_jump hpart]
    exact exec_indirect_aligned (i := .brx o) rfl h hp hfit.not_gt hal
  case tail =>
    obtain ⟨-, -, hpart, -⟩ := (runsNow_iff ..).mp h
    rw [← sentWave_part_jump hpart]
    exact exec_indirect_aligned (i := .callxTail o) rfl h hp hfit.not_gt hal
  case callx =>
    obtain ⟨-, -, hpart, -⟩ := (runsNow_iff ..).mp h
    rw [← sentWave_part_call hpart]
    exact exec_indirect_aligned (i := .callx o) rfl h hp (not_or.mpr ⟨hdepth, hfit.not_gt⟩) hal
  case call =>
    have hexec := exec_call h
    exact ⟨fun hdepth hfit => hexec.trans (congrArg _ (if_neg (not_or.mpr ⟨hdepth, hfit.not_gt⟩))),
      fun hfull => hexec.trans (congrArg _ (if_pos hfull))⟩
  case jumpFaults =>
    rw [List.mem_pair] at hi
    rcases hi with rfl | rfl
    · exact ⟨exec_indirect_full (call := none) rfl h hp (instrBytes_brx h),
        fun hfit hbad => exec_indirect_misaligned (call := none) rfl h hp hfit.not_gt hbad⟩
    · exact ⟨exec_indirect_full (call := none) rfl h hp (instrBytes_callxTail h),
        fun hfit hbad => exec_indirect_misaligned (call := none) rfl h hp hfit.not_gt hbad⟩
  case callxFaults =>
    exact ⟨exec_indirect_full (call := some o.d) rfl h hp (instrBytes_callx h),
      fun hdepth hfit hbad => exec_indirect_misaligned (call := some o.d) rfl h hp (not_or.mpr ⟨hdepth, hfit.not_gt⟩) hbad⟩

end Sys2Proof.Machine

namespace Sys2Proof.Machine

/-! PROOF. RCV, JOIN, RET, EXIT and the pop (R68, R255, R258, R260, R261). -/

/-! ## Settling O30 -/

section
variable {o : VaFields} {s : State} {w : Nat} {wv : Wave}

/-- RCV (R258). -/
theorem exec_rcv (h : runsNow s w wv (.rcv o) = true) : exec (.rcv o) s = .next (
    if 64 ≤ wv.stack.length then stackFault (.rcv o) s w wv cOver
    else s.setWave w { wv.advance 4 with
      stack := ⟨.reconv, wv.pos.pc + ((o.d ++ o.a ++ o.b : BitVec 21).signExtend 64 <<< 2), wv.active, wv.depth⟩ :: wv.stack }) := by
  rw [← relTarget_eq]
  change execRcv o s = _
  rw [execRcv, runWave_runsNow _ h]

/-- JOIN (R258). -/
theorem exec_join (h : runsNow s w wv (.join o) = true) : exec (.join o) s = .next (
    if wv.active &&& ~~~wv.part ≠ 0 then s.setWave w { wv.advance 4 with active := wv.active &&& ~~~wv.part }
    else if joinForeign wv.pos.pc (wv.exited ||| wv.returned) wv.stack then stackFault (.join o) s w wv cUnder
    else settle s w { wv with active := 0 } wv.pos true) := by
  change execJoin o s = _
  rw [execJoin, runWave_runsNow _ h]

/-- The wave whose lanes that take part have executed RET (R260). -/
def retWave (o : VaFields) (wv : Wave) : Wave :=
  { wv with lpair := (lanesOf wv.part).foldl (fun t l => Tbl.setCell 0 t l o.a) wv.lpair, returned := wv.returned ||| wv.part
            active := wv.active &&& ~~~wv.part }

/-- RET (R260). -/
theorem exec_ret (h : runsNow s w wv (.ret o) = true) : exec (.ret o) s = .next (
    if !wv.stack.any (fun e => decide (e.kind = .call)) then stackFault (.ret o) s w wv cUnder
    else if wv.active &&& ~~~wv.part ≠ 0 then s.setWave w ((retWave o wv).advance 4) else settle s w (retWave o wv) wv.pos false) := by
  change execRet o s = _
  rw [execRet, runWave_runsNow _ h]
  rfl

/-- EXIT (R261). -/
theorem exec_exit (h : runsNow s w wv (.exit o) = true) :
    let gone := { wv with exited := wv.exited ||| wv.part, active := wv.active &&& ~~~wv.part }
    exec (.exit o) s = .next (if wv.active &&& ~~~wv.part ≠ 0 then s.setWave w (gone.advance 4) else settle s w gone wv.pos false) := by
  change execExit o s = _
  rw [execExit, runWave_runsNow _ h]

end

/-- Settles O30: the lanes left, and the entries on the stack, name the case. -/
theorem reconvergence : Obligations.Reconvergence := by
  refine fun o s w wv => ⟨fun h hroom => ?_, fun h hleft => ?_, fun h hleft hown => ?_, fun h hcall => ?_, fun h hcall => ?_, fun h => ?_⟩
  · exact (exec_rcv h).trans (congrArg _ (if_neg hroom.not_ge))
  · exact (exec_join h).trans (congrArg _ (if_pos hleft))
  · exact (exec_join h).trans (congrArg _ ((if_neg (not_not_intro hleft)).trans (if_neg (by simp [hown]))))
  · exact (exec_ret h).trans (congrArg _ (if_neg (by simp [hcall])))
  · exact (exec_ret h).trans (congrArg _ (if_pos (by simp [hcall])))
  · exact exec_exit h

/-! ## Settling O31 -/

section
variable (w : Wave) (t : List StackEntry) (pc : DWord) {m : Mask} (d : BitVec 8)

/-- R255: a PATH entry with a lane that still runs is taken. -/
theorem popStack_path (h : m &&& ~~~(w.exited ||| w.returned) ≠ 0) : popStack (⟨.path, pc, m, d⟩ :: t) w =
    .run { w with depth := d, stack := t, active := m &&& ~~~(w.exited ||| w.returned), pos := ⟨pc, none⟩ } := if_neg h

/-- R255: so is a RECONV entry. -/
theorem popStack_reconv (h : m &&& ~~~(w.exited ||| w.returned) ≠ 0) : popStack (⟨.reconv, pc, m, d⟩ :: t) w =
    .reconv { w with depth := d, stack := t, active := m &&& ~~~(w.exited ||| w.returned) } pc := if_neg h

/-- R255: a CALL entry with a lane that has not exited returns. -/
theorem popStack_call (h : m &&& ~~~w.exited ≠ 0) : popStack (⟨.call, pc, m, d⟩ :: t) w =
    .ret { w with depth := d, stack := t, returned := w.returned &&& ~~~m, active := m &&& ~~~w.exited } := if_neg h

variable {w t}

/-- R255: an entry none of whose lanes still runs is passed over. -/
theorem popStack_gone {e : StackEntry} (hk : e.kind ≠ .call) (h : e.mask &&& ~~~(w.exited ||| w.returned) = 0) :
    popStack (e :: t) w = popStack t { w with depth := e.depth, stack := t } := by
  cases hkind : e.kind with
  | path | reconv => simp [popStack, hkind, h]
  | call => exact absurd hkind hk

/-- R255: so is a CALL entry all of whose lanes have exited; its lanes are no longer those that have returned. -/
theorem popStack_call_gone {e : StackEntry} (hk : e.kind = .call) (h : e.mask &&& ~~~w.exited = 0) :
    popStack (e :: t) w = popStack t { w with depth := e.depth, stack := t, returned := w.returned &&& ~~~e.mask } := by
  simp [popStack, hk, h]

end

/-- What the pop gives to run. -/
def Popped.gives : Popped → Option Wave
  | .run x | .reconv x _ | .ret x => some x
  | .ended _ => none

theorem Popped.gives_eq_some (p : Popped) (x : Wave) : p.gives = some x ↔ p = .run x ∨ (∃ pc, p = .reconv x pc) ∨ p = .ret x := by
  cases p <;> simp [Popped.gives, eq_comm]

theorem and_not_and_self (m e : Mask) : m &&& ~~~e &&& e = 0 := by
  rw [BitVec.and_assoc, BitVec.and_comm (~~~e), BitVec.and_not_self]
  exact BitVec.and_zero

theorem and_not_or_and_left (m e r : Mask) : m &&& ~~~(e ||| r) &&& e = 0 := by
  rw [BitVec.not_or, BitVec.and_comm (~~~e), ← BitVec.and_assoc, and_not_and_self]

/-- R68, R255: what the pop gives to run is not empty, holds no lane that has exited, and has fewer entries on its stack. -/
theorem popStack_gives {st : List StackEntry} {w x : Wave} (h : (popStack st w).gives = some x) :
    x.active ≠ 0 ∧ x.active &&& x.exited = 0 ∧ x.exited = w.exited ∧ x.stack.length < st.length := by
  induction st generalizing w with
  | nil => simp [popStack, Popped.gives] at h
  | cons e t ih =>
    have hpass {v : Wave} (hpop : popStack (e :: t) w = popStack t v) (hv : v.exited = w.exited) :
        x.active ≠ 0 ∧ x.active &&& x.exited = 0 ∧ x.exited = w.exited ∧ x.stack.length < t.length + 1 := by
      obtain ⟨hactive, hdisjoint, hexited, hlength⟩ := ih (hpop ▸ h)
      exact ⟨hactive, hdisjoint, hexited.trans hv, Nat.lt_succ_of_lt hlength⟩
    obtain ⟨kind, pc, m, d⟩ := e
    cases kind with
    | path =>
      by_cases hm : m &&& ~~~(w.exited ||| w.returned) = 0
      · exact hpass (popStack_gone nofun hm) rfl
      · rw [popStack_path w t pc d hm] at h
        obtain rfl := Option.some.inj h
        exact ⟨hm, and_not_or_and_left .., rfl, Nat.lt_succ_self _⟩
    | reconv =>
      by_cases hm : m &&& ~~~(w.exited ||| w.returned) = 0
      · exact hpass (popStack_gone nofun hm) rfl
      · rw [popStack_reconv w t pc d hm] at h
        obtain rfl := Option.some.inj h
        exact ⟨hm, and_not_or_and_left .., rfl, Nat.lt_succ_self _⟩
    | call =>
      by_cases hm : m &&& ~~~w.exited = 0
      · exact hpass (popStack_call_gone rfl hm) rfl
      · rw [popStack_call w t pc d hm] at h
        obtain rfl := Option.some.inj h
        exact ⟨hm, and_not_and_self .., rfl, Nat.lt_succ_self _⟩

/-- Settles O31: the top entry's kind and lanes name the case, and a pass over it leaves a shorter stack and the lanes that have exited. -/
theorem popRule : Obligations.PopRule :=
  ⟨⟨fun _ => rfl, fun w t pc _ d h => ⟨popStack_path w t pc d h, popStack_reconv w t pc d h⟩, fun _ _ _ hk h => popStack_gone hk h,
    fun w t pc _ d h => popStack_call w t pc d h⟩, fun _ _ x h => popStack_gives ((Popped.gives_eq_some _ x).mpr h)⟩

end Sys2Proof.Machine

namespace Sys2Proof.Machine

/-! PROOF. Block and cluster barriers, and the waits (R262 to R268, R492, R493). -/

/-! ## Instructions that act once -/

section
variable {i : Instr} {srcs : List RegField} {op f : State → Nat → Wave → State} {p : State → Nat → Wave → Bool}

/-- R480: a plain wave runs the operation of an instruction that acts once. -/
theorem waveStepIf_of_runOnce (he : ∀ s, exec i s = runOnce i srcs op s)
    (hop : ∀ s w wv, plainWave s wv = true → p s w wv = true → op s w wv = f s w wv) : waveStepIf i p f := fun s w wv h hs hp => by
  rw [he, runOnce_clean _ _ h (poison_of_plainWave hs), hop s w wv hs hp]

theorem waveStep_of_runOnce (he : ∀ s, exec i s = runOnce i srcs op s) (hop : ∀ s w wv, plainWave s wv = true → op s w wv = f s w wv) :
    waveStep i f := fun s w wv h hs => waveStepIf_of_runOnce (p := fun _ _ _ => true) he (fun s w wv hs _ => hop s w wv hs) s w wv h hs rfl

end

/-- R144, R263: an arrival whose earlier accesses are performed does not wait. -/
theorem not_arriveWaits {s : State} {w : Nat} {wv : Wave} {scope : BitVec 3} (h : (!releaseWaits s w wv s.nextId scope false) = true) :
    ¬ arriveWaits s w wv scope = true := by
  rw [arriveWaits]
  simpa using h

/-! ## Settling O32 -/

/-- Settles O32: each barrier instruction acts once, and past its wait and its checks it does what it says. -/
theorem barriers : Obligations.Barriers := by
  refine ⟨fun o => ⟨?arrive, ?wait, ?sync, ?init, ?expect⟩, fun o => ⟨?clusterArrive, ?clusterWait, ?clusterSync⟩⟩
  case arrive | sync | clusterArrive | clusterSync =>
    exact waveStepIf_of_runOnce (fun _ => rfl) fun _ _ _ _ hfree => if_neg (not_arriveWaits hfree)
  case wait | clusterWait => exact waveStep_of_runOnce (fun _ => rfl) fun _ _ _ _ => rfl
  case init => exact waveStepIf_of_runOnce (fun _ => rfl) fun _ _ _ _ hgood => if_neg (ne_true_of_eq_false (Bool.eq_false_of_not_eq_true' hgood))
  case expect => exact waveStepIf_of_runOnce (fun _ => rfl) fun _ _ _ _ hroom => if_neg (of_decide_eq_true hroom).not_ge

/-! ## Settling O33 -/

section
variable {s : State} {blk n : Nat} {b : Block} {x : Barrier}

theorem State.get_modBlock_same (f : Block → Block) (hb : Tbl.get s.blocks blk = some b) :
    Tbl.get (s.modBlock blk f).blocks blk = some (f b) := by
  rw [State.modBlock, Tbl.get_modify_same, hb, Option.map_some]

/-- The test of a barrier by its block and its fields (R262, R492). -/
theorem testOne_eq (hb : Tbl.get s.blocks blk = some b) (hx : Tbl.get b.bars n = some x) : testOne s blk n =
    if x.expSect < x.sect ∨ barrierNeed s b x < x.arrived then
      haltWaiter (({ s with waves := Tbl.mapVals (fun _ w => breakBar s.tod.toNat n blk w) s.waves } : State).modBlock blk
        (fun b => { b with bars := Tbl.set b.bars n x.clear })) blk n
    else if x.arrived = barrierNeed s b x ∧ x.sect = x.expSect ∧ (0 < barrierNeed s b x ∨ x.armed = true) then
      let t := s.modBlock blk (fun b => { b with
        bars := Tbl.set b.bars n { x.clear with phase := x.phase + 1 }, seqCtx := b.seqCtx.map (fun c => c.pass n (x.phase + 1)) })
      { t with waves := Tbl.mapVals (fun _ w => wakeBar n blk (x.phase + 1) w) t.waves }
    else s := by
  simp [testOne, hb, hx, and_assoc]

/-- R262: a barrier with all its arrivals and sectors completes its phase. -/
theorem testOne_completes (hb : Tbl.get s.blocks blk = some b) (hx : Tbl.get b.bars n = some x) (harr : x.arrived = barrierNeed s b x)
    (hneed : 0 < barrierNeed s b x) (hsect : x.sect = x.expSect) : ∃ b', Tbl.get (testOne s blk n).blocks blk = some b' ∧
      Tbl.get b'.bars n = some { x with arrived := 0, expSect := 0, sect := 0, armed := false, phase := x.phase + 1 } := by
  have hwhole : ¬ (x.expSect < x.sect ∨ barrierNeed s b x < x.arrived) := by omega
  rw [testOne_eq hb hx, if_neg hwhole, if_pos ⟨harr, hsect, .inl hneed⟩]
  exact ⟨_, State.get_modBlock_same _ hb, Tbl.get_set_same ..⟩

/-- R330: a stream that does not exist is not halted. -/
theorem haltWaiter_of_noStream (hb : Tbl.get s.blocks blk = some b) (hseq : b.seqCtx = none) : haltWaiter s blk n = s := by
  simp [haltWaiter, hb, hseq]

/-- R492: a barrier with more arrivals or sectors than it expects breaks. -/
theorem testOne_breaks (hb : Tbl.get s.blocks blk = some b) (hx : Tbl.get b.bars n = some x) (hseq : b.seqCtx = none)
    (hmore : barrierNeed s b x < x.arrived ∨ x.expSect < x.sect) : ∃ b', Tbl.get (testOne s blk n).blocks blk = some b' ∧
      Tbl.get b'.bars n = some { x with arrived := 0, expSect := 0, sect := 0, armed := false } := by
  have hget := State.get_modBlock_same (s := { s with waves := Tbl.mapVals (fun _ w => breakBar s.tod.toNat n blk w) s.waves })
    (fun b => { b with bars := Tbl.set b.bars n x.clear }) hb
  rw [testOne_eq hb hx, if_pos hmore.symm, haltWaiter_of_noStream hget hseq]
  exact ⟨_, hget, Tbl.get_set_same ..⟩

end

/-- R263: a token of the phase before has passed. -/
theorem tokenPassed_succ (p : Word) : tokenPassed (p + 1) p = true := by
  have hdist : p + 1 - p = 1 := by bv_omega
  rw [tokenPassed, hdist]
  rfl

/-- R263: a token of the barrier's own phase has not. -/
theorem tokenPassed_self (p : Word) : tokenPassed p p = false := by
  rw [tokenPassed, BitVec.sub_self]
  rfl

/-- R263: nor has one of the phase after, which is 2^32 - 1 phases behind. -/
theorem tokenPassed_pred (p : Word) : tokenPassed p (p + 1) = false := by
  have hdist : p - (p + 1) = -1 := by bv_omega
  rw [tokenPassed, hdist]
  rfl

/-- Settles O33: the counts name the outcome of the test, and a token the distance of its phase. -/
theorem barrierPhase : Obligations.BarrierPhase :=
  ⟨fun _ _ _ _ _ hb hx harr hneed hsect => testOne_completes hb hx harr hneed hsect,
    fun _ _ _ _ _ hb hx hseq hmore => testOne_breaks hb hx hseq hmore,
    fun p => ⟨tokenPassed_succ p, tokenPassed_self p, tokenPassed_pred p⟩⟩

/-! ## Settling O34 -/

section
variable {s t : State} {w : Nat} {wv : Wave} {a x v : DWord} {e : Word} {sc : BitVec 3}

theorem waitPasses_waitge : waitPasses (.waitge a x sc) v = true ↔ x.toNat ≤ v.toNat := decide_eq_true_iff

theorem waitPasses_mwait : waitPasses (.mwait a e sc) v = true ↔ v.setWidth 32 ≠ e := decide_eq_true_iff

/-- R266: WAITGE goes on with the word its read gives, or waits. -/
theorem pollOnce_waitge (hpoll : pollWait s w wv a 8 2 sc = (t, .value v)) : pollOnce s w wv (.waitge a x sc) =
    if waitPasses (.waitge a x sc) v then passWait t w wv (.waitge a x sc) else t.setWave w { wv with wait := some (.waitge a x sc) } := by
  unfold pollOnce
  simp only [hpoll]

/-- R267: so does MWAIT. -/
theorem pollOnce_mwait (hpoll : pollWait s w wv a 4 1 sc = (t, .value v)) : pollOnce s w wv (.mwait a e sc) =
    if waitPasses (.mwait a e sc) v then passWait t w wv (.mwait a e sc) else t.setWave w { wv with wait := some (.mwait a e sc) } := by
  unfold pollOnce
  simp only [hpoll]

end

/-- Settles O34: a plain wave runs no speculative task, so its read is what a wait comes to. -/
theorem waits : Obligations.Waits := by
  refine ⟨fun o => ⟨?waitge, ?mwait, ?yield, ?sleepZero, ?sleep⟩, fun s t w wv a sc v =>
    ⟨fun x hpoll => ⟨fun hle => ?passes, fun hle => ?stays⟩, fun e hpoll => ⟨fun hne => ?wakes, fun heq => ?waits⟩⟩⟩
  case waitge | mwait => exact waveStep_of_runOnce (fun _ => rfl) fun _ _ _ hs => if_neg (by simp [not_speculative_of_plainWave hs])
  case yield => exact waveStep_of_runOnce (fun _ => rfl) fun _ _ _ _ => rfl
  case sleepZero => exact waveStepIf_of_runOnce (fun _ => rfl) fun _ _ _ _ hzero => if_pos (congrArg BitVec.toNat (of_decide_eq_true hzero))
  case sleep =>
    refine waveStepIf_of_runOnce (fun _ => rfl) fun s w wv _ hlong => ?_
    rw [← BitVec.ofNat_toNat]
    exact if_neg (mt (fun h => BitVec.eq_of_toNat_eq h) (of_decide_eq_true hlong))
  case passes => exact (pollOnce_waitge hpoll).trans (if_pos (waitPasses_waitge.mpr (of_decide_eq_true hle)))
  case stays => exact (pollOnce_waitge hpoll).trans (if_neg (mt waitPasses_waitge.mp (of_decide_eq_false hle)))
  case wakes => exact (pollOnce_mwait hpoll).trans (if_pos (waitPasses_mwait.mpr hne))
  case waits => exact (pollOnce_mwait hpoll).trans (if_neg (mt waitPasses_mwait.mp (not_not_intro heq)))

end Sys2Proof.Machine

namespace Sys2Proof.Machine

/-! PROOF. TRAP and BKPT, taking an exception, and coming back from one (R272, R463, R465, R466, R468, R470). -/

section
variable {s : State} {w : Nat} {wv : Wave}

/-! ## Taking an exception -/

/-- A software trap, once it runs (R272). -/
theorem softTrap_runsNow {i : Instr} {o : VaFields} {c : BitVec 8} (h : runsNow s w wv i = true) : softTrap i o c s =
    .next (raise s w wv wv.pos (wv.nextPos 4) .soft none
      ((lanesOf wv.part).map (fun l => laneFault l c ((o.a ++ o.b).setWidth 32) 0))) := runWave_runsNow _ h

/-- R463, R465: an ordinary wave outside a speculative task whose job names a handler holds its trap. -/
theorem takeTrap_ordinary {t : Trap} (hkind : wv.kind = .ordinary) (hspec : s.speculative wv = false) (hpc : trapPc (s.cardOf wv.job) ≠ 0)
    (hself : ∀ f ∈ t.lanes, selfRecorded f = false) : takeTrap s w wv t = s.setWave w { wv with trap := some t } := by
  have hnone : t.lanes.filter selfRecorded = [] := List.filter_eq_nil_iff.mpr fun f hf => by simp [hself f hf]
  simp only [takeTrap, hkind, hspec, hnone, List.foldl_nil, hpc, Bool.false_eq_true, if_false]

/-- R466, R470: a handler wave's own fault ends it, with a record of it. -/
theorem takeTrap_handler {t : Trap} (hkind : wv.kind = .handler) :
    takeTrap s w wv t = endHandler (recordCauses s wv t 2 false t.lanes) w := by
  simp [takeTrap, hkind, endSlotWave]

/-- R276: a handler wave that has ended is gone. -/
theorem get_endHandler (s : State) (h : Nat) : Tbl.get (endHandler s h).waves h = none := Tbl.get_erase_same ..

/-- R463, R465: raising an exception there numbers its lanes in one fresh order of arrival. -/
theorem raise_ordinary {at_ next : Pos} {kind : TrapKind} {part : Option Mask} {fs : List LaneFault} (hkind : wv.kind = .ordinary)
    (hspec : s.speculative wv = false) (hpc : trapPc (s.cardOf wv.job) ≠ 0) (hself : ∀ f ∈ fs, selfRecorded f = false) :
    raise s w wv at_ next kind part fs = State.setWave { s with nextId := s.nextId + 1 } w { wv with
      replay := none
      trap := some { at_ := at_, next := next, kind := kind, part := part, deferred := false, tod := s.tod.toNat
                     after := wv.replay.bind Replay.next, lanes := fs.map (fun f => { f with seq := s.nextId }) } } :=
  takeTrap_ordinary (s := { s with nextId := s.nextId + 1 }) (wv := { wv with replay := none }) hkind hspec hpc fun f hf => by
    obtain ⟨g, hg, rfl⟩ := List.mem_map.mp hf
    exact hself g hg

/-! ## Coming back from one -/

/-- R468: replays whose first still has a lane are not left out. -/
theorem skipGone_of_lanes (n : Nat) {x : Wave} (h : ∀ r, x.replay = some r → r.lanes &&& x.active ≠ 0) : skipGone n x = x := by
  cases n with
  | zero => rfl
  | succ n =>
    cases hr : x.replay with
    | none => simp [skipGone, hr]
    | some r =>
      simp only [skipGone, hr]
      exact if_neg (h r hr)

/-- The wave that comes back: its lanes resolved KILLL have exited (R468). -/
def backWave (wv : Wave) (t : Trap) : Wave :=
  { wv with trap := none, exited := wv.exited ||| chosen t .kill, active := wv.active &&& ~~~chosen t .kill }

/-- R468: the lanes left go on after the instruction, or it is replayed in those resolved RETRY. -/
def returnedWave (wv : Wave) (t : Trap) : Wave :=
  let x := backWave wv t
  if chosen t .retry &&& x.active = 0 then { x with pos := t.next, replay := t.after }
  else { x with pos := t.at_, replay := some (t.replays (chosen t .retry) wv.wait.isSome) }

theorem returnedWave_goesOn {t : Trap} (h : chosen t .retry &&& (backWave wv t).active = 0) :
    returnedWave wv t = { backWave wv t with pos := t.next, replay := t.after } := if_pos h

theorem returnedWave_replays {t : Trap} (h : chosen t .retry &&& (backWave wv t).active ≠ 0) :
    returnedWave wv t = { backWave wv t with pos := t.at_, replay := some (t.replays (chosen t .retry) wv.wait.isSome) } := if_neg h

/-- R468: coming back from an exception of an instruction with lanes left. -/
theorem resumeTrap_instr {t : Trap} (hkind : t.kind = .instr) (hpart : t.part = none) (hleft : (backWave wv t).active ≠ 0) :
    resumeTrap s w wv t =
      (dropL1 s wv.core wv.vale wv.vd).setWave w (skipGone (replaysLeft (returnedWave wv t).replay) (returnedWave wv t)) := by
  have hlanes : (if chosen t .retry = 0 then 0 else chosen t .retry) = chosen t .retry := by
    split
    · next h => exact h.symm
    · rfl
  have hkill : chosen t .kill ||| (0 : Mask) = chosen t .kill := BitVec.or_zero
  unfold resumeTrap
  simp only [hkind, hpart, Option.getD_none, hlanes, hkill]
  exact if_neg hleft

end

/-- Settles O36: each trap by what the wave is, and the return by the lanes that are left and those of RETRY. -/
theorem traps : Obligations.Traps := by
  refine ⟨fun o s w wv => ⟨fun h => softTrap_runsNow h, fun h => softTrap_runsNow h⟩,
    fun s w wv at_ next kind part fs hkind hspec hpc hself => raise_ordinary hkind hspec hpc hself,
    fun s w wv t hkind => ⟨takeTrap_handler hkind, takeTrap_handler hkind ▸ get_endHandler _ w⟩,
    fun s w wv t hkind hpart => ⟨fun hleft hretry hafter => ?goesOn, fun hleft hretry => ?replays⟩⟩
  case goesOn =>
    rw [resumeTrap_instr hkind hpart hleft, returnedWave_goesOn hretry, skipGone_of_lanes _ hafter]
    rfl
  case replays =>
    refine ⟨(t.replays (chosen t .retry) wv.wait.isSome).waits, ?_, fun hwait hnone => ?_⟩
    · rw [resumeTrap_instr hkind hpart hleft, returnedWave_replays hretry, skipGone_of_lanes]
      · rfl
      · exact fun r hr => Option.some.inj hr ▸ hretry
    · simp [Trap.replays, hwait, hnone]

end Sys2Proof.Machine

namespace Sys2Proof.Machine

/-! PROOF. The instructions of handler and firmware waves (R273 to R277). -/

section
variable {o : VaFields} {s : State} {w : Nat} {wv : Wave}

/-! ## The codes of origin registers (R275) -/

/-- R275: whether the code k of handler lane l names a register of its origin wave. -/
def namesRegister (s : State) (w k l : Nat) : Bool :=
  match originLane s w l with
  | some p => (Tbl.get s.waves p.1).any (fun y => (decide (k < 96) && decide (k < 8 * y.held)) || (decide (96 ≤ k) && decide (k ≤ 135)))
  | none => false

theorem badCodes_eq (s : State) (w : Nat) (wv : Wave) (a : RegField) :
    badCodes s w wv a = (lanesOf wv.part).filter (fun l => !namesRegister s w ((wv.rd a l).toNat % 256) l) := by
  refine List.filter_congr fun l _ => ?_
  rw [namesRegister]
  rcases originLane s w l with _ | p
  · rfl
  · simp only [codeOk]
    cases Tbl.get s.waves p.1 <;> rfl

/-- The lanes whose code is not bad are those whose code names a register. -/
theorem filter_not_badCodes (s : State) (w : Nat) (wv : Wave) (a : RegField) : (lanesOf wv.part).filter (fun l => !(badCodes s w wv a).contains l) =
    (lanesOf wv.part).filter (fun l => namesRegister s w ((wv.rd a l).toNat % 256) l) := by
  refine List.filter_congr fun l hl => ?_
  simp [badCodes_eq, hl]

/-! ## Settling O45 -/

/-- R276: a resolution, once it runs. -/
theorem runResolve_runsNow {i : Instr} {r : Resolution} (h : runsNow s w wv i = true) : runResolve i r s =
    .next (((lanesOf wv.part).foldl (fun s l => match originLane s w l with
      | some (ow, f) => modOrigin s ow f.lane (fun y => if y.choice.isSome then y else { y with choice := some r })
      | none => s) s).setWave w (wv.advance 4)) := runWave_runsNow _ h

/-- R275: ORIGIN.REG by the lanes whose code names a register and the others. -/
theorem exec_originReg (h : runsNow s w wv (.originReg o) = true) :
    let code (l : Nat) : Nat := (wv.rd o.a l).toNat % 256
    let good := (lanesOf wv.part).filter (fun l => namesRegister s w (code l) l)
    let bad := (lanesOf wv.part).filter (fun l => !namesRegister s w (code l) l)
    let pois := good.filter (fun l => wv.rdPoison o.a l || originPoisoned s w (code l) l)
    let x := good.foldl (fun (x : Wave) l => match originLane s w l with
      | some p => x.wr o.d [l] (fun _ => if pois.contains l then 0 else originRead s p (code l))
      | none => x) wv
    (bad = [] → exec (.originReg o) s = .next (consumePoison (s.setWave w (x.advance 4)) w wv.pos (pois.map (fun l => (l, 0))))) ∧
    (bad ≠ [] → exec (.originReg o) s = .next (consumePoison (raiseLanes (s.setWave w x) w x 4 (bad.map (fun l => laneFault l cField 0 0)))
      w wv.pos (pois.map (fun l => (l, 0))))) := by
  intro code good bad pois x
  have hexec : exec (.originReg o) s = .next (consumePoison (if bad = [] then s.setWave w (x.advance 4)
      else raiseLanes (s.setWave w x) w x 4 (bad.map (fun l => laneFault l cField 0 0))) w wv.pos (pois.map (fun l => (l, 0)))) := by
    change execOriginReg o s = _
    rw [execOriginReg, runWave_runsNow _ h]
    simp only [filter_not_badCodes]
    simp only [badCodes_eq]
    rfl
  exact ⟨fun hbad => by rw [hexec, if_pos hbad], fun hbad => by rw [hexec, if_neg hbad]⟩

/-- R275: SSET by the same lanes. -/
theorem exec_sset (h : runsNow s w wv (.sset o) = true) :
    let code (l : Nat) : Nat := (wv.rd o.a l).toNat % 256
    let good := (lanesOf wv.part).filter (fun l => namesRegister s w (code l) l)
    let bad := (lanesOf wv.part).filter (fun l => !namesRegister s w (code l) l)
    let pois := poisonedLanes wv [o.a, o.b] good
    let u := (good.filter (fun l => !pois.contains l)).foldl (fun s l => match originLane s w l with
      | some p => originWrite s p (code l) (wv.rd o.b l)
      | none => s) s
    (bad = [] → exec (.sset o) s = .next (consumePoison (u.setWave w (wv.advance 4)) w wv.pos (pois.map (fun l => (l, 0))))) ∧
    (bad ≠ [] → exec (.sset o) s = .next (consumePoison (raiseLanes u w wv 4 (bad.map (fun l => laneFault l cField 0 0))) w wv.pos
      (pois.map (fun l => (l, 0))))) := by
  intro code good bad pois u
  have hexec : exec (.sset o) s = .next (consumePoison (if bad = [] then u.setWave w (wv.advance 4)
      else raiseLanes u w wv 4 (bad.map (fun l => laneFault l cField 0 0))) w wv.pos (pois.map (fun l => (l, 0)))) := by
    change execSset o s = _
    rw [execSset, runWave_runsNow _ h]
    simp only [filter_not_badCodes]
    simp only [badCodes_eq]
    rfl
  exact ⟨fun hbad => by rw [hexec, if_pos hbad], fun hbad => by rw [hexec, if_neg hbad]⟩

/-- R276: RTH, whose operands are none, ends its wave once its accesses are performed. -/
theorem exec_rth (h : runsNow s w wv (.rth o) = true) :
    exec (.rth o) s = .next (if releaseWaits s w wv s.nextId 3 false then s else endSlotWave s w wv) := by
  have hnone : poisonedLanes wv [] (lanesOf (lowestLane wv.part)) = [] := by simp [poisonedLanes]
  change execRth o s = _
  rw [execRth, runOnce, runWave_runsNow _ h]
  exact congrArg _ (if_pos hnone)

/-- R277: CKPT of a wave with no poison, by whether it may name its cut. -/
theorem exec_ckpt {d : Vd} {ok : Bool} (h : runsNow s w wv (.ckpt o) = true) (hp : wv.poison = []) (hd : s.vd? wv.vale wv.vd = some d)
    (hok : (decide (s.tod.toNat + 64 ≤ (wv.rd64 o.a 0).toNat) && d.cut.isNone) = ok) : exec (.ckpt o) s = .next (
      (if ok then s.modVd wv.vale wv.vd (fun d => nameCut d (wv.rd64 o.a 0).toNat false) else s).setWave w
        ((wv.wrPred o.d.toNat (lanesOf wv.part) (fun _ => ok)).advance 4)) := by
  subst hok
  change execCkpt o s = _
  rw [execCkpt, runOnce_clean _ _ h hp]
  simp only [hd, Wave.scal64]
  rfl

end

/-- Settles O45: each runs in its frame, and the lanes whose code names a register are those whose code is not bad. -/
theorem systemInstructions : Obligations.SystemInstructions := by
  refine ⟨fun o s w wv h => runResolve_runsNow h, fun o s w wv h => runResolve_runsNow h, fun o s w wv h => runResolve_runsNow h,
    fun o s w wv h => ?tag, fun o s w wv h => ?addr, fun o s w wv h => ?reg, fun o s w wv h => ?sset, fun o s w wv h hrel => ?rth,
    fun o s w wv d h hp hd => ?ckpt⟩
  case tag =>
    change execOriginTag o s = _
    exact runWave_runsNow _ h
  case addr =>
    change execOriginAddr o s = _
    exact runWave_runsNow _ h
  case reg => exact exec_originReg h
  case sset => exact exec_sset h
  case rth => exact (exec_rth h).trans (congrArg _ (if_neg (ne_true_of_eq_false hrel)))
  case ckpt =>
    refine ⟨fun htime hcut => exec_ckpt (ok := true) h hp hd (by simp [htime, hcut]), fun hrefused => exec_ckpt (ok := false) h hp hd ?_⟩
    rcases hrefused with hearly | hpending
    · rw [decide_eq_false hearly.not_ge, Bool.false_and]
    · rw [Option.isNone_eq_false_iff.mpr hpending, Bool.and_false]

end Sys2Proof.Machine

namespace Sys2Proof.Machine

/-! PROOF. What a load writes to its registers, and what an atomic leaves in memory (R7, R281, R284). -/

/-! ## The bytes of a loaded value (R7) -/

/-- A byte below a value stands first in memory. -/
theorem toNat_append_byte {n : Nat} (x : BitVec n) (b : Byte) : (x ++ b).toNat = b.toNat + 256 * x.toNat := by
  rw [BitVec.toNat_append, ← Nat.shiftLeft_add_eq_or_of_lt b.isLt, Nat.shiftLeft_eq]
  omega

section
variable {op : LoadOp} {bs : List Byte} {n : Nat} {x : BitVec n}

/-- R281: a byte or a halfword is extended to a word, by its sign or by zeros. -/
theorem loadWord_short (hn : 8 * op.size = n) (hsize : op.size < 4) (hx : natLE bs = x.toNat) (j : Nat) :
    loadWord op bs j = if op.ext = .sext then x.signExtend 32 else x.setWidth 32 := by
  rw [loadWord, if_pos hsize, hx, hn, sextNat_toNat, wordOfInt_eq]
  cases op.ext with
  | sext => rfl
  | zext => exact BitVec.ofNat_toNat ..

/-- R281: of a longer value, register j holds word j, the lowest first. -/
theorem loadWord_long (hsize : 4 ≤ op.size) (hx : natLE bs = x.toNat) (j : Nat) : loadWord op bs j = x.extractLsb' (32 * j) 32 := by
  rw [loadWord, if_neg hsize.not_gt, hx, BitVec.extractLsb', Nat.shiftRight_eq_div_pow]

end

/-! ## The registers of a load (R281) -/

section
variable {l k : Nat}

/-- Consecutive vector registers written in one lane hold the words in their order, and every other register reads as before. -/
theorem Wave.rd_foldl_wr {d f : RegField} {n : Nat} (g : Nat → Word) (hd : d.toNat + n ≤ 96) (hl : l < 16) (hk : k < 16) (w : Wave) :
    ((natsFrom 0 n).foldl (fun x j => x.wr (d + BitVec.ofNat 7 j) [l] (fun _ => g j)) w).rd f k =
      if k = l ∧ d.toNat ≤ f.toNat ∧ f.toNat < d.toNat + n then g (f.toNat - d.toNat) else w.rd f k := by
  induction n with
  | zero => exact (if_neg (by omega)).symm
  | succ n ih =>
    have hlast : (d + BitVec.ofNat 7 n).toNat = d.toNat + n := by
      rw [BitVec.toNat_add, BitVec.toNat_ofNat]
      omega
    have hlanes : ∀ j ∈ [l], j < 16 := by simpa using hl
    rw [natsFrom_add, List.foldl_append, natsFrom, natsFrom, List.foldl_cons, List.foldl_nil, Nat.zero_add]
    by_cases hf : f = d + BitVec.ofNat 7 n
    · have hvec : isScalar f = false := by simp only [isScalar, hf, hlast, decide_eq_false_iff_not]; omega
      rw [← hf, Wave.rd_wr_vector_same hvec hk hlanes, ih (by omega), hf, hlast]
      simp
    · have hne : f.toNat ≠ d.toNat + n := fun h => hf (BitVec.eq_of_toNat_eq (h.trans hlast.symm))
      rw [Wave.rd_wr_ne hf hk hlanes, ih (by omega)]
      exact if_congr (by omega) rfl rfl

variable {op : LoadOp} {bs : List Byte} {w : Wave}

/-- Every register in every lane, once a lane's value is loaded. -/
theorem rd_writeLoad (hd : op.dst.toNat + op.words ≤ 96) (hl : l < 16) (hk : k < 16) (f : RegField) : (writeLoad w op l bs).rd f k =
    if k = l ∧ op.dst.toNat ≤ f.toNat ∧ f.toNat < op.dst.toNat + op.words then loadWord op bs (f.toNat - op.dst.toNat) else w.rd f k := by
  rw [writeLoad, Nat.mod_eq_of_lt hl, Wave.rd_foldl_wr _ hd hl hk]

/-- R281: register j of the destination holds word j. -/
theorem rdN_writeLoad {j : Nat} (hd : op.dst.toNat + op.words ≤ 96) (hl : l < 16) (hj : j < op.words) :
    (writeLoad w op l bs).rdN op.dst j l = loadWord op bs j := by
  have hreg : (op.dst + BitVec.ofNat 7 j).toNat = op.dst.toNat + j := by
    rw [BitVec.toNat_add, BitVec.toNat_ofNat]
    omega
  rw [Wave.rdN, rd_writeLoad hd hl hl, hreg, if_pos (by omega), Nat.add_sub_cancel_left]

theorem rd_writeLoad_first (hd : op.dst.toNat + op.words ≤ 96) (hl : l < 16) (hwords : 0 < op.words) :
    (writeLoad w op l bs).rd op.dst l = loadWord op bs 0 := by
  rw [rd_writeLoad hd hl hl, if_pos (by omega), Nat.sub_self]

/-- R281: no other lane's registers are written. -/
theorem rd_writeLoad_otherLane (hd : op.dst.toNat + op.words ≤ 96) (hl : l < 16) (hk : k < 16) (hkl : k ≠ l) (f : RegField) :
    (writeLoad w op l bs).rd f k = w.rd f k := by
  rw [rd_writeLoad hd hl hk, if_neg fun ⟨hsame, _⟩ => hkl hsame]

end

/-- R174: a pair holds a 64-bit value's two words. -/
theorem pairOf_extractLsb' (x : DWord) : pairOf (x.extractLsb' (32 * 0) 32) (x.extractLsb' (32 * 1) 32) = x := by
  unfold pairOf
  rw [BitVec.extractLsb'_append_extractLsb'_eq_extractLsb' (by rfl), BitVec.extractLsb'_eq_self]

/-! ## The new value of an atomic (R284) -/

theorem ite_toInt_lt (a b x y : Word) : (if a.toInt < b.toInt then x else y) = if b.sle a then y else x := by
  rw [BitVec.sle_eq_decide, ← ite_not]
  simp

theorem ite_toNat_lt (a b x y : Word) : (if a.toNat < b.toNat then x else y) = if b.ule a then y else x := by
  rw [BitVec.ule_eq_decide, ← ite_not]
  simp

/-! ## Settling O21 -/

/-- Settles O21: each register of a load holds its word of the value, and the order of words is that of their integers. -/
theorem loadAndAtomicValues : Obligations.LoadAndAtomicValues := by
  refine ⟨fun w op l b0 b1 b2 b3 b4 b5 b6 b7 hl _ hdst => ⟨fun hsize hwords => ?byte, fun hsize hwords => ?half, fun hsize hwords => ?word,
      fun hsize hwords => ?dword, fun hd bs k f hk hkl => rd_writeLoad_otherLane hd hl hk hkl f⟩,
    fun old x w => ⟨rfl, ?smin, ?smax, ?bmin, ?bmax, rfl, rfl, rfl, rfl, rfl, rfl, rfl, rfl⟩⟩
  case byte =>
    rw [rd_writeLoad_first (by omega) hl (by omega)]
    exact loadWord_short (by omega) (by omega) rfl 0
  case half =>
    have hvalue : natLE [b0, b1] = (b1 ++ b0).toNat := by simp [toNat_append_byte, natLE]
    rw [rd_writeLoad_first (by omega) hl (by omega)]
    exact loadWord_short (by omega) (by omega) hvalue 0
  case word =>
    have hvalue : natLE [b0, b1, b2, b3] = (b3 ++ b2 ++ b1 ++ b0).toNat := by simp [toNat_append_byte, natLE]
    rw [rd_writeLoad_first (by omega) hl (by omega), loadWord_long hsize.ge hvalue]
    exact BitVec.extractLsb'_eq_self
  case dword =>
    have hvalue : natLE [b0, b1, b2, b3, b4, b5, b6, b7] = (b7 ++ b6 ++ b5 ++ b4 ++ b3 ++ b2 ++ b1 ++ b0).toNat := by
      simp [toNat_append_byte, natLE]
    rw [Wave.rd64, rd_writeLoad_first (by omega) hl (by omega), rdN_writeLoad (by omega) hl (by omega), loadWord_long (by omega) hvalue,
      loadWord_long (by omega) hvalue]
    exact pairOf_extractLsb' _
  case smin | smax => exact congrArg (BitVec.setWidth 64) (ite_toInt_lt ..)
  case bmin | bmax => exact congrArg (BitVec.setWidth 64) (ite_toNat_lt ..)

end Sys2Proof.Machine

namespace Sys2Proof.Machine

/-! PROOF. The ASYNC instructions that issue commands (R155, R172, R289 to R304, R358, R401). -/

/-! ## Issuing commands -/

/-- R172: the commands of an ASYNC instruction are outstanding, with its lookahead. -/
theorem issueCmds_defer {s : State} {w l : Nat} {cs : List WaitCmd} (hcs : cs ≠ []) (hdefer : s.defer = true) : issueCmds s w l cs =
    State.modWave { s with nextId := s.nextId + 1 } w (fun x => { x with outst := x.outst ++ [⟨s.nextId, x.issued + 1 + l, .cmds cs⟩] }) := by
  rw [issueCmds, if_neg hcs]
  exact if_pos hdefer

/-- The lanes an ASYNC instruction issues a command for: those of Live, or once its lowest (R289). -/
def cmdLanes (i : Instr) (wv : Wave) (once : Bool) : List Nat :=
  if once || isUniform i then (lanesOf (lowestLane wv.live)).map (fun l => 16 + l) else lanesOf wv.live

/-- The command of a lane, whose operands are read when its engine accepts it (R172). -/
def laneCmd (i : Instr) (wv : Wave) (l : Nat) : WaitCmd := { pos := wv.pos, op := i, lane := l, a := [], b := [] }

section
variable {i : Instr} {o : AsFields} {once : Bool} {s : State} {w : Nat} {wv : Wave}

/-- R289, R401: a plain wave with room for them issues the commands of all its lanes. -/
theorem runAsync_plain (h : runsNow s w wv i = true) (hs : plainWave s wv = true)
    (hroom : (waitingCmds wv).length + (cmdLanes i wv once).length ≤ 16) : runAsync i o once s =
      .next (issueCmds (s.setWave w (wv.advance (instrBytes i))) w o.l.toNat ((cmdLanes i wv once).map (laneCmd i wv))) := by
  unfold cmdLanes at hroom ⊢
  rw [runAsync, runWave_runsNow _ h]
  simp only [not_speculative_of_plainWave hs, Bool.false_eq_true, if_false, if_neg hroom.not_gt, poisonedLanes_clean _ _ (poison_of_plainWave hs),
    List.contains_nil, Bool.not_false, List.filter_true, List.map_nil, consumePoison_nil]
  rfl

/-- R358: in a speculative task it faults. -/
theorem runAsync_speculative (h : runsNow s w wv i = true) (hspec : s.speculative wv = true) :
    runAsync i o once s = .next (raiseInstr s w wv i cTask 0) := by
  rw [runAsync, runWave_runsNow _ h, if_pos hspec]

end

/-- An instruction that runs as an ASYNC one issues its commands in a plain wave with room for them, and faults in a speculative task. -/
theorem issues_of_runAsync {i : Instr} {o : AsFields} {once : Bool} (he : ∀ s, exec i s = runAsync i o once s) :
    waveStepIf i (fun _ _ wv => decide ((waitingCmds wv).length + ((cmdLanes i wv once).map (laneCmd i wv)).length ≤ 16))
      (fun s w wv => issueCmds (s.setWave w (wv.advance (instrBytes i))) w o.l.toNat ((cmdLanes i wv once).map (laneCmd i wv))) ∧
    ∀ (s : State) (w : Nat) (wv : Wave), runsNow s w wv i = true → s.speculative wv = true → exec i s = .next (raiseInstr s w wv i cTask 0) := by
  refine ⟨fun s w wv h hs hroom => (he s).trans (runAsync_plain h hs ?_), fun s w wv h hspec => (he s).trans (runAsync_speculative h hspec)⟩
  simpa using hroom

/-! ## Settling O39 -/

/-- Settles O39: each runs as an ASYNC instruction, CODEWR, CODESWAP and the ENCFRAMEs once. -/
theorem asyncCommands : Obligations.AsyncCommands := by
  refine ⟨fun o => ⟨?cpy, ?ccopy, ?tcopy, ?tgather, ?tstore, ?codewr, ?codeswap, ?encpost, ?encframeOpen, ?encframeClose⟩,
    fun s w l cs hcs hdefer => issueCmds_defer hcs hdefer⟩
  case cpy | ccopy | tcopy | tgather | tstore | codewr | codeswap | encpost | encframeOpen | encframeClose =>
    exact issues_of_runAsync fun _ => rfl

end Sys2Proof.Machine

namespace Sys2Proof.Machine

/-! PROOF. MXRD, MXWR and MXSTAT (R325 to R328, R330). -/

/-! ## The frame of the three instructions -/

section
variable {i : Instr} {srcs : List RegField} {bad : Team → Word → Bool} {needTeam : Bool} {o : MxFields} {lanes : Wave → Mask}
  {held : State → Nat → Wave → Bool} {op : State → Nat → Wave → List Nat → State} {s : State} {w : Nat} {wv : Wave} {t : Team}

/-- R330: past its checks, a plain wave does the work of the lanes that do not misuse their selection, and the others fault. -/
theorem runMx_plain (h : runsNow s w wv i = true) (hs : plainWave s wv = true) (hheld : held s w wv = false)
    (hteam : (needTeam && (teamHeld s wv).isNone) = false) :
    let wrong := (accLanes i (lanes wv)).filter (fun l => bad ((teamHeld s wv).getD ⟨0, 0, 0, []⟩) (wv.rd o.a (l % 16)))
    runMx i srcs bad needTeam o lanes held op s = .next (finishMem i
      (op s w wv ((accLanes i (lanes wv)).filter (fun l => !wrong.contains l))) w (wrong.map (fun l => (l, ⟨cField, 0, 0⟩)))) := by
  intro wrong
  rw [runMx, runWave_runsNow _ h]
  simp only [not_speculative_of_plainWave hs, hheld, hteam, Bool.false_eq_true, if_false, poisonedLanes_clean _ _ (poison_of_plainWave hs),
    List.contains_nil, Bool.not_false, List.filter_true, if_true, List.map_nil, consumePoison_nil]
  rfl

/-- R325, R326: with a team and no selection misused, all lanes do their work. -/
theorem runMx_team (h : runsNow s w wv i = true) (hs : plainWave s wv = true) (hheld : held s w wv = false) (ht : teamHeld s wv = some t)
    (hgood : (accLanes i (lanes wv)).all (fun l => !bad t (wv.rd o.a (l % 16))) = true) :
    runMx i srcs bad needTeam o lanes held op s = .next (finishMem i (op s w wv (accLanes i (lanes wv))) w []) := by
  have hwrong : (accLanes i (lanes wv)).filter (fun l => bad ((teamHeld s wv).getD ⟨0, 0, 0, []⟩) (wv.rd o.a (l % 16))) = [] := by
    rw [ht]
    exact List.filter_eq_nil_iff.mpr fun l hl => by simpa using List.all_eq_true.mp hgood l hl
  rw [runMx_plain h hs hheld (by simp [ht])]
  simp only [hwrong, List.contains_nil, Bool.not_false, List.filter_true, List.map_nil]

/-- R330: an instruction that needs a team faults where the block has none. -/
theorem runMx_noTeam (h : runsNow s w wv i = true) (hs : plainWave s wv = true) (hheld : held s w wv = false)
    (ht : (teamHeld s wv).isNone = true) : runMx i srcs bad true o lanes held op s = .next (raiseInstr s w wv i cField 0) := by
  rw [runMx, runWave_runsNow _ h]
  simp only [not_speculative_of_plainWave hs, hheld, ht, Bool.and_self, Bool.false_eq_true, if_false, if_true]

end

/-! ## Settling O42 -/

/-- Settles O42: a lane of MXSTAT misuses its selection just where it is at least 2^16; with a team, MXRD and MXWR do the work of all
their lanes. -/
theorem matrixAccess : Obligations.MatrixAccess := by
  refine fun o => ⟨fun s w wv h hs hgood => ?read, fun s w wv h hs hopen => ?write, fun s w wv h hs => ?status,
    fun s w wv h hs ht => ?readNoTeam, fun s w wv h hs hopen => ?writeNoTeam, fun _ _ => rfl⟩
  case read =>
    rcases ht : teamHeld s wv with _ | t
    · simp [ht] at hgood
    · simp only [ht] at hgood
      change execMxrd o s = _
      rw [execMxrd, runMx_team h hs rfl ht hgood]
      rfl
  case write =>
    simp only [Bool.and_eq_true, Bool.not_eq_true'] at hopen
    obtain ⟨hheld, hgood⟩ := hopen
    rcases ht : teamHeld s wv with _ | t
    · simp [ht] at hgood
    · simp only [ht] at hgood
      change execMxwr o s = _
      rw [execMxwr, runMx_team h hs hheld ht hgood]
  case status =>
    have hhigh : ∀ x : Word, decide (x.toNat / 2 ^ 16 ≠ 0) = decide (65536 ≤ x.toNat) := fun x => decide_eq_decide.mpr (by omega)
    change execMxstat o s = _
    rw [execMxstat, runMx_plain h hs rfl rfl]
    simp only [hhigh]
  case readNoTeam =>
    change execMxrd o s = _
    rw [execMxrd, runMx_noTeam h hs rfl ht]
  case writeNoTeam =>
    simp only [Bool.and_eq_true, Bool.not_eq_true'] at hopen
    obtain ⟨hheld, ht⟩ := hopen
    change execMxwr o s = _
    rw [execMxwr, runMx_noTeam h hs hheld ht]

end Sys2Proof.Machine

namespace Sys2Proof.Machine

/-! PROOF. The control words of the matrix stream (R321 to R324, R500). -/

/-! ## The frame of every stream word -/

section
variable {i : Instr} {op f : State → Nat → Block → SeqCtx → State} {p : State → Nat → Block → SeqCtx → Bool} {s : State} {blk : Nat}
  {b : Block} {c : SeqCtx}

/-- R308: a stream word runs its operation in the sequencer context. -/
theorem exec_of_runStream (he : ∀ s, exec i s = runStream i op s) (h : streamNow s blk b c i = true) : exec i s = .next (op s blk b c) :=
  (he s).trans (runStream_now _ h)

theorem streamStep_of_runStream (he : ∀ s, exec i s = runStream i op s) (hop : ∀ s blk b c, p s blk b c = true → op s blk b c = f s blk b c) :
    streamStep i p f := fun s blk b c h hp => (exec_of_runStream he h).trans (congrArg _ (hop s blk b c hp))

/-- R500: a stream word with a reserved field halts the stream. -/
theorem runStream_not_wellFormed (hi : i.wellFormed = false) (hcur : s.cur = .seq blk) (hb : Tbl.get s.blocks blk = some b)
    (hc : b.seqCtx = some c) : runStream i op s = .next (seqHalt s blk 0) := by
  simp only [runStream, hcur, hb, hc, hi, Bool.false_eq_true, if_false]

/-- R308: every stream word runs in that frame. -/
theorem runStream_of_isStream (hi : i.isStream = true) : ∃ op, ∀ s, exec i s = runStream i op s := by
  cases i
  case mnop | mteam | mdesc | mzero | mma | mmas | mloop | mloopMreg | mendl | mbarw | mbara | mset | madd | mbuf | mfence | mend =>
    exact ⟨_, fun _ => rfl⟩
  all_goals contradiction

end

/-! ## Loops (R321) -/

section
variable {i : Instr} {span : BitVec 10} {n : SeqCtx → Word} {s t : State} {blk : Nat} {b : Block} {c : SeqCtx} {x : Word}

/-- Where a loop's MENDL stands. -/
def loopEnd (c : SeqCtx) (span : BitVec 10) : DWord := c.spc + BitVec.ofNat 64 (4 * span.toNat)

/-- The two words of MLOOP, by the place of the count; a well-formed one spans two words or more. -/
theorem runLoop_of_mloop (hi : (∃ count : BitVec 15, i = .mloop span count ∧ n = fun _ => count.setWidth 32) ∨
      (∃ (z : BitVec 11) (m : BitVec 4), i = .mloopMreg span z m ∧ n = fun c => c.reg m.toNat)) (h : streamNow s blk b c i = true) :
    exec i s = runLoop i span n s ∧ 2 ≤ span.toNat := by
  obtain ⟨-, -, -, hwf⟩ := (streamNow_iff s blk b c i).mp h
  rcases hi with ⟨count, rfl, rfl⟩ | ⟨z, m, rfl, rfl⟩
  · exact ⟨rfl, of_decide_eq_true (fieldsOk_of_wellFormed hwf)⟩
  · have hfields : (decide (2 ≤ span.toNat) && decide (z = 0)) = true := fieldsOk_of_wellFormed hwf
    exact ⟨rfl, of_decide_eq_true (Bool.and_elim_left hfields)⟩

/-- R308: a loop waits for the fetch of its last word. -/
theorem runLoop_waits (h : streamNow s blk b c i = true) (hspan : 2 ≤ span.toNat)
    (hwait : fetchWaits s b.core b.vale b.vd (loopEnd c span) = true) : runLoop i span n s = .next (seqWait s blk) := by
  rw [runLoop, runStream_now _ h]
  exact congrArg _ ((if_neg hspan.not_gt).trans (if_pos hwait))

/-- R321: a loop that ends in an MENDL is skipped, entered, or one too many. -/
theorem runLoop_fetched (h : streamNow s blk b c i = true) (hspan : 2 ≤ span.toNat)
    (hwait : fetchWaits s b.core b.vale b.vd (loopEnd c span) = false) (hfetch : fetchWord s b.core b.vale b.vd (loopEnd c span) = (t, .ok x))
    (hend : x.extractLsb' 26 6 = 7) : runLoop i span n s = .next (
      if n c = 0 then modSeq t blk (fun y => { y with spc := loopEnd c span + 4, st := 0 })
      else if 4 ≤ c.loops.length then seqHalt t blk 0
      else seqDone (modSeq t blk (fun y => { y with loops := ⟨y.spc + 4, n y⟩ :: y.loops })) blk) := by
  unfold loopEnd at *
  rw [runLoop, runStream_now _ h]
  simp only [hspan.not_gt, hwait, hfetch, hend, ne_eq, not_true_eq_false, Bool.false_eq_true, if_false]

/-- R321: MENDL runs the innermost loop again, or leaves it. -/
theorem execMendl_loop {rest : BitVec 26} {l : Loop} {ls : List Loop} (h : streamNow s blk b c (.mendl rest) = true) (hloops : c.loops = l :: ls) :
    execMendl rest s = .next (
      if 1 < l.count.toNat then modSeq s blk (fun y => { y with spc := l.start, st := 0, loops := { l with count := l.count - 1 } :: ls })
      else seqDone (modSeq s blk (fun y => { y with loops := ls })) blk) := by
  rw [execMendl, runStream_now _ h]
  simp only [hloops]

end

/-! ## Settling O43 -/

/-- Settles O43: each word's conditions name the branch of its operation. -/
theorem streamControl : Obligations.StreamControl := by
  refine ⟨fun rest => ⟨?nop, ?fence, ?fenceWaits, ?mend, ?mendWaits, fun s blk b c l t h hloops => ⟨fun hmore => ?again, fun hlast => ?leave⟩,
      ?stray⟩, fun m imm => ⟨?set, ?add⟩, fun slots z => ⟨?ring, ?ringNotLoaded⟩, fun n m inc z => ⟨?passed, ?notPassed⟩,
    fun n lag z => ⟨?arrive, ?arriveWaits, ?notSeq⟩, fun i s blk b c hi hwf hcur hb hc => ?reserved,
    fun i span k hi s blk b c t x h => ?loop⟩
  case nop | set | add => exact streamStep_of_runStream (fun _ => rfl) fun _ _ _ _ _ => rfl
  case fence | mend => exact streamStep_of_runStream (fun _ => rfl) fun _ _ _ _ hdone => if_pos (of_decide_eq_true hdone)
  case fenceWaits | mendWaits => exact streamStep_of_runStream (fun _ => rfl) fun _ _ _ _ hsteps => if_neg (of_decide_eq_true hsteps)
  case again => exact (execMendl_loop h hloops).trans (congrArg _ (if_pos hmore))
  case leave => exact (execMendl_loop h hloops).trans (congrArg _ (if_neg hlast.not_gt))
  case stray =>
    refine streamStep_of_runStream (fun _ => rfl) fun _ _ _ c hnone => ?_
    simp only [of_decide_eq_true hnone]
  case ring => exact streamStep_of_runStream (fun _ => rfl) fun _ _ _ _ hloaded => if_neg (not_not_intro (of_decide_eq_true hloaded))
  case ringNotLoaded => exact streamStep_of_runStream (fun _ => rfl) fun _ _ _ _ hslots => if_pos (of_decide_eq_true hslots)
  case passed => exact streamStep_of_runStream (fun _ => rfl) fun _ _ _ _ hpassed => if_pos hpassed
  case notPassed => exact streamStep_of_runStream (fun _ => rfl) fun _ _ _ _ hnot => if_neg (by simpa using hnot)
  case arrive =>
    refine streamStep_of_runStream (fun _ => rfl) fun _ _ _ _ hroom => ?_
    simp only [Bool.and_eq_true, decide_eq_true_eq] at hroom
    obtain ⟨hseq, hlag⟩ := hroom
    exact (if_neg (by simp [hseq])).trans (if_neg hlag.not_gt)
  case arriveWaits =>
    refine streamStep_of_runStream (fun _ => rfl) fun _ _ _ _ hfull => ?_
    simp only [Bool.and_eq_true, decide_eq_true_eq] at hfull
    obtain ⟨hseq, hlag⟩ := hfull
    exact (if_neg (by simp [hseq])).trans (if_pos hlag)
  case notSeq => exact streamStep_of_runStream (fun _ => rfl) fun _ _ _ _ hseq => if_pos hseq
  case reserved =>
    obtain ⟨op, he⟩ := runStream_of_isStream hi
    exact (he s).trans (runStream_not_wellFormed hwf hcur hb hc)
  case loop =>
    obtain ⟨he, hspan⟩ := runLoop_of_mloop hi h
    rw [he]
    refine ⟨fun hwait => runLoop_waits h hspan hwait, fun hwait hfetch hend => ?_⟩
    rw [runLoop_fetched h hspan hwait hfetch hend]
    exact ⟨fun hzero => congrArg _ (if_pos hzero), fun hne hroom => congrArg _ ((if_neg hne).trans (if_neg hroom.not_ge)),
      fun hne hfull => congrArg _ ((if_neg hne).trans (if_pos hfull))⟩

end Sys2Proof.Machine

namespace Sys2Proof.Machine

/-! PROOF. The words of the matrix stream that claim engines, load descriptors and queue steps (R312 to R318, R330). -/

/-! ## MDESC (R312) -/

section
variable {s : State} {blk : Nat} {b : Block} {c : SeqCtx} {slot : BitVec 3} {mreg : BitVec 4} {z : BitVec 1} {off : BitVec 18}

/-- The address of the descriptor an MDESC reads. -/
def descAddr (c : SeqCtx) (mreg : BitVec 4) (off : BitVec 18) : Nat := ((c.reg mreg.toNat).toNat + off.toNat) % 2 ^ 18

theorem execMdesc_misplaced (h : streamNow s blk b c (.mdesc slot mreg z off) = true)
    (hbad : descAddr c mreg off % 32 ≠ 0 ∨ b.stashKib * 1024 < descAddr c mreg off + 32) :
    execMdesc slot mreg z off s = .next (seqHalt s blk (descAddr c mreg off)) := by
  rw [execMdesc, runStream_now _ h]
  exact congrArg _ (if_pos (by simpa [descAddr] using hbad))

/-- R32, R312: a descriptor that lies aligned in the stash is read, unless its row has lost its line or must be waited for. -/
theorem execMdesc_placed (h : streamNow s blk b c (.mdesc slot mreg z off) = true) (halign : descAddr c mreg off % 32 = 0)
    (hin : descAddr c mreg off + 32 ≤ b.stashKib * 1024) :
    let a := descAddr c mreg off
    let r := readStash s blk a 32
    let ws := wordsOfBytes r.2.1
    execMdesc slot mreg z off s = .next (
      if (rowGone s blk a 32).isSome then testLeft (haltSeq s blk cXlate 6 a) blk
      else if targetWaits s (.stash blk a) 32 false then seqWait s blk
      else if descBad ws (b.stashKib * 1024) then seqHalt r.1 blk a
      else seqDone (modSeq r.1 blk (fun y => { y with
        d := Tbl.set y.d slot.toNat ws, loaded := y.loaded ||| BitVec.ofNat 8 (2 ^ slot.toNat), ri := Tbl.setCell 0 y.ri slot.toNat 0 })) blk) := by
  intro a r ws
  have hplaced : ¬ (decide (a % 32 ≠ 0) || decide (b.stashKib * 1024 < a + 32)) = true := by
    simp only [Bool.or_eq_true, decide_eq_true_eq]
    omega
  rw [execMdesc, runStream_now _ h]
  exact congrArg _ (if_neg hplaced)

end

/-! ## MZERO (R317) -/

section
variable {s : State} {blk : Nat} {b : Block} {c : SeqCtx} {kind : BitVec 1} {z : BitVec 25} {t : Team}

theorem execMzero_noTeam (h : streamNow s blk b c (.mzero kind z) = true) (ht : c.team = none) :
    execMzero kind z s = .next (seqHalt s blk 0) := by
  rw [execMzero, runStream_now _ h]
  simp only [ht]

theorem execMzero_team (h : streamNow s blk b c (.mzero kind z) = true) (ht : c.team = some t) :
    execMzero kind z s = .next (if !queuesFree s t then seqWait s blk
      else queueStep s blk t (fun id _ => { id := id, blk := blk, zero := some kind, sparse := false, ovw := false, aBase := 0, bBase := 0, da := []
                                            db := [], bands := [], lease := teamLease s t, read := [], readBad := false })) := by
  rw [execMzero, runStream_now _ h]
  simp only [ht]

end

/-! ## MMA and MMAS (R318) -/

section
variable {i : Instr} {da db : BitVec 3} {ovw : BitVec 1} {sparse : Bool} {s : State} {blk : Nat} {b : Block} {c : SeqCtx} {t : Team}

/-- Where each member's slab of a step's second operand begins. -/
def bandBases (c : SeqCtx) (t : Team) (db : BitVec 3) : List Nat :=
  (natsFrom 0 t.engines.length).map (fun j =>
    (descOf (c.slot db)).base + c.ring db * (descOf (c.slot db)).stride + j * (descOf (c.slot db)).bandStride)

/-- The step that a member queues. -/
def memberStep (s : State) (blk : Nat) (c : SeqCtx) (t : Team) (da db : BitVec 3) (ovw : BitVec 1) (sparse : Bool) (id j : Nat) : KStep :=
  let x := descOf (c.slot da)
  { id := id, blk := blk, zero := none, sparse := sparse, ovw := decide (ovw = 1), aBase := x.base + c.ring da * x.stride
    bBase := (bandBases c t db).getD j 0, da := c.slot da, db := c.slot db, bands := bandBases c t db, lease := teamLease s t, read := []
    readBad := false }

theorem runMma_noTeam (h : streamNow s blk b c i = true) (ht : c.team = none) : runMma i da db ovw sparse s = .next (seqHalt s blk 0) := by
  rw [runMma, runStream_now _ h]
  simp only [ht]

theorem runMma_notLoaded (h : streamNow s blk b c i = true) (ht : c.team = some t)
    (hload : c.loaded.getLsbD da.toNat = false ∨ c.loaded.getLsbD db.toNat = false) : runMma i da db ovw sparse s = .next (seqHalt s blk 0) := by
  rw [runMma, runStream_now _ h]
  simp only [ht]
  exact congrArg _ (if_pos (by simpa using hload))

/-- R318: a step whose operands agree with each other and with the members, and lie in the stash, is queued once there is room. -/
theorem runMma_agree (h : streamNow s blk b c i = true) (ht : c.team = some t) (hda : c.loaded.getLsbD da.toNat = true)
    (hdb : c.loaded.getLsbD db.toNat = true) (hformat : isIntFormat (descOf (c.slot da)).format = isIntFormat (descOf (c.slot db)).format)
    (hkind : ∀ j < t.engines.length, kindAfter (memberEngine s t j) = isIntFormat (descOf (c.slot da)).format)
    (hsparse : sparse = true → (descOf (c.slot da)).bitmap = true ∧ (descOf (c.slot db)).bitmap = true)
    (hfirst : (descOf (c.slot da)).base + c.ring da * (descOf (c.slot da)).stride + (descOf (c.slot da)).size ≤ b.stashKib * 1024)
    (hbands : ∀ p ∈ bandBases c t db, p + (descOf (c.slot db)).size ≤ b.stashKib * 1024) :
    runMma i da db ovw sparse s = .next (
      if !queuesFree s t then seqWait s blk
      else modSeq (queueStep s blk t (memberStep s blk c t da db ovw sparse)) blk (fun y => { y with
        saAddr := if (descOf (c.slot da)).bands then BitVec.ofNat 19 (descOf (c.slot da)).bscale else 0x40000
        sbAddr := if (descOf (c.slot db)).bands then BitVec.ofNat 19 (descOf (c.slot db)).bscale else 0x40000 })) := by
  have hkinds : (natsFrom 0 t.engines.length).any (fun j => decide (kindAfter (memberEngine s t j) ≠ isIntFormat (descOf (c.slot da)).format)) =
      false := List.any_eq_false.mpr fun j hj => by simpa using hkind j (by simpa using (mem_natsFrom.mp hj).2)
  have hbitmaps : (sparse && !((descOf (c.slot da)).bitmap && (descOf (c.slot db)).bitmap)) = false := by
    cases sparse with
    | false => rfl
    | true => simp [hsparse rfl]
  have hagree : (decide (isIntFormat (descOf (c.slot da)).format ≠ isIntFormat (descOf (c.slot db)).format) ||
      (natsFrom 0 t.engines.length).any (fun j => decide (kindAfter (memberEngine s t j) ≠ isIntFormat (descOf (c.slot da)).format)) ||
      (sparse && !((descOf (c.slot da)).bitmap && (descOf (c.slot db)).bitmap))) = false := by
    rw [hkinds, hbitmaps, hformat]
    simp
  have hfind : (bandBases c t db).find? (fun p => decide (b.stashKib * 1024 < p + (descOf (c.slot db)).size)) = none :=
    List.find?_eq_none.mpr fun p hp => by simpa using hbands p hp
  unfold bandBases at hfind
  rw [runMma, runStream_now _ h]
  simp only [ht, hda, hdb, hagree, hfind, hfirst.not_gt, Bool.not_true, Bool.or_self, Bool.false_eq_true, if_false]
  rfl

end

/-! ## Settling O44 -/

/-- Settles O44: each word's conditions name the branch of its operation. -/
theorem streamMatrix : Obligations.StreamMatrix := by
  refine ⟨fun mode tm1 first hreg z => ⟨?teamWaits, ?claimAgain, fun s blk b c h hsteps hclaim =>
      ⟨fun t ht => ?claim, fun ht => ?noSuchTeam⟩⟩,
    fun slot mreg z off s blk b c h => ⟨fun hbad => ?misplaced, fun halign hin hgone => ?rowGone, fun halign hin hrow hwait => ?loaded⟩,
    fun kind z s blk b c h => ⟨fun ht => ?zeroNoTeam, fun t ht => ⟨fun hfree => ?zero, fun hfull => ?zeroWaits⟩⟩,
    fun da db ovw z i sparse hi s blk b c h => ?multiply⟩
  case teamWaits => exact streamStep_of_runStream (fun _ => rfl) fun _ _ _ _ hsteps => if_pos (of_decide_eq_true hsteps)
  case claimAgain =>
    refine streamStep_of_runStream (fun _ => rfl) fun _ _ _ _ hopen => ?_
    simp only [Bool.and_eq_true, decide_eq_true_eq] at hopen
    obtain ⟨hsteps, hclaim⟩ := hopen
    exact (if_neg (not_not_intro hsteps)).trans (if_pos hclaim)
  case claim | noSuchTeam =>
    rw [exec_of_runStream (fun _ => rfl) h]
    simp only [hsteps, hclaim, ht, ne_eq, not_true_eq_false, Option.isSome_none, Bool.false_eq_true, if_false]
  case misplaced => exact execMdesc_misplaced h hbad
  case rowGone => exact (execMdesc_placed h halign hin).trans (congrArg _ (if_pos hgone))
  case loaded =>
    exact (execMdesc_placed h halign hin).trans (congrArg _ ((if_neg (ne_true_of_eq_false hrow)).trans (if_neg (ne_true_of_eq_false hwait))))
  case zeroNoTeam => exact execMzero_noTeam h ht
  case zero => exact (execMzero_team h ht).trans (congrArg _ (if_neg (by simp [hfree])))
  case zeroWaits => exact (execMzero_team h ht).trans (congrArg _ (if_pos (by simp [hfull])))
  case multiply =>
    have he : exec i s = runMma i da db ovw sparse s := by rcases hi with ⟨rfl, rfl⟩ | ⟨rfl, rfl⟩ <;> rfl
    rw [he]
    refine ⟨fun ht => runMma_noTeam h ht, fun t ht => ⟨fun hload => runMma_notLoaded h ht hload,
      fun hda hdb hformat hkind hsparse hfirst hbands => ?_⟩⟩
    rw [runMma_agree h ht hda hdb hformat hkind hsparse hfirst hbands]
    exact ⟨fun hfree => congrArg _ (if_neg (by simp [hfree])), fun hfull => congrArg _ (if_pos (by simp [hfull]))⟩

end Sys2Proof.Machine

namespace Sys2Proof.Machine

/-! PROOF. The coverage commands (R333 to R347, R498, R511). -/

/-- R498: whatever ranges a command writes, where it can be accepted with them it could be accepted without them. -/
theorem covHolds_zero {s : State} {w n : Nat} {wv : Wave} (h : covHolds s w wv n = false) : covHolds s w wv 0 = false := by
  simp only [covHolds, Bool.or_eq_false_iff] at h ⊢
  obtain ⟨hfree, -⟩ := h
  exact ⟨hfree, rfl⟩

/-- Of the sessions a command may meet at acceptance, none has the kind it needs (R498). -/
def misused (s : State) (wv : Wave) (b : Block) (tri : Bool) : Prop := ∀ c, openSession s wv b = some c → c.tri ≠ tri

/-- The groups of words of the primitives a command submits: one for each lane of Live, or one for a uniform command (R333). -/
def submitted (i : Instr) (o : VaFields) (an bn : Nat) (wv : Wave) : List (List Word) :=
  (if isUniform i then (lanesOf (lowestLane wv.live)).map (fun l => 16 + l) else lanesOf wv.live).map
    (fun l => groupWords wv o.a an l ++ groupWords wv o.b bn l)

/-- The record of a coordinate word that is no SQ15.8 word (R511). -/
def coordRecorded (s : State) (wv : Wave) : State :=
  record s { ErrRec.blank cCov 1 (some wv.vale) (some wv.vd) with
    core := wv.core, pc := wv.pos.pc.toNat, slot := wv.slot, unit := 5, detail := trapDetail 0 0 0 1 0 }

/-- The session a COVBEGIN opens (R334, R335). -/
def begunSession (o : VaFields) (wv : Wave) : CovSession := freshSession o.b ((natsFrom 0 4).map (fun j => wv.rdN o.a j 0))

/-! ## What each command comes to -/

section
variable {i : Instr} {o : VaFields} {an bn nc : Nat} {tri : Bool} {s : State} {w : Nat} {wv : Wave} {b : Block} {c : CovSession}

/-- R334, R335: past its wait and its checks, a COVBEGIN opens its session where the unit has room for one. -/
theorem execCovbegin_plain (h : runsNow s w wv (.covbegin o) = true) (hs : plainWave s wv = true) (hb : Tbl.get s.blocks wv.blk = some b)
    (hfree : covHolds s w wv 0 = false) : execCovbegin o s = .next (
      if (openSession s wv b).isSome || sessionBad (begunSession o wv) (b.stashKib * 1024) then raiseInstr s w wv (.covbegin o) cCov 0
      else if ending s b wv.blk || decide (64 ≤ sessionsIn s (glenOfCore wv.core)) then s
      else ((acceptCov s w wv (.covbegin o) (begunSession o wv) [] false).setWave w (wv.advance 4)).modBlock wv.blk
        (fun b => { b with cov := some (begunSession o wv) })) := by
  rw [execCovbegin, runCov_runsNow _ h (not_speculative_of_plainWave hs) hb]
  simp only [poisonedLanes_clean _ _ (poison_of_plainWave hs), hfree, ne_eq, not_true_eq_false, Bool.false_eq_true, if_false]
  rfl

/-- R333, R511: a command in a session of its kind, with room for its ranges, is accepted with the primitives of all its lanes. -/
theorem runSegments_accepted (h : runsNow s w wv i = true) (hs : plainWave s wv = true) (hb : Tbl.get s.blocks wv.blk = some b)
    (hc : openSession s wv b = some c) (htri : c.tri = tri) (hroom : covHolds s w wv (covRanges i c).length = false) :
    let ps := submitted i o an bn wv
    let t := if ps = [] then s else acceptCov s w wv i c ps (o.m.getLsbD 0)
    runSegments i o an bn nc tri s =
      .next ((if ps.any (fun p => (p.take nc).any badCoord) then coordRecorded t wv else t).setWave w (wv.advance 4)) := by
  rw [runSegments, runCov_runsNow _ h (not_speculative_of_plainWave hs) hb]
  simp only [covHolds_zero hroom, hc, htri, hroom, poisonedLanes_clean _ _ (poison_of_plainWave hs), List.contains_nil, Bool.not_false,
    List.filter_true, List.map_nil, consumePoison_nil, ne_eq, not_true_eq_false, Bool.false_eq_true, if_false]
  rfl

/-- R498: with no session of its kind it faults. -/
theorem runSegments_misused (h : runsNow s w wv i = true) (hs : plainWave s wv = true) (hb : Tbl.get s.blocks wv.blk = some b)
    (hfree : covHolds s w wv 0 = false) (hbad : misused s wv b tri) :
    runSegments i o an bn nc tri s = .next (raiseInstr s w wv i cCov 0) := by
  rw [runSegments, runCov_runsNow _ h (not_speculative_of_plainWave hs) hb, hfree]
  cases hc : openSession s wv b with
  | none => rfl
  | some c => exact congrArg _ (if_pos (hbad c hc))

/-- R342: COVRES is accepted in a session of segments, with room for its two ranges. -/
theorem execCovres_accepted (h : runsNow s w wv (.covres o) = true) (hs : plainWave s wv = true) (hb : Tbl.get s.blocks wv.blk = some b)
    (hc : openSession s wv b = some c) (htri : c.tri = false) (hroom : covHolds s w wv 2 = false) :
    execCovres o s = .next ((acceptCov s w wv (.covres o) c [] false).setWave w (wv.advance 4)) := by
  rw [execCovres, runCov_runsNow _ h (not_speculative_of_plainWave hs) hb, covHolds_zero hroom, hc]
  exact congrArg _ ((if_neg (ne_true_of_eq_false htri)).trans (if_neg (ne_true_of_eq_false hroom)))

/-- R342, R498: with no session of segments it faults. -/
theorem execCovres_misused (h : runsNow s w wv (.covres o) = true) (hs : plainWave s wv = true) (hb : Tbl.get s.blocks wv.blk = some b)
    (hfree : covHolds s w wv 0 = false) (hbad : misused s wv b false) :
    execCovres o s = .next (raiseInstr s w wv (.covres o) cCov 0) := by
  rw [execCovres, runCov_runsNow _ h (not_speculative_of_plainWave hs) hb]
  cases hc : openSession s wv b with
  | none => simp only [hfree, Bool.false_eq_true, if_false]
  | some c => simp only [hfree, Bool.eq_true_of_not_eq_false (hbad c hc), Bool.false_eq_true, if_false, if_true]

/-- R343: COVEND needs a session of either kind. -/
theorem execCovend_plain (h : runsNow s w wv (.covend o) = true) (hs : plainWave s wv = true) (hb : Tbl.get s.blocks wv.blk = some b)
    (hfree : covHolds s w wv 0 = false) : execCovend o s = .next (match openSession s wv b with
      | none => raiseInstr s w wv (.covend o) cCov 0
      | some c => (acceptCov s w wv (.covend o) c [] false).setWave w (wv.advance 4)) := by
  rw [execCovend, runCov_runsNow _ h (not_speculative_of_plainWave hs) hb, hfree]
  rfl

/-- R347: in a session of triangles, with all its lanes, COVPOP takes what records there are, or waits. -/
theorem execCovpop_open (h : runsNow s w wv (.covpop o) = true) (hs : plainWave s wv = true) (hb : Tbl.get s.blocks wv.blk = some b)
    (hc : openSession s wv b = some c) (htri : c.tri = true) (hpart : wv.part = 0xFFFF) :
    let tris := ((covQueue s b wv.blk).filter (fun e => isTri e.2.op)).map (fun e => e.1)
    execCovpop o s = .next (
      if (c.count ≠ 0 ∨ tris = []) ∧ popBefore s w wv.blk (s.turns + 1) = false ∧ popHeld s wv.blk c = false then
        popQuads s w wv o.d (o.a.toNat % 8) c
      else s.setWave w { wv with wait := some (.covpop tris o.d (o.a.toNat % 8)) }) := by
  rw [execCovpop, runCov_runsNow _ h (not_speculative_of_plainWave hs) hb]
  simp only [hc, htri, hpart, Bool.not_true, ne_eq, not_true_eq_false, decide_false, Bool.or_self, Bool.false_eq_true, if_false]
  exact congrArg _ (if_congr (by simp [and_assoc]) rfl rfl)

/-- R347, R498: with no session of triangles, or without all its lanes, it faults. -/
theorem execCovpop_misused (h : runsNow s w wv (.covpop o) = true) (hs : plainWave s wv = true) (hb : Tbl.get s.blocks wv.blk = some b)
    (hbad : misused s wv b true ∨ wv.part ≠ 0xFFFF) :
    execCovpop o s = .next (raiseInstr s w wv (.covpop o) cCov 0) := by
  rw [execCovpop, runCov_runsNow _ h (not_speculative_of_plainWave hs) hb]
  cases hc : openSession s wv b with
  | none => rfl
  | some c => exact congrArg _ (if_pos (by simpa using hbad.imp_left fun hbad => hbad c hc))

end

/-! ## Settling O41 -/

/-- The commands of segments and triangles: accepted in a session of their kind, and misused in any other (R498). -/
theorem segments_of_runSegments {i : Instr} {o : VaFields} {an bn nc : Nat} {tri : Bool} {inMode : State → Wave → Block → Bool}
    (he : ∀ s, exec i s = runSegments i o an bn nc tri s) (hmode : ∀ s wv b, inMode s wv b = false → misused s wv b tri) :
    (∀ (s : State) (w : Nat) (wv : Wave) (b : Block) (c : CovSession), runsNow s w wv i = true → plainWave s wv = true →
      Tbl.get s.blocks wv.blk = some b → openSession s wv b = some c → c.tri = tri → covHolds s w wv (covRanges i c).length = false →
      let ps := submitted i o an bn wv
      let t := if ps = [] then s else acceptCov s w wv i c ps (o.m.getLsbD 0)
      exec i s = .next ((if ps.any (fun p => (p.take nc).any badCoord) then coordRecorded t wv else t).setWave w (wv.advance 4))) ∧
    covStep i (fun s w wv b => !covHolds s w wv 0 && !inMode s wv b)
      (fun s w wv _ => raiseInstr s w wv i cCov 0) := by
  refine ⟨fun s w wv b c h hs hb hc htri hroom => (he s).trans (runSegments_accepted h hs hb hc htri hroom), fun s w wv b h hs hb hbad => ?_⟩
  simp only [Bool.and_eq_true, Bool.not_eq_true'] at hbad
  obtain ⟨hfree, hbad⟩ := hbad
  exact (he s).trans (runSegments_misused h hs hb hfree (hmode s wv b hbad))

/-- Settles O41: once nothing holds a command, the session it meets names the branch of its operation. -/
theorem coverageCommands : Obligations.CoverageCommands := by
  refine fun o => ⟨fun s w wv b h hs hb hopen => ?opens, fun s w wv b h hs hb hbad => ?opensAgain, ?line, ?quad, ?cube, ?tri,
    fun s w wv b c hs hb hc => ⟨fun h htri hroom => execCovres_accepted h hs hb hc htri hroom,
      fun h hfree => (execCovend_plain h hs hb hfree).trans (by rw [hc]), fun h htri hpart => execCovpop_open h hs hb hc htri hpart⟩,
    fun s w wv b h hs hb hbad => ?resolveMisused, fun s w wv b h hs hb hbad => ?endMisused, fun s w wv b h hs hb hbad => ?popMisused⟩
  case opens =>
    simp only [Bool.and_eq_true, Bool.not_eq_true', Option.isNone_iff_eq_none, decide_eq_true_eq] at hopen
    obtain ⟨⟨⟨⟨hnone, hgood⟩, hend⟩, hroom⟩, hfree⟩ := hopen
    refine (execCovbegin_plain h hs hb hfree).trans (congrArg _ ((if_neg ?_).trans (if_neg ?_)))
    · simp [hnone, begunSession, hgood]
    · simp [hend, hroom]
  case opensAgain =>
    obtain ⟨hfree, hbad⟩ := Bool.and_eq_true_iff.mp hbad
    exact (execCovbegin_plain h hs hb (Bool.eq_false_of_not_eq_true' hfree)).trans (congrArg _ (if_pos hbad))
  case line | quad | cube | tri =>
    exact segments_of_runSegments (fun _ => rfl) fun s wv b hmode c hc => by simpa [hc] using hmode
  case resolveMisused =>
    simp only [Bool.and_eq_true, Bool.not_eq_true'] at hbad
    obtain ⟨hfree, hmode⟩ := hbad
    exact execCovres_misused h hs hb hfree fun c hc => by simpa [hc] using hmode
  case endMisused =>
    simp only [Bool.and_eq_true, Bool.not_eq_true', Option.isNone_iff_eq_none] at hbad
    obtain ⟨hfree, hnone⟩ := hbad
    exact (execCovend_plain h hs hb hfree).trans (by rw [hnone])
  case popMisused =>
    simp only [Bool.or_eq_true, Bool.not_eq_true', decide_eq_true_eq] at hbad
    exact execCovpop_misused h hs hb (hbad.imp_left fun hmode c hc => by simpa [hc] using hmode)

end Sys2Proof.Machine

namespace Sys2Proof.Machine

/-! SUPPORT. What the fetch of a code word leaves alone (R108, R127, R170): the waves, and the sequencer contexts of the blocks. -/

/-- What can execute (R165, R308): the waves, and the sequencer context of each block. -/
def State.agents (s : State) : Tbl Wave × (Nat → Option (Option SeqCtx)) :=
  (s.waves, fun b => (Tbl.get s.blocks b).map Block.seqCtx)

theorem waves_of_agents {s t : State} (h : t.agents = s.agents) : t.waves = s.waves := congrArg Prod.fst h

theorem seqCtx_of_agents {s t : State} (h : t.agents = s.agents) (blk : Nat) :
    (Tbl.get t.blocks blk).map Block.seqCtx = (Tbl.get s.blocks blk).map Block.seqCtx := congrFun (congrArg Prod.snd h) blk

/-! ## Writes, and rows that give up a line -/

section
variable (s : State)

theorem foldl_agents {α : Type} (l : List α) {f : State → α → State} (h : ∀ t x, (f t x).agents = t.agents) :
    (l.foldl f s).agents = s.agents :=
  List.foldlRecOn (motive := fun t => t.agents = s.agents) l f rfl fun t ht x _ => (h t x).trans ht

/-- A change of a block's rows leaves its sequencer as it is. -/
@[simp] theorem State.setRows_agents (blk : Nat) (rows : Block → Tbl Row) :
    (s.modBlock blk (fun b => { b with rows := rows b })).agents = s.agents := by
  refine Prod.ext rfl (funext fun b => ?_)
  change (Tbl.get (Tbl.modify s.blocks blk _) b).map Block.seqCtx = (Tbl.get s.blocks b).map Block.seqCtx
  by_cases hb : b = blk
  · rw [hb, Tbl.get_modify_same]
    cases Tbl.get s.blocks blk <;> rfl
  · rw [Tbl.get_modify_ne _ _ hb]

@[simp] theorem writeMem_agents (k : Nat) (bs : List Byte) : (writeMem s k bs).agents = s.agents := rfl

@[simp] theorem poisonSectors_agents (js : List Nat) : (poisonSectors s js).agents = s.agents := rfl

@[simp] theorem crossNow_agents (die k : Nat) (rel : Bool) : (crossNow s die k rel).agents = s.agents := by
  unfold crossNow
  split <;> rfl

@[simp] theorem giveUp_agents (line : Nat) : (giveUp s line).agents = s.agents := by
  refine foldl_agents s _ fun t e => foldl_agents t _ fun t r => ?_
  split
  · rfl
  · refine (State.setRows_agents _ _ _).trans ?_
    rw [apply_ite State.agents, crossNow_agents, ite_self]
    exact foldl_agents t _ fun u j => by simp only [apply_ite State.agents, poisonSectors_agents, writeMem_agents, ite_self]

@[simp] theorem writeLog_agents (k : Nat) (bs : List Byte) : (writeLog s k bs).agents = s.agents := by
  rw [writeLog, writeMem_agents, foldl_agents s _ giveUp_agents]

@[simp] theorem writeLogs_agents (ps : List (Nat × Nat)) (bs : List Byte) : (writeLogs s ps bs).agents = s.agents := by
  induction ps generalizing s bs with
  | nil => rfl
  | cons p ps ih => rw [writeLogs, ih, writeLog_agents]

theorem undoPut_agents (v : Vale) (ipa : Nat) (bs : List Byte) (bad : Bool) : ((undoPut s v ipa bs bad).getD s).agents = s.agents := by
  unfold undoPut
  split
  · rfl
  · simp [apply_ite State.agents]

@[simp] theorem logLine_agents (vale vd line : Nat) : (logLine s vale vd line).agents = s.agents := by
  have hput (t : State) (p : Prop) [Decidable p] (v : Vale) (i j : Nat) (bs cs : List Byte) (bad : Bool) :
      (if p then (undoPut t v i bs bad).getD t else (undoPut ((undoPut t v i bs bad).getD t) v j cs bad).getD ((undoPut t v i bs bad).getD t)).agents =
        t.agents := by
    simp only [apply_ite State.agents, undoPut_agents, ite_self]
  unfold logLine
  split
  · split
    · rfl
    · refine (foldl_agents _ _ fun t j => ?_).trans (hput _ _ _ _ _ _ _ _)
      rw [apply_ite State.agents, hput, ite_self]
  · rfl

@[simp] theorem markDirty_agents (vale vd : Nat) (ipa : Option Nat) : (markDirty s vale vd ipa).agents = s.agents := by
  unfold markDirty
  split
  · split
    · rfl
    · dsimp only
      split
      · rfl
      · exact writeLog_agents s _ _
  · rfl

/-! ## The home slices -/

@[simp] theorem l2Use_agents (r : L2Req) (line : Nat) (sectors : BitVec 4) (old : List Byte) : (l2Use s r line sectors old).agents = s.agents := by
  unfold l2Use
  dsimp only
  split
  · split
    · rfl
    · split <;> rfl
  · split <;> rfl

@[simp] theorem l2Read_agents (vale vd k n : Nat) (hint : BitVec 2) (nc dev : Bool) : (l2Read s vale vd k n hint nc dev).agents = s.agents := by
  unfold l2Read
  split
  · rfl
  · exact foldl_agents s _ fun t j => l2Use_agents t _ j _ _

@[simp] theorem l2Write_agents (vale vd k : Nat) (bs : List Byte) (hint : BitVec 2) (nc dev : Bool) :
    (l2Write s vale vd k bs hint nc dev).agents = s.agents := by
  unfold l2Write
  split
  · rfl
  · exact foldl_agents _ _ fun t j => l2Use_agents t _ j _ _

@[simp] theorem vdWrite_agents (vale vd : Nat) (ipa : Option Nat) (k : Nat) (bs : List Byte) : (vdWrite s vale vd ipa k bs).agents = s.agents := by
  unfold vdWrite vdStore
  rw [l2Write_agents, markDirty_agents, apply_ite State.agents, foldl_agents s _ fun t j => logLine_agents t vale vd j, ite_self]

@[simp] theorem sectorBack_agents (b : Block) (row : Nat) (r : Row) (j : Nat) : (sectorBack s b row r j).agents = s.agents := by
  unfold sectorBack
  dsimp only
  split
  · rfl
  · split
    · rfl
    · rw [apply_ite State.agents, poisonSectors_agents, vdWrite_agents, ite_self]

@[simp] theorem writeRowBack_agents (blk row : Nat) : (writeRowBack s blk row).agents = s.agents := by
  unfold writeRowBack
  split
  · rfl
  · split
    · rfl
    · split
      · rw [State.setRows_agents, apply_ite State.agents, crossNow_agents, ite_self]
        exact foldl_agents s _ fun t j => by rw [apply_ite State.agents, sectorBack_agents, ite_self]
      · rfl

@[simp] theorem recallLine_agents (line blk row : Nat) : (recallLine s line blk row).agents = s.agents := by
  refine foldl_agents s _ fun t e => ?_
  split
  · rfl
  · refine foldl_agents t _ fun u r => ?_
    rw [apply_ite State.agents, State.setRows_agents, writeRowBack_agents, ite_self]

@[simp] theorem mergeKnown_agents (die home : Nat) : (mergeKnown s die home).agents = s.agents := by
  unfold mergeKnown
  split <;> rfl

@[simp] theorem homeRead_agents (die vale vd k n : Nat) (hint : BitVec 2) (nc dev : Bool) :
    (homeRead s die vale vd k n hint nc dev).1.agents = s.agents := by
  simp [homeRead]

theorem freeBytes_agents (n : Nat) : (freeBytes s n).1.agents = s.agents := by
  induction n generalizing s with
  | zero => rfl
  | succ n ih => exact ih _

@[simp] theorem elseBytes_agents (vale : Nat) (t : Target) (n : Nat) : (elseBytes s vale t n).1.agents = s.agents := by
  cases t with
  | control => rfl
  | _ => exact freeBytes_agents s n

/-! ## Translation -/

@[simp] theorem setAD_agents (l : Leaf) (write : Bool) : (setAD s l write).agents = s.agents := by
  unfold setAD
  extract_lets e e'
  split <;> rfl

@[simp] theorem readTables_agents (vale vd : Nat) (ks : List (Nat × Bool)) : (readTables s vale vd ks).agents = s.agents :=
  foldl_agents s _ fun t k => by rw [l2Read_agents, recallLine_agents]

@[simp] theorem walkBoth_agents (v : Vale) (d : Vd) (vale vd va : Nat) (write : Bool) : (walkBoth s v d vale vd va write).1.agents = s.agents := by
  unfold walkBoth
  extract_lets w t bad
  have ht : t.agents = s.agents := (foldl_agents _ _ fun t l => setAD_agents t l false).trans (readTables_agents s vale vd w.keys)
  split
  · exact ht
  · dsimp only
    split <;> simp [ht]

@[simp] theorem tlbFill_agents (core level : Nat) (e : TlbEntry) : (tlbFill s core level e).agents = s.agents := by
  unfold tlbFill
  dsimp only
  split <;> split <;> split <;> rfl

@[simp] theorem translate_agents (core : Option Nat) (vale vd va size : Nat) (k : AccKind) :
    (translate s core vale vd va size k).1.agents = s.agents := by
  have hwalk := walkBoth_agents s
  unfold translate
  split
  · rfl
  · split
    · split
      · dsimp only
        split
        · exact tlbFill_agents s _ _ _
        · rfl
      · split
        · next heq => exact (congrArg (fun r => r.1.agents) heq).symm.trans (hwalk _ _ _ _ _ _)
        · next heq =>
          refine Eq.trans ?_ ((congrArg (fun r => r.1.agents) heq).symm.trans (hwalk _ _ _ _ _ _))
          dsimp only
          split
          · exact tlbFill_agents _ _ _ _
          · rfl
    · rfl

/-! ## Fetch -/

@[simp] theorem fetchWord_agents (core vale vd : Nat) (addr : DWord) : (fetchWord s core vale vd addr).1.agents = s.agents := by
  have htrans := translate_agents s (some core) vale vd addr.toNat 4 .fetch
  unfold fetchWord
  split
  · rfl
  · split
    · next heq => exact (congrArg (fun r => r.1.agents) heq).symm.trans htrans
    · next t x heq =>
      have ht : t.agents = s.agents := (congrArg (fun r => r.1.agents) heq).symm.trans htrans
      refine Eq.trans ?_ ht
      dsimp only
      split
      · split
        · exact homeRead_agents t _ _ _ _ _ _ _ _
        · exact elseBytes_agents t _ _ _
      · split
        · exact homeRead_agents t _ _ _ _ _ _ _ _
        · exact elseBytes_agents t _ _ _

theorem agents_of_fetchWord {t : State} {core vale vd : Nat} {addr : DWord} {r : Except AddrFault Word} (h : fetchWord s core vale vd addr = (t, r)) :
    t.agents = s.agents :=
  (congrArg (fun x => x.1.agents) h).symm.trans (fetchWord_agents s core vale vd addr)

theorem agents_of_fetchLit {t : State} {wv : Wave} {x : Word} {r : Except AddrFault (Option Word)} (h : fetchLit s wv x = (t, r)) :
    t.agents = s.agents := by
  unfold fetchLit at h
  split at h
  · split at h
    · next heq =>
      obtain ⟨rfl, -⟩ := Prod.mk.inj h
      exact agents_of_fetchWord s heq
    · next heq =>
      obtain ⟨rfl, -⟩ := Prod.mk.inj h
      exact agents_of_fetchWord s heq
  · obtain ⟨rfl, -⟩ := Prod.mk.inj h
    rfl

end

end Sys2Proof.Machine

namespace Sys2Proof.Machine

/-! PROOF. Every step answers a next state (R5, R479, R481). -/

/-! ## What an execution needs -/

theorem completes_next (s : State) : completes (.next s) := ⟨s, rfl⟩

theorem completes_andThen {o : Host.Outcome State Fault Refusal} (f : State → State) (h : completes o) : completes (andThen o f) := by
  obtain ⟨t, rfl⟩ := h
  exact completes_next _

theorem withLit_ne_nil (x : Word) (lit : Option Word) : withLit x lit ≠ [] := by
  cases lit <;> exact List.cons_ne_nil _ _

/-- An instruction that no word encodes is an event, and every event's meaning is a next state. -/
theorem completes_event {i : Instr} (s : State) (h : encode i = []) : completes (exec i s) := by
  cases i
  case kstepRetire | teamClaim | generationScrub | handlerLaunch | watchdogExpiry | sleepWake | monitorWake | commandAccept |
    copySectorWritten | commandRetire | covCommandRetire | bandEncoded | fetchCard | pluginInvocation | cardReady | prologueStart |
    dealChunk | placeRound | jobRetire | suspendWake | blockSaveDone | blockResume | carveConversion | periodBoundary | switchoutCutTimeout
    | accountingWindow | checkpointCut | cutComplete | rollbackDone | taskAdmit | taskPlace | taskCommit | saddleUpdateApply |
    invalidationComplete | migrationDone | leaseStart | leaseEnd | saveDrainTimeout | cutTimeout | commandTimeout | colWatchdogTimeout |
    vdStopTimeout | glenScrubComplete | glenFailure | memError | patrolScrub | linkCrcFail | linkRetrainTimeout | passLinkDown | fabricRead
    | fabricPostedWrite | fabricAtomic | fabricPostedAtomic | fabricResponse | fabricResponseTimeout | fabricRekey | timeSyncMessage |
    timeMasterTimeout | holdoverExpiry | reset | bringUpStepDone | clockControl | thermalTrip | lcReq | limitWrite | alarmClear |
    registerWrite | vdcWrite | vdcEnSet | vdcEnClear | hostPostWrite | apertureWrite | apertureRead | s1inv | migrate | cut | rollback |
    switchout | statclr | qcbwr | fwwave | plugin | create | fuse | split | s2root | s2inv | lease | revoke | importEntry | dirtyStart |
    dirtySwap | dirtyStop | vdStop | vdExport | vdImport | vdResume | pageCopy | perValeReset | valeResetComplete | getVersion |
    getCapabilities | negotiateAlgorithms | getDigests | getCertificate | challenge | getMeasurements | keyExchange | finish | heartbeat |
    heartbeatTimeout | keyUpdate | endSession | ideKm | ideStreamFault | lockInterfaceRequest | startInterfaceRequest | stopInterfaceRequest
    | tdiWipeComplete | getDeviceInterfaceState | getDeviceInterfaceReport | configWrite | accessPerformed | loadComplete | appliedNotice |
    retrainComplete | wakeBoostEnd | parkuntilExpiry =>
    exact ⟨_, rfl⟩
  case bra | call | mxrd | mxwr | mxstat | mnop | mteam | mdesc | mzero | mma | mmas | mloop | mloopMreg | mendl | mbarw | mbara | mset | madd |
    mbuf | mfence | mend =>
    exact absurd h (List.cons_ne_nil _ _)
  all_goals exact absurd h (withLit_ne_nil _ _)

/-- An instruction of a wave needs the wave that executes it. -/
theorem Framed.completes {i : Instr} {s : State} (hi : Framed i) (h : s.curWave.isSome) : completes (exec i s) := by
  obtain ⟨op, he⟩ := hi
  rw [he]
  rcases runWave_cases (rfl : runWave i op s = _) with ⟨hnone, -⟩ | ⟨w, wv, -, ⟨-, hr⟩ | ⟨-, c, -, hr⟩ | ⟨-, -, hr⟩⟩
  · simp [hnone] at h
  all_goals exact ⟨_, hr⟩

/-- R309: what a sequencer decodes is a stream word. -/
theorem isStream_of_decodeStream {x : Word} {i : Instr} (h : decodeStream x = .ok i) : i.isStream = true := by
  unfold decodeStream at h
  split at h
  case h_7 =>
    split at h <;> cases h <;> rfl
  all_goals cases h <;> rfl

/-- A stream word needs the sequencer context that executes it (R308). -/
theorem completes_stream {i : Instr} {s : State} {blk : Nat} {b : Block} {c : SeqCtx} (hi : i.isStream = true) (hcur : s.cur = .seq blk)
    (hb : Tbl.get s.blocks blk = some b) (hc : b.seqCtx = some c) : completes (exec i s) := by
  obtain ⟨op, he⟩ := runStream_of_isStream hi
  simp only [he, runStream, hcur, hb, hc]
  exact completes_next _

/-! ## What a turn issues -/

/-- What a wave's turn issues is an instruction of a wave, and the wave is there to execute it. -/
def Issued.ready : Issued → Prop
  | .run u i => u.curWave.isSome ∧ Framed i
  | _ => True

section
variable {s : State} {w : Nat} {wv : Wave}

theorem isSome_setWave (s : State) (w : Nat) (x : Wave) : (Tbl.get (s.setWave w x).waves w).isSome := by
  simp [State.setWave]

/-- The instruction that a word decodes to is issued by the wave that fetched it. -/
theorem issueWord_ready (c : Clause) (h : (Tbl.get s.waves w).isSome) : (issueWord s w wv c).ready := by
  unfold issueWord
  split
  · trivial
  split
  · trivial
  split
  · trivial
  next t x hfetch =>
    dsimp only
    split
    · trivial
    split
    · trivial
    split
    · trivial
    split
    · trivial
    split
    · trivial
    split
    · trivial
    split
    · trivial
    next u lit hlit =>
      split
      · trivial
      next i hi =>
        have hwaves : u.waves = s.waves := (waves_of_agents (agents_of_fetchLit t hlit)).trans (waves_of_agents (agents_of_fetchWord s hfetch))
        obtain ⟨x, hx⟩ := Option.isSome_iff_exists.mp h
        exact ⟨by rw [curWave_of_cur rfl (hwaves.symm ▸ hx)]; rfl, framed_of_decodeWord hi⟩

theorem issueHeader_ready (x : Word) : (issueHeader s w wv x).ready := by
  unfold issueHeader
  split
  · trivial
  split
  · trivial
  dsimp only
  split
  · trivial
  · exact issueWord_ready _ (isSome_setWave s w _)

theorem issueNext_ready (h : (Tbl.get s.waves w).isSome) : (issueNext s w wv).ready := by
  unfold issueNext
  split
  · exact issueWord_ready _ h
  split
  · trivial
  split
  · trivial
  · exact issueHeader_ready _

/-- A wait that is looked at again leaves the wave there. -/
theorem isSome_testWait (h : (Tbl.get s.waves w).isSome) : (Tbl.get (testWait s w wv).1.waves w).isSome := by
  unfold testWait
  dsimp only
  split
  · split
    · exact isSome_setWave s w _
    · exact h
  · split
    · exact isSome_setWave s w _
    · exact h
  · exact h

/-- A wave that has read its clause's header again is there. -/
theorem isSome_of_readAgain {t : State} {x : Wave} {c : Clause} (heq : readAgain s w wv c = (t, some x)) : (Tbl.get t.waves w).isSome := by
  unfold readAgain at heq
  split at heq
  · cases heq
  split at heq
  · cases heq
  · cases heq
    exact isSome_setWave _ _ _

theorem issueWave_ready (s : State) (w : Nat) (defer : Bool) : (issueWave s w defer).ready := by
  unfold issueWave
  split
  · trivial
  next wv hw =>
    have hgo {t : State} (x : Wave) (h : (Tbl.get t.waves w).isSome) : Issued.ready (match testWait t w x with
        | (u, y) => if (y.wait.isSome && y.standing) || lookaheadHolds y || queueHeld u y then .done u
          else issueNext { u with defer := defer } w y) := by
      dsimp only
      split
      · trivial
      · exact issueNext_ready (isSome_testWait h)
    split
    · trivial
    split
    · split <;> trivial
    split
    · trivial
    dsimp only
    split
    · split
      · trivial
      split
      · trivial
      next heq => exact hgo _ (isSome_of_readAgain heq)
    · exact hgo _ (by simp [hw])

theorem turnWave_ready (s : State) (w : Nat) (defer : Bool) : (turnWave s w defer).ready := by
  unfold turnWave
  split
  · trivial
  dsimp only
  split
  · split
    · trivial
    · exact issueWave_ready s w defer
  · split
    · trivial
    · exact issueWave_ready s w defer
  · exact issueWave_ready s w defer

/-- A unit noted as used leaves the executing wave there. -/
theorem spendUnit_curWave (s : State) (w : Nat) (i : Instr) : (spendUnit s w i).curWave = s.curWave := by
  unfold spendUnit
  split <;> rfl

/-- R308: what a sequencer's turn issues is a stream word, and its context is there to execute it. -/
theorem completes_issueSeq {u : State} {blk : Nat} {i : Instr} (h : issueSeq s blk = .run u i) : completes (exec i u) := by
  unfold issueSeq at h
  split at h
  · cases h
  next b hb =>
    split at h
    · cases h
    next c hc =>
      split at h
      · cases h
      split at h
      · cases h
      next t x hfetch =>
        split at h
        · cases h
        next j hj =>
          cases h
          have hseq := seqCtx_of_agents (agents_of_fetchWord s hfetch) blk
          rw [hb] at hseq
          obtain ⟨b', hb', hc'⟩ := Option.map_eq_some_iff.mp hseq
          exact completes_stream (isStream_of_decodeStream hj) rfl hb' (hc'.trans hc)

end

/-! ## Settling O7 -/

theorem completes_waveTurn (s : State) (w : Nat) (defer : Bool) : completes (waveTurn s w defer) := by
  unfold waveTurn
  split
  · exact completes_next s
  have hready := turnWave_ready ((spendWave s w).modWave w (fun x => { x with yielded := false })) w defer
  split
  · exact completes_next _
  · exact completes_next _
  next u i heq =>
    split
    · exact completes_next s
    rw [heq] at hready
    obtain ⟨hcur, hframed⟩ := hready
    exact completes_andThen _ (hframed.completes ((spendUnit_curWave u w i).symm ▸ hcur))

theorem completes_rankedTurn (s : State) (w : Nat) (defer : Bool) (late : List Nat) : completes (rankedTurn s w defer late) := by
  unfold rankedTurn
  split
  · exact completes_next s
  · exact completes_waveTurn _ w defer

theorem completes_seqTurn (s : State) (blk : Nat) : completes (seqTurn s blk) := by
  unfold seqTurn
  split
  · exact completes_next s
  split
  · exact completes_next _
  · exact completes_next _
  next heq => exact completes_andThen _ (completes_issueSeq heq)

theorem completes_happen (s : State) (i : Instr) : completes (happen s i) := by
  unfold happen
  split
  next h => exact completes_event s (List.isEmpty_iff.mp h)
  · exact completes_next s

theorem completes_runChoice (s : State) (c : Choice) : completes (runChoice s c) := by
  cases c with
  | event i => exact completes_happen s i
  | issue w defer => exact completes_rankedTurn s w defer []
  | issueAmong w defer late => exact completes_rankedTurn s w defer late
  | sequence blk => exact completes_seqTurn s blk
  | evictL1 | evictCode | evictConst | evictTlb | evictL2 | evictGlenTlb | evictDieTlb | readSlab | clockBegin | clockEnd | tick =>
    exact completes_next _

/-- Settles O7: an event is a next state by itself; a turn issues only what its agent is there to execute. -/
theorem stepNeverFaults : Obligations.StepNeverFaults := by
  intro s
  unfold step
  split
  · exact completes_runChoice _ _
  · exact completes_runChoice s _

end Sys2Proof.Machine

namespace Sys2Proof.Machine

/-! PROOF. The instructions of a task (R368, R374 to R378). -/

/-! ## The frame of a task's instructions -/

section
variable {i : Instr} {op f : State → Nat → Wave → Nat → Task → State} {p : State → Nat → Wave → Nat → Task → Bool}

/-- In a wave of a task the operation of a task instruction runs. -/
theorem taskStep_of_runTask (he : ∀ s, exec i s = runTask i op s)
    (hop : ∀ s w wv q t, wv.poison = [] → p s w wv q t = true → op s w wv q t = f s w wv q t) : taskStep i p f := by
  intro s w wv q t h hpoison htask hp
  rw [he, runTask_runsNow _ h, htask]
  exact congrArg _ (hop s w wv q t hpoison hp)

/-- Outside an ORDERED job a task instruction faults TASK. -/
theorem exec_of_noTask (he : ∀ s, exec i s = runTask i op s) {s : State} {w : Nat} {wv : Wave} (h : runsNow s w wv i = true)
    (htask : s.taskOf wv = none) : exec i s = .next (raiseInstr s w wv i cTask 0) := by
  rw [he, runTask_runsNow _ h, htask]

end

/-! ## TSPAWN -/

/-- R368: where an entry is free no task is aborted for one. -/
theorem freeEntries_of_entryFree {s : State} {vale : Nat} (h : entryFree s vale = true) (job q fuel : Nat) : freeEntries vale job q fuel s = s := by
  cases fuel with
  | zero => rfl
  | succ fuel => exact if_pos h

/-- R375: one lane that reads its arguments and finds an entry makes its child. -/
theorem spawnLanes_single {s : State} {w : Nat} {wv : Wave} {o : VaFields} {q l : Nat} {od : Ordered} (hod : orderedOf s wv.job = some od)
    (hseq : od.seqNext < 2 ^ 32 - 1) (hclean : (readStash s wv.blk (wv.rd o.b (l % 16)).toNat 64).2.2 = false)
    (hfree : entryFree (readStash s wv.blk (wv.rd o.b (l % 16)).toNat 64).1 wv.vale = true) :
    spawnLanes w wv o q [l] s =
      let r := readStash s wv.blk (wv.rd o.b (l % 16)).toNat 64
      (addTask r.1 wv.job (freshTask (wv.rd64 (o.a + 2) (l % 16)) (some q)
        (((orderedOf r.1 wv.job).bind (fun x => Tbl.get x.tasks q)).elim 0 (fun t => t.record)) (wv.rd64 o.a (l % 16)) (wordsOfBytes r.2.1)),
        ⟨[], [], []⟩) := by
  rw [spawnLanes, hod]
  simp only [if_neg hseq.not_ge, hclean, Bool.false_eq_true, if_false, freeEntries_of_entryFree hfree, if_pos hfree, spawnLanes]

/-- The lanes of a TSPAWN (R375): those of Live, or the lowest of them in a uniform one. -/
def spawnOf (o : VaFields) (wv : Wave) : List Nat :=
  if isScalar o.a && isScalar o.b then (lanesOf (lowestLane wv.live)).map (fun l => 16 + l) else lanesOf wv.live

theorem taskStep_tspawn (o : VaFields) :
    taskStep (.tspawn o)
      (fun s w wv q t =>
        let r := spawnLanes w wv o q (spawnOf o wv) s
        (spawnOf o wv).all (fun l => (spawnFault s o wv t (l % 16)).isNone) && !spawnHeld s w wv o (spawnOf o wv) && decide (r.2.failed = []) &&
          decide (r.2.poisoned = []) && decide (r.2.left = []) && decide (Tbl.get r.1.waves w = some wv))
      (fun s w wv q _ => (spawnLanes w wv o q (spawnOf o wv) s).1.setWave w (wv.advance 4)) := by
  refine taskStep_of_runTask (fun _ => rfl) fun s w wv q t hpoison hp => ?_
  simp only [Bool.and_eq_true, Bool.not_eq_true', decide_eq_true_eq] at hp
  obtain ⟨⟨⟨⟨⟨hfine, hheld⟩, hfailed⟩, hpoisoned⟩, hleft⟩, hwave⟩ := hp
  have hbad : (spawnOf o wv).filterMap (fun l => (spawnFault s o wv t (l % 16)).map (fun f => (l, f))) = [] := by
    refine List.filterMap_eq_nil_iff.mpr fun l hl => ?_
    rw [Option.isNone_iff_eq_none.mp (List.all_eq_true.mp hfine l hl)]
    rfl
  have hlanes : (if (isScalar o.a && isScalar o.b) = true then (lanesOf (lowestLane wv.live)).map (fun l => 16 + l) else lanesOf wv.live) =
      spawnOf o wv := rfl
  simp only [hlanes, poisonedLanes_clean _ _ hpoison, List.contains_nil, Bool.not_false, List.filter_true, hbad, List.map_nil, hheld, Bool.false_eq_true,
    if_false, hleft, ne_eq, not_true_eq_false, hwave, hfailed, hpoisoned, List.append_nil, consumePoison_nil]

/-! ## Settling O38 -/

/-- Settles O38: each instruction is its operation in the frame of a task. -/
theorem taskInstructions : Obligations.TaskInstructions := by
  unfold Obligations.TaskInstructions
  intro lanes o
  refine ⟨?tend, ?abort, ?abortIrrevocable, ?goesOn, ?frontier, ?waits, taskStep_tspawn o, ?single, ?outside⟩
  case tend => exact taskStep_of_runTask (fun _ => rfl) fun _ _ _ _ _ _ hp => if_pos hp
  case abort => exact taskStep_of_runTask (fun _ => rfl) fun _ _ _ _ _ _ hp => if_neg (by simpa using hp)
  case abortIrrevocable => exact taskStep_of_runTask (fun _ => rfl) fun _ _ _ _ _ _ hp => if_pos hp
  case goesOn => exact taskStep_of_runTask (fun _ => rfl) fun _ _ _ _ _ _ hp => if_pos hp
  case frontier =>
    refine taskStep_of_runTask (fun _ => rfl) fun s w wv q t _ hp => ?_
    simp only [Bool.and_eq_true, Bool.not_eq_true'] at hp
    obtain ⟨⟨hrev, hfront⟩, hlock⟩ := hp
    simp only [hrev, hfront, hlock, Bool.false_eq_true, if_false, Bool.and_self, if_true]
  case waits =>
    refine taskStep_of_runTask (fun _ => rfl) fun s w wv q t _ hp => ?_
    simp only [Bool.and_eq_true, Bool.not_eq_true'] at hp
    obtain ⟨hrev, hfront⟩ := hp
    simp only [hrev, hfront, Bool.false_eq_true, if_false, Bool.false_and]
  case single => exact fun s w wv q l od hod hseq hclean hfree => spawnLanes_single hod hseq hclean hfree
  case outside =>
    intro i hi s w wv h htask
    simp only [List.mem_cons, List.not_mem_nil, or_false] at hi
    rcases hi with rfl | rfl | rfl | rfl
    · exact exec_of_noTask (fun _ => rfl) h htask
    · exact exec_of_noTask (fun _ => rfl) h htask
    · exact exec_of_noTask (fun _ => rfl) h htask
    · exact exec_of_noTask (fun _ => rfl) h htask

end Sys2Proof.Machine

namespace Sys2Proof.Machine

/-! PROOF. The scale-up fabric (R422 to R425, R506, R519, R536). -/

/-! ## Inbound requests -/

section
variable {s : State} {r : FabricReq} {bit : Nat} {f : State → Nat → State × List Byte × Bool}

/-- R423: an inbound request is performed once the rows that own its lines have given them up. -/
theorem inbound_at {k : Nat} (h : judge s r bit = .at_ k) (posted : Bool) :
    inbound s r bit posted f =
      let x := f ((unitsOf 128 k r.size).foldl (fun s j => recallLine s j noRow noRow) s) k
      { noteSeen x.1 r x.2.1 with reply := if posted then .ok else if x.2.2 then .poisoned x.2.1 else .bytes x.2.1 } := by
  rw [inbound, h]

/-- R519: a request that has been performed is answered again, and not performed. -/
theorem inbound_again {bs : List Byte} (h : judge s r bit = .again bs) (posted : Bool) :
    inbound s r bit posted f = { answerFlit s r with reply := if posted then .ok else .bytes bs } := by
  rw [inbound, h]
  rfl

theorem inbound_refused (h : judge s r bit = .refused) (posted : Bool) : inbound s r bit posted f = { answerFlit s r with reply := .error 0 } := by
  rw [inbound, h]

theorem inbound_badTag (h : judge s r bit = .badTag) (posted : Bool) : inbound s r bit posted f = { badFlit s r.src with reply := .none } := by
  rw [inbound, h]

theorem inbound_wait (h : judge s r bit = .wait) (posted : Bool) : inbound s r bit posted f = s := by
  rw [inbound, h]

/-- R425: a flit whose tag fails is discarded, whatever it asks for. -/
theorem judge_badTag (henc : r.enc = true) (htag : r.tagGood = false) : judge s r bit = .badTag := by
  simp [judge, henc, htag]

/-- R424: where nothing is exported, no request that is new is permitted. -/
theorem judge_refused (henc : r.enc = false) (hnew : ∀ e ∈ s.inSeen, e.1 = r.src → e.2.1 ≠ r.seq) (himports : s.imports = []) :
    judge s r bit = .refused := by
  have hseen : s.inSeen.find? (fun e => decide (e.1 = r.src) && decide (e.2.1 = r.seq)) = none :=
    List.find?_eq_none.mpr fun e he => by simpa using hnew e he
  have hallows : importAllows s r bit = false := by simp [importAllows, himports, Tbl.first]
  simp [judge, henc, hseen, hallows]

end

/-! ## Responses -/

section
variable {s : State} {idx : Nat} {r : OutReq} {resp : FabricResp}

/-- What a response comes to once its request is done with (R506): an engine keeps it, a lane takes it, and a posted request is acknowledged
or lost. -/
def responded (t : State) (r : OutReq) (resp : FabricResp) : State :=
  match r.eng, r.load, resp with
  | some (c, k), _, .data bs p => engAnswered t r c k none bs p
  | some (c, k), _, .refusal => engAnswered t r c k (some (cProtect, 12)) [] false
  | some (c, k), _, .badTag => engAnswered (badFlit t r.pkg) r c k (some (cProtect, 13)) [] false
  | none, some (w, l, lane), .data bs p => deliverRead t w l lane r.pa none bs p
  | none, some (w, l, lane), .refusal => deliverRead t w l lane r.pa (some (cProtect, 12)) [] false
  | none, some (w, l, lane), .badTag => deliverRead (badFlit t r.pkg) w l lane r.pa (some (cProtect, 13)) [] false
  | none, none, .refusal => postLost t r 3
  | none, none, .badTag => postLost (badFlit t r.pkg) r 4
  | _, _, _ => t

/-- R439, R536: before its floor a response changes nothing. -/
theorem exec_fabricResponse_early (hr : Tbl.get s.outReqs idx = some r) (hsync : s.tsync ≠ 2) (hfloor : s.tod.toNat < r.sentAt + 64) :
    exec (.fabricResponse idx resp) s = .next s := by
  change execFabricResponse idx resp s = _
  simp only [execFabricResponse, hr, decide_eq_true hsync, decide_eq_true hfloor, Bool.and_self, Bool.or_true, if_true]

/-- A response that may arrive ends its request (R506); a read is never just acknowledged. -/
theorem exec_fabricResponse (hr : Tbl.get s.outReqs idx = some r) (hfloor : s.tsync = 2 ∨ r.sentAt + 64 ≤ s.tod.toNat)
    (hup : (linkOf s (.pass r.link)).retraining = false) (hlink : r.link ≠ 36) (hbehind : reqBehind s idx r = false)
    (hkind : resp = .ack → r.load = none ∧ r.eng = none) :
    exec (.fabricResponse idx resp) s =
      .next (responded (postDone (responseFlit { s with outReqs := Tbl.erase s.outReqs idx } r resp) r) r resp) := by
  have hack : ((r.load.isSome || r.eng.isSome) && decide (resp = .ack)) = false := by
    by_cases h : resp = .ack
    · simp [hkind h]
    · simp [h]
  have hdue : (decide (s.tsync ≠ 2) && decide (s.tod.toNat < r.sentAt + 64)) = false := by
    rcases hfloor with h | h
    · simp [h]
    · simp [h.not_gt]
  change execFabricResponse idx resp s = _
  simp only [execFabricResponse, hr, hup, hlink, hbehind, hack, hdue, decide_false, Bool.or_self, Bool.false_eq_true, if_false, responded]
  rcases r.eng with _ | ⟨c, k⟩ <;> rcases r.load with _ | ⟨w, l, lane⟩ <;> cases resp <;> rfl

/-- What a request comes to that has had no response (R506, R519), once it is done with. -/
def unanswered (u : State) (r : OutReq) : State :=
  match r.load, r.eng with
  | some (w, l, lane), _ => deliverRead u w l lane r.pa (some (cProtect, 14)) [] false
  | none, some (c, k) => engAnswered u r c k (some (cProtect, 14)) [] false
  | none, none => postLost u r 5

/-- R506, R519: a request whose time is over, or that has no route, ends without a response. -/
theorem exec_fabricResponseTimeout (hr : Tbl.get s.outReqs idx = some r) (hover : r.link = 36 ∨ r.sentAt + 600000 ≤ s.tod.toNat) :
    exec (.fabricResponseTimeout idx) s = .next (unanswered (postDone { s with outReqs := Tbl.erase s.outReqs idx } r) r) := by
  have hnow : ¬(decide (r.link ≠ 36) && decide (s.tod.toNat < r.sentAt + 600000)) = true := by
    rcases hover with h | h
    · simp [h]
    · simp [h.not_gt]
  change execFabricResponseTimeout idx s = _
  simp only [execFabricResponseTimeout, hr, if_neg hnow]
  rfl

end

/-! ## Settling O52 -/

/-- Each request of R423 is framed alike. -/
theorem exec_of_inbound (r : FabricReq) (s : State) (i : Nat × Instr)
    (hi : i ∈ [(42, Instr.fabricRead r), (43, .fabricPostedWrite r), (44, .fabricAtomic r), (44, .fabricPostedAtomic r)]) :
    ∃ posted f, exec i.2 s = .next (inbound s r i.1 posted f) := by
  simp only [List.mem_cons, List.not_mem_nil, or_false] at hi
  rcases hi with rfl | rfl | rfl | rfl <;> exact ⟨_, _, rfl⟩

/-- Settles O52: the judgement of an inbound request, the response and its absence, and the new keys. -/
theorem fabricEvents : Obligations.FabricEvents := by
  unfold Obligations.FabricEvents
  intro run
  refine ⟨fun r s k => ⟨?read, ?write, ?atomic, fun i hi => ?stopped, fun bs => ⟨?readAgain, ?writeAgain, ?atomicAgain⟩, judge_badTag, judge_refused⟩,
    fun idx s r hr => ⟨fun hsync hfloor resp => exec_fabricResponse_early hr hsync hfloor, fun hfloor hup hlink hbehind => ?responses, fun hover => ?timeouts⟩,
    fun _ _ => rfl⟩
  case read => exact fun h => congrArg _ (inbound_at h false)
  case write => exact fun h => congrArg _ (inbound_at h true)
  case atomic => exact fun h => ⟨congrArg _ (inbound_at h false), congrArg _ (inbound_at h true)⟩
  case stopped =>
    obtain ⟨posted, f, he⟩ := exec_of_inbound r s i hi
    rw [he]
    exact ⟨fun h => congrArg _ (inbound_refused h posted), fun h => congrArg _ (inbound_badTag h posted), fun h => congrArg _ (inbound_wait h posted)⟩
  case readAgain => exact fun h => congrArg _ (inbound_again h false)
  case writeAgain => exact fun h => congrArg _ (inbound_again h true)
  case atomicAgain => exact fun h => ⟨congrArg _ (inbound_again h false), congrArg _ (inbound_again h true)⟩
  case responses =>
    have hresp (resp : FabricResp) := exec_fabricResponse (resp := resp) hr hfloor hup hlink hbehind
    refine ⟨fun w l lane hload heng => ⟨fun bs p => ?_, ?_, ?_⟩, fun c k heng => ⟨fun bs p => ?_, ?_, ?_⟩, fun hload heng => ⟨?_, ?_, ?_⟩⟩
    all_goals
      rw [hresp _ (by simp [*])]
      simp only [responded, *]
  case timeouts =>
    refine ⟨fun w l lane hload => ?_, fun c k hload heng => ?_, fun hload heng => ?_⟩
    all_goals
      rw [exec_fabricResponseTimeout hr hover]
      simp only [unanswered, *]

end Sys2Proof.Machine

namespace Sys2Proof.Machine

/-! PROOF. The commands of a vale (R128, R129, R406, R418, R540). -/

/-! ## Starting a command -/

/-- R418: a command that the interface lets through while the block is idle starts, with its VD and arguments, and runs. -/
theorem hostCommand_starts {s t : State} {vale op vd : Nat} {a : CmdArgs} {v : Vale} (hv : t.vale? vale = some v) (hidle : v.cmd.busy = false)
    (hgoes : v.stopped = false) (hopen : hostAccess s a.path vale true 0 0x900 (op + 256 * (vd % 16)) = (t, true)) :
    hostCommand s vale op vd a =
      runCommand (t.modVale vale (fun v => { v with
        cmd := { op := BitVec.ofNat 8 op, vd := BitVec.ofNat 4 vd, busy := true, result := 0, args := argList a, held := argList a } }))
        vale (op % 256) (vd % 16) (argList a) := by
  simp only [hostCommand, hopen, startCommand, hv, hidle, hgoes, Bool.or_self, Bool.false_eq_true, if_false]

/-! ## CUT and STATCLR -/

section
variable {s : State} {vale vd : Nat} {d : Vd} {args : List DWord}

/-- R406: a cut that may come is named. -/
theorem runCut_named (hd : s.vd? vale vd = some d) (hen : d.en = true) (hstop : d.stopReq = none) (hgoes : d.vdStopped = false)
    (hcut : d.cut = none) (htime : s.tod.toNat + 64 ≤ argAt args 0) :
    runCut s vale vd args = endCommand (s.modVd vale vd (fun d => nameCut d (argAt args 0) false)) vale 0 := by
  simp only [runCut, hd, hen, hstop, hgoes, hcut, decide_eq_false htime.not_gt, Bool.not_true, Option.isSome_none, Bool.or_self,
    Bool.false_eq_true, if_false]

/-- R540: a cut sooner than 64 ticks ahead is refused. -/
theorem runCut_soon (htime : argAt args 0 < s.tod.toNat + 64) : runCut s vale vd args = endCommand s vale 0x0A := by
  unfold runCut
  split
  · rfl
  · simp only [decide_eq_true htime, Bool.or_true, if_true]

end

/-! ## Invalidations and migrations -/

/-- R128: where no buffered store stands in the way, the TLBs drop the translation, and the request ends with the last access that used it. -/
theorem exec_invalidationComplete {s : State} {idx : Nat} {i : Inval} (hi : Tbl.get s.invals idx = some i) (hspill : spilling s i = []) :
    exec (.invalidationComplete idx) s = .next
      (let x := if i.purged then i else { i with purged := true, accesses := usersOf s i }
       let t := purge { s with invals := Tbl.set s.invals idx x } x
       if x.accesses.any (stillThere t) then t else endInval t idx x) := by
  change execInvalidationComplete idx s = _
  simp only [execInvalidationComplete, hi, hspill, List.foldl_nil, List.isEmpty_nil, if_true]

section
variable {s : State} {idx : Nat} {m : Migration}

/-- R129 steps 1 and 2: once nothing holds the page, its rows give it up and its lines are locked. -/
theorem exec_migrationDone_locks (hm : Tbl.get s.migrations idx = some m) (hgoes : s.halted = false) (hstep : m.step = 0)
    (hheld : pageHeld s m.runs = false) (hrows : ∀ j ∈ pageRows s m.runs, recallWaits s j noRow noRow = false) :
    exec (.migrationDone idx) s =
      .next { recallPage s m.runs with migrations := Tbl.modify (recallPage s m.runs).migrations idx (fun x => { x with step := 2 }) } := by
  have hfree : (pageRows s m.runs).any (fun j => recallWaits s j noRow noRow) = false := List.any_eq_false.mpr fun j hj => by simp [hrows j hj]
  change execMigrationDone idx s = _
  simp only [execMigrationDone, hm, hgoes, hstep, hheld, hfree, Bool.or_self, Bool.false_eq_true, if_false]

/-- R129 step 5: the command ends. -/
theorem exec_migrationDone_ends (hm : Tbl.get s.migrations idx = some m) (hgoes : s.halted = false) (hstep : m.step = 4) :
    ∃ t, exec (.migrationDone idx) s = .next (endCommand t m.vale 0) := by
  refine ⟨(retarget { s with migrations := Tbl.erase s.migrations idx } m.runs).modVd m.vale m.vd
    (fun d => if d.ckseq = 0 then d else { d with migrated := d.migrated ++ m.runs }), ?_⟩
  change execMigrationDone idx s = _
  simp only [execMigrationDone, hm, hgoes, hstep, Bool.false_eq_true, if_false]

end

/-! ## Settling O57 -/

/-- Settles O57: a command that starts runs its operation, and what it began goes on by the events. -/
theorem valeCommands : Obligations.ValeCommands := by
  unfold Obligations.ValeCommands
  refine ⟨fun vale vd a s t v hv hidle hgoes => ?start, fun s vale vd d args hd => ⟨?cut, runCut_soon, fun m hm hsmall => ?statclr⟩,
    fun idx s i hi hspill => exec_invalidationComplete hi hspill, fun idx s m hm hgoes => ⟨exec_migrationDone_locks hm hgoes, exec_migrationDone_ends hm hgoes⟩⟩
  case start =>
    have hruns (op : Nat) := hostCommand_starts (op := op) (vd := vd) (s := s) (a := a) hv hidle hgoes
    exact ⟨fun h => congrArg _ (hruns 1 h), fun h => congrArg _ (hruns 2 h), fun h => congrArg _ (hruns 3 h), fun h => congrArg _ (hruns 4 h),
      fun h => congrArg _ (hruns 5 h), fun h => congrArg _ (hruns 6 h), fun h => congrArg _ (hruns 7 h), fun h => congrArg _ (hruns 8 h),
      fun h => congrArg _ (hruns 9 h)⟩
  case cut => exact fun hen hstop hgo hcut htime => runCut_named hd hen hstop hgo hcut htime
  case statclr =>
    subst hm
    exact if_neg hsmall.not_ge

end Sys2Proof.Machine

namespace Sys2Proof.Machine

/-! PROOF. Requests to PF firmware (R31, R33, R124, R421, R437, R438, R534, R540, R544). -/

/-! ## Starting a request -/

section
variable {s : State} {op : Nat} {a : CmdArgs}

/-- The command block that a request fills (R421). -/
def pfStarted (s : State) (op : Nat) (a : CmdArgs) : State :=
  { s with pf := { op := BitVec.ofNat 8 op, vd := 0, busy := true, result := 0, args := argList a, held := argList a } }

/-- R438: a request to an idle block runs once the part is READY. -/
theorem hostPf_ready (hidle : s.pf.busy = false) (hgoes : s.halted = false) (hready : s.bootStat = 1) :
    hostPf s op a = runPf (pfStarted s op a) (op % 256) (argList a) := by
  have hopen : ¬(s.pf.busy || s.halted) = true := by simp [hidle, hgoes]
  exact (if_neg hopen).trans (if_neg (not_not.mpr hready))

/-- R544: before that it is refused. -/
theorem hostPf_early (hidle : s.pf.busy = false) (hgoes : s.halted = false) (hearly : s.bootStat ≠ 1) :
    hostPf s op a = pfDone (pfStarted s op a) 0x0A none := by
  have hopen : ¬(s.pf.busy || s.halted) = true := by simp [hidle, hgoes]
  exact (if_neg hopen).trans (if_pos hearly)

end

/-! ## CREATE -/

section
variable {vale first n : Nat} {conf : Bool}

/-- ARG0 of CREATE (R421). -/
def createArg (vale first n : Nat) (conf : Bool) : Nat := vale + 256 * first + 65536 * n + if conf then 2 ^ 25 else 0

theorem createArg_lt (hvale : vale < 256) (hfirst : first < 256) (hn : first + n ≤ 256) : createArg vale first n conf < 2 ^ 26 := by
  unfold createArg
  cases conf
  · simp only [Bool.false_eq_true, if_false]; omega
  · simp only [if_true]; omega

theorem createArg_vale (hvale : vale < 256) : createArg vale first n conf % 256 = vale := by
  unfold createArg
  cases conf
  · simp only [Bool.false_eq_true, if_false]; omega
  · simp only [if_true]; omega

theorem createArg_first (hvale : vale < 256) (hfirst : first < 256) : bitsOf (createArg vale first n conf) 15 8 = first := by
  unfold bitsOf createArg
  rw [Nat.shiftRight_eq_div_pow]
  cases conf
  · simp only [Bool.false_eq_true, if_false]; omega
  · simp only [if_true]; omega

theorem createArg_n (hvale : vale < 256) (hfirst : first < 256) (hn : n ≤ 256) : bitsOf (createArg vale first n conf) 24 16 = n := by
  unfold bitsOf createArg
  rw [Nat.shiftRight_eq_div_pow]
  cases conf
  · simp only [Bool.false_eq_true, if_false]; omega
  · simp only [if_true]; omega

theorem createArg_conf (hvale : vale < 256) (hfirst : first < 256) (hn : n ≤ 256) : bitOf (createArg vale first n conf) 25 = conf := by
  unfold bitOf createArg
  rw [Nat.shiftRight_eq_div_pow, beq_eq_decide]
  cases conf
  · simp only [Bool.false_eq_true, if_false, decide_eq_false_iff_not]; omega
  · simp only [if_true, decide_eq_true_eq]; omega

/-- R31: where every glen asked for is FREE, none refuses. -/
theorem glensRefused_free {s : State} {gs : List Nat} (h : ∀ g ∈ gs, (s.glen? g).st = 0) : glensRefused s gs = none := by
  have hfenced : gs.any (fun g => decide ((s.glen? g).st = 3)) = false := List.any_eq_false.mpr fun g hg => by simp [h g hg]
  have htaken : gs.any (fun g => decide ((s.glen? g).st ≠ 0)) = false := List.any_eq_false.mpr fun g hg => by simp [h g hg]
  simp only [glensRefused, hfenced, htaken, Bool.false_eq_true, if_false]

/-- R31, R33: CREATE forms a vale of FREE glens. -/
theorem runCreate_forms {s : State} {args : List DWord} (hargs : argAt args 0 = createArg vale first n conf) (hvale : vale < 256)
    (hfirst : first < 256) (hsome : n ≠ 0) (hn : first + n ≤ 256) (hdeployed : s.lifecycle = 2) (hnew : s.vale? vale = none)
    (hfree : ∀ g ∈ natsFrom first n, (s.glen? g).st = 0) :
    runCreate s args = pfDone (joinGlens { s with vales := Tbl.set s.vales vale (newVale first n conf) } vale first n) 0 none := by
  have hsmall : n ≤ 256 := by omega
  have hfits : ¬(decide (n = 0) || decide (256 < first + n) || (s.vale? vale).isSome) = true := by
    simp [hsome, hn, hnew]
  simp only [runCreate, hargs, createArg_vale hvale, createArg_first hvale hfirst, createArg_n hvale hfirst hsmall,
    createArg_conf hvale hfirst hsmall, if_neg (createArg_lt (conf := conf) hvale hfirst hn).not_ge, if_neg hfits, createLifecycle, if_pos hdeployed,
    glensRefused_free hfree]

end

/-! ## Requests of a vale -/

section
variable {s : State} {args : List DWord} {vale vd : Nat} {v : Vale}

theorem runS2root_sets (hv : pfVale s args = .ok (vale, vd, v)) (halign : argAt args 1 % 2 ^ 19 = 0) (hlow : argAt args 1 < 2 ^ 60) :
    runS2root s args = pfDone (s.modVale vale (fun v => { v with root := BitVec.ofNat 64 (argAt args 1) })) 0 none := by
  simp only [runS2root, withVale, hv, halign, hlow.not_ge, ne_eq, not_true_eq_false, decide_false, Bool.or_self, Bool.false_eq_true, if_false]

theorem runVdResume_goes {d : Vd} (hv : pfVale s args = .ok (vale, vd, v)) (hd : Tbl.get v.vds vd = some d) (hstopped : d.vdStopped = true) :
    runVdResume s args = pfDone (s.modVd vale vd (fun d => { d with vdStopped := false })) 0 none := by
  simp only [runVdResume, withVd, withVale, hv, hd, hstopped, Bool.not_true, Bool.false_eq_true, if_false]

/-- R534: a VD_STOP that has drained for 60,000,000 ticks ends with TIMEOUT. -/
theorem exec_vdStopTimeout {d : Vd} {t : Nat} (hd : s.vd? vale vd = some d) (hreq : d.stopReq = some t) (htime : t + 60000000 ≤ s.tod.toNat) :
    exec (.vdStopTimeout vale vd) s =
      .next (stopVd (endStop (record s (hangRec 2 (some vale) (some vd) 0 5 8 0xFFFF (s.tod.toNat - t) 0)) vale vd 0x0E) vale vd) := by
  change execVdStopTimeout vale vd s = _
  simp only [execVdStopTimeout, hd, Option.bind_some, hreq, if_neg htime.not_gt]

end

/-! ## Settling O58 -/

/-- Settles O58: a request runs or is refused by BOOTSTAT; CREATE's fields are read back from ARG0. -/
theorem pfRequests : Obligations.PfRequests := by
  unfold Obligations.PfRequests
  refine ⟨fun a s hidle hgoes => ?starts, fun s vale first n conf rest hvale hfirst hsome hn hdeployed hnew hfree => ?creates,
    fun s args vale vd v hv => ⟨runS2root_sets hv, fun d hd hstopped => runVdResume_goes hv hd hstopped⟩,
    fun vale vd t s d hd hreq htime => exec_vdStopTimeout hd hreq htime⟩
  case starts =>
    have hready (op : Nat) := hostPf_ready (op := op) (a := a) hidle hgoes
    have hearly (op : Nat) := hostPf_early (op := op) (a := a) hidle hgoes
    exact ⟨⟨fun h => congrArg _ (hready 0x10 h), fun h => congrArg _ (hearly 0x10 h)⟩, ⟨fun h => congrArg _ (hready 0x11 h), fun h => congrArg _ (hearly 0x11 h)⟩,
      ⟨fun h => congrArg _ (hready 0x12 h), fun h => congrArg _ (hearly 0x12 h)⟩, ⟨fun h => congrArg _ (hready 0x13 h), fun h => congrArg _ (hearly 0x13 h)⟩,
      ⟨fun h => congrArg _ (hready 0x14 h), fun h => congrArg _ (hearly 0x14 h)⟩, ⟨fun h => congrArg _ (hready 0x18 h), fun h => congrArg _ (hearly 0x18 h)⟩,
      ⟨fun h => congrArg _ (hready 0x19 h), fun h => congrArg _ (hearly 0x19 h)⟩, ⟨fun h => congrArg _ (hready 0x20 h), fun h => congrArg _ (hearly 0x20 h)⟩,
      ⟨fun h => congrArg _ (hready 0x28 h), fun h => congrArg _ (hearly 0x28 h)⟩, ⟨fun h => congrArg _ (hready 0x29 h), fun h => congrArg _ (hearly 0x29 h)⟩,
      ⟨fun h => congrArg _ (hready 0x2A h), fun h => congrArg _ (hearly 0x2A h)⟩, ⟨fun h => congrArg _ (hready 0x2B h), fun h => congrArg _ (hearly 0x2B h)⟩,
      ⟨fun h => congrArg _ (hready 0x2C h), fun h => congrArg _ (hearly 0x2C h)⟩, ⟨fun h => congrArg _ (hready 0x2D h), fun h => congrArg _ (hearly 0x2D h)⟩,
      ⟨fun h => congrArg _ (hready 0x2E h), fun h => congrArg _ (hearly 0x2E h)⟩, ⟨fun h => congrArg _ (hready 0x2F h), fun h => congrArg _ (hearly 0x2F h)⟩⟩
  case creates =>
    have hlt : createArg vale first n conf < 2 ^ 64 := (createArg_lt hvale hfirst hn).trans (by decide)
    exact runCreate_forms ((BitVec.toNat_ofNat _ _).trans (Nat.mod_eq_of_lt hlt)) hvale hfirst hsome hn hdeployed hnew hfree

end Sys2Proof.Machine

namespace Sys2Proof.Machine

/-! PROOF. SPDM, TDISP and IDE (R426 to R435, R475, R476, R542, R545). -/

/-! ## The link, the algorithms and the session a message needs -/

section
variable {s t : State} {session : Nat}

theorem linkAnswers_of_bootStep (h : 4 ≤ s.bootStep) : linkAnswers s = true := decide_eq_true h

/-- R438: a message is taken where the host link answers. -/
theorem taken_eq (h : linkAnswers s = true) : (if !linkAnswers s then s else t) = t := if_neg (by simp [h])

/-- R545: a message that needs the algorithms is out of sequence before they are negotiated. -/
theorem afterAlgs_early (h : linkAnswers s = true) (halgs : s.spdm.algs = false) : afterAlgs s t = answer s (.error 0x04) :=
  (taken_eq h).trans (if_neg (by simp [halgs]))

theorem afterAlgs_ready (h : linkAnswers s = true) (halgs : s.spdm.algs = true) : afterAlgs s t = t := (taken_eq h).trans (if_pos halgs)

/-- A message of a session that is established is handled. -/
theorem session_live (h : linkAnswers s = true) (hlive : sessionLive s session = true) :
    (if !linkAnswers s then s else if !sessionLive s session then answer s (.error 0x04) else t) = t :=
  (taken_eq h).trans (if_neg (by simp [hlive]))

/-- R432: a TDISP message of an established session, for a VF that serves a vale. -/
theorem tdisp_live {vale : Nat} {v : Vale} {f : Vale → State} (h : linkAnswers s = true) (hlive : sessionLive s session = true)
    (hv : s.vale? vale = some v) : tdisp s session vale f = f v := by
  refine (session_live h hlive).trans ?_
  rw [hv]

end

/-! ## SPDM -/

section
variable {s : State}

theorem exec_negotiateAlgorithms (h : linkAnswers s = true) (o : AlgorithmOffer) :
    exec (.negotiateAlgorithms o) s = .next (
      if s.spdm.caps = false then answer s (.error 4)
      else if o.ecdsaP256 && o.sha256 && o.ecdheP256 && o.aes256gcm && o.dmtf then answer { s with spdm := { s.spdm with algs := true } } .ok
      else answer s (.error 7)) := by
  refine congrArg _ ((taken_eq h).trans ?_)
  simp only [Bool.not_eq_true']

/-- R426: a new handshake leaves memory as it is, and its session is not established. -/
theorem exec_keyExchange_begins {k : Nat} {share : BitVec 512} (h : linkAnswers s = true) (halgs : s.spdm.algs = true)
    (hslot : slotFull s k = true) (hdone : ∀ e ∈ s.spdm.sessions, e.2.established = true) :
    ∃ t, exec (.keyExchange k share) s = .next t ∧
      Tbl.get t.spdm.sessions (newSession s) = some { established := false, keyGen := 0, lastBeat := s.tod.toNat } ∧ t.mem = s.mem := by
  have hopen : s.spdm.sessions.any (fun e => !e.2.established) = false := List.any_eq_false.mpr fun e he => by simp [hdone e he]
  have hnew : ¬(!slotFull s k) = true := by simp [hslot]
  refine ⟨_, congrArg Host.Outcome.next ((afterAlgs_ready h halgs).trans ((if_neg hnew).trans (if_neg (by simp [hopen])))), ?_, rfl⟩
  exact Tbl.get_set_same _ _ _

theorem exec_getMeasurements_one {i : Nat} {m : BitVec 256} (h : linkAnswers s = true) (halgs : s.spdm.algs = true) (hi : i ≠ 255)
    (hm : measurement s i = some m) : exec (.getMeasurements i) s = .next (answer s (.bytes (bitBytes m))) := by
  refine congrArg _ ((afterAlgs_ready h halgs).trans ((if_neg hi).trans ?_))
  rw [hm]

/-- R426, R545: FINISH ends the handshake under way. -/
theorem exec_finish {k : Nat} {x : Session} (h : linkAnswers s = true)
    (hopen : Tbl.first (fun _ (x : Session) => !x.established) s.spdm.sessions = some (k, x)) (verifies : Bool) :
    exec (.finish verifies) s = .next (
      if verifies then answer { s with spdm := { s.spdm with sessions := Tbl.set s.spdm.sessions k { x with established := true, lastBeat := s.tod.toNat } } } .ok
      else answer { s with spdm := { s.spdm with sessions := Tbl.erase s.spdm.sessions k } } (.error 6)) := by
  refine congrArg _ ((taken_eq h).trans ?_)
  rw [hopen]

theorem exec_heartbeatTimeout {k : Nat} {x : Session} (hx : Tbl.get s.spdm.sessions k = some x) (hlive : x.established = true)
    (hmissed : x.lastBeat < s.tod.toNat) : exec (.heartbeatTimeout k) s = .next (sessionEnds s k) := by
  change execHeartbeatTimeout k s = _
  simp only [execHeartbeatTimeout, hx, hlive, decide_eq_true hmissed, Bool.and_self, if_true]

end

/-- Settles O59: each message where the link answers, by what has come before it. -/
theorem spdmMessages : Obligations.SpdmMessages := by
  unfold Obligations.SpdmMessages
  intro s hboot out
  have h := linkAnswers_of_bootStep hboot
  refine ⟨congrArg _ (taken_eq h), congrArg _ (taken_eq h), exec_negotiateAlgorithms h, fun halgs k n => ?early, fun halgs => ?ready,
    fun k x hopen => ⟨exec_finish h hopen true, exec_finish h hopen false⟩,
    fun k => ⟨fun hlive => ?live, fun hdead => ?dead, fun x hx hlive hmissed => exec_heartbeatTimeout hx hlive hmissed⟩⟩
  case early =>
    exact ⟨congrArg _ (afterAlgs_early h halgs), congrArg _ (afterAlgs_early h halgs), congrArg _ (afterAlgs_early h halgs),
      congrArg _ (afterAlgs_early h halgs), fun share => congrArg _ (afterAlgs_early h halgs)⟩
  case ready =>
    exact ⟨congrArg _ (afterAlgs_ready h halgs), fun k hslot => ⟨congrArg _ ((afterAlgs_ready h halgs).trans (if_pos hslot)),
      fun n => congrArg _ ((afterAlgs_ready h halgs).trans (if_pos hslot)), fun share hdone => exec_keyExchange_begins h halgs hslot hdone⟩,
      fun i m hi hm => exec_getMeasurements_one h halgs hi hm⟩
  case live =>
    exact ⟨congrArg _ ((taken_eq h).trans (if_pos hlive)), congrArg _ ((taken_eq h).trans (if_pos hlive)), congrArg _ ((taken_eq h).trans (if_pos hlive))⟩
  case dead =>
    have hnot : ¬sessionLive s k = true := by simp [hdead]
    exact ⟨congrArg _ ((taken_eq h).trans (if_neg hnot)), congrArg _ ((taken_eq h).trans (if_neg hnot)), congrArg _ ((taken_eq h).trans (if_neg hnot))⟩

/-! ## TDISP -/

section
variable {s : State} {session vale : Nat} {v : Vale}

/-- R433: an unlocked TDI of a VF bound to a secure stream locks, with a nonce of its own. -/
theorem exec_lockInterfaceRequest_locks {stream : Nat} {x : IdeStream} (h : linkAnswers s = true) (hlive : sessionLive s session = true)
    (hv : s.vale? vale = some v) (hst : v.tdi.st = .unlocked) (hwiping : v.tdi.wiping = false) (hresetting : v.resetting = false)
    (henable : v.memEnable = true) (hnames : pfNames s vale = false) (hx : Tbl.get s.ide stream = some x) (hsecure : x.secure = true)
    (hvf : x.vf = some (vale + 1)) (hstream : stream < 256) :
    exec (.lockInterfaceRequest session vale stream) s =
      .next (answer (State.modVale { s with freeCount := s.freeCount + 1 } vale (fun w => { w with
        tdi := { st := .locked, session := session, stream := stream, nonce := Config.nonce s.freeCount, leases := partyLeases v, wiping := false } }))
        (.nonce (Config.nonce s.freeCount))) := by
  refine congrArg _ ((tdisp_live h hlive hv).trans ?_)
  simp only [hst, hwiping, hresetting, henable, hnames, hx, hsecure, hvf, decide_eq_true hstream, ne_eq, not_true_eq_false, decide_false, decide_true,
    Bool.not_true, Bool.and_self, Bool.or_self, Bool.false_eq_true, if_false]

theorem exec_lockInterfaceRequest_refused {stream : Nat} (h : linkAnswers s = true) (hlive : sessionLive s session = true)
    (hv : s.vale? vale = some v) (hst : v.tdi.st ≠ .unlocked) :
    exec (.lockInterfaceRequest session vale stream) s = .next (answer s (.error 4)) :=
  congrArg _ ((tdisp_live h hlive hv).trans (if_pos (by simp [hst])))

theorem exec_startInterfaceRequest_runs {n : BitVec 256} (h : linkAnswers s = true) (hlive : sessionLive s session = true)
    (hv : s.vale? vale = some v) (hst : v.tdi.st = .locked) (hwiping : v.tdi.wiping = false) (hn : v.tdi.nonce = n) :
    exec (.startInterfaceRequest session vale n) s = .next (answer (s.modVale vale (fun v => { v with tdi := { v.tdi with st := .run } })) .ok) :=
  congrArg _ ((tdisp_live h hlive hv).trans (if_neg (by simp [hst, hwiping, hn])))

theorem exec_startInterfaceRequest_refused {n : BitVec 256} (h : linkAnswers s = true) (hlive : sessionLive s session = true)
    (hv : s.vale? vale = some v) (hn : v.tdi.nonce ≠ n) : exec (.startInterfaceRequest session vale n) s = .next (answer s (.error 4)) :=
  congrArg _ ((tdisp_live h hlive hv).trans (if_pos (by simp [hn])))

/-- R432: in a session every VF has a state, CONFIG_UNLOCKED where it serves no vale. -/
theorem exec_getDeviceInterfaceState (h : linkAnswers s = true) (hlive : sessionLive s session = true) (hvf : vale < 256) :
    exec (.getDeviceInterfaceState session vale) s = .next (answer s (.tdiState (tdiOf s vale))) :=
  congrArg _ ((session_live h hlive).trans (if_neg hvf.not_ge))

/-! ## Resets of a vale -/

theorem exec_tdiWipeComplete (hv : s.vale? vale = some v) (hwiping : v.tdi.wiping = true) :
    exec (.tdiWipeComplete vale) s = .next ((wipeVale s vale).modVale vale (fun v => { v with tdi := Tdi.fresh, stopped := false })) := by
  change execTdiWipeComplete vale s = _
  simp only [execTdiWipeComplete, hv, hwiping, if_true]

theorem exec_valeResetComplete (hv : s.vale? vale = some v) (hresetting : v.resetting = true) (hnames : pfNames s vale = false) :
    exec (.valeResetComplete vale) s = .next ((resetWindow (wipeVale s vale) vale).modVale vale (fun v => { v with resetting := false })) := by
  change execValeResetComplete vale s = _
  simp only [execValeResetComplete, hv, hresetting, hnames, Bool.not_true, Bool.or_self, Bool.false_eq_true, if_false]
  rfl

end

/-! ## IDE -/

section
variable {s : State} {k stream : Nat} {x : IdeStream}

theorem exec_ideKm_keySetGo (h : linkAnswers s = true) (hlive : sessionLive s k = true) (hx : Tbl.get s.ide stream = some x) (hown : x.session = k) :
    exec (.ideKm k (.keySetGo stream)) s = .next (answer { s with ide := Tbl.set s.ide stream { x with secure := true } } .ok) := by
  refine congrArg _ ((session_live h hlive).trans ?_)
  simp only [hx, if_pos hown]

theorem exec_ideKm_keySetStop (h : linkAnswers s = true) (hlive : sessionLive s k = true) (hx : Tbl.get s.ide stream = some x) (hown : x.session = k) :
    exec (.ideKm k (.keySetStop stream)) s = .next (answer (streamLost s stream) .ok) := by
  refine congrArg _ ((session_live h hlive).trans ?_)
  simp only [hx, if_pos hown]

/-- R431: a key programmed anew in its own session leaves its stream as secure as it was. -/
theorem exec_ideKm_keyProg {vf : Option Nat} {key : BitVec 256} (h : linkAnswers s = true) (hlive : sessionLive s k = true)
    (hx : Tbl.get s.ide stream = some x) (hown : x.session = k) (hstream : stream ≤ 256) (hvf : vfTaken s stream vf = false) :
    exec (.ideKm k (.keyProg stream vf key)) s =
      .next (answer { s with ide := Tbl.set s.ide stream { key := key, secure := x.secure, vf := vf, session := k } } .ok) := by
  refine congrArg _ ((session_live h hlive).trans ?_)
  simp only [keyProg, decide_eq_false hstream.not_gt, hvf, hx, hown, Option.map_some, Option.getD_some, decide_true, Bool.true_and, Bool.or_self,
    Bool.false_eq_true, if_false, if_true]

theorem exec_ideKm_dead (h : linkAnswers s = true) (hdead : sessionLive s k = false) (op : IdeOp) :
    exec (.ideKm k op) s = .next (answer s (.error 4)) :=
  congrArg _ ((taken_eq h).trans (if_pos (by simp [hdead])))

theorem exec_ideStreamFault (hx : Tbl.get s.ide stream = some x) (hsecure : x.secure = true) :
    exec (.ideStreamFault stream) s = .next (streamLost s stream) := by
  change execIdeStreamFault stream s = _
  simp only [execIdeStreamFault, hx, hsecure, if_true]

end

/-- Settles O60: TDISP by the TDI's state, the resets, and IDE in a stream's own session. -/
theorem tdispMessages : Obligations.TdispMessages := by
  unfold Obligations.TdispMessages
  refine ⟨fun s session vale v hboot hlive hv => ?tdisp, fun s session vale hboot hlive hv hvf => ?noVale, fun s vale v hv => ?resets,
    fun s k stream x hx => ?ide⟩
  case tdisp =>
    have h := linkAnswers_of_bootStep hboot
    refine ⟨fun stream x hst hwiping hresetting henable hnames hx hsecure hvf hstream =>
        exec_lockInterfaceRequest_locks h hlive hv hst hwiping hresetting henable hnames hx hsecure hvf hstream,
      fun stream hst => exec_lockInterfaceRequest_refused h hlive hv hst,
      fun n => ⟨exec_startInterfaceRequest_runs h hlive hv, exec_startInterfaceRequest_refused h hlive hv⟩, fun hst => ?stop, fun hvf => ?state,
      fun hst => ?report⟩
    case stop => exact congrArg _ ((tdisp_live h hlive hv).trans (if_neg hst))
    case state =>
      rw [exec_getDeviceInterfaceState h hlive hvf, tdiOf_some hv]
      rfl
    case report => exact congrArg _ ((tdisp_live h hlive hv).trans (if_pos (by simpa using hst)))
  case noVale =>
    rw [exec_getDeviceInterfaceState (linkAnswers_of_bootStep hboot) hlive hvf, tdiOf_none hv]
    rfl
  case resets => exact ⟨exec_tdiWipeComplete hv, exec_valeResetComplete hv, rfl⟩
  case ide =>
    refine ⟨fun hboot hlive hown => ?_, fun hboot hdead op => exec_ideKm_dead (linkAnswers_of_bootStep hboot) hdead op, exec_ideStreamFault hx⟩
    have h := linkAnswers_of_bootStep hboot
    exact ⟨exec_ideKm_keySetGo h hlive hx hown, exec_ideKm_keySetStop h hlive hx hown,
      fun vf key hstream hvf => exec_ideKm_keyProg h hlive hx hown hstream hvf⟩

end Sys2Proof.Machine

namespace Sys2Proof.Machine

/-! PROOF. Soft errors, hangs, links and glens (R513, R514, R517 to R519, R534, R541). -/

/-! ## Soft errors -/

section
variable {s : State}

/-- R513: a correctable error in a speculative line of the L1 aborts a task that is not irrevocable and has run. -/
theorem exec_memError_l1Spec {core job task : Nat} {o : Ordered} {t : Task}
    (ho : orderedOf (memCe s (coreSite 3 2 core 0) false 1) job = some o) (ht : Tbl.get o.tasks task = some t) :
    exec (.memError (.l1Spec core job task)) s =
      .next (if t.irrev || decide (t.st = .pending) then memCe s (coreSite 3 2 core 0) false 1
        else abortTask (memCe s (coreSite 3 2 core 0) false 1) job task) := by
  change execMemError (.l1Spec core job task) s = _
  simp only [execMemError, ho, Option.bind_some, ht]

theorem exec_memError_stash {blk : Nat} {b : Block} (hb : Tbl.get s.blocks blk = some b) (word : Nat) (c : Bool) :
    exec (.memError (.stash blk word c)) s = .next (if c then memCe s (coreSite 6 2 b.core (4 * word)) false 1
      else memUe (s.modBlock blk (fun b => { b with stashPoison := insertNat word b.stashPoison })) (coreSite 6 2 b.core (4 * word)) false) := by
  change execMemError (.stash blk word c) s = _
  simp only [execMemError, hb]

theorem exec_memError_register {w : Nat} {x : Wave} (hx : Tbl.get s.waves w = some x) (reg lane : Nat) (c : Bool) :
    exec (.memError (.register w reg lane c)) s =
      .next (let y := { coreSite 7 0 x.core (regPlace reg lane) with slot := x.slot }
        if c then memCe s y false 1 else memUe (s.modWave w (fun w => { w with poison := insertNat (regKey reg lane) w.poison })) y false) := by
  change execMemError (.register w reg lane c) s = _
  simp only [execMemError, hx]

/-- R513: an uncorrectable error in a glen's vale stops the vale. -/
theorem valeError_vale {g v : Nat} (k u : Nat) (hv : glenVale s g = some v) :
    valeError s (unitSite k u g 0) false = severity3 s v ((memRec s (unitSite k u g 0) false false 0xFF).atUse 3) := by
  have hglen : glenVale s (unitSite k u g 0).glen = some v := hv
  simp only [valeError, hglen, Bool.false_eq_true, if_false]

theorem unitError_vale {g v : Nat} (k u vd : Nat) (hv : glenVale s g = some v) :
    unitError s k u g vd false = severity2 s v vd { (memRec s (unitSite k u g 0) false false 0xFF).atUse 2 with vd := some vd } := by
  simp only [unitError, hv, Bool.false_eq_true, if_false]

/-- R514: the patrol scrub reports poison that no agent has consumed. -/
theorem exec_patrolScrub_poisoned {n : Nat} (hbad : s.poison.contains n = true) (c : Bool) :
    exec (.patrolScrub n c) s = .next (memUe s (memSite s 0 11 (32 * n)) true) := congrArg _ (if_pos hbad)

theorem exec_patrolScrub_clean {n : Nat} (hgood : s.poison.contains n = false) (c : Bool) :
    exec (.patrolScrub n c) s = .next (if c then
      memCe { s with freeCount := s.freeCount + 1 } (memSite s 0 11 (32 * n)) true ((Config.freeByte s.freeCount).toNat % 8 + 1) else s) :=
  congrArg _ (if_neg (hgood ▸ Bool.false_ne_true))

end

/-! ## Hangs -/

section
variable {s : State}

theorem exec_commandTimeout {unit : EngineUnit} {cmd u : Nat} {a : Accepted} (ha : acceptedCmd s unit cmd = some (u, a)) (hfine : a.faulting = false)
    (htime : a.at_ + 60000000 ≤ s.tod.toNat) :
    exec (.commandTimeout unit cmd) s =
      .next (severity3 s a.vale (hangRec 3 (some a.vale) (some a.vd) a.pc 3 u a.core (s.tod.toNat - a.at_) a.pc)) := by
  change execCommandTimeout unit cmd s = _
  simp only [execCommandTimeout, ha, hfine, decide_eq_false htime.not_gt, Bool.or_self, Bool.false_eq_true, if_false]

theorem exec_colWatchdogTimeout {g v : Nat} (hv : glenVale s g = some v) :
    exec (.colWatchdogTimeout (some g)) s = .next (severity3 s v (hangRec 3 (some v) none 0 4 8 0xFFFF 600000 0)) := by
  change execColWatchdogTimeout (some g) s = _
  simp only [execColWatchdogTimeout, hv]

end

/-! ## Links -/

section
variable {s : State} {l : LinkRef}

/-- The replays of a link that count (R518): this one and those of the 600 ticks before it. -/
def countedReplays (s : State) (l : LinkRef) : List Nat :=
  s.tod.toNat :: (linkOf s l).replays.filter (fun t => decide (s.tod.toNat ≤ t + 600))

/-- R518: a replay on a link that is up is counted and reported. -/
theorem exec_linkCrcFail_replays (hl : linkExists l = true) (hup : (linkOf s l).up = true) (hruns : (linkOf s l).retraining = false)
    {train : Bool} (htrain : decide (16 < (countedReplays s l).length) = train) :
    exec (.linkCrcFail l) s = .next (recordCe (setLink s l { linkOf s l with
        replays := countedReplays s l, retraining := train, since := if train then s.tod.toNat else (linkOf s l).since })
      (linkRec cLinkCe 0 l (bit1 train) (countedReplays s l).length (linkPeer l)) (linkGlen l)) := by
  subst htrain
  exact congrArg _ (if_neg (by simp [hl, hup, hruns]))

/-- A link that is down, or retrains, replays nothing. -/
theorem exec_linkCrcFail_idle (h : (linkOf s l).up = false ∨ (linkOf s l).retraining = true) : exec (.linkCrcFail l) s = .next s := by
  refine congrArg _ (if_pos ?_)
  rcases h with h | h
  · simp [h]
  · simp [h]

theorem exec_retrainComplete (hup : (linkOf s l).up = true) (hretrains : (linkOf s l).retraining = true) :
    exec (.retrainComplete l) s = .next (setLink s l { linkOf s l with retraining := false, replays := [], since := s.tod.toNat }) :=
  congrArg _ (if_pos (by simp [hup, hretrains]))

/-- R518: a saddle that has not retrained in time is down, and stops the package. -/
theorem exec_linkRetrainTimeout_saddle {n : Nat} (hretrains : (linkOf s (.saddle n)).retraining = true)
    (htime : (linkOf s (.saddle n)).since + 60000 ≤ s.tod.toNat) :
    exec (.linkRetrainTimeout (.saddle n)) s =
      .next (severity4 (setLink s (.saddle n) { linkOf s (.saddle n) with up := false })
        (linkRec cLinkDown 4 (.saddle n) 2 (linkOf s (.saddle n)).replays.length 0)) :=
  congrArg _ (if_neg (by simp [hretrains, htime.not_gt]))

end

theorem linkEvents (l : LinkRef) (s : State) (hl : linkExists l = true) :
    let x := linkOf s l
    let past := s.tod.toNat :: x.replays.filter (fun t => decide (s.tod.toNat ≤ t + 600))
    (x.up = true → x.retraining = false → past.length ≤ 16 → exec (.linkCrcFail l) s =
      .next (recordCe (setLink s l { x with replays := past }) (linkRec cLinkCe 0 l 0 past.length (linkPeer l)) (linkGlen l))) ∧
    (x.up = true → x.retraining = false → 16 < past.length → exec (.linkCrcFail l) s =
      .next (recordCe (setLink s l { x with replays := past, retraining := true, since := s.tod.toNat })
        (linkRec cLinkCe 0 l 1 past.length (linkPeer l)) (linkGlen l))) ∧
    ((x.up = false ∨ x.retraining = true) → exec (.linkCrcFail l) s = .next s) ∧
    (x.up = true → x.retraining = true →
      exec (.retrainComplete l) s = .next (setLink s l { x with retraining := false, replays := [], since := s.tod.toNat })) := by
  intro x past
  refine ⟨fun hup hruns hfew => ?_, fun hup hruns hmany => exec_linkCrcFail_replays hl hup hruns (decide_eq_true hmany), exec_linkCrcFail_idle,
    exec_retrainComplete⟩
  have hkept : { x with replays := past } = { x with replays := past, retraining := false } := by rw [← hruns]
  rw [hkept]
  exact exec_linkCrcFail_replays hl hup hruns (decide_eq_false hfew.not_gt)

/-! ## Settling O51 -/

/-- Settles O51: each event by what it finds; the rest is the meaning of the event itself. -/
theorem errorEvents : Obligations.ErrorEvents := by
  unfold Obligations.ErrorEvents
  refine ⟨fun a core n blk word w reg lane g vd d job task c s => ?soft, fun unit cmd u s a ha hfine htime => exec_commandTimeout ha hfine htime,
    fun _ => rfl, fun g v s hv => exec_colWatchdogTimeout hv, fun l s hl => linkEvents l s hl, fun _ _ => rfl,
    fun n s hretrains htime => exec_linkRetrainTimeout_saddle hretrains htime, fun n s hn hup => ?passDown, fun g s => ⟨?scrubbed, ?fails, ?failed⟩⟩
  case soft =>
    exact ⟨rfl, rfl, rfl, rfl, rfl, rfl, fun o t ho ht => exec_memError_l1Spec ho ht, rfl, rfl, rfl, rfl,
      fun b hb => ⟨exec_memError_stash hb word false, exec_memError_stash hb word true⟩,
      fun x hx => ⟨exec_memError_register hx reg lane false, exec_memError_register hx reg lane true⟩, rfl, rfl, rfl, rfl, rfl, rfl, rfl,
      fun k u v hv => ⟨valeError_vale k u hv, unitError_vale k u vd hv⟩, fun _ _ => ⟨rfl, rfl⟩, fun hbad => exec_patrolScrub_poisoned hbad c,
      fun hgood => ⟨exec_patrolScrub_clean hgood false, exec_patrolScrub_clean hgood true⟩⟩
  case passDown => exact congrArg _ (if_neg (by simp [hn, hup]))
  case scrubbed =>
    exact fun hst hready htarget ok => congrArg _ (if_neg (by simp [hst, hready, htarget]))
  case fails =>
    intro hg hst
    exact congrArg _ (if_neg (by simp only [decide_eq_false hg.not_ge, decide_eq_false hst, Bool.or_self, Bool.false_eq_true, not_false_eq_true]))
  case failed => exact fun hst => congrArg _ (if_pos (by simp [hst]))

end Sys2Proof.Machine

namespace Sys2Proof.Machine

/-! PROOF. A step runs the decoded instruction, or the scheduled event (R187, R308, R479). -/

/-! ## The entry of the schedule -/

section
variable {s : State} {c : Choice} {rest : List Choice}

theorem step_of_agenda (h : s.agenda = c :: rest) : step s = runChoice { s with agenda := rest } c := by
  rw [step, h]

/-- A scheduled event runs its meaning. -/
theorem happen_event {i : Instr} (h : encode i = []) : happen s i = exec i s := if_pos (List.isEmpty_iff.mpr h)

/-- A code or stream word does nothing outside a turn. -/
theorem happen_word {i : Instr} (h : encode i ≠ []) : happen s i = .next s := if_neg (by simp [h])

end

/-! ## A wave's turn -/

section
variable {s v u : State} {w : Nat} {wv : Wave} {defer : Bool} {late : List Nat} {i : Instr}

theorem rankedTurn_none (h : ranked s w late = none) : rankedTurn s w defer late = .next s := by
  rw [rankedTurn, h]

theorem rankedTurn_some (h : ranked s w late = some v) : rankedTurn s w defer late = waveTurn v w defer := by
  rw [rankedTurn, h]

theorem waveTurn_spent (h : waveSpent v w = true) : waveTurn v w defer = .next v := if_pos h

/-- R36: what the wave issues runs where its track or the uniform unit is free. -/
theorem waveTurn_run (hspent : waveSpent v w = false)
    (hturn : turnWave ((spendWave v w).modWave w (fun x => { x with yielded := false })) w defer = .run u i) :
    waveTurn v w defer = if unitSpent u w i then .next v else andThen (exec i (spendUnit u w i)) (fun t => countIssue u t w i) := by
  refine (if_neg (by simp [hspent])).trans ?_
  rw [hturn]

/-- R396: a wave with its core to itself is not chosen among others. -/
theorem ranked_alone (hw : Tbl.get s.waves w = some wv) (halone : ∀ e ∈ s.waves, e.1 = w ∨ e.2.core ≠ wv.core) : ranked s w [] = some s := by
  have hall : s.waves.all (fun e => decide (e.1 = w) || decide (e.2.core ≠ wv.core) || ([] : List Nat).contains e.1) = true :=
    List.all_eq_true.mpr fun e he => by simpa using halone e he
  rw [ranked, hw]
  exact if_pos hall

/-! ## Fetch and decoding -/

/-- What lets the word at a wave's position be fetched (R163, R168, R496): the wave is in a clause, and a prologue has not issued too much. -/
structure Fetches (s : State) (wv : Wave) (c : Clause) (s1 : State) (x : Word) : Prop where
  few : wv.kind = .prologue → wv.issued < 65536
  ready : fetchWaits s wv.cacheCore wv.vale wv.vd wv.pos.pc = false
  word : fetchWord s wv.cacheCore wv.vale wv.vd wv.pos.pc = (s1, .ok x)
  code : x.extractLsb' 28 4 ≠ 0xF
  assigned : opAssigned (opcodeOf x) = true
  cls : opClass (opcodeOf x) = c.cls
  part : wv.part ≠ 0

/-- R479: a word that decodes, with its literal, is issued. -/
theorem issueWord_run {c : Clause} {s1 s2 : State} {x : Word} {lit : Option Word} (h : Fetches s wv c s1 x)
    (hlit : hasLiteral x = true → literalBeyond c wv.pos = false ∧ fetchWaits s1 wv.cacheCore wv.vale wv.vd (wv.pos.pc + 4) = false)
    (hfetch : fetchLit s1 wv x = (s2, .ok lit)) (hi : decodeWord x lit = .ok i) :
    issueWord s w wv c = .run { s2 with cur := .wave w } i := by
  have hissue : (decide (wv.kind = .prologue) && decide (65536 ≤ wv.issued)) = false := by
    by_cases hk : wv.kind = .prologue
    · simp [h.few hk]
    · simp [hk]
  have hbeyond : (hasLiteral x && literalBeyond c wv.pos) = false := by
    cases hx : hasLiteral x with
    | false => rfl
    | true => exact (hlit hx).1
  have hwaits : (hasLiteral x && fetchWaits s1 wv.cacheCore wv.vale wv.vd (wv.pos.pc + 4)) = false := by
    cases hx : hasLiteral x with
    | false => rfl
    | true => exact (hlit hx).2
  simp only [issueWord, hissue, h.ready, h.word, if_neg h.code, h.assigned, h.cls, ne_eq, not_true_eq_false, if_neg h.part, hbeyond, hwaits, hfetch, hi,
    Bool.not_true, Bool.false_eq_true, if_false]

/-- R396: where nothing holds the wave, its turn issues the word at its position. -/
theorem turnWave_run {c : Clause} (hw : Tbl.get s.waves w = some wv) (hcan : canIssue s wv = true) (htrap : wv.trap = none) (hlate : wv.late = [])
    (hwait : wv.wait = none) (hahead : lookaheadHolds wv = false) (hqueue : queueHeld s wv = false) (hclause : wv.pos.clause = some c)
    (hread : wv.reread = false) : turnWave s w defer = issueWord { s with defer := defer } w wv c := by
  have hunread : wv.unread = none := if_neg (by simp [hread])
  have htest : testWait s w wv = (s, wv) := by simp only [testWait, hwait]
  simp only [turnWave, hw, hwait, issueWave, hcan, htrap, hlate, hunread, htest, hahead, hqueue, issueNext, hclause, Option.isSome_none, Bool.false_and,
    Bool.or_self, Bool.not_true, Bool.false_eq_true, if_false]

end

/-! ## A sequencer's turn -/

/-- R308: the word decoded at SPC runs, and its issue is counted. -/
theorem seqTurn_run {s s1 : State} {blk : Nat} {b : Block} {c : SeqCtx} {x : Word} {i : Instr} (hspent : seqSpent s blk = false)
    (hb : Tbl.get s.blocks blk = some b) (hc : b.seqCtx = some c) (hcan : canSequence (spendSeq s blk) b c = true)
    (hready : fetchWaits (spendSeq s blk) b.core b.vale b.vd c.spc = false)
    (hfetch : fetchWord (spendSeq s blk) b.core b.vale b.vd c.spc = (s1, .ok x)) (hi : decodeStream x = .ok i) :
    seqTurn s blk = andThen (exec i { s1 with cur := .seq blk }) (fun t => countSeq { s1 with cur := .seq blk } t blk) := by
  have hb' : Tbl.get (spendSeq s blk).blocks blk = some b := hb
  have hissue : issueSeq (spendSeq s blk) blk = .run { s1 with cur := .seq blk } i := by
    simp only [issueSeq, hb', hc, hcan, hready, hfetch, hi, Bool.not_true, Bool.or_self, Bool.false_eq_true, if_false]
  refine (if_neg (by simp [hspent])).trans ?_
  rw [hissue]

/-! ## Settling O4 -/

/-- Settles O4: a turn issues what the word at its agent's position decodes to, and an event is its own meaning. -/
theorem stepRunsDecoded : Obligations.StepRunsDecoded := by
  unfold Obligations.StepRunsDecoded
  refine ⟨⟨?issues, ?skips, fun s w wv hw halone => ranked_alone hw halone, ?decodes⟩, ?sequencer, ?event⟩
  case issues =>
    intro s w defer rest v u i hagenda hranked hspent hturn
    rw [step_of_agenda hagenda]
    exact (rankedTurn_some hranked).trans (waveTurn_run hspent hturn)
  case skips =>
    intro s w defer rest hagenda
    rw [step_of_agenda hagenda]
    exact ⟨fun hranked => rankedTurn_none hranked, fun v hranked hspent => (rankedTurn_some hranked).trans (waveTurn_spent hspent)⟩
  case decodes =>
    intro s w wv c s1 s2 x lit i hw hcan htrap hlate hwait hahead hqueue hclause hread hfew hready hword hcode hassigned hcls hpart hlit hfetch hi
    rw [turnWave_run hw hcan htrap hlate hwait hahead hqueue hclause hread]
    exact issueWord_run ⟨hfew, hready, hword, hcode, hassigned, hcls, hpart⟩ hlit hfetch hi
  case sequencer =>
    intro s blk b c rest s1 x i t hagenda hspent hb hc hcan hready hfetch hi
    rw [step_of_agenda hagenda]
    exact seqTurn_run hspent hb hc hcan hready hfetch hi
  case event =>
    intro s i rest hagenda
    rw [step_of_agenda hagenda]
    exact ⟨happen_event, happen_word⟩

end Sys2Proof.Machine

namespace Sys2Proof.Machine

/-! SUPPORT. What an instruction that writes registers and predicates of its wave does with poison (R211, R514, R515). -/

/-! ## Lanes that read poison -/

theorem lt_of_mem_lanesOf {m : Mask} {l : Nat} (h : l ∈ lanesOf m) : l < 16 := by
  have hall : ∀ k ∈ allLanes, k < 16 := by decide
  exact hall l (List.mem_of_mem_filter h)

theorem Wave.rdPoison_of_clean {w : Wave} (h : w.poison = []) (f : RegField) (l : Nat) : w.rdPoison f l = false := by
  simp [Wave.rdPoison, h]

theorem poisonedLanes_eq (w : Wave) (fs : List RegField) (ls : List Nat) :
    poisonedLanes w fs ls = ls.filter (fun l => fs.any (fun f => w.rdPoison f l)) := by
  unfold poisonedLanes
  split
  · next h => simp [Wave.rdPoison_of_clean h]
  · rfl

/-! ## A wave without its poison -/

/-- A wave none of whose register words is poisoned (R514). -/
def Wave.cleaned (w : Wave) : Wave := { w with poison := [] }

/-- A wave without its register words, predicates and poison. -/
def Wave.unset (w : Wave) : Wave := { w with v := [], s := [], p := [], poison := [] }

section
variable (w : Wave) (d : RegField) (ls : List Nat)

theorem Wave.wr_cleaned (g : Nat → Word) : w.cleaned.wr d ls g = (w.wr d ls g).cleaned := by
  cases hd : isScalar d with
  | true =>
    rw [Wave.wr_scalar hd, Wave.wr_scalar hd]
    cases ls <;> rfl
  | false =>
    rw [Wave.wr_vector hd, Wave.wr_vector hd]
    induction ls generalizing w with
    | nil => rfl
    | cons l ls ih => exact ih (w.wrV d.toNat l (g l))

theorem Wave.wr64_cleaned (g : Nat → DWord) : w.cleaned.wr64 d ls g = (w.wr64 d ls g).cleaned := by
  rw [Wave.wr64, Wave.wr_cleaned, Wave.wr_cleaned]
  rfl

theorem Wave.wr_unset (g : Nat → Word) : (w.wr d ls g).unset = w.unset :=
  Wave.wr_keeps (p := Wave.unset) (fun _ _ _ _ => rfl) (fun _ _ _ => rfl) w d ls g

theorem Wave.wr64_unset (g : Nat → DWord) : (w.wr64 d ls g).unset = w.unset :=
  (Wave.wr_unset _ _ _ _).trans (Wave.wr_unset w d ls _)

end

/-- Waves that differ in registers, predicates, poison and late faults alone go on alike. -/
theorem sameControl_of_unset {a b : Wave} (h : b.unset = a.unset) (fs : List LateFault) : sameControl { a with late := fs } { b with late := fs } :=
  ⟨(congrArg Wave.active h :), (congrArg Wave.helper h :), (congrArg Wave.exited h :), (congrArg Wave.returned h :),
    (congrArg Wave.lpair h :), (congrArg Wave.depth h :), (congrArg Wave.stack h :), (congrArg Wave.held h :),
    (congrArg Wave.wait h :), (congrArg Wave.trap h :), rfl, (congrArg Wave.outst h :)⟩

/-! ## Zeros for what was poisoned -/

section
variable {hit : List Nat} {l : Nat}

theorem Wave.rd_wr_zero (w : Wave) (d f : RegField) (hsome : hit ≠ []) (hhit : ∀ k ∈ hit, k < 16) (hl : l < 16) :
    (w.wr d hit (fun _ => 0)).rd f l = if f = d ∧ (isScalar f = true ∨ l ∈ hit) then 0 else w.rd f l := by
  by_cases hf : f = d
  · subst hf
    cases hs : isScalar f with
    | true =>
      obtain ⟨k, ks, rfl⟩ := List.exists_cons_of_ne_nil hsome
      simp [Wave.rd_wr_scalar_same hs]
    | false => simp [Wave.rd_wr_vector_same hs hl hhit]
  · rw [Wave.rd_wr_ne hf hl hhit, if_neg (mt And.left hf)]

/-- A wave with zero in some register fields, in the lanes that read poison (R515). -/
def Wave.zeroed (w : Wave) (ds : List RegField) (hit : List Nat) : Wave := ds.foldl (fun x d => x.wr d hit (fun _ => 0)) w

/-- A wave with some predicates clear in those lanes. -/
def Wave.predZeroed (w : Wave) (ps : List Nat) (hit : List Nat) : Wave := ps.foldl (fun x k => x.wrPred k hit (fun _ => false)) w

theorem Wave.rd_zeroed (w : Wave) (ds : List RegField) (f : RegField) (hsome : hit ≠ []) (hhit : ∀ k ∈ hit, k < 16) (hl : l < 16) :
    (w.zeroed ds hit).rd f l = if f ∈ ds ∧ (isScalar f = true ∨ l ∈ hit) then 0 else w.rd f l := by
  induction ds generalizing w with
  | nil => simp [Wave.zeroed]
  | cons d ds ih =>
    refine (ih (w.wr d hit (fun _ => 0))).trans ?_
    rw [Wave.rd_wr_zero w d f hsome hhit hl]
    by_cases hread : isScalar f = true ∨ l ∈ hit
    · by_cases hd : f = d
      · subst hd
        simp [hread]
      · simp [hread, hd]
    · simp [hread]

theorem Wave.predBit_predZeroed (w : Wave) (ps : List Nat) (k : Nat) (hl : l < 16) :
    (w.predZeroed ps hit).predBit k l = if k ∈ ps ∧ l ∈ hit then false else w.predBit k l := by
  induction ps generalizing w with
  | nil => simp [Wave.predZeroed]
  | cons p ps ih =>
    refine (ih (w.wrPred p hit (fun _ => false))).trans ?_
    by_cases hk : k = p
    · subst hk
      rw [Wave.predBit_wrPred_same _ _ _ _ hl]
      by_cases hm : l ∈ hit <;> simp [hm]
    · rw [Wave.predBit_wrPred_ne _ _ _ _ hk]
      simp [hk]

theorem Wave.rd_predZeroed (w : Wave) (ps : List Nat) (f : RegField) : (w.predZeroed ps hit).rd f l = w.rd f l :=
  List.foldlRecOn (motive := fun x : Wave => x.rd f l = w.rd f l) ps _ rfl fun _ hx _ _ => hx

theorem Wave.predBit_zeroed (w : Wave) (ds : List RegField) (k : Nat) : (w.zeroed ds hit).predBit k l = w.predBit k l :=
  List.foldlRecOn (motive := fun x : Wave => x.predBit k l = w.predBit k l) ds _ rfl fun x hx d _ =>
    (congrArg (fun m => hasLane (Tbl.cell 0 m k) l) (congrArg Wave.p (Wave.wr_unwritten x d hit _) :)).trans hx

theorem Wave.zeroed_unset (w : Wave) (ds : List RegField) : (w.zeroed ds hit).unset = w.unset :=
  List.foldlRecOn (motive := fun x : Wave => x.unset = w.unset) ds _ rfl fun x hx d _ => (Wave.wr_unset x d hit _).trans hx

theorem Wave.predZeroed_unset (w : Wave) (ps : List Nat) : (w.predZeroed ps hit).unset = w.unset :=
  List.foldlRecOn (motive := fun x : Wave => x.unset = w.unset) ps _ rfl fun _ hx _ _ => hx

end

/-! ## Consuming poison -/

theorem Tbl.set_set {α : Type} (t : Tbl α) (k : Nat) (x y : α) : Tbl.set (Tbl.set t k x) k y = Tbl.set t k y := by
  induction t with
  | nil => simp [Tbl.set]
  | cons e t ih =>
    obtain ⟨j, z⟩ := e
    by_cases hlt : k < j
    · simp [Tbl.set, hlt]
    · by_cases heq : k = j
      · simp [Tbl.set, heq]
      · simp [Tbl.set, hlt, heq, ih]

theorem State.setWave_modWave (s : State) (w : Nat) (x : Wave) (f : Wave → Wave) : (s.setWave w x).modWave w f = s.setWave w (f x) := by
  have h : Tbl.modify (Tbl.set s.waves w x) w f = Tbl.set s.waves w (f x) := by
    rw [Tbl.modify, Tbl.get_set_same]
    exact Tbl.set_set s.waves w x (f x)
  exact congrArg (fun t => { s with waves := t }) h

/-- The faults of the lanes that consume poison (R515). -/
def poisonFaults (s : State) (pos : Pos) (hit : List (Nat × DWord)) : List LateFault :=
  hit.map (fun p => { pos := pos, lane := p.1, cause := cPoison, detail := 0, addr := p.2, wait := none, tod := s.tod.toNat })

/-- R515: where no rollback is armed, the lanes that consume poison fault at the wave's next issue slot. -/
theorem consumePoison_unarmed {s : State} {w : Nat} {wv : Wave} {pos : Pos} {hit : List (Nat × DWord)} (hw : Tbl.get s.waves w = some wv)
    (hhit : hit ≠ []) (harm : rollbackArmed s wv.vale wv.vd = false) :
    consumePoison s w pos hit = s.modWave w (fun x => { x with late := x.late ++ poisonFaults s pos hit }) := by
  obtain ⟨⟨l, a⟩, rest, rfl⟩ := List.exists_cons_of_ne_nil hhit
  simp only [consumePoison, hw, harm, Bool.false_and, Bool.false_eq_true, if_false]
  rfl

/-! ## The instruction -/

/-- What an instruction makes of its wave is of its register words and predicates alone, whatever is poisoned, and writes nothing else. -/
structure WritesRegs (f : State → Wave → List Nat → Wave) : Prop where
  cleaned : ∀ s t w ls, f t w.cleaned ls = (f s w ls).cleaned
  kept : ∀ s w ls, (f s w ls).unset = w.unset

/-- Which lanes read poison: some of those that take part, and none where nothing is poisoned. -/
structure ReadsPoison (reads : Wave → List Nat → List Nat) : Prop where
  sub : ∀ w ls, ∀ l ∈ reads w ls, l ∈ ls
  clean : ∀ w ls, w.poison = [] → reads w ls = []

/-- What an instruction writes: register fields from a destination on, or predicates. -/
def destFields (dst : Option (RegField × Nat)) : List RegField := dst.elim [] (fun d => fieldsFrom d.1 d.2)

def destPreds (i : Instr) (dst : Option (RegField × Nat)) : List Nat := if dst.isSome then [] else predicateDests i

theorem foldl_natsFrom_wr (x : Wave) (d : RegField) (n : Nat) (hit : List Nat) :
    (natsFrom 0 n).foldl (fun x j => x.wr (d + BitVec.ofNat 7 j) hit (fun _ => 0)) x = x.zeroed (fieldsFrom d n) hit := by
  rw [Wave.zeroed, fieldsFrom, List.foldl_map]

section
variable {i : Instr} {reads : Wave → List Nat → List Nat} {dst : Option (RegField × Nat)} {f : State → Wave → List Nat → Wave}
  {s : State} {w : Nat} {wv : Wave}

/-- The lanes that get zero (R463, R515): those that read poison, or the one lane of a uniform instruction. -/
def poisonHit (i : Instr) (reads : Wave → List Nat → List Nat) (wv : Wave) : List Nat :=
  if isUniform i || scalarDest i then (lanesOf wv.part).take 1 else reads wv (lanesOf wv.part)

theorem poisonHit_ne_nil (hpart : wv.part ≠ 0) (hreads : reads wv (lanesOf wv.part) ≠ []) : poisonHit i reads wv ≠ [] := by
  unfold poisonHit
  split
  · obtain ⟨l, ls, h⟩ := List.exists_cons_of_ne_nil (lanesOf_ne_nil hpart)
    simp [h]
  · exact hreads

theorem lt_of_mem_poisonHit (hr : ReadsPoison reads) {l : Nat} (h : l ∈ poisonHit i reads wv) : l < 16 := by
  unfold poisonHit at h
  split at h
  · exact lt_of_mem_lanesOf (List.mem_of_mem_take h)
  · exact lt_of_mem_lanesOf (hr.sub wv _ l h)

/-- The wave as the instruction leaves it when a lane reads poison, but for the faults. -/
def poisonWave (i : Instr) (dst : Option (RegField × Nat)) (y : Wave) (hit : List Nat) : Wave :=
  (y.zeroed (destFields dst) hit).predZeroed (destPreds i dst) hit

theorem aluWaveBy_poisoned (hr : ReadsPoison reads) (hreads : reads wv (lanesOf wv.part) ≠ []) :
    aluWaveBy i reads dst f s w wv =
      consumePoison (s.setWave w (poisonWave i dst ((f s wv (lanesOf wv.part)).advance (instrBytes i)) (poisonHit i reads wv))) w wv.pos
        ((poisonHit i reads wv).map (fun l => (l, 0))) := by
  have hpoison : wv.poison ≠ [] := fun h => hreads (hr.clean wv _ h)
  unfold aluWaveBy
  simp only [if_neg hpoison, if_neg hreads]
  cases dst with
  | none => rfl
  | some d =>
    obtain ⟨d, n⟩ := d
    simp only [foldl_natsFrom_wr]
    rfl

end

section
variable {i : Instr} {p : State → Wave → Bool} {reads : Wave → List Nat → List Nat} {dst : Option (RegField × Nat)}
  {f : State → Wave → List Nat → Wave}

/-- An instruction executes alike in a wave without its poison. -/
theorem runsNow_cleaned {s : State} {w : Nat} {wv : Wave} (h : runsNow s w wv i = true) : runsNow (s.setWave w wv.cleaned) w wv.cleaned i = true := by
  obtain ⟨hcur, -, hpart, hstatic⟩ := (runsNow_iff s w wv i).mp h
  exact (runsNow_iff _ w _ i).mpr ⟨hcur, Tbl.get_set_same _ _ _, hpart, hstatic⟩

/-- R515: the lanes that read poison get zero in what the instruction writes, and fault. -/
theorem poisonStepIf_of_aluWaveBy (he : ∀ s w wv, runsNow s w wv i = true → p s wv = true → exec i s = .next (aluWaveBy i reads dst f s w wv))
    (hp : ∀ s w wv, p s wv = true → p (s.setWave w wv.cleaned) wv.cleaned = true) (hf : WritesRegs f) (hr : ReadsPoison reads) :
    poisonStepIf i p reads (destFields dst) (destPreds i dst) := by
  intro s w wv h harm hps lanes hit clean hreads
  obtain ⟨-, -, hpart, -⟩ := (runsNow_iff s w wv i).mp h
  let y := (f s wv lanes).advance (instrBytes i)
  let z := poisonWave i dst y (poisonHit i reads wv)
  have hkept : (f s wv lanes).unset = wv.unset := hf.kept s wv lanes
  have hz : z.unset = y.unset := (Wave.predZeroed_unset _ _).trans (Wave.zeroed_unset _ _)
  have hsome : poisonHit i reads wv ≠ [] := poisonHit_ne_nil hpart hreads
  have hsmall : ∀ k ∈ poisonHit i reads wv, k < 16 := fun k hk => lt_of_mem_poisonHit hr hk
  have hvale : z.vale = wv.vale := (congrArg Wave.vale hz :).trans (congrArg Wave.vale hkept :)
  have hvd : z.vd = wv.vd := (congrArg Wave.vd hz :).trans (congrArg Wave.vd hkept :)
  have hlate : z.late = wv.late := (congrArg Wave.late hz :).trans (congrArg Wave.late hkept :)
  have harm' : rollbackArmed (s.setWave w z) z.vale z.vd = false := by rw [hvale, hvd]; exact harm
  refine ⟨{ z with late := z.late ++ poisonFaults s wv.pos ((poisonHit i reads wv).map (fun l => (l, 0))) }, y.cleaned, ?poisoned, ?clean,
    fun g l hl => ?reg, fun k l hl => ?pred, ?control, ?pos, ?replay, ?late⟩
  case poisoned =>
    rw [he s w wv h hps, aluWaveBy_poisoned hr hreads,
      consumePoison_unarmed (Tbl.get_set_same _ _ _) (by simpa using hsome) harm', State.setWave_modWave]
    rfl
  case clean =>
    refine (he (s.setWave w wv.cleaned) w wv.cleaned (runsNow_cleaned h) (hp s w wv hps)).trans ?_
    rw [aluWaveBy_clean _ _ _ rfl]
    change Host.Outcome.next ((s.setWave w wv.cleaned).setWave w ((f _ wv.cleaned lanes).advance (instrBytes i))) = _
    rw [hf.cleaned s]
    rfl
  case reg => exact (Wave.rd_predZeroed _ _ _).trans (Wave.rd_zeroed y _ _ hsome hsmall hl)
  case pred =>
    refine (Wave.predBit_predZeroed _ _ _ hl).trans ?_
    rw [Wave.predBit_zeroed]
    rfl
  case control => exact sameControl_of_unset (a := y.cleaned) hz _
  case pos => exact (congrArg Wave.pos hz :)
  case replay => exact (congrArg Wave.replay hz :)
  case late => rw [hlate, poisonFaults, List.map_map]; rfl

end

end Sys2Proof.Machine

namespace Sys2Proof.Machine

/-! PROOF. Poison in the instructions that write registers and predicates (R211 to R251, R348, R514, R515). -/

/-! ## What they write -/

section
variable {d : RegField}

theorem writesRegs_wr {g : Wave → List Nat → Nat → Word} (hg : ∀ w ls, g w.cleaned ls = g w ls) : WritesRegs (fun _ w ls => w.wr d ls (g w ls)) where
  cleaned := fun _ _ w ls => by rw [hg, Wave.wr_cleaned]
  kept := fun _ w ls => Wave.wr_unset w d ls _

theorem writesRegs_wr64 {g : Wave → List Nat → Nat → DWord} (hg : ∀ w ls, g w.cleaned ls = g w ls) :
    WritesRegs (fun _ w ls => w.wr64 d ls (g w ls)) where
  cleaned := fun _ _ w ls => by rw [hg, Wave.wr64_cleaned]
  kept := fun _ w ls => Wave.wr64_unset w d ls _

theorem writesRegs_wrPred {p : Nat} {g : Wave → List Nat → Nat → Bool} (hg : ∀ w ls, g w.cleaned ls = g w ls) :
    WritesRegs (fun _ w ls => w.wrPred p ls (g w ls)) where
  cleaned := fun _ _ w ls => by rw [hg]; rfl
  kept := fun _ _ _ => rfl

/-- PMOV.FROMREG writes one predicate after another. -/
theorem writesRegs_wrPreds {ps : List Nat} {g : Wave → Nat → Nat → Bool} (hg : ∀ w k, g w.cleaned k = g w k) :
    WritesRegs (fun _ w ls => ps.foldl (fun x k => x.wrPred k ls (g w k)) w) where
  cleaned := fun _ _ w ls => by
    simp only [hg]
    exact List.foldl_hom Wave.cleaned (g₁ := fun x k => x.wrPred k ls (g w k)) (g₂ := fun x k => x.wrPred k ls (g w k)) fun _ _ => rfl
  kept := fun _ w ls => List.foldlRecOn (motive := fun x : Wave => x.unset = w.unset) ps _ rfl fun _ hx _ _ => hx

theorem writesRegs_ite {c : Prop} [Decidable c] {f g : State → Wave → List Nat → Wave} (hf : WritesRegs f) (hg : WritesRegs g) :
    WritesRegs (fun s w ls => if c then f s w ls else g s w ls) := by
  split
  · exact hf
  · exact hg

theorem destFields_one (d : RegField) : destFields (some (d, 1)) = [d] := by
  simp [destFields, fieldsFrom, natsFrom]

theorem destFields_two (d : RegField) : destFields (some (d, 2)) = [d, d + 1] := by
  simp [destFields, fieldsFrom, natsFrom]

end

/-! ## Which lanes read poison -/

theorem any_rdPoison_of_clean {w : Wave} (h : w.poison = []) (fs : List RegField) (l : Nat) : fs.any (fun f => w.rdPoison f l) = false :=
  List.any_eq_false.mpr fun f _ => by rw [Wave.rdPoison_of_clean h]; exact Bool.false_ne_true

theorem readsPoison_filter {bad : Wave → List Nat → Nat → Bool} (h : ∀ w ls l, w.poison = [] → bad w ls l = false) :
    ReadsPoison (fun w ls => ls.filter (bad w ls)) where
  sub := fun _ _ _ hl => List.mem_of_mem_filter hl
  clean := fun w ls hw => List.filter_eq_nil_iff.mpr fun l _ => by simp [h w ls l hw]

/-- Where one poisoned word is read in every lane (log 115). -/
theorem readsPoison_all {bad : Wave → List Nat → Bool} (h : ∀ w ls, w.poison = [] → bad w ls = false) :
    ReadsPoison (fun w ls => if bad w ls then ls else []) where
  sub := fun w ls l hl => by
    cases hb : bad w ls with
    | true => simpa [hb] using hl
    | false => simp [hb] at hl
  clean := fun w ls hw => by simp [h w ls hw]

/-- Where the one lane of a uniform instruction reads for it. -/
theorem readsPoison_first {bad : Wave → Nat → Bool} (h : ∀ w l, w.poison = [] → bad w l = false) :
    ReadsPoison (fun w ls => (ls.take 1).filter (bad w)) where
  sub := fun _ _ _ hl => List.mem_of_mem_take (List.mem_of_mem_filter hl)
  clean := fun w ls hw => List.filter_eq_nil_iff.mpr fun l _ => by simp [h w l hw]

/-! ## The frames -/

section
variable {i : Instr} {srcs : List RegField} {reads : Wave → List Nat → List Nat} {dst : Option (RegField × Nat)} {f : State → Wave → List Nat → Wave}

theorem poisonStepIf_of_runAluBy (he : ∀ s, exec i s = runAluBy i reads dst f s) (hf : WritesRegs f) (hr : ReadsPoison reads) :
    poisonStepIf i (fun _ _ => true) reads (destFields dst) (destPreds i dst) :=
  poisonStepIf_of_aluWaveBy (fun s _ _ h _ => (he s).trans (runWave_runsNow _ h)) (fun _ _ _ _ => rfl) hf hr

theorem poisonStep_of_runAlu (he : ∀ s, exec i s = runAlu i srcs dst f s) (hf : WritesRegs f) :
    poisonStep i srcs (destFields dst) (destPreds i dst) := by
  refine poisonStepIf_of_runAluBy (fun s => (he s).trans ?_) hf
    (readsPoison_filter (bad := fun w _ l => srcs.any (fun f => w.rdPoison f l)) fun w _ l hw => any_rdPoison_of_clean hw srcs l)
  have hreads : (fun w ls => poisonedLanes w srcs ls) = fun w ls => ls.filter (fun l => srcs.any (fun f => w.rdPoison f l)) :=
    funext fun w => funext fun ls => poisonedLanes_eq w srcs ls
  rw [runAlu, runAluBy, ← hreads]
  rfl

end

section
variable {i : Instr} {o : VaFields}

theorem poisonStep_alu1 {f : Word → Word} (he : ∀ s, exec i s = alu1 i o f s) : poisonStep i [o.a] [o.d] [] := by
  have h := poisonStep_of_runAlu he (writesRegs_wr fun _ _ => rfl)
  rwa [destFields_one] at h

theorem poisonStep_alu2 {f : Word → Word → Word} (he : ∀ s, exec i s = alu2 i o f s) : poisonStep i (o.a :: usesB o) [o.d] [] := by
  have h := poisonStep_of_runAlu he (writesRegs_wr fun _ _ => rfl)
  rwa [destFields_one] at h

theorem poisonStep_alu2acc {f : Word → Word → Word → Word} (he : ∀ s, exec i s = alu2acc i o f s) :
    poisonStep i (o.a :: o.d :: usesB o) [o.d] [] := by
  have h := poisonStep_of_runAlu he (writesRegs_wr fun _ _ => rfl)
  rwa [destFields_one] at h

theorem poisonStep_alu3 {f : Word → Word → Word → Word} (he : ∀ s, exec i s = alu3 i o f s) : poisonStep i [o.a, o.b, o.xc] [o.d] [] := by
  have h := poisonStep_of_runAlu he (writesRegs_wr fun _ _ => rfl)
  rwa [destFields_one] at h

theorem poisonStep_alu64 {f : DWord → DWord → DWord} (he : ∀ s, exec i s = alu64 i o f s) :
    poisonStep i (o.a :: (o.a + 1) :: usesB64 o) [o.d, o.d + 1] [] := by
  have h := poisonStep_of_runAlu he (writesRegs_wr64 fun _ _ => rfl)
  rwa [destFields_two] at h

/-- An instruction that writes a pair of its own words. -/
theorem poisonStep_pair {srcs : List RegField} {g : Wave → List Nat → Nat → DWord}
    (he : ∀ s, exec i s = runAlu i srcs (some (o.d, 2)) (fun _ w ls => w.wr64 o.d ls (g w ls)) s) (hg : ∀ w ls, g w.cleaned ls = g w ls) :
    poisonStep i srcs [o.d, o.d + 1] [] := by
  have h := poisonStep_of_runAlu he (writesRegs_wr64 hg)
  rwa [destFields_two] at h

/-- An instruction that writes one register word of its own words. -/
theorem poisonStep_word {srcs : List RegField} {g : Wave → List Nat → Nat → Word}
    (he : ∀ s, exec i s = runAlu i srcs (some (o.d, 1)) (fun _ w ls => w.wr o.d ls (g w ls)) s) (hg : ∀ w ls, g w.cleaned ls = g w ls) :
    poisonStep i srcs [o.d] [] := by
  have h := poisonStep_of_runAlu he (writesRegs_wr hg)
  rwa [destFields_one] at h

/-- An instruction that writes one register word of other lanes' words too. -/
theorem poisonStepIf_word {reads : Wave → List Nat → List Nat} {g : Wave → List Nat → Nat → Word}
    (he : ∀ s, exec i s = runAluBy i reads (some (o.d, 1)) (fun _ w ls => w.wr o.d ls (g w ls)) s) (hg : ∀ w ls, g w.cleaned ls = g w ls)
    (hr : ReadsPoison reads) : poisonStepIf i (fun _ _ => true) reads [o.d] [] := by
  have h := poisonStepIf_of_runAluBy he (writesRegs_wr hg) hr
  rwa [destFields_one] at h

end

/-! ## MOV and CVT -/

section
variable {o : VaFields}

theorem poisonStep_mov_word (hm : o.m = 0) : poisonStep (.mov o) (if o.lit.isSome then [] else [o.a]) [o.d] [] :=
  poisonStep_word (g := fun w _ l => o.lit.getD (w.rd o.a l)) (fun _ => if_neg (by simp [hm])) fun _ _ => rfl

theorem poisonStep_mov_pair (hm : o.m = 1) : poisonStep (.mov o) (if o.lit.isSome then [] else [o.a, o.a + 1]) [o.d, o.d + 1] [] := by
  unfold poisonStep
  exact poisonStep_pair (fun _ => if_pos hm) fun _ _ => rfl

theorem width_ite {c : Prop} [Decidable c] {p : Nat × Nat} {r : Option (Nat × Nat)} (hp : p.2 = 1 ∨ p.2 = 2)
    (hr : (r.getD (1, 1)).2 = 1 ∨ (r.getD (1, 1)).2 = 2) :
    ((if c then some p else r).getD (1, 1)).2 = 1 ∨ ((if c then some p else r).getD (1, 1)).2 = 2 := by
  split
  · exact hp
  · exact hr

/-- R236: a conversion writes one register or a pair. -/
theorem cvtWidths_dest (code : Nat) : ((cvtWidths code).getD (1, 1)).2 = 1 ∨ ((cvtWidths code).getD (1, 1)).2 = 2 := by
  unfold cvtWidths
  repeat' refine width_ite (by decide) ?_
  exact .inl rfl

theorem destFields_cvt (d : RegField) (code : Nat) : destFields (some (d, ((cvtWidths code).getD (1, 1)).2)) =
    if ((cvtWidths code).getD (1, 1)).2 = 2 then [d, d + 1] else [d] := by
  rcases cvtWidths_dest code with h | h
  · rw [h]
    exact destFields_one d
  · rw [h]
    exact destFields_two d

theorem poisonStep_cvt : poisonStep (.cvt o) (if ((cvtWidths o.b.toNat).getD (1, 1)).1 = 2 then [o.a, o.a + 1] else [o.a])
    (if ((cvtWidths o.b.toNat).getD (1, 1)).2 = 2 then [o.d, o.d + 1] else [o.d]) [] := by
  have h := poisonStep_of_runAlu (exec_cvt o) (writesRegs_ite (writesRegs_wr64 fun _ _ => rfl) (writesRegs_wr fun _ _ => rfl))
  rwa [destFields_cvt] at h

end

/-! ## Predicates -/

theorem poisonStep_pmovFromreg (o : VaFields) : poisonStep (.pmovFromreg o) [o.a] [] [0, 1, 2, 3, 4, 5, 6, 7] :=
  poisonStep_of_runAlu (dst := none) (fun _ => rfl) (writesRegs_wrPreds (g := fun w k l => (w.rd o.a l).getLsbD k) fun _ _ => rfl)

theorem poisonStep_icmp (o : VcFields) : poisonStep (.icmp o) (usesC o) [] [o.pd.toNat] :=
  poisonStep_of_runAlu (dst := none) (fun _ => rfl) (writesRegs_wrPred fun _ _ => rfl)

theorem poisonStep_fcmp (o : VcFields) : poisonStep (.fcmp o) (usesC o) [] [o.pd.toNat] :=
  poisonStep_of_runAlu (dst := none) (fun _ => rfl) (writesRegs_wrPred fun _ _ => rfl)

/-! ## Words of other lanes -/

section
variable (o : VaFields)

theorem ite_filter_eq_nil (bad : Nat → Bool) (ls : List Nat) : (if ls.filter bad = [] then [] else ls) = if ls.any bad then ls else [] := by
  cases h : ls.any bad with
  | true =>
    obtain ⟨l, hl, hbad⟩ := List.any_eq_true.mp h
    have hsome : ls.filter bad ≠ [] := List.ne_nil_of_mem (List.mem_filter.mpr ⟨hl, hbad⟩)
    rw [if_neg hsome, if_pos rfl]
  | false =>
    have hnone : ls.filter bad = [] := List.filter_eq_nil_iff.mpr fun l hl => List.any_eq_false.mp h l hl
    rw [if_pos hnone]
    rfl

theorem poisonStepIf_matchLanes : poisonStepIf (.matchLanes o) (fun _ _ => true)
    (fun w ls => if ls.any (fun l => w.rdPoison o.a l || (decide (o.m = 1) && w.rdPoison (o.a + 1) l)) then ls else []) [o.d] [] := by
  have hreads : (fun (w : Wave) ls => if poisonedLanes w (if o.m = 1 then [o.a, o.a + 1] else [o.a]) ls = [] then [] else ls) =
      fun w ls => if ls.any (fun l => w.rdPoison o.a l || (decide (o.m = 1) && w.rdPoison (o.a + 1) l)) then ls else [] := by
    funext w ls
    have hbad : (fun l => (if o.m = 1 then [o.a, o.a + 1] else [o.a]).any (fun f => w.rdPoison f l)) =
        fun l => w.rdPoison o.a l || (decide (o.m = 1) && w.rdPoison (o.a + 1) l) := by
      funext l
      by_cases hm : o.m = 1
      · simp only [if_pos hm, decide_eq_true hm, List.any_cons, List.any_nil, Bool.or_false, Bool.true_and]
      · simp only [if_neg hm, decide_eq_false hm, List.any_cons, List.any_nil, Bool.or_false, Bool.false_and]
    rw [poisonedLanes_eq, hbad, ite_filter_eq_nil]
  rw [← hreads]
  refine poisonStepIf_word (fun _ => rfl) (fun _ _ => rfl) ?_
  rw [hreads]
  exact readsPoison_all fun w ls hw => by simp [Wave.rdPoison_of_clean hw]

theorem poisonStepIf_shfl : poisonStepIf (.shfl o) (fun _ _ => true)
    (fun w ls => ls.filter (fun l => (usesB o).any (fun f => w.rdPoison f l) || w.rdPoison o.a (shflLane o.m l (srcB o w l)))) [o.d] [] :=
  poisonStepIf_word (fun _ => rfl) (fun _ _ => rfl) (readsPoison_filter fun w _ l hw => by
    rw [any_rdPoison_of_clean hw, Wave.rdPoison_of_clean hw]; rfl)

theorem poisonStepIf_scan : poisonStepIf (.scan o) (fun _ _ => true)
    (fun w ls => ls.filter (fun l => ls.any (fun k => decide (k ≤ l) && w.rdPoison o.a k))) [o.d] [] :=
  poisonStepIf_word (fun _ => rfl) (fun _ _ => rfl)
    (readsPoison_filter (bad := fun w ls l => ls.any (fun k => decide (k ≤ l) && w.rdPoison o.a k)) fun w _ l hw => by
      simp [Wave.rdPoison_of_clean hw])

theorem poisonStepIf_reduce : poisonStepIf (.reduce o) (fun _ _ => true) (fun w ls => if ls.any (w.rdPoison o.a) then ls else []) [o.d] [] :=
  poisonStepIf_word (fun _ => rfl) (fun _ _ => rfl) (readsPoison_all fun w ls hw => by simp [Wave.rdPoison_of_clean hw])

theorem poisonStepIf_v2sFirst : poisonStepIf (.v2sFirst o) (fun _ _ => true) (fun w ls => (ls.take 1).filter (w.rdPoison o.a)) [o.d] [] := by
  have hreads : (fun (w : Wave) (ls : List Nat) => poisonedLanes w [o.a] (ls.take 1)) = fun w ls => (ls.take 1).filter (w.rdPoison o.a) := by
    funext w ls
    simp [poisonedLanes_eq]
  rw [← hreads]
  refine poisonStepIf_word (fun _ => rfl) (fun _ _ => rfl) ?_
  rw [hreads]
  exact readsPoison_first fun w l hw => Wave.rdPoison_of_clean hw _ _

theorem poisonStepIf_v2sLane : poisonStepIf (.v2sLane o) (fun _ _ => true)
    (fun w ls => (ls.take 1).filter (fun l => (usesB o).any (fun f => w.rdPoison f l) || w.rdPoison o.a ((srcB o w l).toNat % 16))) [o.d] [] :=
  poisonStepIf_word (fun _ => rfl) (fun _ _ => rfl) (readsPoison_first fun w l hw => by
    rw [any_rdPoison_of_clean hw, Wave.rdPoison_of_clean hw]; rfl)

end

/-- R348: a difference across a quad, in a wave of no speculative task. -/
theorem poisonStepIf_quad {i : Instr} {o : VaFields} {vertical : Bool} (he : ∀ s, exec i s = runQuad i o vertical s) :
    poisonStepIf i (fun s w => !s.speculative w)
      (fun w ls => ls.filter (fun l => w.rdPoison o.a (quadLanes vertical l).1 || w.rdPoison o.a (quadLanes vertical l).2)) [o.d] [] := by
  have h := poisonStepIf_of_aluWaveBy (i := i) (dst := some (o.d, 1)) (p := fun s w => !s.speculative w)
    (reads := fun w ls => ls.filter (fun l => w.rdPoison o.a (quadLanes vertical l).1 || w.rdPoison o.a (quadLanes vertical l).2))
    (f := fun _ w ls => quadDiff o vertical w ls)
    (fun s w wv h hspec => (he s).trans ((runWave_runsNow _ h).trans (congrArg _ (if_neg (by simpa using hspec))))) (fun _ _ _ hspec => hspec)
    (writesRegs_wr fun _ _ => rfl) (readsPoison_filter fun w _ l hw => by rw [Wave.rdPoison_of_clean hw, Wave.rdPoison_of_clean hw]; rfl)
  rwa [destFields_one] at h

end Sys2Proof.Machine

namespace Sys2Proof.Machine

/-! PROOF. Poison in the loads and stores (R281, R282, R514, R515). -/

/-! ## Lanes whose words are poisoned -/

/-- Whether a lane of an access reads a poisoned word. -/
def readsHurt (wv : Wave) (fs : List RegField) (l : Nat) : Bool := fs.any (fun f => wv.rdPoison f (l % 16))

section
variable (wv : Wave) (fs : List RegField) (ls : List Nat)

theorem poisonedLanes_accLanes : poisonedLanes wv fs (ls.map (fun l => l % 16)) = (ls.filter (readsHurt wv fs)).map (fun l => l % 16) := by
  rw [poisonedLanes_eq, List.filter_map]
  rfl

theorem filter_unhurt :
    ls.filter (fun l => !((ls.filter (readsHurt wv fs)).map (fun l => l % 16)).contains (l % 16)) = ls.filter (fun l => !readsHurt wv fs l) := by
  refine List.filter_congr fun l hl => congrArg (!·) (Bool.eq_iff_iff.mpr ⟨fun h => ?_, fun h => ?_⟩)
  · obtain ⟨k, hk, heq⟩ := List.mem_map.mp (List.contains_iff_mem.mp h)
    have hhurt := (List.mem_filter.mp hk).2
    rwa [readsHurt, heq] at hhurt
  · exact List.contains_iff_mem.mpr (List.mem_map_of_mem (List.mem_filter.mpr ⟨hl, h⟩))

end

theorem filter_not_contains_filter (ls : List Nat) (bad : Nat → Bool) :
    ls.filter (fun l => !(ls.filter (fun l => !bad l)).contains l) = ls.filter bad := by
  refine List.filter_congr fun l hl => ?_
  simp [hl]

theorem filter_filter_not_contains (ls : List Nat) (bad : Nat → Bool) :
    (ls.filter (fun l => !bad l)).filter (fun l => !(ls.filter bad).contains l) = ls.filter (fun l => !bad l) := by
  refine List.filter_eq_self.mpr fun l hl => ?_
  simp_all

theorem lanesOf_lowestLane_zero : lanesOf (lowestLane 0) = [] := by decide

/-- R204: of the lanes that are not helpers none is a helper's. -/
theorem helps_live_eq_false {i : Instr} {wv : Wave} {l : Nat} (hl : l ∈ accLanes i wv.live) : helps i wv (l % 16) = false := by
  unfold accLanes at hl
  unfold helps
  split at hl
  · next hu =>
    have hlive : wv.live ≠ 0 := fun hzero => by
      rw [hzero, lanesOf_lowestLane_zero] at hl
      exact List.not_mem_nil hl
    rw [if_pos hu, decide_eq_false hlive]
  · next hu =>
    have hlt := lt_of_mem_lanesOf hl
    have hlane := (List.mem_filter.mp hl).2
    rw [if_neg hu, Nat.mod_eq_of_lt hlt]
    simp only [Wave.live, hasLane, BitVec.getLsbD_and, BitVec.getLsbD_not, Bool.and_eq_true, Bool.not_eq_true'] at hlane
    obtain ⟨-, -, hhelper⟩ := hlane
    exact hhelper

/-! ## The frame -/

section
variable {i : Instr} {srcs : List RegField} {task : Bool} {lanes : Wave → Mask}
  {op : State → Nat → Wave → List Nat → Except State (State × List (Nat × AddrFault))} {s t : State} {w : Nat} {wv : Wave}

/-- R515: an access in a wave of no speculative task is made for the lanes that read no poison; the others consume it. -/
theorem runMem_poisoned (h : runsNow s w wv i = true) (hspec : s.speculative wv = false) (hc : crossingHeld s w wv = false)
    (hhelp : ∀ l ∈ accLanes i (lanes wv), helps i wv (l % 16) = false)
    (hop : op s w wv ((accLanes i (lanes wv)).filter (fun l => !readsHurt wv srcs l)) = .ok (t, [])) :
    runMem i srcs task lanes op s = .next (consumePoison (finishMem i t w []) w wv.pos
      (((accLanes i (lanes wv)).filter (readsHurt wv srcs)).map (fun l => (l % 16, 0)))) := by
  have hlanes : (((accLanes i (lanes wv)).filter (readsHurt wv srcs)).map (fun l => l % 16)).filter (fun l => !helps i wv l) =
      ((accLanes i (lanes wv)).filter (readsHurt wv srcs)).map (fun l => l % 16) := by
    refine List.filter_eq_self.mpr fun k hk => ?_
    obtain ⟨l, hl, rfl⟩ := List.mem_map.mp hk
    rw [hhelp l (List.mem_of_mem_filter hl)]
    rfl
  rw [runMem, runWave_runsNow _ h]
  simp only [hspec, hc, Bool.and_false, Bool.false_eq_true, if_false, poisonedLanes_accLanes, filter_unhurt, hop, hlanes, List.map_map]
  rfl

end

/-! ## Loads -/

/-- A wave with zero in the destination of a load for the lanes that make no access (R515). -/
def Wave.lanesZeroed (y : Wave) (t : RegField) (words : Nat) (ls : List Nat) : Wave :=
  ls.foldl (fun y l => (natsFrom 0 words).foldl (fun y j => y.wr (t + BitVec.ofNat 7 j) [l % 16] (fun _ => 0)) y) y

section
variable {i : Instr} {s : State} {w : Nat} {wv : Wave} {o : MmFields} {n words : Nat} {ext : Extend} {bad : Nat → Bool}

/-- R172, R515: the lanes whose address is not poisoned become outstanding together, the others read zero. -/
theorem loadLanes_poisoned (hhelper : wv.helper = 0) (hpart : wv.part ≠ 0) (hspec : s.speculative wv = false)
    (hwalk : walksWait s wv o .load ((accLanes i wv.part).filter (fun l => !bad l)) = false) :
    let good := (accLanes i wv.part).filter (fun l => !bad l)
    let r := resolveLanes s wv o n .load false good
    placesHeld r.1 wv false n .load r.2.oks = false → r.2.bad = [] →
    loadLanes i o n words ext none noCheck s w wv good =
      .ok (issueLoad (r.1.modWave w (fun y => y.lanesZeroed o.t words ((accLanes i wv.part).filter bad))) w o.l.toNat
        (loadOpOf wv o n words ext none r.2.oks), []) := by
  intro good r hheld hbad
  have hhelps : helps i wv = fun _ => false := funext (helps_eq_false hhelper hpart)
  have hnone : r.2.oks.filterMap (fun x => (noCheck r.1 wv x.2.1 x.2.2).map (fun f => (x.1, f))) = [] :=
    List.filterMap_eq_nil_iff.mpr fun _ _ => rfl
  have hzero : (accLanes i wv.part).filter (fun l => !good.contains l) = (accLanes i wv.part).filter bad := filter_not_contains_filter _ _
  have hgood : good.filter (fun l => !((accLanes i wv.part).filter bad).contains l) = good := filter_filter_not_contains _ _
  have hr : resolveLanes s wv o n .load false good = r := rfl
  have hwalk' : walksWait s wv o .load good = false := hwalk
  unfold loadLanes
  simp only [hspec, hhelps, hzero, hwalk', Option.isSome_none, Bool.false_eq_true, if_false, List.append_nil, hgood]
  simp only [hr, hbad, hnone, hheld, List.map_nil, List.filter_nil, List.append_nil, List.contains_nil, Bool.not_false, List.filter_true,
    Bool.false_and, Bool.not_true, Bool.false_eq_true, if_false]
  rcases r.1.taskOf wv with _ | ⟨q, t⟩ <;> rfl

/-- R281, R515: a load with poisoned addresses in some lanes. -/
theorem exec_load_poisoned (he : ∀ s, exec i s = runLoad i o n words ext s) (h : runsNow s w wv i = true) (hhelper : wv.helper = 0)
    (hspec : s.speculative wv = false) (hc : crossingHeld s w wv = false) :
    let hurt := readsHurt wv (addrFields o)
    let good := (accLanes i wv.part).filter (fun l => !hurt l)
    let r := resolveLanes s wv o n .load false good
    walksWait s wv o .load good = false → placesHeld r.1 wv false n .load r.2.oks = false → r.2.bad = [] →
    exec i s = .next (consumePoison (finishMem i (issueLoad (r.1.modWave w (fun y => y.lanesZeroed o.t words ((accLanes i wv.part).filter hurt))) w
      o.l.toNat (loadOpOf wv o n words ext none r.2.oks)) w []) w wv.pos (((accLanes i wv.part).filter hurt).map (fun l => (l % 16, 0)))) := by
  intro hurt good r hwalk hheld hbad
  obtain ⟨-, -, hpart, -⟩ := (runsNow_iff s w wv i).mp h
  rw [he]
  exact runMem_poisoned h hspec hc (fun l _ => helps_eq_false hhelper hpart (l % 16)) (loadLanes_poisoned hhelper hpart hspec hwalk hheld hbad)

/-- R282, R515: a store with poisoned addresses or data in some lanes. -/
theorem exec_store_poisoned (he : ∀ s, exec i s = runStore i o n s) (h : runsNow s w wv i = true)
    (hspec : s.speculative wv = false) (hc : crossingHeld s w wv = false) :
    let hurt := readsHurt wv (addrFields o ++ fieldsFrom o.t (ceilDiv n 4))
    let good := (accLanes i wv.live).filter (fun l => !hurt l)
    let r := resolveLanes s wv o n .store false good
    walksWait s wv o .store good = false → placesHeld r.1 wv false n .store r.2.oks = false → r.2.bad = [] →
    exec i s = .next (consumePoison (finishMem i (issueStores r.1 w o
      (laneStores w wv o o.ord false (fun w l => .store (storeData w o.t n l)) r.2)) w []) w wv.pos
        (((accLanes i wv.live).filter hurt).map (fun l => (l % 16, 0)))) := by
  intro hurt good r hwalk hheld hbad
  have hop : storeLanes o n .store o.ord false (fun w l => .store (storeData w o.t n l)) s w wv good =
      .ok (issueStores r.1 w o (laneStores w wv o o.ord false (fun w l => .store (storeData w o.t n l)) r.2), []) := by
    rw [storeLanes_eq hspec hwalk]
    exact (if_neg (Bool.eq_false_iff.mp hheld)).trans (by rw [hbad])
  rw [he]
  exact runMem_poisoned h hspec hc (fun _ hl => helps_live_eq_false hl) hop

end

/-! ## Settling O37 -/

theorem poisonStepIf_ddx (o : VaFields) : poisonStepIf (.ddx o) (fun s w => !s.speculative w)
    (fun w ls => ls.filter (fun l => w.rdPoison o.a (l / 4 * 4 + l % 4 / 2 * 2) || w.rdPoison o.a (l / 4 * 4 + l % 4 / 2 * 2 + 1))) [o.d] [] :=
  poisonStepIf_quad (vertical := false) fun _ => rfl

theorem poisonStepIf_ddy (o : VaFields) : poisonStepIf (.ddy o) (fun s w => !s.speculative w)
    (fun w ls => ls.filter (fun l => w.rdPoison o.a (l / 4 * 4 + l % 4 % 2) || w.rdPoison o.a (l / 4 * 4 + l % 4 % 2 + 2))) [o.d] [] := by
  have hmod (l : Nat) : l % 4 % 2 = l % 2 := Nat.mod_mod_of_dvd l (by decide)
  simp only [hmod]
  exact poisonStepIf_quad (vertical := true) fun _ => rfl

/-- R515 for the instructions that read A and B. -/
theorem poisonStep_of_two_sources (o : VaFields) : ∀ i ∈ [Instr.iadd o, .isub o, .imul o, .imulh o, .imin o, .imax o, .idiv o, .irem o, .and o,
    .or o, .xor o, .andn o, .shl o, .shrl o, .shra o, .rotl o, .bfx o, .fadd o, .fsub o, .fmul o, .fmin o, .fmax o, .fdiv o, .pack o],
    poisonStep i (o.a :: usesB o) [o.d] [] := by
  simp only [List.forall_mem_cons]
  exact ⟨poisonStep_alu2 fun s => .refl (execIadd o s), poisonStep_alu2 fun s => .refl (execIsub o s),
    poisonStep_alu2 fun s => .refl (execImul o s), poisonStep_alu2 fun s => .refl (execImulh o s), poisonStep_alu2 fun s => .refl (execImin o s),
    poisonStep_alu2 fun s => .refl (execImax o s), poisonStep_alu2 fun s => .refl (execIdiv o s), poisonStep_alu2 fun s => .refl (execIrem o s),
    poisonStep_alu2 fun s => .refl (execAnd o s), poisonStep_alu2 fun s => .refl (execOr o s), poisonStep_alu2 fun s => .refl (execXor o s),
    poisonStep_alu2 fun s => .refl (execAndn o s), poisonStep_alu2 fun s => .refl (execShl o s), poisonStep_alu2 fun s => .refl (execShrl o s),
    poisonStep_alu2 fun s => .refl (execShra o s), poisonStep_alu2 fun s => .refl (execRotl o s), poisonStep_alu2 fun s => .refl (execBfx o s),
    poisonStep_alu2 fun s => .refl (execFadd o s), poisonStep_alu2 fun s => .refl (execFsub o s), poisonStep_alu2 fun s => .refl (execFmul o s),
    poisonStep_alu2 fun s => .refl (execFmin o s), poisonStep_alu2 fun s => .refl (execFmax o s), poisonStep_alu2 fun s => .refl (execFdiv o s),
    poisonStep_alu2 fun s => .refl (execPack o s), List.forall_mem_nil _⟩

/-- R515 for the instructions that read A. -/
theorem poisonStep_of_one_source (o : VaFields) : ∀ i ∈ [Instr.iabs o, .popc o, .clz o, .brev o, .ffs o, .fneg o, .fabs o, .frnd o, .frcp o,
    .fsqrt o, .frsq o, .fexp2 o, .flog2 o, .fsinpi o, .fcospi o, .fclass o],
    poisonStep i [o.a] [o.d] [] := by
  simp only [List.forall_mem_cons]
  exact ⟨poisonStep_alu1 fun s => .refl (execIabs o s), poisonStep_alu1 fun s => .refl (execPopc o s),
    poisonStep_alu1 fun s => .refl (execClz o s), poisonStep_alu1 fun s => .refl (execBrev o s), poisonStep_alu1 fun s => .refl (execFfs o s),
    poisonStep_alu1 fun s => .refl (execFneg o s), poisonStep_alu1 fun s => .refl (execFabs o s), poisonStep_alu1 fun s => .refl (execFrnd o s),
    poisonStep_alu1 fun s => .refl (execFrcp o s), poisonStep_alu1 fun s => .refl (execFsqrt o s), poisonStep_alu1 fun s => .refl (execFrsq o s),
    poisonStep_alu1 fun s => .refl (execFexp2 o s), poisonStep_alu1 fun s => .refl (execFlog2 o s),
    poisonStep_alu1 fun s => .refl (execFsinpi o s), poisonStep_alu1 fun s => .refl (execFcospi o s),
    poisonStep_alu1 fun s => .refl (execFclass o s), List.forall_mem_nil _⟩

/-- R515 for the instructions that read their destination too. -/
theorem poisonStep_of_accumulator (o : VaFields) : ∀ i ∈ [Instr.imad o, .fma o, .dot4 o, .dot2f o],
    poisonStep i (o.a :: o.d :: usesB o) [o.d] [] := by
  simp only [List.forall_mem_cons]
  exact ⟨poisonStep_alu2acc fun s => .refl (execImad o s), poisonStep_alu2acc fun s => .refl (execFma o s),
    poisonStep_alu2acc fun s => .refl (execDot4 o s), poisonStep_alu2acc fun s => .refl (execDot2f o s), List.forall_mem_nil _⟩

/-- R515 for the instructions that read A, B and C. -/
theorem poisonStep_of_three_sources (o : VaFields) : ∀ i ∈ [Instr.lop3 o, .funnel o, .bfi o, .permb o],
    poisonStep i [o.a, o.b, o.xc] [o.d] [] := by
  simp only [List.forall_mem_cons]
  exact ⟨poisonStep_alu3 fun s => .refl (execLop3 o s), poisonStep_alu3 fun s => .refl (execFunnel o s),
    poisonStep_alu3 fun s => .refl (execBfi o s), poisonStep_alu3 fun s => .refl (execPermb o s), List.forall_mem_nil _⟩

/-- R515 for the instructions that read and write pairs. -/
theorem poisonStep_of_pairs (o : VaFields) : ∀ i ∈ [Instr.iadd64 o, .isub64 o],
    poisonStep i (o.a :: (o.a + 1) :: usesB64 o) [o.d, o.d + 1] [] := by
  simp only [List.forall_mem_cons]
  exact ⟨poisonStep_alu64 fun s => .refl (execIadd64 o s), poisonStep_alu64 fun s => .refl (execIsub64 o s), List.forall_mem_nil _⟩

/-- Settles O37: an instruction on registers is one of the frames above, a load or store is made for its unhurt lanes. -/
theorem poisonConsumed : Obligations.PoisonConsumed := by
  refine ⟨fun o => ⟨poisonStep_of_two_sources o, poisonStep_of_one_source o, poisonStep_of_accumulator o, poisonStep_of_three_sources o,
    poisonStep_of_pairs o, ?imulw, ?imadw, ?lea, ?sel, poisonStep_mov_word, poisonStep_mov_pair, poisonStep_cvt, poisonStep_pmovFromreg o,
    ⟨poisonStepIf_matchLanes o, poisonStepIf_shfl o, poisonStepIf_scan o, poisonStepIf_reduce o, poisonStepIf_v2sFirst o,
      poisonStepIf_v2sLane o⟩, poisonStepIf_ddx o, poisonStepIf_ddy o⟩,
    fun o => ⟨poisonStep_icmp o, poisonStep_fcmp o⟩, fun o s w wv hspec hc => ⟨?loads, ?stores⟩,
    fun _ _ _ _ _ hw hhit harm => consumePoison_unarmed hw hhit harm⟩
  case imulw => exact poisonStep_pair (fun s => .refl (execImulw o s)) fun _ _ => rfl
  case imadw => exact poisonStep_pair (fun s => .refl (execImadw o s)) fun _ _ => rfl
  case lea => exact poisonStep_pair (fun s => .refl (execLea o s)) fun _ _ => rfl
  case sel => exact poisonStep_word (fun s => .refl (execSel o s)) fun _ _ => rfl
  case loads =>
    simp only [List.forall_mem_cons]
    exact ⟨fun h hhelper => exec_load_poisoned (fun s => .refl (execLd32 o s)) h hhelper hspec hc,
      fun h hhelper => exec_load_poisoned (fun s => .refl (execLd64 o s)) h hhelper hspec hc,
      fun h hhelper => exec_load_poisoned (fun s => .refl (execLd128 o s)) h hhelper hspec hc, List.forall_mem_nil _⟩
  case stores =>
    simp only [List.forall_mem_cons]
    exact ⟨fun h => exec_store_poisoned (i := .st32 o) (fun s => .refl (execSt32 o s)) h hspec hc,
      fun h => exec_store_poisoned (i := .st64 o) (fun s => .refl (execSt64 o s)) h hspec hc,
      fun h => exec_store_poisoned (i := .st128 o) (fun s => .refl (execSt128 o s)) h hspec hc, List.forall_mem_nil _⟩

end Sys2Proof.Machine
